-- ==== Sys2Proof/Word.lean ====
section
/-!
DEFINITION. Word.lean: the word types of the device (R5, R12) and the sparse map type that holds register
files, memories and tables as plain data.  Nothing here decides a behaviour of the device.
-/

namespace Sys2Proof

/-- One byte. -/
abbrev Byte := BitVec 8

/-- A 32-bit word: a reed register, a message word, a counter. -/
abbrev Word32 := BitVec 32

/-- A 64-bit word: a chanter `g` register, a slot word, a register of the device (R12). -/
abbrev Word64 := BitVec 64

/-- A 256-bit word: a chanter `d` register, laid out as a tensor descriptor (R65). -/
abbrev Word256 := BitVec 256

/-- A sparse table: keys strictly rising, each with its value.  A key that is not listed holds the
default that the table's reader names. -/
abbrev Map (α : Type) := List (Nat × α)

end Sys2Proof
end

