-- ==== Sys2Proof/Syntax.lean ====
section
/-!
DEFINITION. Syntax.lean: the commands of the block, one constructor of `Instr` for each row of the table of operations
and events, and the data that commands carry.  A command is one step of the device: a register access, an operation, or
an event that the spec calls one whole step.  What the environment decides (a period measured on a ball, a temperature,
a flit that arrives, the outcome of a training) is an operand of the command that brings it.
-/

namespace Sys2Proof

/-- Who accesses a register (R12): the host through a PCIe function (0 is the physical function, 1 upward the virtual
functions), the residency manager, the drone, the SMBus target, or a bore. -/
inductive Requester
  | fn (n : Nat) | resmgr | drone | smbus | bore (b : Nat)
  deriving DecidableEq, Repr

/-- A hub unit as an end of a windway transfer: the hub receivers of R287 (host message unit 0, stage schedulers 16 + p,
health sets 32 + h, embouchure 60, bell 61), and the units that only answer. -/
inductive HubUnit
  | hostMsg | doorbells | stage (p : Nat) | health (h : Nat) | emb | bell | sync | resmgr | stash | drone
  deriving DecidableEq, Repr

/-- An endpoint of the windway (R26), and the host across its link. -/
inductive Endpoint
  | bore (b : Nat) | hbm (h : Nat) | crook (k : Nat) | unit (u : HubUnit) | host
  deriving DecidableEq, Repr

/-- The windway classes (R26). -/
inductive XClass
  | posted | request | completion
  deriving DecidableEq, Repr

/-- What a warm reset covers (R16, R586). -/
inductive ResetScope
  | bore (b : Nat) | partition (p : Nat) | package
  deriving DecidableEq, Repr

/-- The route tables whose entries obey R316: a bore's channels, a stage scheduler's dispatch routes (R399) and a
health set's verdict routes (R434). -/
inductive RouteTable
  | queue | dispatch | verdict
  deriving DecidableEq, Repr

/-- A local or pool counter named by an increment (R299, R332). -/
structure CtrRef where
  pool : Bool
  idx  : Nat
  deriving DecidableEq, Repr

/-- The route-table entry a message was sent on: the accounting home of its credit or reservation (R287, R285). -/
inductive RouteLoc
  | bore (b ch : Nat)      -- QUE_ROUTEA/B of bore `b`
  | stage (p r : Nat)      -- STG_DROUTE `r` of scheduler `p`
  | verdict (h r : Nat)    -- OVB_VROUTE `r` of health set `h`
  | doorbell (r : Nat)     -- HIF_DBR `r`
  | emb (r : Nat)          -- EMB_FROUTE `r`
  | bell (r : Nat)         -- BEL_FROUTE `r`
  deriving DecidableEq, Repr

/-- Where a message came from, for the judgement of R303 and for its return (R306). -/
inductive Origin
  | here (r : RouteLoc)                 -- a sender of this package
  | far (port bore ch : Nat)            -- a bore reached through crook port `port`
  deriving DecidableEq, Repr

/-- A queue message in flight or landed (R284 to R305). -/
structure Message where
  words   : List Word32        -- 1 to 4 words
  tag     : Nat                -- TAG of the route entry, delivered in gT[7:0]
  stamp   : Nat                -- DEPOCH stamped by the sender (R294)
  origin  : Origin
  srcKind : Nat                -- SRC code of R305
  nack    : Bool               -- sent on a NACK channel
  seq     : Word32             -- SEQ before the send (R298, R307)
  inc     : Option CtrRef      -- attached increment (R299)
  ctx     : Nat                -- context stamp for a pool increment (R334)
  deriving DecidableEq, Repr

/-- A channel increment (R300). -/
structure ChanInc where
  amt    : Nat
  ctr    : CtrRef
  stamp  : Nat
  origin : Origin
  srcKind : Nat
  ctx    : Nat
  deriving DecidableEq, Repr

/-- A NACK message on its way to its return queue (R307). -/
structure NackMsg where
  words  : List Word32
  chan   : Nat
  bore   : Nat                 -- the sender's bore
  deriving DecidableEq, Repr

/-- A boundary tag message (R368). -/
structure TagMsg where
  back : Bool
  tag  : Nat
  step : Word32
  deriving DecidableEq, Repr

/-- What a crook transfer carries (R483). -/
inductive XferBody
  | put (back : Bool) (win putid len off rinc : Nat)
  | red (slot putid len eidx : Nat)
  | msg (did dq : Nat) (m : Message)
  | nackm (did : Nat) (n : NackMsg)
  | inc (did dq : Nat) (i : ChanInc)
  | ret (rkind bore ch oc : Nat)
  | tag (sched : Nat) (t : TagMsg)
  | ack (ok : Bool) (putid reason : Nat)
  | audit (did dq bore ch : Nat)
  deriving DecidableEq, Repr

/-- What an INIT flit carries (R481, R498): the sender's package ID and port, its four grants and the sequence number it expects
next, and the ACK and the credit total of its header.
(DESIGN CHOICE, log 87.) -/
structure InitFlit where
  id       : Nat
  port     : Nat
  grants   : List Nat
  expected : Nat
  ack      : Nat
  crvl     : Nat
  crtot    : Nat
  deriving DecidableEq, Repr

/-- A flit as a port receives it: its 256 bytes (R480), and the codewords that FEC corrected, and that it could not correct, up to
it (R479). -/
structure RxFlit where
  bytes : List Byte
  cor   : Nat
  uncor : Nat
  deriving DecidableEq, Repr

/-- What one regulator answers to a poll (R567): nothing, or STATUS_WORD and its readings. -/
structure PmbRead where
  slot   : Nat
  answer : Bool
  status : BitVec 16
  vout   : Nat
  iout   : Nat
  pout   : Nat
  temp   : Nat
  deriving DecidableEq, Repr

/-- The result of self-test at one physical site (R600): columns found failing, and whether the site failed. -/
structure SiteTest where
  site   : Nat
  cols   : BitVec 128
  failed : Bool
  deriving DecidableEq, Repr

/-- The instructions of the boundary-scan port (R749): the public ones, and the private ones by a number. -/
inductive TapInstr
  | bypass | idcode | samplePreload | extest | highz | clamp | priv (n : Nat)
  deriving DecidableEq, Repr

/-- An operation at the JTAG balls (R749): the test reset, an instruction shifted in, or a shift of the selected data
register with the bits captured at the balls and the bits shifted in. -/
inductive TapOp
  | reset
  | instruction (i : TapInstr)
  | shift (balls : List Bool) (tdi : List Bool)
  | update
  deriving DecidableEq, Repr


/-- An access of the host through BAR4, or a request to any BAR that the device does not support (R534). -/
inductive HostAccess
  | read
  | write (data : List Byte) (poisoned : Bool)
  | unsupported
  deriving DecidableEq, Repr

/-- The fields of configuration space that the host interface gives a value or uses (R508 to R510, R514, R526, R528).  Max
Payload Size, Max Read Request Size and the size of BAR4 are powers of two. -/
inductive CfgField
  | vendorId | deviceId | classCode | revisionId
  | bar0 | bar2 | bar4 | msixEntries
  | vfDeviceId | firstVfOffset | vfStride | totalVfs | numVfs
  | maxPayload | maxReadRequest | completionTimeout
  | aspmL1 | d3hot | msixEnable | functionMask | bar4Size
  deriving DecidableEq, Repr

/-- The options that R508 lists, supported or not. -/
inductive PcieOption
  | flitMode | laneReversal | sriov | ari | multiFunction | multicast
  | tag10 | tag14 | atomicOp | tph | ln | ats | pri | pasid
  | flr | rrs | rtr | drs | resizableBar | aer | dpc | ide | doe
  | aspmL1 | aspmL0s | l1pm | l0p | pme | ltr | ptm | msix | msi | intx
  deriving DecidableEq, Repr

/-- A configuration request: a read of a dword, of a field, or of whether the function has an option; or a write of a field. -/
inductive ConfigOp
  | read (off : Nat)
  | readField (f : CfgField)
  | option (o : PcieOption)
  | writeField (f : CfgField) (v : Nat)
  deriving DecidableEq, Repr

/-- An access of the host to a vector of a function's MSI-X table or Pending Bit Array (R528). -/
inductive MsixOp
  | unmask | mask
  | write (addr : Word64) (data : Word32)
  | readEntry
  | readPending
  deriving DecidableEq, Repr

/-- An access to one vector. -/
structure MsixAccess where
  vec : Nat
  op  : MsixOp
  deriving DecidableEq, Repr

/-- How a register is written: the bytes of the access (R44), and whether they come with a poisoned payload (R534). -/
structure WriteForm where
  size     : Nat
  poisoned : Bool
  deriving DecidableEq, Repr

/-- A place of a bore's array queue. -/
structure ArrPlace where
  bore : Nat
  pos  : Nat
  deriving DecidableEq, Repr

/-- How the host completes a read of the device (R526): with data, as an Unsupported Request, or as a Completer Abort. -/
inductive HostCpl
  | ok | ur | ca
  deriving DecidableEq, Repr

/-- The commands. -/
inductive Instr
  /-- COLD_RESET, R16. Release of PORST_N, or the always-on rail coming up, resets the whole package and starts the
  boot ROM. -/
  | coldReset (strap : Nat)
  /-- PORST_N_ASSERT, R585. An assertion of PORST_N of 1 µs or longer abandons the current boot stage and holds the
  package in reset. -/
  | porstNAssert
  /-- WARM_RESET, R16. A reset of the package, a partition or a bore without PORST_N, applied to the chanter, reeds,
  queues, counters and handles of its scope. -/
  | warmReset (scope : ResetScope)
  /-- REGISTER_WRITE, R17. A write to a register that has no row of its own sets RW or RWS fields, ignores RO fields
  and reserved bits, and clears W1C bits written as 1. -/
  | registerWrite (who : Requester) (addr : Nat) (how : WriteForm) (val : Word64)
  /-- RC_FIELD_READ, R13. A read returns an RC field and clears it, and an event that coincides with the read is
  counted after the clear. -/
  | rcFieldRead (who : Requester) (addr size : Nat)
  /-- LOW_WORD_READ, R12. A 32-bit read of a 64-bit register's low word captures the high word for the same requester
  and clears every RC field of the register. -/
  | lowWordRead (who : Requester) (addr : Nat)
  /-- HIGH_WORD_READ, R12. A 32-bit read of a 64-bit register's high word returns the captured value and ends the
  capture, or returns the live high word if there is no capture. -/
  | highWordRead (who : Requester) (addr : Nat)
  /-- LOW_WORD_WRITE, R12. A 32-bit write of a 64-bit register's low word is held pending and replaces any pending low
  word of the same block. -/
  | lowWordWrite (who : Requester) (addr : Nat) (val : Word32)
  /-- HIGH_WORD_WRITE, R12. A 32-bit write of a 64-bit register's high word commits it together with the pending low
  word, or commits it alone. -/
  | highWordWrite (who : Requester) (addr : Nat) (val : Word32)
  /-- UNDOCUMENTED_OFFSET_ACCESS, R11. A read of an undocumented register offset returns 0 and a write to it is
  discarded, with no error. -/
  | undocumentedOffsetAccess (who : Requester) (addr size : Nat) (wr : Option Word64)
  /-- WINDWAY_WRITE_ARRIVAL, R31. A write reaches its home and is applied in arrival order, becoming visible there. -/
  | windwayWriteArrival (src dst : Endpoint)
  /-- WINDWAY_READ_ARRIVAL, R31. A read request reaches its home, reads the bytes and issues the read data as a
  completion. -/
  | windwayReadArrival (src dst : Endpoint)
  /-- READ_COMPLETION_ARRIVAL, R29. Read data returns to the requester. -/
  | readCompletionArrival (src dst : Endpoint)
  /-- WRITE_ACKNOWLEDGEMENT, R30. A write acknowledgement returns to the writer once the write is visible at its home. -/
  | writeAcknowledgement (src dst : Endpoint)
  /-- BORE_CLOCK_START_FOR_ACCESS, R40. An access to an IDLE or SLEEP bore completes once the bore clock has started
  for it, and the power state does not change. -/
  | boreClockStartForAccess (b : Nat)
  /-- FABRIC_RESTART, R548. The drone restarts a stopped quadrant fabric clock for a held transfer, and its HBM stacks
  leave self-refresh. -/
  | fabricRestart (q : Nat)
  /-- FABRIC_IDLE_STOP, R548. After FABHOLD of an idle quadrant, the drone stops the fabric clock and PLL and puts the
  quadrant's HBM into self-refresh. -/
  | fabricIdleStop (q : Nat)
  /-- TRANSLATION_WALK, R445. On a translation-cache miss, the unit reads the L1 and L2 entries from HBM and either
  translates the access or makes it UNMAPPED. -/
  | translationWalk (b : Nat)
  /-- PROGRAM_STORE_WRITE, R87. A host or residency-manager write to the program-store window writes bundles only
  while the chanter is HALTED or FAULTED. -/
  | programStoreWrite (who : Requester) (addr : Nat) (data : List Byte)
  /-- REGISTER_WINDOW_ACCESS, R116. A host access to the chanter register windows reads or writes architectural
  registers when the chanter is halted, and is otherwise dropped. -/
  | registerWindowAccess (who : Requester) (b off : Nat) (wr : Option Word64)
  /-- CHN_PC_WRITE, R108. A write to CHN_PC sets the next bundle index while the chanter is HALTED, and is discarded
  otherwise. -/
  | chnPcWrite (who : Requester) (b : Nat) (val : Word64)
  /-- GO, R106. CHN_CTRL.GO starts issuing at CHN_PC from HALTED. -/
  | go (who : Requester) (b : Nat)
  /-- STEP, R90. CHN_CTRL.STEP issues one bundle and returns the chanter to HALTED with HREASON STEP. -/
  | step (who : Requester) (b : Nat)
  /-- CHN_CTRL_HALT, R107. CHN_CTRL.HALT stops issue at the next bundle boundary without consuming the held bundle's
  receive or wait. -/
  | chnCtrlHalt (who : Requester) (b : Nat)
  /-- CLRFAULT, R121. CHN_CTRL.CLRFAULT moves a FAULTED chanter to HALTED, copies HALTPC to CHN_PC and clears the
  fault registers and REED_FAULT. -/
  | clrfault (who : Requester) (b : Nat)
  /-- CLRCNT, R121. CHN_CTRL.CLRCNT zeroes CHN_CYCLES, CHN_BUNDLES and CHN_STALL. -/
  | clrcnt (who : Requester) (b : Nat)
  /-- BUNDLE_ISSUE, R92. The bundle at PC issues as a whole in the first bore cycle in which every gate condition
  holds, or its wait times out. -/
  | bundleIssue (b : Nat)
  /-- WAIT_TIMEOUT, R94. The timeout of a held Q or Y slot expires, and the bundle issues in its timeout form. -/
  | waitTimeout (b : Nat)
  /-- REGISTER_WRITEBACK, R93. An issued instruction's result is written to its register and the pending write ends. -/
  | registerWriteback (b k : Nat)
  /-- LOAD_COMPLETION, R146. Data for a chanter register load returns and is written, or the load faults leaving the
  destination unchanged. -/
  | loadCompletion (b id : Nat)
  /-- IMPRECISE_FAULT, R110. A fault status returns after issue, and the chanter stops at the next bundle boundary and
  enters FAULTED once no register write is outstanding. -/
  | impreciseFault (b : Nat)
  /-- CHANTER_HALT_COMPLETE, R91. The chanter reaches HALTED or FAULTED once no register write is outstanding. -/
  | chanterHaltComplete (b : Nat)
  /-- DMA_REQUEST_START, R149. The DMA engine starts its next request in issue order once fewer than four are moving,
  and signals an empty request's completion at once. -/
  | dmaRequestStart (b : Nat)
  /-- DMA_COMPLETION, R134. When every write of a DMA or DFILL request has been acknowledged, the engine increments
  its counter and sends its completion message. -/
  | dmaCompletion (b id : Nat)
  /-- FEED_TILE_COMPLETE, R259. A feed buffer becomes complete when the whole tile has arrived. -/
  | feedTileComplete (b : Nat)
  /-- ARRAY_INSTRUCTION_BEGIN, R184. A queued array instruction begins in issue order once its unit and bank are free,
  computing under R178 to R187. -/
  | arrayInstructionBegin (b : Nat)
  /-- ARRAY_INSTRUCTION_FINISH, R184. An array instruction, at a place of the queue, finishes reading or writing its bank and leaves
  the array queue. -/
  | arrayInstructionFinish (o : ArrPlace)
  /-- DRAIN_COMPLETION, R153. When every drain write has been acknowledged, MDRAIN increments its completion counter. -/
  | drainCompletion (b : Nat)
  /-- VKLOAD_COMPLETE, R216. The last instruction of a VKLOAD is written and its completion counter increments. -/
  | vkloadComplete (b : Nat)
  /-- LAUNCH_START, R215. A launch starts on all reeds of a rank, setting PC and t1 to t7, at once or when the rank
  becomes IDLE. -/
  | launchStart (b r : Nat)
  /-- LAUNCH_FINISH, R218. Every reed of a launch has ended and its writes are acknowledged, and the completion
  counter increments. -/
  | launchFinish (b id : Nat)
  /-- RANK_STOP_COMPLETE, R232. A stopped rank becomes IDLE once its accepted writes have been acknowledged. -/
  | rankStopComplete (b r : Nat)
  /-- ARRIVAL_SEND, R342. A barrier arrival leaves the vestibule once every earlier write of the chanter has been
  acknowledged, taking an arrival slot. -/
  | arrivalSend (b : Nat)
  /-- COLUMN_TEST, R192. MXA_BYPCMD.CTEST starts the array column test, or is refused BUSY. -/
  | columnTest (who : Requester) (b : Nat)
  /-- COLUMN_TEST_DONE, R192. The column test ends, setting MXA_CTRES and ROWFAIL and leaving the array state cleared. -/
  | columnTestDone (b : Nat) (cols : BitVec 128) (rowfail : Bool)
  /-- BYPASS_COMMIT, R202. MXA_BYPCMD.COMMIT asks the drone to persist MXA_BYPPEND, subject to the bit count and the
  hold-up check. -/
  | bypassCommit (who : Requester) (b adc : Nat)
  /-- BYPASS_COMMIT_DONE, R202. The keep-flash rewrite of the bypass map ends, setting CMD_STATUS. -/
  | bypassCommitDone (b : Nat) (good : Bool) (adc : Nat)
  /-- REED_ISSUE, R209. A reed issues its next instruction in program order once no pending write blocks it. -/
  | reedIssue (b r lane : Nat)
  /-- REED_LOAD_RETURN, R226. Data for a WLD returns and is written to the reed's registers, or a poisoned return
  faults. -/
  | reedLoadReturn (b r lane : Nat)
  /-- RANK_BARRIER_COMPLETE, R230. A rank or launch barrier completes once all reeds have arrived or ended and their
  writes are acknowledged, and the waiting reeds resume. -/
  | rankBarrierComplete (b r scope : Nat)
  /-- RANK_ARRIVAL_SEND, R231. A rank sends its one barrier arrival once its reeds have executed RGBAR or ended and
  their writes are acknowledged. -/
  | rankArrivalSend (b r : Nat)
  /-- REED_DEBUG_WINDOW_ACCESS, R244. A host access to the reed debug window reads or writes the selected reed's cell
  memory or registers while its rank is IDLE. -/
  | reedDebugWindowAccess (who : Requester) (b off : Nat) (wr : Option Word32)
  /-- ALLOC, R265. Commands allocation of a FREE handle with the staged mapping. -/
  | alloc (who : Requester) (b h : Nat)
  /-- ALLOC_LOCK, R265. The residency manager commands allocation of a handle as LOCKED. -/
  | allocLock (who : Requester) (b h : Nat)
  /-- RELEASE, R265. Commands a handle to become FREE at once. -/
  | release (who : Requester) (b h : Nat)
  /-- RELEASE_SCRUB, R265. Commands a handle to be scrubbed and then freed. -/
  | releaseScrub (who : Requester) (b h : Nat)
  /-- HANDLE_COMMAND_EFFECT, R266. A ligature command takes effect within 16 cycles, changing the handle or reporting
  its failure status in LIG_CMDST. -/
  | handleCommandEffect (b : Nat)
  /-- SCRUB_START, R267. A scrub begins filling the handle's lines with zero once its INFLIGHT reaches 0 and earlier
  scrubs are done. -/
  | scrubStart (b : Nat)
  /-- SCRUB_END, R267. A scrub writes its last line and sets the handle FREE. -/
  | scrubEnd (b : Nat)
  /-- WCH_CLEAR, R276. WCH_CCTRL.CLEAR zeroes every bank conflict counter. -/
  | wchClear (who : Requester) (b : Nat)
  /-- WCH_FREEZE, R275. A write of WCH_CCTRL.FREEZE stops or resumes every bank counter. -/
  | wchFreeze (who : Requester) (b : Nat) (v : Bool)
  /-- MESSAGE_ARRIVAL, R303. A message reaches a queue and is judged by the arrival rules, landing or being discarded
  or NACKed. -/
  | messageArrival (src : Endpoint) (b : Nat)
  /-- CHANNEL_INCREMENT_ARRIVAL, R300. A channel increment reaches its queue, is judged, and is applied or refused
  with an orphan mark. -/
  | channelIncrementArrival (src : Endpoint) (b : Nat)
  /-- NACK_MESSAGE_ARRIVAL, R314. A NACK message reaches its return queue and lands on its reservation, or is
  discarded if the queue is closed or has changed epoch. -/
  | nackMessageArrival (src : Endpoint) (b : Nat)
  /-- CREDIT_RETURN, R306. A credit return reaches its sender, adds to CRED, counts any orphan mark and may increment
  CRCN. -/
  | creditReturn (src dst : Endpoint)
  /-- RESERVATION_RELEASE, R306. A release reaches a NACK channel's sender and frees one reservation. -/
  | reservationRelease (src dst : Endpoint)
  /-- ORPHAN_MARK_ARRIVAL, R312. An orphan mark alone reaches the sender and counts in ORPHANS. -/
  | orphanMarkArrival (src dst : Endpoint)
  /-- ROUTE_WRITE, R316. A write to QUE_ROUTEA or QUE_ROUTEB takes effect on an idle entry, checked when it leaves
  VALID 1, and is discarded otherwise. -/
  | routeWrite (who : Requester) (tbl : RouteTable) (owner entry : Nat) (second : Bool) (val : Word64)
  /-- QUEUE_CONFIG_WRITE, R317. A write to QUE_QCFG takes effect on an empty queue, subject to depth and overcommit
  checks. -/
  | queueConfigWrite (who : Requester) (b q : Nat) (val : Word64)
  /-- QCTL_OPEN, R322. QUE_QCTL OPEN sets a queue OPEN. -/
  | qctlOpen (who : Requester) (b q : Nat)
  /-- QCTL_CLOSE, R313. QUE_QCTL CLOSE sets a queue CLOSED and refuses its entries. -/
  | qctlClose (who : Requester) (b q : Nat)
  /-- NEWEPOCH, R294. QUE_QCTL NEWEPOCH advances a queue's epoch, sets it RESET and refuses its entries. -/
  | newepoch (who : Requester) (b q : Nat)
  /-- CHANNEL_AUDIT, R311. A write of QUE_AUDCMD records CRED and sends an audit marker on the channel. -/
  | channelAudit (who : Requester) (b ch : Nat)
  /-- AUDIT_MARKER_ARRIVAL, R311. The audit marker reaches the destination queue, which counts the channel's occupancy
  and replies. -/
  | auditMarkerArrival (src : Endpoint) (b : Nat)
  /-- AUDIT_REPLY_ARRIVAL, R311. The audit reply reaches the sender, which reports CR, OC and RT in QUE_AUDRES. -/
  | auditReplyArrival (src : Endpoint) (b : Nat)
  /-- POOL_INCREMENT_ARRIVAL, R334. A pool increment reaches the sync pool and is applied if its context owns the
  block, or discarded as CSTALE. -/
  | poolIncrementArrival (src : Endpoint)
  /-- WATCH_ARRIVAL, R336. A watch reaches the sync pool, which answers once the counter has reached the target. -/
  | watchArrival (src : Endpoint)
  /-- WATCH_ANSWER_ARRIVAL, R336. The answer to a watch lands at the bore and satisfies the YWAIT's gate condition. -/
  | watchAnswerArrival (b : Nat)
  /-- BARRIER_ARRIVAL, R343. An arrival reaches the barrier combiner and counts in the phase, completing it when
  ARRIVED reaches PCOUNT. -/
  | barrierArrival (src : Endpoint)
  /-- BARRIER_COMPLETION_ARRIVAL, R344. A phase completion reaches a bore or rank, marking the oldest pending arrival
  slot DONE. -/
  | barrierCompletionArrival (b : Nat)
  /-- ABORT, R350. SYN_BCMD ABORT ends a barrier's phase without completion and releases its participants as ABORTED. -/
  | abort (who : Requester) (bid : Nat)
  /-- POOL_BLOCK_WRITE, R358. A write to SYN_PBLK grants, releases or stores the owner of a pool block. -/
  | poolBlockWrite (who : Requester) (blk : Nat) (val : Word64)
  /-- BARRIER_CONFIG_WRITE, R359. A write to SYN_BCFG configures a barrier when none has arrived. -/
  | barrierConfigWrite (who : Requester) (bid : Nat) (val : Word64)
  /-- COUNTER_VALUE_WRITE, R353. A write to a counter's value register sets the counter at once. -/
  | counterValueWrite (who : Requester) (bore : Option Nat) (n : Nat) (val : Word64)
  /-- COUNTER_ARM_WRITE, R348. A write to SYN_LCARM arms a local counter, firing at once if the target is already
  reached. -/
  | counterArmWrite (who : Requester) (b n : Nat) (val : Word64)
  /-- STG_START, R369. STG_CTRL START resets and starts a scheduler from OFF, injecting tags, or resumes it from
  STOPPED. -/
  | stgStart (who : Requester) (p : Nat)
  /-- STG_STOP, R389. STG_CTRL STOP moves a running scheduler to STOPPED. -/
  | stgStop (who : Requester) (p : Nat)
  /-- NEXTSTEP, R379. NEXTSTEP frees the retired tags, advances the step, judges the early queue and resumes the
  scheduler. -/
  | nextstep (who : Requester) (p : Nat)
  /-- STG_INJECT, R369. The host injects one tag as a forward of the current step. -/
  | stgInject (who : Requester) (p : Nat) (val : Word64)
  /-- TAG_MESSAGE_ARRIVAL, R370. A boundary tag message is judged and accepted into FWD_IN or BWD_IN, held as early,
  or discarded. -/
  | tagMessageArrival (p : Nat)
  /-- DONE_REPORT, R375. A chanter's done report reaches the scheduler, completing the tag after NCHAN reports or
  being discarded. -/
  | doneReport (src : Endpoint) (p : Nat)
  /-- CONTROL_MESSAGE, R367. A control message reaches the scheduler and acts as NEXTSTEP or is discarded. -/
  | controlMessage (src : Endpoint) (p : Nat)
  /-- DISPATCH, R372. The scheduler dispatches an eligible backward or forward and sends dispatch messages to the
  stage's chanters. -/
  | dispatch (p : Nat)
  /-- STEPEND, R378. When every backward is done and the out-queues are empty, the scheduler sends STEPEND and enters
  STEPEND. -/
  | stepend (p : Nat)
  /-- EMISSION, R377. The scheduler sends the head tag of FWD_OUT or BWD_OUT as a boundary tag message. -/
  | emission (p : Nat)
  /-- STASH_CHUNK, R385. The stash engine moves one chunk of a stash-out or restore within its rate limit. -/
  | stashChunk (p : Nat) (out : Bool)
  /-- STASH_OUT_COMPLETE, R382. A stash-out's data writes are acknowledged, its header is written valid, and the
  stash-out completes. -/
  | stashOutComplete (p : Nat)
  /-- RESTORE_REQUEST, R384. The scheduler asks for the restore of a FWD_DONE tag within the prefetch distance. -/
  | restoreRequest (p : Nat)
  /-- RESTORE_COMPLETE, R383. A restore's writes are acknowledged, or its header check fails and the scheduler stops
  with STASHMISS. -/
  | restoreComplete (p : Nat)
  /-- AMAX_REPORT, R409. An AMAX report updates CUR of a scale entry or counts a non-finite amax. -/
  | amaxReport (src : Endpoint) (h : Nat)
  /-- LOSS_REPORT, R412. A LOSS report adds into the step's loss sum. -/
  | lossReport (src : Endpoint) (h : Nat)
  /-- GATE_REQUEST, R419. A chanter's gate request counts in REQS, and the NCHAN-th evaluates the step to HELD, READY
  or PUBLISH. -/
  | gateRequest (src : Endpoint) (h : Nat)
  /-- GATE_RELEASE, R428. OVB_GCTL RELEASE publishes COMMIT from HELD or READY. -/
  | gateRelease (who : Requester) (h : Nat)
  /-- GATE_SKIP, R428. OVB_GCTL SKIP publishes SKIP from HELD or READY. -/
  | gateSkip (who : Requester) (h : Nat)
  /-- HOLDNEXT, R428. OVB_GCTL HOLDNEXT makes the next evaluation hold for reason HOST. -/
  | holdnext (who : Requester) (h : Nat)
  /-- VERDICT_SEND, R411. Once the mirror writes are acknowledged, the verdict is sent on every verdict route and the
  gate returns to IDLE. -/
  | verdictSend (h : Nat)
  /-- ROUND_COMPLETION, R418. Once every write of a complete reduction round is acknowledged, the slot increments its
  completion counter. -/
  | roundCompletion (h slot : Nat)
  /-- REBUILD, R463. PRT_CMD REBUILD starts rebuilding a partition group, with an optional spare substitution, or is
  refused. -/
  | rebuild (who : Requester) (p : Nat) (subst : Option Nat)
  /-- REBUILD_COMPLETE, R463. The rebuild resets the bores, clears routes and queues, publishes capability words and
  sets the partitions UP. -/
  | rebuildComplete (p : Nat) (fails : List Nat)
  /-- CREATE, R474. PRT_CMD CREATE moves a FREE context to IDLE. -/
  | create (who : Requester) (c : Nat)
  /-- LOAD, R452. PRT_CMD LOAD runs the validity and fit checks of a context's image and begins binding, or fails with
  a status. -/
  | load (who : Requester) (c : Nat)
  /-- CONTEXT_BINDING, R456. Once the bores' chanters are halted, the residency manager binds the context, copies the
  image and routes, and sets it RESIDENT. -/
  | contextBinding (c : Nat)
  /-- EVICT, R460. PRT_CMD EVICT stops dispatch and closes the context's queues. -/
  | evict (who : Requester) (c : Nat)
  /-- EVICTION_SAVE, R460. Once the context is quiet, its SAVE handles are copied out, its resources freed and the
  context set IDLE. -/
  | evictionSave (c : Nat)
  /-- PRT_START, R461. PRT_CMD START adds a pending start on every bound bore of the context. -/
  | prtStart (who : Requester) (c : Nat)
  /-- PRT_END, R462. PRT_CMD END halts the context's chanters and ranks, closes its queues and aborts its barriers. -/
  | prtEnd (who : Requester) (c : Nat)
  /-- ENDING_RELEASE, R462. Once the ending context is quiet, its handles are scrubbed, resources freed, fault copied
  and the context set ENDED. -/
  | endingRelease (c : Nat)
  /-- PRT_RESET, R474. PRT_CMD RESET moves an ENDED context to IDLE. -/
  | prtReset (who : Requester) (c : Nat)
  /-- DESTROY, R474. PRT_CMD DESTROY moves an IDLE or ENDED context to FREE. -/
  | destroy (who : Requester) (c : Nat)
  /-- CONTEXT_START_DISPATCH, R461. The residency manager carries out a bore's oldest pending start when its chanter
  is halted, setting PRT_BCUR, g1, g2, CHN_PC and GO. -/
  | contextStartDispatch (b : Nat)
  /-- RESIDENCY_ARRIVAL, R458. A hub sender's message for a context is forwarded, held, starts a load, or is refused
  according to the context's state. -/
  | residencyArrival (src : Endpoint)
  /-- CTX_INVAL, R476. A write of CTX_INVAL starts invalidating a context's cached translations. -/
  | ctxInval (who : Requester) (c : Nat)
  /-- INVALIDATION_COMPLETE, R445. No entry of the context remains cached and earlier accesses have reached their
  homes, and PENDING clears. -/
  | invalidationComplete (c : Nat)
  /-- CRK_ENABLE, R497. A write of CRK_CTRL.ENABLE moves a port from DISABLED to DOWN and into training, or back to
  DISABLED. -/
  | crkEnable (who : Requester) (k : Nat) (on : Bool)
  /-- CRK_RETRAIN, R499. CRK_CTRL.RETRAIN starts a retrain of an UP port. -/
  | crkRetrain (who : Requester) (k : Nat)
  /-- CRK_RESET, R497. CRK_CTRL.RESET moves a FAILED port to DOWN. -/
  | crkReset (who : Requester) (k : Nat)
  /-- TRAINING_COMPLETE, R498. PMD training and the INIT exchange end and the port becomes UP. -/
  | trainingComplete (k : Nat) (init : InitFlit)
  /-- TRAINING_TIMEOUT, R497. Training without success for 250 ms returns the port to DOWN to retry. -/
  | trainingTimeout (k : Nat)
  /-- RETRAIN_COMPLETE, R498. A retrain ends, the port is UP and replays from the peer's expected SEQ. -/
  | retrainComplete (k : Nat) (init : InitFlit)
  /-- RETRAIN_TIMEOUT, R497. A retrain not complete in 50 ms moves the port to FAILED. -/
  | retrainTimeout (k : Nat)
  /-- LANE_LOCK_LOSS, R499. Loss of lane lock or codeword alignment starts a retrain. -/
  | laneLockLoss (k : Nat)
  /-- INIT_FLIT_RECEIVED, R498. An INIT flit from the peer completes the exchange or starts a retrain, and a changed
  peer fails the port. -/
  | initFlitReceived (k : Nat) (init : InitFlit)
  /-- FLIT_RECEIVED, R491. A flit is received, its ACK and CRTOT applied, and an XFER flit accepted if its CRC and SEQ
  are right or else NAKed. -/
  | flitReceived (k : Nat) (flit : RxFlit)
  /-- REPLAY_TIMEOUT, R492. No ACK progress for 20 µs while flits are held retransmits them. -/
  | replayTimeout (k : Nat)
  /-- FLIT_TRANSMIT, R495. In each flit time the port sends one XFER flit chosen by VL priority and credit, or an IDLE
  flit. -/
  | flitTransmit (k : Nat)
  /-- PUT_COMMAND, R484. A PUT command reaches a crook port's DQ 0 or 1. -/
  | putCommand (src : Endpoint) (k : Nat)
  /-- RED_COMMAND, R484. A RED command reaches a crook port's DQ 2. -/
  | redCommand (src : Endpoint) (k : Nat)
  /-- TRANSFER_START, R485. The port takes a command with a fresh PUTID, reads its source in the stage context and
  sends it as a PUT or RED transfer. -/
  | transferStart (k dq : Nat)
  /-- PUT_ARRIVAL, R487. A PUT reaches the far port, is checked against its window, and is written, forwarded, or
  rejected. -/
  | putArrival (k : Nat)
  /-- PUT_COMPLETE, R488. Once a PUT's writes are acknowledged, the receiving port makes its remote increment and
  sends ACK OK. -/
  | putComplete (k : Nat)
  /-- RED_ARRIVAL, R490. A RED transfer contributes its elements to a reduction slot by read, add and write. -/
  | redArrival (k : Nat)
  /-- ACK_ARRIVAL, R488. An ACK transfer reaches the sending port, incrementing LCN on OK or counting a REJECT. -/
  | ackArrival (k : Nat)
  /-- MSG_TRANSFER, R486. A MSG transfer is delivered by the far port to a bore queue and judged there. -/
  | msgTransfer (k : Nat)
  /-- INC_TRANSFER, R486. An INC transfer is delivered as a channel increment to a bore queue. -/
  | incTransfer (k : Nat)
  /-- RET_TRANSFER, R486. A RET transfer delivers a credit, release, orphan mark or audit reply to the sending bore. -/
  | retTransfer (k : Nat)
  /-- TAG_TRANSFER, R368. A TAG transfer is delivered to the far stage scheduler as a boundary tag message. -/
  | tagTransfer (k : Nat)
  /-- AUDIT_TRANSFER, R486. An AUDIT transfer is delivered as an audit marker to a bore queue. -/
  | auditTransfer (k : Nat)
  /-- WINDOW_WRITE, R487. A write to an inbound window is refused with WINBAD when its range is not wholly HBM below
  the dump window or windchest. -/
  | windowWrite (who : Requester) (k w : Nat) (second : Bool) (val : Word64)
  /-- DOORBELL, R519. A doorbell write takes a credit and becomes a message, or is dropped and counted. -/
  | doorbell (fn off : Nat) (words : List Word32) (full poisoned : Bool)
  /-- DOORBELL_FORWARD, R520. A doorbell message is forwarded once every earlier write by the function has been
  acknowledged. -/
  | doorbellForward (fn : Nat)
  /-- DOORBELL_STATUS_CLEAR, R516. A write of bit 0 clears a doorbell's ORPHAN and DROPS. -/
  | doorbellStatusClear (fn off : Nat) (val : Word32)
  /-- HEAD_WRITE, R523. The host writes a host ring's HEAD, discarded if it passes TAIL. -/
  | headWrite (fn off : Nat) (val : Word32)
  /-- ARM_WRITE, R524. The host sets ARM of a host ring. -/
  | armWrite (fn off : Nat) (val : Word32)
  /-- HOST_MESSAGE_ARRIVAL, R521. A message reaches the host message unit and is written as a ring entry, raising the
  ring's vector if armed, or is refused. -/
  | hostMessageArrival (src : Endpoint)
  /-- VF_LOAD, R529. HIF_VCMD LOAD passes a LOAD of one of the VF's contexts to the residency manager. -/
  | vfLoad (vf i : Nat)
  /-- VF_EVICT, R529. HIF_VCMD EVICT passes an EVICT. -/
  | vfEvict (vf i : Nat)
  /-- VF_START, R529. HIF_VCMD START passes a START. -/
  | vfStart (vf i : Nat)
  /-- VF_END, R529. HIF_VCMD END passes an END. -/
  | vfEnd (vf i : Nat)
  /-- VF_RESET, R529. HIF_VCMD RESET passes a RESET. -/
  | vfReset (vf i : Nat)
  /-- VFMAP_WRITE, R537. A write to HIF_VFMAP sets a VF's context range unless busy or overlapping. -/
  | vfmapWrite (who : Requester) (vf : Nat) (val : Word64)
  /-- DBR_WRITE, R537. A write to HIF_DBR sets a doorbell route when its credits are home. -/
  | dbrWrite (who : Requester) (r : Nat) (val : Word64)
  /-- HRING_WRITE, R537. A write to HIF_HRING configures a host ring, resetting HEAD, TAIL and ARM when made VALID. -/
  | hringWrite (who : Requester) (r : Nat) (val : Word64)
  /-- CTXH_WRITE, R538. A write to HIF_CTXH sets a context's host rings and event vector when the context is inactive. -/
  | ctxhWrite (who : Requester) (c : Nat) (val : Word64)
  /-- BAR4_ACCESS, R514. A host access through BAR4 reaches HBM or a windchest at HIF_B4BASE plus the offset. -/
  | bar4Access (off len : Nat) (acc : HostAccess)
  /-- CONFIG_REQUEST, R530. A configuration request completes with Request Retry Status until the host interface is
  ready, and normally after. -/
  | configRequest (fn : Nat) (op : ConfigOp)
  /-- FLR, R531. A Function Level Reset of a VF refuses its traffic, ends its active contexts and resets its rings and
  MSI-X state. -/
  | flr (vf : Nat)
  /-- HOST_RESET, R532. An FLR of the PF, a Hot Reset or a link-down warm-resets every partition and frees every
  context. -/
  | hostReset (linkDown : Bool)
  /-- LINK_UP, R533. The host link comes up again and device requests to the host resume. -/
  | linkUp (flit : Bool) (speed width : Nat)
  /-- HOST_READ_COMPLETION, R526. A completion for a device read of host memory returns, or an error completion
  returns UNMAPPED. -/
  | hostReadCompletion (dst : Endpoint) (st : HostCpl) (data : List Byte)
  /-- COMPLETION_TIMEOUT, R526. A device read of host memory times out and returns UNMAPPED, logged under AER. -/
  | completionTimeout (dst : Endpoint)
  /-- BPCMD_WAKE, R575. DRN_BPCMD WAKE wakes a bore from IDLE, SLEEP or DEEP. -/
  | bpcmdWake (who : Requester) (b : Nat)
  /-- BPCMD_SLEEP, R557. DRN_BPCMD SLEEP starts entry into SLEEP on a quiet bore. -/
  | bpcmdSleep (who : Requester) (b : Nat)
  /-- BPCMD_DEEP, R557. DRN_BPCMD DEEP starts entry into DEEP on a quiet bore. -/
  | bpcmdDeep (who : Requester) (b : Nat)
  /-- BPCMD_OFF, R570. DRN_BPCMD OFF accepts a bore's retirement, halting its chanter and ranks, or is refused BOUND. -/
  | bpcmdOff (who : Requester) (b : Nat)
  /-- BPCMD_ON, R574. DRN_BPCMD ON begins powering an OFF bore on. -/
  | bpcmdOn (who : Requester) (b : Nat)
  /-- QUIET_TIMEOUT, R555. A bore quiet for LENDTHR enters IDLE, returns its tokens above the floor, and may begin a
  long wait. -/
  | quietTimeout (b : Nat)
  /-- IDLE_TIMEOUT, R556. A bore IDLE for SLEEPT microseconds enters SLEEP. -/
  | idleTimeout (b : Nat)
  /-- SLEEP_TIMEOUT, R556. A bore in SLEEP for DEEPT × 100 µs enters DEEP. -/
  | sleepTimeout (b : Nat)
  /-- POWER_STATE_ENTRY_COMPLETE, R767. A bore finishes entering IDLE, SLEEP or DEEP and STATE reports the new state. -/
  | powerStateEntryComplete (b : Nat)
  /-- WAKE_TRIGGER, R558. A wake trigger reaches a bore in IDLE, SLEEP or DEEP, or is held until an entry completes. -/
  | wakeTrigger (b : Nat)
  /-- WAKE_COMPLETE, R551. A waking bore becomes ACTIVE with its clock at step 0 or above. -/
  | wakeComplete (b : Nat)
  /-- BELLOWS_PERIOD, R561. Every microsecond the bellows restores floors, lowers the limit, recalls by share and
  grants tokens. -/
  | bellowsPeriod
  /-- TOKEN_CREDIT, R552. Debited tokens are credited to their new holder, leaving INFLIGHT. -/
  | tokenCredit
  /-- THERMAL_READING, R564. Each millisecond the drone reads the diodes and lowers or raises the thermal cap. -/
  | thermalReading (temps : List (Option Int))
  /-- POWER_SUM, R565. Each millisecond the drone sums metered READ_POUT and adjusts the power cap. -/
  | powerSum
  /-- PMBUS_POLL, R567. Each millisecond the drone reads each valid regulator and flags faults. -/
  | pmbusPoll (reads : List PmbRead)
  /-- PMB_ALERT, R748. An assertion of PMB_ALERT_N makes the drone read STATUS_WORD of every valid regulator. -/
  | pmbAlert (reads : List PmbRead)
  /-- FAN_FAIL, R568. A fan below MINRPM for 2 s sets FAIL and is driven at 100 percent. -/
  | fanFail (f rpm : Nat)
  /-- REFCLK_LOSS, R579. With no REFCLK_25 edge for 2 µs, the drone switches to its internal oscillator and logs
  CLKLOSS. -/
  | refclkLoss
  /-- REFCLK_RESTORE, R579. Once REFCLK_25 has been stable for 1 ms, the drone switches back and clears REFLOST. -/
  | refclkRestore
  /-- BLW_LIMIT_WRITE, R578. A write to LIMIT takes effect at the next bellows period, resetting both caps, or is
  discarded BADCFG. -/
  | blwLimitWrite (who : Requester) (val : Word64)
  /-- RETIREMENT_DRAINED, R571. A retiring bore's work drains, tokens above the floor return and its queues close. -/
  | retirementDrained (b : Nat)
  /-- RETIREMENT_ABANDON, R571. Work still running 1 ms into a retirement is abandoned and the status reads ABANDONED. -/
  | retirementAbandon (b : Nat)
  /-- DRAIN_INTERVAL_END, R571. After the 2 µs drain, the endpoint stub takes over, power is removed and the bore is
  OFF. -/
  | drainIntervalEnd (b : Nat)
  /-- STUB_ANSWER, R572. An arrival at an OFF bore is answered by the quadrant's endpoint stub and counted in
  DRN_STUB. -/
  | stubAnswer (src : Endpoint) (b : Nat)
  /-- LEAVE_OFF_COMPLETE, R574. A bore leaving OFF is powered, zeroed and restored, the stub releases it, and it
  becomes ACTIVE. -/
  | leaveOffComplete (b : Nat)
  /-- WAKEFAIL, R697. A bore not ACTIVE within ten times its wake time raises a PARTITION error. -/
  | wakefail (b : Nat)
  /-- RAIL_SEQUENCE, R591. The drone brings up the listed regulators in ROLE order until every rail is in range. -/
  | railSequence
  /-- RAIL_SEQUENCE_TIMEOUT, R591. A rail sequence not finished in 12 ms turns the regulators off and halts with
  RAILFAIL. -/
  | railSequenceTimeout
  /-- FIRMWARE_VERIFY, R594. The drone verifies slot A then slot B and starts the first accepted image, or enters
  RECOVERY. -/
  | firmwareVerify
  /-- FUSE_APPLY, R597. The firmware applies the fuse map, calibration and repair record. -/
  | fuseApply
  /-- HBM_TRAINING, R598. The drone trains the eight HBM stacks and records which trained. -/
  | hbmTraining (trained : List Nat)
  /-- HOSTREADY, R599. The drone declares the host interface ready and configuration requests complete normally. -/
  | hostready
  /-- SELF_TEST, R600. Self-test tests every physical site in two rounds, adding failing columns and recording failed
  sites. -/
  | selfTest (results : List SiteTest) (adc : Nat)
  /-- CAPABILITY_PUBLISH, R602. At the end of self-test the drone publishes every capability word, applies masks,
  powers sites off and enters READY. -/
  | capabilityPublish
  /-- REBOOT, R587. DRN_BOOTCTL.REBOOT starts a package reboot. -/
  | reboot (who : Requester)
  /-- SVNLOCK, R596. DRN_BOOTCTL.SVNLOCK raises the fused SVNMIN to the running image's SVN, subject to the hold-up
  check. -/
  | svnlock (who : Requester) (adc : Nat) (fused : Bool)
  /-- CHALLENGE, R606. DRN_DBGCMD CHALLENGE writes a fresh nonce. -/
  | challenge (who : Requester)
  /-- SUBMIT, R606. DRN_DBGCMD SUBMIT verifies the debug token and grants PERM, consuming the nonce. -/
  | submit (who : Requester)
  /-- RELOCK, R607. DRN_DBGCMD RELOCK withdraws the debug permissions. -/
  | relock (who : Requester)
  /-- NONCE_EXPIRY, R607. A debug nonce older than 60 s becomes void. -/
  | nonceExpiry
  /-- CONSOLE_RELEASE, R607. The console releases a boot stage held under PERM bit 2. -/
  | consoleRelease
  /-- EMB_ENABLE, R646. EMB_SCMD ENABLE reads a stream entry and starts the stream, or reports an error. -/
  | embEnable (who : Requester) (s : Nat)
  /-- EMB_DISABLE, R646. EMB_SCMD DISABLE stops a stream at the end of its current frame. -/
  | embDisable (who : Requester) (s : Nat)
  /-- EMB_GAINCOMMIT, R630. EMB_SCMD GAINCOMMIT reads a stream's shadow gain set for commit. -/
  | embGaincommit (who : Requester) (s : Nat)
  /-- QUERY, R650. EMB_SCMD QUERY reports a stream's state in EMB_SINFO. -/
  | query (who : Requester) (s : Nat)
  /-- GAIN_SET_READ, R630. The shadow gain set has been read and is committed to apply from the next frame. -/
  | gainSetRead (s : Nat)
  /-- BORE_GAINCOMMIT, R637. A bore's GAINCOMMIT message to the embouchure commits a stream's shadow gain set, or is
  discarded. -/
  | boreGaincommit (src : Endpoint)
  /-- PORT_ENABLE, R623. EMB_PCTL ENABLE moves a TDM port to ACQUIRE. -/
  | portEnable (who : Requester) (p : Nat)
  /-- PORT_DISABLE, R647. EMB_PCTL DISABLE stops a port at once and sends its streams to WAIT. -/
  | portDisable (who : Requester) (p : Nat)
  /-- RATE_ACK, R643. EMB_PCTL ACK resumes a RATEWAIT port's streams at the next boundary. -/
  | rateAck (who : Requester) (p : Nat)
  /-- FRAME_SYNC, R639. A slave port classifies a frame sync period, locking, counting a glitch, resyncing or
  detecting a rate change. -/
  | frameSync (p period clocks : Nat) (slots : List Word32)
  /-- HOLDOVER_ENTRY, R641. No frame sync for 1.5 × P enters HOLDOVER with an NCO. -/
  | holdoverEntry (p : Nat)
  /-- PORT_FRAME_START, R623. A 10 ms boundary starts a port frame, applying resync or rate change. -/
  | portFrameStart (p : Nat)
  /-- CAPTURE_FRAME_END, R625. At capture frame end the embouchure writes the frame's samples, or drops it on overrun. -/
  | captureFrameEnd (s : Nat)
  /-- STATISTICS_RECORD_WRITE, R625. Once the data writes are acknowledged, the statistics record is written over the
  slot header. -/
  | statisticsRecordWrite (s : Nat)
  /-- FRAME_READY_MESSAGE, R635. Once the record is acknowledged, a frame-ready message is sent on the stream's route,
  or counted NOCRED. -/
  | frameReadyMessage (s : Nat)
  /-- PLAYBACK_FETCH, R628. 2 ms before a playback frame starts, its slot is read and checked, or the frame plays
  silence. -/
  | playbackFetch (s : Nat)
  /-- PLAYBACK_FRAME_END, R628. After a playback frame's last play instant, its statistics record is written. -/
  | playbackFrameEnd (s : Nat)
  /-- RING_FRAME_END, R629. Every 10 ms of a ring stream the embouchure moves one frame between the host ring and BUF. -/
  | ringFrameEnd (s : Nat)
  /-- AGC_COMMIT, R632. AGC commits a new capture gain after a voiced frame. -/
  | agcCommit (s : Nat)
  /-- FROUTE_WRITE, R652. A write to EMB_FROUTE or BEL_FROUTE sets a frame route when its credits are home. -/
  | frouteWrite (who : Requester) (bell : Bool) (r : Nat) (val : Word64)
  /-- PIPE_ENABLE, R682. BEL_PCTL ENABLE applies the shadow sets and starts a pipe. -/
  | pipeEnable (who : Requester) (p : Nat)
  /-- PIPE_DISABLE, R682. BEL_PCTL DISABLE stops a pipe at the next frame end. -/
  | pipeDisable (who : Requester) (p : Nat)
  /-- COMMIT, R657. BEL_PCTL COMMIT copies the composition set into the pending set. -/
  | commit (who : Requester) (p : Nat)
  /-- FLUSH, R668. BEL_PCTL FLUSH invalidates the flatten cache at the next latch. -/
  | flush (who : Requester) (p : Nat)
  /-- TIMING_COMMIT, R679. BEL_PCTL TIMCOMMIT marks a valid timing set pending, or reports BADCFG. -/
  | timingCommit (who : Requester) (p : Nat)
  /-- MATRIX_PRESET_LOAD, R664. A write of BEL_MLOAD copies a colour-matrix preset into a layer's shadow rows. -/
  | matrixPresetLoad (who : Requester) (p : Nat) (val : Word64)
  /-- BORE_COMMIT_MESSAGE, R678. A bore's message with command 0x01 acts as a COMMIT of a pipe. -/
  | boreCommitMessage (src : Endpoint)
  /-- BORE_FLUSH_MESSAGE, R678. A bore's message with command 0x02 acts as a FLUSH of a pipe. -/
  | boreFlushMessage (src : Endpoint)
  /-- FRAME_START, R658. A pipe's frame starts and BEL_FCOUNT increments. -/
  | frameStart (p : Nat)
  /-- LATCH, R660. At frame end the pipe applies pending timing, validates and activates the pending composition set,
  and signs its guarded regions. -/
  | latch (p : Nat) (late : List Nat)
  /-- FLATTEN_CACHE_FILL_COMPLETE, R668. The flatten cache write is acknowledged and later frames fetch F from it. -/
  | flattenCacheFillComplete (p : Nat)
  /-- FRAME_DONE_MESSAGE, R671. Once a frame's writeback is acknowledged, the frame-done message is sent. -/
  | frameDoneMessage (p : Nat)
  /-- DP_TRAIN, R675. BEL_DPCTL TRAIN starts DisplayPort link training. -/
  | dpTrain (who : Requester) (d : Nat)
  /-- LINK_TRAINING_DONE, R675. DisplayPort training reaches UP, or ends in FAIL after 100 ms. -/
  | linkTrainingDone (d : Nat) (up : Bool)
  /-- HPD_DEASSERT, R677. An HPD deassertion of 2 ms or longer sets UNPLUG and moves the link to DOWN. -/
  | hpdDeassert (d : Nat)
  /-- IRQ_HPD, R677. An HPD pulse of 0.5 to 1 ms sets IRQHPD. -/
  | irqHpd (d : Nat)
  /-- HPD_ASSERT, R677. An HPD assertion after UNPLUG sets PLUG. -/
  | hpdAssert (d : Nat)
  /-- AUX_TRANSACTION, R676. A write of BEL_AUXCMD starts one AUX transaction, or reports BUSY during training. -/
  | auxTransaction (who : Requester) (d : Nat) (val : Word64)
  /-- AUX_REPLY, R676. An AUX reply arrives and is reported as ACK, NACK or DEFER. -/
  | auxReply (d code : Nat) (data : List Byte)
  /-- AUX_TIMEOUT, R676. No AUX reply within 400 µs reports TIMEOUT. -/
  | auxTimeout (d : Nat)
  /-- PARTITION_ERROR, R697. A PARTITION error ends the group's contexts and rebuilds the group. -/
  | partitionError (p code bore : Nat)
  /-- FATAL, R715. A PACKAGE error records the cause, freezes the device and starts writing the dump. -/
  | fatal (cause src : Nat)
  /-- DUMP_COMPLETE, R715. The dump sections and header are written, then the summary and optional reboot follow. -/
  | dumpComplete (adc : Nat)
  /-- HOSTFORCE, R698. DMP_CTRL.FORCE raises a PACKAGE error. -/
  | hostforce (who : Requester)
  /-- DUMP_CLEAR, R732. DMP_CTRL.CLEAR sets DMP_STATUS.STATE to NONE unless writing. -/
  | dumpClear (who : Requester)
  /-- RESTART, R703. DMP_PRST RESTART starts a partition restart of a quiesced group. -/
  | restart (who : Requester) (p : Nat)
  /-- PARTITION_RESTART_COMPLETE, R704. Every bore, scheduler and health set of the group has been warm-reset. -/
  | partitionRestartComplete (p : Nat)
  /-- KEEP_READ, R721. KEEP_CMD READ copies 256 bytes of keep flash into KEEP_BUF. -/
  | keepRead (who : Requester) (addr : Nat)
  /-- KEEP_PROGRAM, R721. KEEP_CMD PROGRAM writes KEEP_BUF to a page, subject to protection and the hold-up check. -/
  | keepProgram (who : Requester) (addr adc : Nat)
  /-- KEEP_ERASE, R721. KEEP_CMD ERASE clears a 64 KiB sector, subject to protection and the hold-up check. -/
  | keepErase (who : Requester) (addr adc : Nat)
  /-- KEEP_OPERATION_COMPLETE, R730. A keep-flash operation ends, reporting OK or FLASHERR. -/
  | keepOperationComplete (good : Bool) (adc : Nat)
  /-- LOG_PAGE_PROGRAM, R722. A full log-tail page, or one 10 ms old, is programmed into keep flash. -/
  | logPageProgram (adc : List Nat)
  /-- LOG_PAGE_RETRY, R722. Each millisecond a refused log-tail page is retried. -/
  | logPageRetry (adc : List Nat)
  /-- PWR_FAIL, R724. PWR_FAIL_N asserted for 10 µs logs POWERFAIL, refuses new KEEP commands and programs pending log
  pages. -/
  | pwrFail (adc : List Nat)
  /-- HBM_PATROL, R706. Each HBM controller patrols its region, correcting and poisoning blocks. -/
  | hbmPatrol (h blk : Nat) (event : Option Bool)
  /-- SETADDR, R750. The SMBus SETADDR command sets the target's pointer. -/
  | setaddr (addr : Nat) (pec : Bool)
  /-- READ32, R750. The SMBus READ32 command returns status and 4 bytes from the pointer. -/
  | read32
  /-- READ64, R750. The SMBus READ64 command returns status and an atomic 8-byte read. -/
  | read64
  /-- WRITE32, R750. The SMBus WRITE32 command writes 4 bytes to the pointer, as judged by R751. -/
  | write32 (val : Word32) (pec : Bool)
  /-- WRITE64, R750. The SMBus WRITE64 command writes 8 bytes to the pointer. -/
  | write64 (val : Word64) (pec : Bool)
  /-- LASTST, R750. The SMBus LASTST command returns the status of the latest write. -/
  | lastst
  /-- SMBUS_TIMEOUT, R747. SMB_SCL held low for 25 to 35 ms resets the target's state, changing nothing. -/
  | smbusTimeout
  /-- MAIN_RAIL_LOSS, R764. The package's main rails leave range or are removed, stopping the hub clock and everything
  outside the drone domain. -/
  | mainRailLoss
  /-- ALWAYS_ON_RAIL_LOSS, R547. The always-on rail falls, losing drone time, the trouble log and DMP_STATUS. -/
  | alwaysOnRailLoss
  /-- PWR_FAIL_RELEASE, R724. PWR_FAIL_N is released and the drone accepts host KEEP commands again. -/
  | pwrFailRelease
  /-- HOST_RESET_COMPLETE, R530. A host reset finishes within 100 ms and configuration requests stop completing with
  Request Retry Status. -/
  | hostResetComplete
  /-- FLR_COMPLETE, R531. A VF's Function Level Reset completes, ending the under-FLR refusals of its rings and
  HIF_VFMAP writes. -/
  | flrComplete (vf : Nat)
  /-- FLL_RETARGET_COMPLETE, R549. A bore's FLL reaches its new step and the bore runs at the new frequency. -/
  | fllRetargetComplete (b : Nat)
  /-- DRONE_TICK, R547. One REFCLK_25 cycle adds 1 to DRN_TIME. -/
  | droneTick
  /-- BOUNDARY_SCAN, R749. An IEEE 1149.1 TAP operation on the JTAG balls shifts or applies a boundary-scan
  instruction such as EXTEST, HIGHZ or IDCODE. -/
  | boundaryScan (op : TapOp)
  /-- MSIX_VECTOR_UNMASK, R528. Unmasking an MSI-X vector whose pending bit is set sends the pending message and
  clears the bit. -/
  | msixVectorUnmask (fn : Nat) (acc : MsixAccess)
  deriving DecidableEq, Repr

end Sys2Proof
end

