-- ==== Sys2Proof/Decode.lean ====
section
/-!
DEFINITION. Decode.lean: the command that a word of the table's bits spells.  No row of spec/opcode_table.json gives
bits, so no word spells a command.
-/

namespace Sys2Proof

/-- The command that the word `w` of `nbits` bits spells: none, because the table gives no row any bits. -/
def decodeTableWord (_nbits _w : Nat) : Option Instr := none

end Sys2Proof
end

