-- ==== Sys2Proof/Config.lean ====
section
/-!
DEFINITION. Config.lean: what an implementation fixes and what the spec leaves open.  The address map is that of either
part, YK-A64-288 or YK-A64-144 (R2, R8).  A value that the spec leaves open is an opaque constant: nothing can be proved about the value it has.
-/

namespace Sys2Proof

/-- A free value of `w` bits: the `n`th value that the device produces where the spec states none (log 5). -/
opaque Config.freeValue (w n : Nat) : BitVec w

/-- A free result of exact arithmetic, an integer, where the spec states none. -/
opaque Config.freeInt (n : Nat) : Int

/-- SHA-384 over a list of bytes (R594, R606): the standard it names is outside the spec (log 6). -/
opaque Config.sha384 : List Byte → List Byte

/-- Whether a P-384 signature holds for a key and a digest (R594, R606).
(DESIGN CHOICE, log 6.) -/
opaque Config.ecdsaP384 (key digest signature : List Byte) : Bool

/-- Bits 7:0 of the source endpoint of a stage scheduler's and of a health set's messages (R292): no chapter states them
(log 7). -/
opaque Config.stageSender : Nat → BitVec 8

/-- The same of a health set.
(DESIGN CHOICE, log 7.) -/
opaque Config.healthSender : Nat → BitVec 8

/-- The first address above HBM on the larger part, the YK-A64-288 (R8, R34); no part has HBM from here up. -/
def Config.hbmTop : Nat := 0x004800000000

/-- The size of a quadrant's region of HBM (R35): 36 GiB on the YK-A64-144, which `small` names, and 72 GiB on the
YK-A64-288. -/
def Config.region (small : Bool) : Nat := if small then 0x000900000000 else 0x001200000000

/-- The first address above HBM on a part (R8, R34). -/
def Config.hbmEnd (small : Bool) : Nat := if small then 0x002400000000 else 0x004800000000

/-- The first address of the dump window, inside HBM (R8, R34). -/
def Config.dumpBase (small : Bool) : Nat := if small then 0x0023F0000000 else 0x0047F0000000

/-- The size of the dump window (R34, R717). -/
def Config.dumpSize : Nat := 0x10000000

end Sys2Proof
end

