-- ==== Sys2Proof/Machine/Regs.lean ====
section
/-!
DEFINITION. Machine/Regs.lean: every register of the device by its name in the spec, where it lies in its block, its
width, its reset value and the access code of each of its bits (R17), as the register tables of the chapters give
them; and every field by name.  Offsets, widths, reset values and access codes are those of the chapters' tables.
-/

namespace Sys2Proof.Machine

/-- The register blocks of R45 and R46.  `VFR` stands for a virtual function's own registers (R515) and `SYNB` for the
SYN block of a bore, which is separate from the hub's `SYN`. -/
inductive Block
  | DRN | BLW | PRT | CTX | STG | STH | SYN | OVB | CRK | HIF | VFR | EMB | BEL | KEEP | LOG | DMP
  | BORE | CHN | MXA | REED | WCH | LIG | QUE | SYNB
  deriving DecidableEq, Repr

/-- The registers.  A register array is one constructor; its element is named by an index. -/
inductive Reg
  | DRN_DEVID | DRN_QSPARE | DRN_DARKACC | DRN_TIME | DRN_CLKST | DRN_FAB | DRN_FABCFG | DRN_BPCMD
  | DRN_BPCMDST | DRN_BOOT | DRN_BOOTCTL | DRN_SMBST | DRN_DBG | DRN_DBGCMD | DRN_TRAY | DRN_THERM
  | DRN_TCFG | DRN_ALERT | DRN_FAN | DRN_PMB | DRN_DBGNONCE | DRN_DBGTOKEN | DRN_BPCFG | DRN_BPST
  | DRN_STUB | DRN_BCAP
  | BLW_LIMIT | BLW_RESERVE | BLW_CFG | BLW_POOL | BLW_CFGST | BLW_FTAB | BLW_BORE
  | PRT_PCFG | PRT_PSTAT | PRT_CMD | PRT_CMDST | PRT_BCUR | PRT_HSTAT
  | CTX_INVAL | CTX_INVST | CTX_CFG | CTX_ROOT | CTX_SAVE | CTX_QUOTA | CTX_STATE | CTX_LDRES
  | CTX_BORES | CTX_FAULT | CTX_FINFO
  | STG_CFG | STG_CTRL | STG_STATUS | STG_STEP | STG_TAGCNT | STG_ERR | STG_BROUTE | STG_INJECT
  | STG_DROUTEA | STG_DROUTEB | STG_DRSTAT | STG_TAG
  | STH_HBASE | STH_SLOT | STH_RATE | STH_NENT | STH_CNT | STH_ESRC | STH_EDST | STH_ELEN
  | STH_EOFF
  | SYN_PCOUNT | SYN_PDISC | SYN_BCMD | SYN_CFGST | SYN_PBLK | SYN_PVAL | SYN_BCFG | SYN_BSTAT
  | OVB_CFG | OVB_GATE | OVB_GCTL | OVB_NFSTEP | OVB_NFTA | OVB_NFTR | OVB_NFTB | OVB_NFTHR
  | OVB_LOSS | OVB_EMA | OVB_K | OVB_LSTEPS | OVB_MIRROR | OVB_CKPT | OVB_ERR | OVB_HSEL
  | OVB_VROUTEA | OVB_VROUTEB | OVB_VRSTAT | OVB_BBASE | OVB_BCFG | OVB_BCTR | OVB_BSTAT | OVB_SENT
  | OVB_SCUR | OVB_HIST
  | CRK_LOCALID | CRK_CTRL | CRK_CFG | CRK_STATUS | CRK_PEER | CRK_REPLAY | CRK_VLCRED | CRK_ERR
  | CRK_FEC | CRK_IWINA | CRK_IWINB
  | HIF_LINK | HIF_B4BASE | HIF_ARB | HIF_ERR | HIF_CFGST | HIF_IRQSRC | HIF_VFMAP | HIF_CTXH
  | HIF_HRING | HIF_DBR
  | HIF_VCMD | HIF_VCMDST
  | EMB_STBASE | EMB_SCMD | EMB_SCMDST | EMB_SINFO | EMB_ERR | EMB_CFGST | EMB_PCFG | EMB_PCTL
  | EMB_PSTAT | EMB_PCNT | EMB_PFRAME | EMB_FROUTE | EMB_FRSTAT
  | BEL_ERR | BEL_PCTL | BEL_PCFG | BEL_PSTAT | BEL_FCOUNT | BEL_PEVT | BEL_PCNT | BEL_HTIM
  | BEL_VTIM | BEL_PCLK | BEL_DPCFG | BEL_BG | BEL_WBBASE | BEL_WBCFG | BEL_FCBASE | BEL_MLOAD
  | BEL_VADDR | BEL_VCADDR | BEL_VSRC | BEL_VDST | BEL_VCTL | BEL_VM0 | BEL_VM1 | BEL_VM2
  | BEL_GADDR | BEL_GGEOM | BEL_GCTL | BEL_CADDR | BEL_CPOS | BEL_RRECT | BEL_REXP | BEL_RCRC
  | BEL_RFAIL | BEL_HTAP | BEL_VTAP | BEL_FROUTE | BEL_FRSTAT | BEL_DPCTL | BEL_DPSTAT | BEL_AUXCMD
  | BEL_AUXST | BEL_AUXDATA
  | KEEP_CMD | KEEP_ST | KEEP_HOLDUP | KEEP_BUF
  | LOG_HEAD | LOG_CFG | LOG_STAT | LOG_PERS | LOG_KLOSS | LOG_ENTRY
  | DMP_STATUS | DMP_CFG | DMP_CTRL | DMP_TIME | DMP_PRST | DMP_PRSTST | DMP_RBASE | DMP_RLEN
  | BORE_CAP | BORE_SRSEED | BORE_CVTCNT
  | CHN_CTRL | CHN_STATUS | CHN_PC | CHN_FAULT | CHN_FAULTINFO | CHN_CYCLES | CHN_BUNDLES | CHN_STALL
  | CHN_UNITS | CHN_G | CHN_A | CHN_D | CHN_P
  | MXA_STATUS | MXA_DCTRL | MXA_BUSY | MXA_GATED | MXA_BYPACT | MXA_BYPPEND | MXA_CTRES | MXA_BYPCMD
  | REED_FAULT | REED_FAULTDET | REED_DBGSEL | REED_INSNS | REED_PSTALL | REED_RSTAT
  | WCH_CCTRL | WCH_ECC | WCH_BCW | WCH_BCN
  | LIG_CMD | LIG_CMDST | LIG_STAGE | LIG_STAGEMASK | LIG_COUNT | LIG_HDESC | LIG_HMASK
  | QUE_STATUS | QUE_CFGST | QUE_QCTL | QUE_AUDCMD | QUE_AUDRES | QUE_ROT | QUE_QCFG | QUE_QSTAT
  | QUE_QDISC | QUE_ROUTEA | QUE_ROUTEB | QUE_RSTAT
  | SYN_LCVAL | SYN_LCARM | SYN_WSTAT | SYN_LWAIT | SYN_ASLOT
  deriving DecidableEq, Repr

/-- One row of the register map: the block, the offset of element 0 in the block's window, the distance between
elements and how many there are, whether the register has 64 bits, its value after cold reset, and the bits of each access
code of R17 (every other bit is RO or reserved). -/
structure RegInfo where
  blk    : Block
  off    : Nat
  stride : Nat
  count  : Nat
  wide   : Bool
  rst    : Word64
  rw     : Word64
  rws    : Word64
  w1c    : Word64
  rc     : Word64
  wo     : Word64
  deriving DecidableEq, Repr

/-- The register map (R17 and the register tables of the chapters).
(DESIGN CHOICE, log 29.) -/
def Reg.info : Reg → RegInfo
  | .DRN_DEVID => ⟨.DRN, 0, 0, 1, false, 0xA6420200, 0, 0, 0, 0, 0⟩
  | .DRN_QSPARE => ⟨.DRN, 8, 0, 1, false, 0, 0, 0, 0, 0, 0⟩
  | .DRN_DARKACC => ⟨.DRN, 0x10, 0, 1, false, 0, 0, 0, 0, 0xFFFF, 0⟩
  | .DRN_TIME => ⟨.DRN, 0x20, 0, 1, true, 0, 0, 0, 0, 0, 0⟩
  | .DRN_CLKST => ⟨.DRN, 0x28, 0, 1, false, 0, 0, 0, 0x40000000, 0xFFFF, 0⟩
  | .DRN_FAB => ⟨.DRN, 0x30, 0, 1, false, 0, 0, 0, 0, 0, 0⟩
  | .DRN_FABCFG => ⟨.DRN, 0x38, 0, 1, false, 0x14, 0, 0xFFFF, 0, 0, 0⟩
  | .DRN_BPCMD => ⟨.DRN, 0x40, 0, 1, false, 0, 0, 0, 0, 0, 0x73F⟩
  | .DRN_BPCMDST => ⟨.DRN, 0x48, 0, 1, false, 0, 0, 0, 0x40000000, 0, 0⟩
  | .DRN_BOOT => ⟨.DRN, 0x50, 0, 1, true, 0, 0, 0, 0, 0, 0⟩
  | .DRN_BOOTCTL => ⟨.DRN, 0x58, 0, 1, false, 0, 0, 0, 0, 0, 3⟩
  | .DRN_SMBST => ⟨.DRN, 0x60, 0, 1, false, 0x58000000, 0, 0, 0, 0xFFFFFF, 0⟩
  | .DRN_DBG => ⟨.DRN, 0x68, 0, 1, false, 0, 0, 0, 0, 0, 0⟩
  | .DRN_DBGCMD => ⟨.DRN, 0x70, 0, 1, false, 0, 0, 0, 0, 0, 3⟩
  | .DRN_TRAY => ⟨.DRN, 0x78, 0, 1, false, 0, 0, 0xF0003FFF, 0, 0, 0⟩
  | .DRN_THERM => ⟨.DRN, 0x100, 4, 16, false, 0, 0, 0, 0, 0, 0⟩
  | .DRN_TCFG => ⟨.DRN, 0x180, 0, 1, false, 0x735F3A08, 0, 0xFFFFFF, 0, 0, 0⟩
  | .DRN_ALERT => ⟨.DRN, 0x188, 0, 1, false, 0, 0, 0, 0x3F, 0, 0⟩
  | .DRN_FAN => ⟨.DRN, 0x200, 8, 4, true, 0x8064325503E80000, 0xFF000000000000, 0x8000FFFFFFFF0000, 0, 0, 0⟩
  | .DRN_PMB => ⟨.DRN, 0x300, 8, 16, true, 0, 0, 0xC07FFF0000000000, 0x2000000000000000, 0, 0⟩
  | .DRN_DBGNONCE => ⟨.DRN, 0x400, 4, 8, false, 0, 0, 0, 0, 0, 0⟩
  | .DRN_DBGTOKEN => ⟨.DRN, 0x500, 4, 64, false, 0, 0, 0, 0, 0, 0xFFFFFFFF⟩
  | .DRN_BPCFG => ⟨.DRN, 0x1000, 8, 64, false, 0xA, 0, 0xFFFF, 0, 0, 0⟩
  | .DRN_BPST => ⟨.DRN, 0x1400, 8, 64, false, 0x80000000, 0, 0, 0, 0xFFFF, 0⟩
  | .DRN_STUB => ⟨.DRN, 0x1800, 8, 64, true, 0, 0, 0, 0, 0xFFFFFFFFFFFFFFFF, 0⟩
  | .DRN_BCAP => ⟨.DRN, 0x2000, 8, 64, true, 0, 0, 0, 0, 0, 0⟩
  | .BLW_LIMIT => ⟨.BLW, 0, 0, 1, false, 0xFA00FA0, 0, 0xFFFF, 0, 0, 0⟩
  | .BLW_RESERVE => ⟨.BLW, 8, 0, 1, false, 0x320, 0, 0xFFFF, 0, 0, 0⟩
  | .BLW_CFG => ⟨.BLW, 0x10, 0, 1, false, 0x320010, 0, 0xFFFFFFFF, 0, 0, 0⟩
  | .BLW_POOL => ⟨.BLW, 0x18, 0, 1, true, 0xC80, 0, 0, 0, 0, 0⟩
  | .BLW_CFGST => ⟨.BLW, 0x20, 0, 1, false, 0, 0, 0, 0, 0, 0⟩
  | .BLW_FTAB => ⟨.BLW, 0x100, 4, 25, false, 0, 0, 0, 0, 0, 0⟩
  | .BLW_BORE => ⟨.BLW, 0x1000, 4, 64, false, 0xC0000000, 0, 0xF8000000, 0, 0, 0⟩
  | .PRT_PCFG => ⟨.PRT, 0, 16, 16, false, 0, 0x800F0000, 0, 0, 0, 0⟩
  | .PRT_PSTAT => ⟨.PRT, 8, 16, 16, true, 0, 0, 0, 0, 0, 0⟩
  | .PRT_CMD => ⟨.PRT, 0x100, 0, 1, false, 0, 0, 0, 0, 0, 0xFFEF03FF⟩
  | .PRT_CMDST => ⟨.PRT, 0x108, 0, 1, false, 0, 0, 0, 0x40000000, 0, 0⟩
  | .PRT_BCUR => ⟨.PRT, 0x200, 4, 64, false, 0, 0, 0, 0, 0, 0⟩
  | .PRT_HSTAT => ⟨.PRT, 0x300, 8, 16, true, 0, 0, 0, 0, 0xFFFFFFFFFFFF0000, 0⟩
  | .CTX_INVAL => ⟨.CTX, 0, 0, 1, false, 0, 0, 0, 0, 0, 0x3FF⟩
  | .CTX_INVST => ⟨.CTX, 8, 0, 1, false, 0, 0, 0, 0x40000000, 0, 0⟩
  | .CTX_CFG => ⟨.CTX, 0x10000, 128, 1024, true, 0, 0xFC00FFFFFFFFFFC0, 0, 0, 0, 0⟩
  | .CTX_ROOT => ⟨.CTX, 0x10008, 128, 1024, true, 0, 0xFFFFFFFFF000, 0, 0, 0, 0⟩
  | .CTX_SAVE => ⟨.CTX, 0x10010, 128, 1024, true, 0, 0xFFFFFFFFFFC0, 0, 0, 0, 0⟩
  | .CTX_QUOTA => ⟨.CTX, 0x10018, 128, 1024, true, 0, 0x7F007F, 0, 0, 0, 0⟩
  | .CTX_STATE => ⟨.CTX, 0x10020, 128, 1024, true, 0, 0, 0, 0, 0, 0⟩
  | .CTX_LDRES => ⟨.CTX, 0x10028, 128, 1024, true, 0, 0, 0, 0, 0, 0⟩
  | .CTX_BORES => ⟨.CTX, 0x10030, 128, 1024, true, 0, 0, 0, 0, 0, 0⟩
  | .CTX_FAULT => ⟨.CTX, 0x10038, 128, 1024, true, 0, 0, 0, 0, 0, 0⟩
  | .CTX_FINFO => ⟨.CTX, 0x10040, 128, 1024, true, 0, 0, 0, 0, 0, 0⟩
  | .STG_CFG => ⟨.STG, 0, 0, 1, true, 0, 0, 0xF0FFFF3FDFF00000, 0, 0, 0⟩
  | .STG_CTRL => ⟨.STG, 8, 0, 1, false, 0, 0, 0, 0, 0, 7⟩
  | .STG_STATUS => ⟨.STG, 0x10, 0, 1, true, 0, 0, 0, 0, 0, 0⟩
  | .STG_STEP => ⟨.STG, 0x18, 0, 1, false, 0, 0, 0xFFFFFFFF, 0, 0, 0⟩
  | .STG_TAGCNT => ⟨.STG, 0x20, 0, 1, true, 0x100000000000, 0, 0, 0, 0, 0⟩
  | .STG_ERR => ⟨.STG, 0x28, 0, 1, true, 0, 0, 0, 0, 0xFFFFFFFFFFFF, 0⟩
  | .STG_BROUTE => ⟨.STG, 0x30, 0, 1, false, 0, 0, 0x8F0F8F0F, 0, 0, 0⟩
  | .STG_INJECT => ⟨.STG, 0x38, 0, 1, false, 0, 0, 0, 0, 0, 0xFF⟩
  | .STG_DROUTEA => ⟨.STG, 0x100, 16, 64, true, 0, 0, 0xFFFFFFFFFFFF03FF, 0, 0, 0⟩
  | .STG_DROUTEB => ⟨.STG, 0x108, 16, 64, true, 0, 0, 0xBFFFFF0000000000, 0, 0, 0⟩
  | .STG_DRSTAT => ⟨.STG, 0x500, 8, 64, true, 0, 0, 0, 0x4000000000000000, 0xFFFF00000000, 0⟩
  | .STG_TAG => ⟨.STG, 0x1000, 8, 256, true, 0, 0, 0, 0, 0, 0⟩
  | .STH_HBASE => ⟨.STH, 0, 0, 1, true, 0, 0, 0xFFFFFFFFF000, 0, 0, 0⟩
  | .STH_SLOT => ⟨.STH, 8, 0, 1, false, 0, 0, 0xFFFFFF, 0, 0, 0⟩
  | .STH_RATE => ⟨.STH, 0x10, 0, 1, false, 0, 0, 0xFFFF, 0, 0, 0⟩
  | .STH_NENT => ⟨.STH, 0x18, 0, 1, false, 0, 0, 0x1F, 0, 0, 0⟩
  | .STH_CNT => ⟨.STH, 0x20, 0, 1, true, 0, 0, 0, 0, 0xFFFFFFFFFFFFFFFF, 0⟩
  | .STH_ESRC => ⟨.STH, 0x100, 32, 16, true, 0, 0, 0xFFFFFFFFFFFF, 0, 0, 0⟩
  | .STH_EDST => ⟨.STH, 0x108, 32, 16, true, 0, 0, 0xFFFFFFFFFFFF, 0, 0, 0⟩
  | .STH_ELEN => ⟨.STH, 0x110, 32, 16, true, 0, 0, 0xFFFFFFFFFFFFFFFF, 0, 0, 0⟩
  | .STH_EOFF => ⟨.STH, 0x118, 32, 16, true, 0, 0, 0xFFFFFFFFFFFFFFFF, 0, 0, 0⟩
  | .SYN_PCOUNT => ⟨.SYN, 0, 0, 1, false, 0x4000, 0, 0, 0, 0, 0⟩
  | .SYN_PDISC => ⟨.SYN, 8, 0, 1, false, 0, 0, 0, 0, 0xFFFFFFFF, 0⟩
  | .SYN_BCMD => ⟨.SYN, 0x10, 0, 1, false, 0, 0, 0, 0, 0, 0x3FFF⟩
  | .SYN_CFGST => ⟨.SYN, 0x18, 0, 1, false, 0, 0, 0, 0, 0, 0⟩
  | .SYN_PBLK => ⟨.SYN, 0x2000, 4, 1024, false, 0, 0x800003FF, 0, 0, 0, 0⟩
  | .SYN_PVAL => ⟨.SYN, 0x10000, 4, 16384, false, 0, 0xFFFFFFFF, 0, 0, 0, 0⟩
  | .SYN_BCFG => ⟨.SYN, 0x20000, 16, 4096, true, 0, 0x83FF1FFF00000000, 0, 0, 0, 0⟩
  | .SYN_BSTAT => ⟨.SYN, 0x20008, 16, 4096, true, 0, 0, 0, 0, 0, 0⟩
  | .OVB_CFG => ⟨.OVB, 0, 0, 1, true, 0, 0, 0xFFFFF00000000000, 0, 0, 0⟩
  | .OVB_GATE => ⟨.OVB, 8, 0, 1, true, 0, 0, 0, 0, 0, 0⟩
  | .OVB_GCTL => ⟨.OVB, 0x10, 0, 1, false, 0, 0, 0, 0, 0, 7⟩
  | .OVB_NFSTEP => ⟨.OVB, 0x18, 0, 1, true, 0, 0, 0, 0, 0, 0⟩
  | .OVB_NFTA => ⟨.OVB, 0x20, 0, 1, false, 0, 0, 0, 0, 0xFFFFFFFF, 0⟩
  | .OVB_NFTR => ⟨.OVB, 0x24, 0, 1, false, 0, 0, 0, 0, 0xFFFFFFFF, 0⟩
  | .OVB_NFTB => ⟨.OVB, 0x28, 0, 1, false, 0, 0, 0, 0, 0xFFFFFFFF, 0⟩
  | .OVB_NFTHR => ⟨.OVB, 0x30, 0, 1, true, 0, 0, 0xFFFFFFFFFFFF, 0, 0, 0⟩
  | .OVB_LOSS => ⟨.OVB, 0x38, 0, 1, true, 0, 0, 0, 0, 0, 0⟩
  | .OVB_EMA => ⟨.OVB, 0x40, 0, 1, false, 0, 0, 0xFFFFFFFF, 0, 0, 0⟩
  | .OVB_K => ⟨.OVB, 0x44, 0, 1, false, 0, 0, 0xFFFFFFFF, 0, 0, 0⟩
  | .OVB_LSTEPS => ⟨.OVB, 0x48, 0, 1, false, 0, 0, 0xFFFFFFFF, 0, 0, 0⟩
  | .OVB_MIRROR => ⟨.OVB, 0x50, 0, 1, true, 0, 0, 0xFFFFFFFFFC00, 0, 0, 0⟩
  | .OVB_CKPT => ⟨.OVB, 0x58, 0, 1, true, 0, 0, 0xFFFFFFFFFFFFFFFF, 0, 0, 0⟩
  | .OVB_ERR => ⟨.OVB, 0x60, 0, 1, true, 0, 0, 0, 0, 0xFFFFFFFFFFFF, 0⟩
  | .OVB_HSEL => ⟨.OVB, 0x68, 0, 1, false, 0, 0xFF, 0, 0, 0, 0⟩
  | .OVB_VROUTEA => ⟨.OVB, 0x100, 16, 64, true, 0, 0, 0xFFFFFFFFFFFF03FF, 0, 0, 0⟩
  | .OVB_VROUTEB => ⟨.OVB, 0x108, 16, 64, true, 0, 0, 0xBFFFFF0000000000, 0, 0, 0⟩
  | .OVB_VRSTAT => ⟨.OVB, 0x500, 8, 64, true, 0, 0, 0, 0x4000000000000000, 0xFFFF00000000, 0⟩
  | .OVB_BBASE => ⟨.OVB, 0x800, 32, 4, true, 0, 0, 0xFFFFFFFFF000, 0, 0, 0⟩
  | .OVB_BCFG => ⟨.OVB, 0x808, 32, 4, true, 0, 0, 0xFFE000000001FFFF, 0, 0, 0⟩
  | .OVB_BCTR => ⟨.OVB, 0x810, 32, 4, true, 0, 0, 0xFFFFFC0000000000, 0, 0, 0⟩
  | .OVB_BSTAT => ⟨.OVB, 0x818, 32, 4, true, 0, 0, 0, 0, 0, 0⟩
  | .OVB_SENT => ⟨.OVB, 0x1000, 8, 256, true, 0, 0, 0x8FFFFFE0F00000FF, 0, 0, 0⟩
  | .OVB_SCUR => ⟨.OVB, 0x1800, 4, 256, false, 0, 0, 0, 0, 0, 0⟩
  | .OVB_HIST => ⟨.OVB, 0x2000, 4, 0, false, 0, 0, 0xFFFFFFFF, 0, 0, 0⟩
  | .CRK_LOCALID => ⟨.CRK, 0, 0, 1, false, 0, 0, 0xFFFFFFFF, 0, 0, 0⟩
  | .CRK_CTRL => ⟨.CRK, 0, 0, 1, false, 0, 0, 1, 0, 0, 6⟩
  | .CRK_CFG => ⟨.CRK, 8, 0, 1, false, 0x1110, 0, 0x1FFFFF0, 0, 0, 0⟩
  | .CRK_STATUS => ⟨.CRK, 0x10, 0, 1, false, 0, 0, 0, 0x1000000, 0, 0⟩
  | .CRK_PEER => ⟨.CRK, 0x18, 0, 1, true, 0, 0, 0, 0, 0, 0⟩
  | .CRK_REPLAY => ⟨.CRK, 0x20, 0, 1, true, 0, 0, 0, 0, 0, 0⟩
  | .CRK_VLCRED => ⟨.CRK, 0x28, 0, 1, true, 0, 0, 0, 0, 0, 0⟩
  | .CRK_ERR => ⟨.CRK, 0x30, 0, 1, true, 0, 0, 0, 0, 0xFFFFFFFFFFFFFFFF, 0⟩
  | .CRK_FEC => ⟨.CRK, 0x38, 0, 1, true, 0, 0, 0, 0, 0xFFFFFFFFFFFFFFFF, 0⟩
  | .CRK_IWINA => ⟨.CRK, 0x100, 16, 8, true, 0, 0, 0xFFF0FFFFFFFFF000, 0, 0, 0⟩
  | .CRK_IWINB => ⟨.CRK, 0x108, 16, 8, true, 0, 0, 0x70F0FFFFFFF, 0, 0, 0⟩
  | .HIF_LINK => ⟨.HIF, 0, 0, 1, false, 0, 0, 0, 0, 0, 0⟩
  | .HIF_B4BASE => ⟨.HIF, 8, 0, 1, true, 0, 0, 0xFFFFF0000000, 0, 0, 0⟩
  | .HIF_ARB => ⟨.HIF, 0x10, 0, 1, false, 0x441, 0xFFF, 0, 0, 0, 0⟩
  | .HIF_ERR => ⟨.HIF, 0x18, 0, 1, true, 0, 0, 0, 0, 0xFFFFFFFFFFFFFFFF, 0⟩
  | .HIF_CFGST => ⟨.HIF, 0x20, 0, 1, false, 0, 0, 0, 0, 0, 0⟩
  | .HIF_IRQSRC => ⟨.HIF, 0x100, 4, 256, false, 0, 0x800007FF, 0, 0x40000000, 0, 0⟩
  | .HIF_VFMAP => ⟨.HIF, 0x1000, 4, 256, false, 0, 0x7F03FF, 0, 0, 0, 0⟩
  | .HIF_CTXH => ⟨.HIF, 0x2000, 8, 1024, true, 0, 0x87FF07FF003F0000, 0, 0, 0, 0⟩
  | .HIF_HRING => ⟨.HIF, 0x4000, 8, 2048, true, 0, 0xFFFF7FFFFFFFF000, 0, 0, 0, 0⟩
  | .HIF_DBR => ⟨.HIF, 0x10000, 8, 8192, true, 0, 0xBFF8FF00000003FF, 0, 0, 0, 0⟩
  | .HIF_VCMD => ⟨.VFR, 0x100, 0, 1, false, 0, 0, 0, 0, 0, 0xF000003F⟩
  | .HIF_VCMDST => ⟨.VFR, 0x108, 0, 1, false, 0, 0, 0, 0x40000000, 0, 0⟩
  | .EMB_STBASE => ⟨.EMB, 0, 0, 1, true, 0, 0, 0xFFFFFFF00000, 0, 0, 0⟩
  | .EMB_SCMD => ⟨.EMB, 8, 0, 1, false, 0, 0, 0, 0, 0, 0xF0003FFF⟩
  | .EMB_SCMDST => ⟨.EMB, 0x10, 0, 1, false, 0, 0, 0, 0x40000000, 0, 0⟩
  | .EMB_SINFO => ⟨.EMB, 0x18, 0, 1, true, 0, 0, 0, 0, 0, 0⟩
  | .EMB_ERR => ⟨.EMB, 0x20, 0, 1, false, 0, 0, 0, 0, 0xFFFF, 0⟩
  | .EMB_CFGST => ⟨.EMB, 0x28, 0, 1, false, 0, 0, 0, 0, 0, 0⟩
  | .EMB_PCFG => ⟨.EMB, 0x1000, 64, 16, true, 0x108800000, 0, 0xFF9FFFC000FF, 0, 0, 0⟩
  | .EMB_PCTL => ⟨.EMB, 0x1008, 64, 16, false, 0, 0, 0, 0, 0, 7⟩
  | .EMB_PSTAT => ⟨.EMB, 0x1010, 64, 16, true, 0, 0, 0, 0xFC, 0, 0⟩
  | .EMB_PCNT => ⟨.EMB, 0x1018, 64, 16, true, 0, 0, 0, 0, 0xFFFFFFFFFFFF0000, 0⟩
  | .EMB_PFRAME => ⟨.EMB, 0x1020, 64, 16, false, 0, 0, 0, 0, 0, 0⟩
  | .EMB_FROUTE => ⟨.EMB, 0x2000, 16, 256, true, 0, 0, 0xCFFFFFFF800003FF, 0, 0, 0⟩
  | .EMB_FRSTAT => ⟨.EMB, 0x2008, 16, 256, true, 0, 0, 0, 0x8000000000000000, 0xFFFFFFFF0000, 0⟩
  | .BEL_ERR => ⟨.BEL, 0, 0, 1, false, 0, 0, 0, 0, 0xFFFF, 0⟩
  | .BEL_PCTL => ⟨.BEL, 0, 0, 1, false, 0, 0, 0, 0, 0, 0x3B⟩
  | .BEL_PCFG => ⟨.BEL, 8, 0, 1, true, 0, 0, 0xFFE0000000000000, 0, 0, 0⟩
  | .BEL_PSTAT => ⟨.BEL, 0x10, 0, 1, true, 0, 0, 0, 0, 0, 0⟩
  | .BEL_FCOUNT => ⟨.BEL, 0x18, 0, 1, false, 0, 0, 0, 0, 0, 0⟩
  | .BEL_PEVT => ⟨.BEL, 0x20, 0, 1, false, 0, 0, 0, 0x3F, 0, 0⟩
  | .BEL_PCNT => ⟨.BEL, 0x28, 0, 1, true, 0, 0, 0, 0, 0xFFFFFFFFFFFFFFFF, 0⟩
  | .BEL_HTIM => ⟨.BEL, 0x40, 0, 1, true, 0, 0, 0xFFFFFFFFFFFFFFFF, 0, 0, 0⟩
  | .BEL_VTIM => ⟨.BEL, 0x48, 0, 1, true, 0, 0, 0xFFFFFFFFFFFFFFFF, 0, 0, 0⟩
  | .BEL_PCLK => ⟨.BEL, 0x50, 0, 1, false, 0, 0, 0xC00FFFFF, 0, 0, 0⟩
  | .BEL_DPCFG => ⟨.BEL, 0x58, 0, 1, false, 0, 0, 0x1F, 0, 0, 0⟩
  | .BEL_BG => ⟨.BEL, 0x60, 0, 1, false, 0, 0xFFFFFF, 0, 0, 0, 0⟩
  | .BEL_WBBASE => ⟨.BEL, 0x68, 0, 1, true, 0, 0xFFFFFFFFFFC0, 0, 0, 0, 0⟩
  | .BEL_WBCFG => ⟨.BEL, 0x70, 0, 1, true, 0, 0x8000000FFFFFFFC0, 0, 0, 0, 0⟩
  | .BEL_FCBASE => ⟨.BEL, 0x78, 0, 1, true, 0, 0xFFFFFFFFFFC0, 0, 0, 0, 0⟩
  | .BEL_MLOAD => ⟨.BEL, 0x80, 0, 1, false, 0, 0, 0, 0, 0, 0x307⟩
  | .BEL_VADDR => ⟨.BEL, 0x100, 64, 4, true, 0, 0xFFFFFFFFFFC0, 0, 0, 0, 0⟩
  | .BEL_VCADDR => ⟨.BEL, 0x108, 64, 4, true, 0, 0xFFFFFFFFFFC0, 0, 0, 0, 0⟩
  | .BEL_VSRC => ⟨.BEL, 0x110, 64, 4, true, 0, 0xFFFF0000FFFFFFFF, 0, 0, 0, 0⟩
  | .BEL_VDST => ⟨.BEL, 0x118, 64, 4, true, 0, 0xFFFFFFFFFFFFFFFF, 0, 0, 0, 0⟩
  | .BEL_VCTL => ⟨.BEL, 0x120, 64, 4, true, 0, 0xEFFFF00000000000, 0, 0, 0, 0⟩
  | .BEL_VM0 => ⟨.BEL, 0x128, 64, 4, true, 0, 0xFFFFFFFFFFFFFFFF, 0, 0, 0, 0⟩
  | .BEL_VM1 => ⟨.BEL, 0x130, 64, 4, true, 0, 0xFFFFFFFFFFFFFFFF, 0, 0, 0, 0⟩
  | .BEL_VM2 => ⟨.BEL, 0x138, 64, 4, true, 0, 0xFFFFFFFFFFFFFFFF, 0, 0, 0, 0⟩
  | .BEL_GADDR => ⟨.BEL, 0x200, 32, 8, true, 0, 0xFFFFFFFFFFC0, 0, 0, 0, 0⟩
  | .BEL_GGEOM => ⟨.BEL, 0x208, 32, 8, true, 0, 0xFFFFFFFFFFFFFFFF, 0, 0, 0, 0⟩
  | .BEL_GCTL => ⟨.BEL, 0x210, 32, 8, true, 0, 0xEFFFF0FFFFFFFFFF, 0, 0, 0, 0⟩
  | .BEL_CADDR => ⟨.BEL, 0x300, 0, 1, true, 0, 0xFFFFFFFFFFC0, 0, 0, 0, 0⟩
  | .BEL_CPOS => ⟨.BEL, 0x308, 0, 1, true, 0, 0x800000001FFF1FFF, 0, 0, 0, 0⟩
  | .BEL_RRECT => ⟨.BEL, 0x400, 16, 16, true, 0, 0xFFFFFFFFFFFFFFFF, 0, 0, 0, 0⟩
  | .BEL_REXP => ⟨.BEL, 0x408, 16, 16, true, 0, 0x3FFFFFFFF, 0, 0, 0, 0⟩
  | .BEL_RCRC => ⟨.BEL, 0x500, 16, 16, true, 0, 0, 0, 0x8000000000000000, 0xFFFF00000000, 0⟩
  | .BEL_RFAIL => ⟨.BEL, 0x508, 16, 16, false, 0, 0, 0, 0, 0, 0⟩
  | .BEL_HTAP => ⟨.BEL, 0x800, 8, 64, true, 0, 0x0FFF0FFF0FFF0FFF, 0, 0, 0, 0⟩
  | .BEL_VTAP => ⟨.BEL, 0xA00, 8, 64, true, 0, 0x0FFF0FFF0FFF0FFF, 0, 0, 0, 0⟩
  | .BEL_FROUTE => ⟨.BEL, 0xC00, 0, 1, true, 0, 0, 0xCFFFFFFF800003FF, 0, 0, 0⟩
  | .BEL_FRSTAT => ⟨.BEL, 0xC08, 0, 1, true, 0, 0, 0, 0x8000000000000000, 0xFFFFFFFF0000, 0⟩
  | .BEL_DPCTL => ⟨.BEL, 0xE00, 0, 1, false, 0, 0, 0, 0, 0, 1⟩
  | .BEL_DPSTAT => ⟨.BEL, 0xE08, 0, 1, false, 0, 0, 0, 0x70000000, 0, 0⟩
  | .BEL_AUXCMD => ⟨.BEL, 0xE10, 0, 1, false, 0, 0, 0, 0, 0, 0xFFFFFF0F⟩
  | .BEL_AUXST => ⟨.BEL, 0xE18, 0, 1, false, 0, 0, 0, 0, 0, 0⟩
  | .BEL_AUXDATA => ⟨.BEL, 0xE20, 4, 4, false, 0, 0xFFFFFFFF, 0, 0, 0, 0⟩
  | .KEEP_CMD => ⟨.KEEP, 0, 0, 1, false, 0, 0, 0, 0, 0, 0xF3FFFFFF⟩
  | .KEEP_ST => ⟨.KEEP, 8, 0, 1, false, 0, 0, 0, 0x40000000, 0, 0⟩
  | .KEEP_HOLDUP => ⟨.KEEP, 0x10, 0, 1, true, 0, 0, 0, 0, 0, 0⟩
  | .KEEP_BUF => ⟨.KEEP, 0x100, 4, 64, false, 0, 0xFFFFFFFF, 0, 0, 0, 0⟩
  | .LOG_HEAD => ⟨.LOG, 0, 0, 1, false, 0, 0, 0, 0, 0, 0⟩
  | .LOG_CFG => ⟨.LOG, 8, 0, 1, false, 0x22, 0, 0x77, 0, 0, 0⟩
  | .LOG_STAT => ⟨.LOG, 0x10, 0, 1, true, 0, 0, 0, 0, 0xFFFFFFFFFFFF0000, 0⟩
  | .LOG_PERS => ⟨.LOG, 0x18, 0, 1, true, 0, 0, 0, 0, 0, 0⟩
  | .LOG_KLOSS => ⟨.LOG, 0x100, 8, 12, true, 0, 0, 0, 0, 0xFFFFFFFFFFFFFFFF, 0⟩
  | .LOG_ENTRY => ⟨.LOG, 0x10000, 4, 32768, false, 0, 0, 0, 0, 0, 0⟩
  | .DMP_STATUS => ⟨.DMP, 0, 0, 1, true, 0, 0, 0xFE00FFFFFFFF0000, 0, 0, 0⟩
  | .DMP_CFG => ⟨.DMP, 8, 0, 1, false, 1, 0, 3, 0, 0, 0⟩
  | .DMP_CTRL => ⟨.DMP, 0x10, 0, 1, false, 0, 0, 0, 0, 0, 3⟩
  | .DMP_TIME => ⟨.DMP, 0x18, 0, 1, true, 0, 0, 0xFFFFFFFFFFFFFFFF, 0, 0, 0⟩
  | .DMP_PRST => ⟨.DMP, 0x20, 0, 1, false, 0, 0, 0, 0, 0, 0xF000000F⟩
  | .DMP_PRSTST => ⟨.DMP, 0x28, 0, 1, false, 0, 0, 0, 0x40000000, 0, 0⟩
  | .DMP_RBASE => ⟨.DMP, 0x100, 16, 16, true, 0, 0, 0xFFFFFFFFF000, 0, 0, 0⟩
  | .DMP_RLEN => ⟨.DMP, 0x108, 16, 16, true, 0, 0, 0x800000000000FFFF, 0, 0, 0⟩
  | .BORE_CAP => ⟨.BORE, 0, 0, 1, true, 0x100800050402000, 0, 0, 0, 0, 0⟩
  | .BORE_SRSEED => ⟨.BORE, 0x100, 0, 1, true, 0, 0xFFFFFFFFFFFFFFFF, 0, 0, 0, 0⟩
  | .BORE_CVTCNT => ⟨.BORE, 0x108, 0, 1, false, 0, 0, 0, 0, 0xFFFFFFFF, 0⟩
  | .CHN_CTRL => ⟨.CHN, 0, 0, 1, false, 0, 0, 0, 0, 0, 0x1F⟩
  | .CHN_STATUS => ⟨.CHN, 8, 0, 1, false, 0, 0, 0, 0x30, 0, 0⟩
  | .CHN_PC => ⟨.CHN, 0x10, 0, 1, false, 0, 0x1FFF, 0, 0, 0, 0⟩
  | .CHN_FAULT => ⟨.CHN, 0x18, 0, 1, true, 0, 0, 0, 0, 0, 0⟩
  | .CHN_FAULTINFO => ⟨.CHN, 0x20, 0, 1, true, 0, 0, 0, 0, 0, 0⟩
  | .CHN_CYCLES => ⟨.CHN, 0x28, 0, 1, true, 0, 0, 0, 0, 0, 0⟩
  | .CHN_BUNDLES => ⟨.CHN, 0x30, 0, 1, true, 0, 0, 0, 0, 0, 0⟩
  | .CHN_STALL => ⟨.CHN, 0x38, 0, 1, true, 0, 0, 0, 0, 0, 0⟩
  | .CHN_UNITS => ⟨.CHN, 0x40, 0, 1, false, 0, 0, 0, 0, 0, 0⟩
  | .CHN_G => ⟨.CHN, 0x1000, 8, 64, true, 0, 0xFFFFFFFFFFFFFFFF, 0, 0, 0, 0⟩
  | .CHN_A => ⟨.CHN, 0x1200, 8, 16, true, 0, 0xFFFFFFFFFFFF, 0, 0, 0, 0⟩
  | .CHN_D => ⟨.CHN, 0x1400, 8, 128, true, 0, 0xFFFFFFFFFFFFFFFF, 0, 0, 0, 0⟩
  | .CHN_P => ⟨.CHN, 0x1800, 0, 1, false, 1, 0xFE, 0, 0, 0, 0⟩
  | .MXA_STATUS => ⟨.MXA, 0, 0, 1, false, 0, 0, 0, 0x300, 0, 0⟩
  | .MXA_DCTRL => ⟨.MXA, 8, 0, 1, false, 0, 0xFF, 0, 0, 0, 0⟩
  | .MXA_BUSY => ⟨.MXA, 0x10, 0, 1, true, 0, 0, 0, 0, 0xFFFFFFFFFFFFFFFF, 0⟩
  | .MXA_GATED => ⟨.MXA, 0x18, 0, 1, true, 0, 0, 0, 0, 0xFFFFFFFFFFFFFFFF, 0⟩
  | .MXA_BYPACT => ⟨.MXA, 0x20, 8, 2, true, 0, 0, 0, 0, 0, 0⟩
  | .MXA_BYPPEND => ⟨.MXA, 0x30, 8, 2, true, 0, 0xFFFFFFFFFFFFFFFF, 0, 0, 0, 0⟩
  | .MXA_CTRES => ⟨.MXA, 0x40, 8, 2, true, 0, 0, 0, 0, 0, 0⟩
  | .MXA_BYPCMD => ⟨.MXA, 0x50, 0, 1, false, 0, 0, 0, 0, 0, 3⟩
  | .REED_FAULT => ⟨.REED, 0, 0, 1, true, 0, 0, 0, 0, 0, 0⟩
  | .REED_FAULTDET => ⟨.REED, 8, 0, 1, false, 0, 0, 0, 0, 0, 0⟩
  | .REED_DBGSEL => ⟨.REED, 0x10, 0, 1, false, 0, 0x1FFF, 0, 0x8000, 0, 0⟩
  | .REED_INSNS => ⟨.REED, 0x20, 0, 1, true, 0, 0, 0, 0, 0xFFFFFFFFFFFFFFFF, 0⟩
  | .REED_PSTALL => ⟨.REED, 0x28, 0, 1, true, 0, 0, 0, 0, 0xFFFFFFFFFFFFFFFF, 0⟩
  | .REED_RSTAT => ⟨.REED, 0x100, 4, 80, false, 0, 0, 0, 0, 0, 0⟩
  | .WCH_CCTRL => ⟨.WCH, 0, 0, 1, false, 0, 1, 0, 0, 0, 2⟩
  | .WCH_ECC => ⟨.WCH, 8, 0, 1, false, 0, 0, 0, 0, 0xFFFFFFFF, 0⟩
  | .WCH_BCW => ⟨.WCH, 0x1000, 16, 64, true, 0, 0, 0, 0, 0xFFFFFFFFFFFFFFFF, 0⟩
  | .WCH_BCN => ⟨.WCH, 0x1008, 16, 64, true, 0, 0, 0, 0, 0xFFFFFFFFFFFFFFFF, 0⟩
  | .LIG_CMD => ⟨.LIG, 0, 0, 1, false, 0, 0, 0, 0, 0, 0x73F⟩
  | .LIG_CMDST => ⟨.LIG, 8, 0, 1, false, 0, 0, 0, 0x40000000, 0, 0⟩
  | .LIG_STAGE => ⟨.LIG, 0x10, 0, 1, true, 0, 0x7FF0003FFFF, 0, 0, 0, 0⟩
  | .LIG_STAGEMASK => ⟨.LIG, 0x18, 0, 1, true, 0, 0xFFFFFFFFFFFFFFFF, 0, 0, 0, 0⟩
  | .LIG_COUNT => ⟨.LIG, 0x20, 0, 1, false, 0x40, 0, 0, 0, 0, 0⟩
  | .LIG_HDESC => ⟨.LIG, 0x1000, 16, 64, true, 0, 0, 0, 0, 0, 0⟩
  | .LIG_HMASK => ⟨.LIG, 0x1008, 16, 64, true, 0, 0, 0, 0, 0, 0⟩
  | .QUE_STATUS => ⟨.QUE, 0, 0, 1, false, 0, 0, 0, 0, 0, 0⟩
  | .QUE_CFGST => ⟨.QUE, 8, 0, 1, false, 0, 0, 0, 0, 0, 0⟩
  | .QUE_QCTL => ⟨.QUE, 0x10, 0, 1, false, 0, 0, 0, 0, 0, 0x31F⟩
  | .QUE_AUDCMD => ⟨.QUE, 0x18, 0, 1, false, 0, 0, 0, 0, 0, 0xFF⟩
  | .QUE_AUDRES => ⟨.QUE, 0x20, 0, 1, true, 0, 0, 0, 0x4000000000000000, 0, 0⟩
  | .QUE_ROT => ⟨.QUE, 0x28, 0, 1, false, 0x1F, 0, 0, 0, 0, 0⟩
  | .QUE_QCFG => ⟨.QUE, 0x1000, 16, 32, true, 0, 0, 0x6FFFCFFFFF000000, 0, 0, 0⟩
  | .QUE_QSTAT => ⟨.QUE, 0x1008, 16, 32, true, 0x4000000000000000, 0, 0, 0, 0, 0⟩
  | .QUE_QDISC => ⟨.QUE, 0x1400, 8, 32, true, 0, 0, 0, 0, 0xFFFFFFFFFFFFFFFF, 0⟩
  | .QUE_ROUTEA => ⟨.QUE, 0x2000, 16, 256, true, 0, 0, 0xFFFFFFFFFFFF03FF, 0, 0, 0⟩
  | .QUE_ROUTEB => ⟨.QUE, 0x2008, 16, 256, true, 0, 0, 0xBFFFFF0000000000, 0, 0, 0⟩
  | .QUE_RSTAT => ⟨.QUE, 0x3000, 8, 256, true, 0, 0, 0, 0x4000000000000000, 0xFFFF00000000, 0⟩
  | .SYN_LCVAL => ⟨.SYNB, 0, 4, 48, false, 0, 0xFFFFFFFF, 0, 0, 0, 0⟩
  | .SYN_LCARM => ⟨.SYNB, 0x100, 8, 48, true, 0, 0x80000000FFFFFFFF, 0, 0x4000000000000000, 0, 0⟩
  | .SYN_WSTAT => ⟨.SYNB, 0x300, 0, 1, false, 0, 0, 0, 0, 0, 0⟩
  | .SYN_LWAIT => ⟨.SYNB, 0x308, 0, 1, true, 0, 0, 0, 0, 0xFFFFFFFFFFFFFFFF, 0⟩
  | .SYN_ASLOT => ⟨.SYNB, 0x380, 8, 8, true, 0, 0, 0, 0, 0, 0⟩

/-- The registers of a block. -/
def Block.regs : Block → List Reg
  | .DRN => [.DRN_DEVID, .DRN_QSPARE, .DRN_DARKACC, .DRN_TIME, .DRN_CLKST, .DRN_FAB, .DRN_FABCFG, .DRN_BPCMD]
      ++ [.DRN_BPCMDST, .DRN_BOOT, .DRN_BOOTCTL, .DRN_SMBST, .DRN_DBG, .DRN_DBGCMD, .DRN_TRAY, .DRN_THERM]
      ++ [.DRN_TCFG, .DRN_ALERT, .DRN_FAN, .DRN_PMB, .DRN_DBGNONCE, .DRN_DBGTOKEN, .DRN_BPCFG, .DRN_BPST]
      ++ [.DRN_STUB, .DRN_BCAP]
  | .BLW => [.BLW_LIMIT, .BLW_RESERVE, .BLW_CFG, .BLW_POOL, .BLW_CFGST, .BLW_FTAB, .BLW_BORE]
  | .PRT => [.PRT_PCFG, .PRT_PSTAT, .PRT_CMD, .PRT_CMDST, .PRT_BCUR, .PRT_HSTAT]
  | .CTX => [.CTX_INVAL, .CTX_INVST, .CTX_CFG, .CTX_ROOT, .CTX_SAVE, .CTX_QUOTA, .CTX_STATE, .CTX_LDRES]
      ++ [.CTX_BORES, .CTX_FAULT, .CTX_FINFO]
  | .STG => [.STG_CFG, .STG_CTRL, .STG_STATUS, .STG_STEP, .STG_TAGCNT, .STG_ERR, .STG_BROUTE, .STG_INJECT]
      ++ [.STG_DROUTEA, .STG_DROUTEB, .STG_DRSTAT, .STG_TAG]
  | .STH => [.STH_HBASE, .STH_SLOT, .STH_RATE, .STH_NENT, .STH_CNT, .STH_ESRC, .STH_EDST, .STH_ELEN]
      ++ [.STH_EOFF]
  | .SYN => [.SYN_PCOUNT, .SYN_PDISC, .SYN_BCMD, .SYN_CFGST, .SYN_PBLK, .SYN_PVAL, .SYN_BCFG, .SYN_BSTAT]
  | .OVB => [.OVB_CFG, .OVB_GATE, .OVB_GCTL, .OVB_NFSTEP, .OVB_NFTA, .OVB_NFTR, .OVB_NFTB, .OVB_NFTHR]
      ++ [.OVB_LOSS, .OVB_EMA, .OVB_K, .OVB_LSTEPS, .OVB_MIRROR, .OVB_CKPT, .OVB_ERR, .OVB_HSEL]
      ++ [.OVB_VROUTEA, .OVB_VROUTEB, .OVB_VRSTAT, .OVB_BBASE, .OVB_BCFG, .OVB_BCTR, .OVB_BSTAT, .OVB_SENT]
      ++ [.OVB_SCUR, .OVB_HIST]
  | .CRK => [.CRK_LOCALID, .CRK_CTRL, .CRK_CFG, .CRK_STATUS, .CRK_PEER, .CRK_REPLAY, .CRK_VLCRED, .CRK_ERR]
      ++ [.CRK_FEC, .CRK_IWINA, .CRK_IWINB]
  | .HIF => [.HIF_LINK, .HIF_B4BASE, .HIF_ARB, .HIF_ERR, .HIF_CFGST, .HIF_IRQSRC, .HIF_VFMAP, .HIF_CTXH]
      ++ [.HIF_HRING, .HIF_DBR]
  | .VFR => [.HIF_VCMD, .HIF_VCMDST]
  | .EMB => [.EMB_STBASE, .EMB_SCMD, .EMB_SCMDST, .EMB_SINFO, .EMB_ERR, .EMB_CFGST, .EMB_PCFG, .EMB_PCTL]
      ++ [.EMB_PSTAT, .EMB_PCNT, .EMB_PFRAME, .EMB_FROUTE, .EMB_FRSTAT]
  | .BEL => [.BEL_ERR, .BEL_PCTL, .BEL_PCFG, .BEL_PSTAT, .BEL_FCOUNT, .BEL_PEVT, .BEL_PCNT, .BEL_HTIM]
      ++ [.BEL_VTIM, .BEL_PCLK, .BEL_DPCFG, .BEL_BG, .BEL_WBBASE, .BEL_WBCFG, .BEL_FCBASE, .BEL_MLOAD]
      ++ [.BEL_VADDR, .BEL_VCADDR, .BEL_VSRC, .BEL_VDST, .BEL_VCTL, .BEL_VM0, .BEL_VM1, .BEL_VM2]
      ++ [.BEL_GADDR, .BEL_GGEOM, .BEL_GCTL, .BEL_CADDR, .BEL_CPOS, .BEL_RRECT, .BEL_REXP, .BEL_RCRC]
      ++ [.BEL_RFAIL, .BEL_HTAP, .BEL_VTAP, .BEL_FROUTE, .BEL_FRSTAT, .BEL_DPCTL, .BEL_DPSTAT, .BEL_AUXCMD]
      ++ [.BEL_AUXST, .BEL_AUXDATA]
  | .KEEP => [.KEEP_CMD, .KEEP_ST, .KEEP_HOLDUP, .KEEP_BUF]
  | .LOG => [.LOG_HEAD, .LOG_CFG, .LOG_STAT, .LOG_PERS, .LOG_KLOSS, .LOG_ENTRY]
  | .DMP => [.DMP_STATUS, .DMP_CFG, .DMP_CTRL, .DMP_TIME, .DMP_PRST, .DMP_PRSTST, .DMP_RBASE, .DMP_RLEN]
  | .BORE => [.BORE_CAP, .BORE_SRSEED, .BORE_CVTCNT]
  | .CHN => [.CHN_CTRL, .CHN_STATUS, .CHN_PC, .CHN_FAULT, .CHN_FAULTINFO, .CHN_CYCLES, .CHN_BUNDLES, .CHN_STALL]
      ++ [.CHN_UNITS, .CHN_G, .CHN_A, .CHN_D, .CHN_P]
  | .MXA => [.MXA_STATUS, .MXA_DCTRL, .MXA_BUSY, .MXA_GATED, .MXA_BYPACT, .MXA_BYPPEND, .MXA_CTRES, .MXA_BYPCMD]
  | .REED => [.REED_FAULT, .REED_FAULTDET, .REED_DBGSEL, .REED_INSNS, .REED_PSTALL, .REED_RSTAT]
  | .WCH => [.WCH_CCTRL, .WCH_ECC, .WCH_BCW, .WCH_BCN]
  | .LIG => [.LIG_CMD, .LIG_CMDST, .LIG_STAGE, .LIG_STAGEMASK, .LIG_COUNT, .LIG_HDESC, .LIG_HMASK]
  | .QUE => [.QUE_STATUS, .QUE_CFGST, .QUE_QCTL, .QUE_AUDCMD, .QUE_AUDRES, .QUE_ROT, .QUE_QCFG, .QUE_QSTAT]
      ++ [.QUE_QDISC, .QUE_ROUTEA, .QUE_ROUTEB, .QUE_RSTAT]
  | .SYNB => [.SYN_LCVAL, .SYN_LCARM, .SYN_WSTAT, .SYN_LWAIT, .SYN_ASLOT]

/-- A field of a register: its lowest bit and its width. -/
structure Field where
  reg : Reg
  lo  : Nat
  w   : Nat
  deriving DecidableEq, Repr

namespace Fld

abbrev DRN_DEVID_PART : Field := ⟨.DRN_DEVID, 20, 12⟩
abbrev DRN_DEVID_HBM_CFG : Field := ⟨.DRN_DEVID, 16, 4⟩
abbrev DRN_DEVID_STEP_MAJOR : Field := ⟨.DRN_DEVID, 8, 4⟩
abbrev DRN_DEVID_STEP_MINOR : Field := ⟨.DRN_DEVID, 4, 4⟩
abbrev DRN_QSPARE_Q3_STATE : Field := ⟨.DRN_QSPARE, 30, 2⟩
abbrev DRN_QSPARE_Q3_LBORE : Field := ⟨.DRN_QSPARE, 24, 4⟩
abbrev DRN_QSPARE_Q2_STATE : Field := ⟨.DRN_QSPARE, 22, 2⟩
abbrev DRN_QSPARE_Q2_LBORE : Field := ⟨.DRN_QSPARE, 16, 4⟩
abbrev DRN_QSPARE_Q1_STATE : Field := ⟨.DRN_QSPARE, 14, 2⟩
abbrev DRN_QSPARE_Q1_LBORE : Field := ⟨.DRN_QSPARE, 8, 4⟩
abbrev DRN_QSPARE_Q0_STATE : Field := ⟨.DRN_QSPARE, 6, 2⟩
abbrev DRN_QSPARE_Q0_LBORE : Field := ⟨.DRN_QSPARE, 0, 4⟩
abbrev DRN_DARKACC_LAST_BORE : Field := ⟨.DRN_DARKACC, 26, 6⟩
abbrev DRN_DARKACC_LAST_OFF : Field := ⟨.DRN_DARKACC, 25, 1⟩
abbrev DRN_DARKACC_LAST_HOST : Field := ⟨.DRN_DARKACC, 24, 1⟩
abbrev DRN_DARKACC_COUNT : Field := ⟨.DRN_DARKACC, 0, 16⟩
abbrev DRN_TIME_TICKS : Field := ⟨.DRN_TIME, 0, 64⟩
abbrev DRN_CLKST_REFLOST : Field := ⟨.DRN_CLKST, 31, 1⟩
abbrev DRN_CLKST_DRIFTED : Field := ⟨.DRN_CLKST, 30, 1⟩
abbrev DRN_CLKST_LOSSES : Field := ⟨.DRN_CLKST, 0, 16⟩
abbrev DRN_FAB_RUN : Field := ⟨.DRN_FAB, 0, 32⟩
abbrev DRN_FABCFG_FABHOLD : Field := ⟨.DRN_FABCFG, 0, 16⟩
abbrev DRN_BPCMD_OP : Field := ⟨.DRN_BPCMD, 8, 3⟩
abbrev DRN_BPCMD_BORE : Field := ⟨.DRN_BPCMD, 0, 6⟩
abbrev DRN_BPCMDST_PENDING : Field := ⟨.DRN_BPCMDST, 31, 1⟩
abbrev DRN_BPCMDST_DROPPED : Field := ⟨.DRN_BPCMDST, 30, 1⟩
abbrev DRN_BPCMDST_BORE : Field := ⟨.DRN_BPCMDST, 8, 6⟩
abbrev DRN_BPCMDST_STATUS : Field := ⟨.DRN_BPCMDST, 0, 8⟩
abbrev DRN_BOOT_STAGE : Field := ⟨.DRN_BOOT, 60, 4⟩
abbrev DRN_BOOT_STATUS : Field := ⟨.DRN_BOOT, 52, 8⟩
abbrev DRN_BOOT_SLOT : Field := ⟨.DRN_BOOT, 51, 1⟩
abbrev DRN_BOOT_AFAIL : Field := ⟨.DRN_BOOT, 50, 1⟩
abbrev DRN_BOOT_BFAIL : Field := ⟨.DRN_BOOT, 49, 1⟩
abbrev DRN_BOOT_CALDEF : Field := ⟨.DRN_BOOT, 48, 1⟩
abbrev DRN_BOOT_HBMOK : Field := ⟨.DRN_BOOT, 40, 8⟩
abbrev DRN_BOOT_SVN : Field := ⟨.DRN_BOOT, 32, 8⟩
abbrev DRN_BOOT_READYT : Field := ⟨.DRN_BOOT, 0, 32⟩
abbrev DRN_BOOTCTL_LOCKST : Field := ⟨.DRN_BOOTCTL, 2, 2⟩
abbrev DRN_BOOTCTL_SVNLOCK : Field := ⟨.DRN_BOOTCTL, 1, 1⟩
abbrev DRN_BOOTCTL_REBOOT : Field := ⟨.DRN_BOOTCTL, 0, 1⟩
abbrev DRN_SMBST_ADDR : Field := ⟨.DRN_SMBST, 24, 7⟩
abbrev DRN_SMBST_PECERR : Field := ⟨.DRN_SMBST, 16, 8⟩
abbrev DRN_SMBST_DENIED : Field := ⟨.DRN_SMBST, 8, 8⟩
abbrev DRN_SMBST_BADADDR : Field := ⟨.DRN_SMBST, 0, 8⟩
abbrev DRN_DBG_UNLOCKED : Field := ⟨.DRN_DBG, 31, 1⟩
abbrev DRN_DBG_STATUS : Field := ⟨.DRN_DBG, 28, 3⟩
abbrev DRN_DBG_PERM : Field := ⟨.DRN_DBG, 0, 3⟩
abbrev DRN_DBGCMD_OP : Field := ⟨.DRN_DBGCMD, 0, 2⟩
abbrev DRN_TRAY_TRAYV : Field := ⟨.DRN_TRAY, 31, 1⟩
abbrev DRN_TRAY_POS : Field := ⟨.DRN_TRAY, 28, 3⟩
abbrev DRN_TRAY_M6 : Field := ⟨.DRN_TRAY, 12, 2⟩
abbrev DRN_TRAY_M5_0 : Field := ⟨.DRN_TRAY, 0, 12⟩
abbrev DRN_THERM_VALID : Field := ⟨.DRN_THERM, 31, 1⟩
abbrev DRN_THERM_FAULT : Field := ⟨.DRN_THERM, 30, 1⟩
abbrev DRN_THERM_TEMP : Field := ⟨.DRN_THERM, 0, 12⟩
abbrev DRN_TCFG_TSHUT : Field := ⟨.DRN_TCFG, 24, 8⟩
abbrev DRN_TCFG_TTHROT : Field := ⟨.DRN_TCFG, 16, 8⟩
abbrev DRN_TCFG_THYST : Field := ⟨.DRN_TCFG, 12, 4⟩
abbrev DRN_TCFG_STEPDN : Field := ⟨.DRN_TCFG, 6, 6⟩
abbrev DRN_TCFG_STEPUP : Field := ⟨.DRN_TCFG, 0, 6⟩
abbrev DRN_ALERT_CLKLOSS : Field := ⟨.DRN_ALERT, 5, 1⟩
abbrev DRN_ALERT_PMBFLT : Field := ⟨.DRN_ALERT, 4, 1⟩
abbrev DRN_ALERT_DIODEFLT : Field := ⟨.DRN_ALERT, 3, 1⟩
abbrev DRN_ALERT_FANFAIL : Field := ⟨.DRN_ALERT, 2, 1⟩
abbrev DRN_ALERT_PCLAMP : Field := ⟨.DRN_ALERT, 1, 1⟩
abbrev DRN_ALERT_THROT : Field := ⟨.DRN_ALERT, 0, 1⟩
abbrev DRN_FAN_MODE : Field := ⟨.DRN_FAN, 63, 1⟩
abbrev DRN_FAN_FAIL : Field := ⟨.DRN_FAN, 62, 1⟩
abbrev DRN_FAN_DUTY : Field := ⟨.DRN_FAN, 48, 8⟩
abbrev DRN_FAN_TLO : Field := ⟨.DRN_FAN, 40, 8⟩
abbrev DRN_FAN_THI : Field := ⟨.DRN_FAN, 32, 8⟩
abbrev DRN_FAN_MINRPM : Field := ⟨.DRN_FAN, 16, 16⟩
abbrev DRN_FAN_RPM : Field := ⟨.DRN_FAN, 0, 16⟩
abbrev DRN_PMB_VALID : Field := ⟨.DRN_PMB, 63, 1⟩
abbrev DRN_PMB_METER : Field := ⟨.DRN_PMB, 62, 1⟩
abbrev DRN_PMB_FAULT : Field := ⟨.DRN_PMB, 61, 1⟩
abbrev DRN_PMB_ADDR : Field := ⟨.DRN_PMB, 48, 7⟩
abbrev DRN_PMB_ROLE : Field := ⟨.DRN_PMB, 40, 8⟩
abbrev DRN_PMB_POUT : Field := ⟨.DRN_PMB, 16, 16⟩
abbrev DRN_PMB_STATUS : Field := ⟨.DRN_PMB, 0, 16⟩
abbrev DRN_DBGNONCE_NONCE : Field := ⟨.DRN_DBGNONCE, 0, 32⟩
abbrev DRN_DBGTOKEN_TOKEN : Field := ⟨.DRN_DBGTOKEN, 0, 32⟩
abbrev DRN_BPCFG_DEEPT : Field := ⟨.DRN_BPCFG, 8, 8⟩
abbrev DRN_BPCFG_SLEEPT : Field := ⟨.DRN_BPCFG, 0, 8⟩
abbrev DRN_BPST_STATE : Field := ⟨.DRN_BPST, 29, 3⟩
abbrev DRN_BPST_TRANS : Field := ⟨.DRN_BPST, 28, 1⟩
abbrev DRN_BPST_RETIRING : Field := ⟨.DRN_BPST, 27, 1⟩
abbrev DRN_BPST_LASTWAKE : Field := ⟨.DRN_BPST, 16, 3⟩
abbrev DRN_BPST_WAKES : Field := ⟨.DRN_BPST, 0, 16⟩
abbrev DRN_STUB_CREDDISC : Field := ⟨.DRN_STUB, 48, 16⟩
abbrev DRN_STUB_NACKED : Field := ⟨.DRN_STUB, 32, 16⟩
abbrev DRN_STUB_INCS : Field := ⟨.DRN_STUB, 16, 16⟩
abbrev DRN_STUB_OTHER : Field := ⟨.DRN_STUB, 0, 16⟩
abbrev DRN_BCAP_ISA : Field := ⟨.DRN_BCAP, 56, 8⟩
abbrev DRN_BCAP_VALID : Field := ⟨.DRN_BCAP, 55, 1⟩
abbrev DRN_BCAP_STANDIN : Field := ⟨.DRN_BCAP, 54, 1⟩
abbrev DRN_BCAP_HEALTH : Field := ⟨.DRN_BCAP, 52, 2⟩
abbrev DRN_BCAP_MXA_WIDTH : Field := ⟨.DRN_BCAP, 40, 8⟩
abbrev DRN_BCAP_BYPASS : Field := ⟨.DRN_BCAP, 36, 4⟩
abbrev DRN_BCAP_RANKS : Field := ⟨.DRN_BCAP, 24, 8⟩
abbrev DRN_BCAP_WCH_BANKS : Field := ⟨.DRN_BCAP, 16, 8⟩
abbrev DRN_BCAP_PS_BUNDLES : Field := ⟨.DRN_BCAP, 0, 16⟩
abbrev BLW_LIMIT_EFFECTIVE : Field := ⟨.BLW_LIMIT, 16, 16⟩
abbrev BLW_LIMIT_LIMIT : Field := ⟨.BLW_LIMIT, 0, 16⟩
abbrev BLW_RESERVE_RESERVE : Field := ⟨.BLW_RESERVE, 0, 16⟩
abbrev BLW_CFG_LENDTHR : Field := ⟨.BLW_CFG, 16, 16⟩
abbrev BLW_CFG_SHARE : Field := ⟨.BLW_CFG, 8, 8⟩
abbrev BLW_CFG_GRANTMAX : Field := ⟨.BLW_CFG, 0, 8⟩
abbrev BLW_POOL_INFLIGHT : Field := ⟨.BLW_POOL, 32, 16⟩
abbrev BLW_POOL_HELD : Field := ⟨.BLW_POOL, 16, 16⟩
abbrev BLW_POOL_POOL : Field := ⟨.BLW_POOL, 0, 16⟩
abbrev BLW_CFGST_STATUS : Field := ⟨.BLW_CFGST, 0, 8⟩
abbrev BLW_FTAB_TOKENS : Field := ⟨.BLW_FTAB, 0, 8⟩
abbrev BLW_BORE_FMAX : Field := ⟨.BLW_BORE, 27, 5⟩
abbrev BLW_BORE_STEP : Field := ⟨.BLW_BORE, 22, 5⟩
abbrev BLW_BORE_DEMAND : Field := ⟨.BLW_BORE, 8, 8⟩
abbrev BLW_BORE_HOLD : Field := ⟨.BLW_BORE, 0, 8⟩
abbrev PRT_PCFG_AUTOEVICT : Field := ⟨.PRT_PCFG, 31, 1⟩
abbrev PRT_PCFG_LEADER : Field := ⟨.PRT_PCFG, 16, 4⟩
abbrev PRT_PSTAT_STATE : Field := ⟨.PRT_PSTAT, 62, 2⟩
abbrev PRT_PSTAT_LEADER : Field := ⟨.PRT_PSTAT, 56, 4⟩
abbrev PRT_PSTAT_NCTX : Field := ⟨.PRT_PSTAT, 40, 7⟩
abbrev PRT_PSTAT_SCTXV : Field := ⟨.PRT_PSTAT, 31, 1⟩
abbrev PRT_PSTAT_SCTX : Field := ⟨.PRT_PSTAT, 16, 10⟩
abbrev PRT_PSTAT_HOLD : Field := ⟨.PRT_PSTAT, 0, 9⟩
abbrev PRT_CMD_OP : Field := ⟨.PRT_CMD, 28, 4⟩
abbrev PRT_CMD_SUBST : Field := ⟨.PRT_CMD, 27, 1⟩
abbrev PRT_CMD_SBORE : Field := ⟨.PRT_CMD, 21, 6⟩
abbrev PRT_CMD_PART : Field := ⟨.PRT_CMD, 16, 4⟩
abbrev PRT_CMD_CTX : Field := ⟨.PRT_CMD, 0, 10⟩
abbrev PRT_CMDST_PENDING : Field := ⟨.PRT_CMDST, 31, 1⟩
abbrev PRT_CMDST_DROPPED : Field := ⟨.PRT_CMDST, 30, 1⟩
abbrev PRT_CMDST_OP : Field := ⟨.PRT_CMDST, 24, 4⟩
abbrev PRT_CMDST_CTX : Field := ⟨.PRT_CMDST, 8, 10⟩
abbrev PRT_CMDST_STATUS : Field := ⟨.PRT_CMDST, 0, 8⟩
abbrev PRT_BCUR_VALID : Field := ⟨.PRT_BCUR, 31, 1⟩
abbrev PRT_BCUR_NPEND : Field := ⟨.PRT_BCUR, 16, 7⟩
abbrev PRT_BCUR_CTX : Field := ⟨.PRT_BCUR, 0, 10⟩
abbrev PRT_HSTAT_CLOSED : Field := ⟨.PRT_HSTAT, 48, 16⟩
abbrev PRT_HSTAT_NOROUTE : Field := ⟨.PRT_HSTAT, 32, 16⟩
abbrev PRT_HSTAT_FULL : Field := ⟨.PRT_HSTAT, 16, 16⟩
abbrev CTX_INVAL_CTX : Field := ⟨.CTX_INVAL, 0, 10⟩
abbrev CTX_INVST_PENDING : Field := ⟨.CTX_INVST, 31, 1⟩
abbrev CTX_INVST_DROPPED : Field := ⟨.CTX_INVST, 30, 1⟩
abbrev CTX_INVST_CTX : Field := ⟨.CTX_INVST, 0, 10⟩
abbrev CTX_CFG_HOME : Field := ⟨.CTX_CFG, 60, 4⟩
abbrev CTX_CFG_AUTOLOAD : Field := ⟨.CTX_CFG, 59, 1⟩
abbrev CTX_CFG_EVICTABLE : Field := ⟨.CTX_CFG, 58, 1⟩
abbrev CTX_CFG_IMAGE : Field := ⟨.CTX_CFG, 6, 42⟩
abbrev CTX_ROOT_ROOT : Field := ⟨.CTX_ROOT, 12, 36⟩
abbrev CTX_SAVE_SAVE : Field := ⟨.CTX_SAVE, 6, 42⟩
abbrev CTX_QUOTA_BARS : Field := ⟨.CTX_QUOTA, 16, 7⟩
abbrev CTX_QUOTA_PBLK : Field := ⟨.CTX_QUOTA, 0, 7⟩
abbrev CTX_STATE_STATE : Field := ⟨.CTX_STATE, 61, 3⟩
abbrev CTX_STATE_EXCL : Field := ⟨.CTX_STATE, 60, 1⟩
abbrev CTX_STATE_VARIANT : Field := ⟨.CTX_STATE, 58, 2⟩
abbrev CTX_STATE_STUCKRT : Field := ⟨.CTX_STATE, 57, 1⟩
abbrev CTX_STATE_SAVED : Field := ⟨.CTX_STATE, 56, 1⟩
abbrev CTX_STATE_ENDCAUSE : Field := ⟨.CTX_STATE, 48, 8⟩
abbrev CTX_LDRES_STATUS : Field := ⟨.CTX_LDRES, 56, 8⟩
abbrev CTX_LDRES_VARIANT : Field := ⟨.CTX_LDRES, 54, 2⟩
abbrev CTX_LDRES_IBORE : Field := ⟨.CTX_LDRES, 48, 6⟩
abbrev CTX_LDRES_PBORE : Field := ⟨.CTX_LDRES, 42, 6⟩
abbrev CTX_LDRES_DEFICIT : Field := ⟨.CTX_LDRES, 0, 32⟩
abbrev CTX_BORES_MASK : Field := ⟨.CTX_BORES, 0, 64⟩
abbrev CTX_FAULT_FAULT : Field := ⟨.CTX_FAULT, 0, 64⟩
abbrev CTX_FINFO_FINFO : Field := ⟨.CTX_FINFO, 0, 64⟩
abbrev STG_CFG_ROLE : Field := ⟨.STG_CFG, 62, 2⟩
abbrev STG_CFG_MODE : Field := ⟨.STG_CFG, 61, 1⟩
abbrev STG_CFG_AUTOINJ : Field := ⟨.STG_CFG, 60, 1⟩
abbrev STG_CFG_NMB : Field := ⟨.STG_CFG, 48, 8⟩
abbrev STG_CFG_WARMUP : Field := ⟨.STG_CFG, 40, 8⟩
abbrev STG_CFG_DWIN : Field := ⟨.STG_CFG, 36, 2⟩
abbrev STG_CFG_NCHAN : Field := ⟨.STG_CFG, 30, 6⟩
abbrev STG_CFG_SBUF : Field := ⟨.STG_CFG, 26, 3⟩
abbrev STG_CFG_RBUF : Field := ⟨.STG_CFG, 23, 3⟩
abbrev STG_CFG_PFDIST : Field := ⟨.STG_CFG, 20, 3⟩
abbrev STG_CTRL_NEXTSTEP : Field := ⟨.STG_CTRL, 2, 1⟩
abbrev STG_CTRL_STOP : Field := ⟨.STG_CTRL, 1, 1⟩
abbrev STG_CTRL_START : Field := ⟨.STG_CTRL, 0, 1⟩
abbrev STG_STATUS_STATE : Field := ⟨.STG_STATUS, 61, 3⟩
abbrev STG_STATUS_SREASON : Field := ⟨.STG_STATUS, 58, 3⟩
abbrev STG_STATUS_CFGST : Field := ⟨.STG_STATUS, 56, 2⟩
abbrev STG_STATUS_FCNT : Field := ⟨.STG_STATUS, 36, 9⟩
abbrev STG_STATUS_BCNT : Field := ⟨.STG_STATUS, 27, 9⟩
abbrev STG_STATUS_FDONE : Field := ⟨.STG_STATUS, 18, 9⟩
abbrev STG_STATUS_BDONE : Field := ⟨.STG_STATUS, 9, 9⟩
abbrev STG_STATUS_EARLY : Field := ⟨.STG_STATUS, 0, 9⟩
abbrev STG_STEP_STEP : Field := ⟨.STG_STEP, 0, 32⟩
abbrev STG_TAGCNT_FREE : Field := ⟨.STG_TAGCNT, 36, 9⟩
abbrev STG_TAGCNT_FWDP : Field := ⟨.STG_TAGCNT, 27, 9⟩
abbrev STG_TAGCNT_FWDD : Field := ⟨.STG_TAGCNT, 18, 9⟩
abbrev STG_TAGCNT_BWDP : Field := ⟨.STG_TAGCNT, 9, 9⟩
abbrev STG_TAGCNT_RET : Field := ⟨.STG_TAGCNT, 0, 9⟩
abbrev STG_ERR_DUP : Field := ⟨.STG_ERR, 40, 8⟩
abbrev STG_ERR_STALE : Field := ⟨.STG_ERR, 32, 8⟩
abbrev STG_ERR_BADDONE : Field := ⟨.STG_ERR, 24, 8⟩
abbrev STG_ERR_OOO : Field := ⟨.STG_ERR, 16, 8⟩
abbrev STG_ERR_PFLATE : Field := ⟨.STG_ERR, 8, 8⟩
abbrev STG_ERR_STASHMISS : Field := ⟨.STG_ERR, 0, 8⟩
abbrev STG_BROUTE_BVALID : Field := ⟨.STG_BROUTE, 31, 1⟩
abbrev STG_BROUTE_BKPORT : Field := ⟨.STG_BROUTE, 24, 4⟩
abbrev STG_BROUTE_BFARP : Field := ⟨.STG_BROUTE, 16, 4⟩
abbrev STG_BROUTE_FVALID : Field := ⟨.STG_BROUTE, 15, 1⟩
abbrev STG_BROUTE_FKPORT : Field := ⟨.STG_BROUTE, 8, 4⟩
abbrev STG_BROUTE_FFARP : Field := ⟨.STG_BROUTE, 0, 4⟩
abbrev STG_INJECT_TAG : Field := ⟨.STG_INJECT, 0, 8⟩
abbrev STG_DROUTEA_VALID : Field := ⟨.STG_DROUTEA, 63, 1⟩
abbrev STG_DROUTEA_KIND : Field := ⟨.STG_DROUTEA, 62, 1⟩
abbrev STG_DROUTEA_DTYPE : Field := ⟨.STG_DROUTEA, 60, 2⟩
abbrev STG_DROUTEA_DPORT : Field := ⟨.STG_DROUTEA, 56, 4⟩
abbrev STG_DROUTEA_DID : Field := ⟨.STG_DROUTEA, 50, 6⟩
abbrev STG_DROUTEA_DQ : Field := ⟨.STG_DROUTEA, 45, 5⟩
abbrev STG_DROUTEA_RETQ : Field := ⟨.STG_DROUTEA, 40, 5⟩
abbrev STG_DROUTEA_TAG : Field := ⟨.STG_DROUTEA, 32, 8⟩
abbrev STG_DROUTEA_DEPOCH : Field := ⟨.STG_DROUTEA, 16, 16⟩
abbrev STG_DROUTEA_GRANT : Field := ⟨.STG_DROUTEA, 0, 10⟩
abbrev STG_DROUTEB_CRCE : Field := ⟨.STG_DROUTEB, 63, 1⟩
abbrev STG_DROUTEB_CRCN : Field := ⟨.STG_DROUTEB, 56, 6⟩
abbrev STG_DROUTEB_CTRV : Field := ⟨.STG_DROUTEB, 55, 1⟩
abbrev STG_DROUTEB_CTRPOOL : Field := ⟨.STG_DROUTEB, 54, 1⟩
abbrev STG_DROUTEB_CTRIDX : Field := ⟨.STG_DROUTEB, 40, 14⟩
abbrev STG_DRSTAT_FAULTED : Field := ⟨.STG_DRSTAT, 63, 1⟩
abbrev STG_DRSTAT_ORPHAN : Field := ⟨.STG_DRSTAT, 62, 1⟩
abbrev STG_DRSTAT_CRED : Field := ⟨.STG_DRSTAT, 48, 10⟩
abbrev STG_DRSTAT_ORPHANS : Field := ⟨.STG_DRSTAT, 32, 16⟩
abbrev STG_DRSTAT_SEQ : Field := ⟨.STG_DRSTAT, 0, 32⟩
abbrev STG_TAG_STATE : Field := ⟨.STG_TAG, 61, 3⟩
abbrev STG_TAG_QUEUED : Field := ⟨.STG_TAG, 60, 1⟩
abbrev STG_TAG_QUEUE : Field := ⟨.STG_TAG, 58, 2⟩
abbrev STG_TAG_STASHED : Field := ⟨.STG_TAG, 57, 1⟩
abbrev STG_TAG_RESTORED : Field := ⟨.STG_TAG, 56, 1⟩
abbrev STG_TAG_ORD : Field := ⟨.STG_TAG, 48, 8⟩
abbrev STG_TAG_DONECNT : Field := ⟨.STG_TAG, 32, 7⟩
abbrev STG_TAG_STEP : Field := ⟨.STG_TAG, 0, 32⟩
abbrev STH_HBASE_HBASE : Field := ⟨.STH_HBASE, 12, 36⟩
abbrev STH_SLOT_SLOTSZ : Field := ⟨.STH_SLOT, 0, 24⟩
abbrev STH_RATE_INRATE : Field := ⟨.STH_RATE, 8, 8⟩
abbrev STH_RATE_OUTRATE : Field := ⟨.STH_RATE, 0, 8⟩
abbrev STH_NENT_NENT : Field := ⟨.STH_NENT, 0, 5⟩
abbrev STH_CNT_INCH : Field := ⟨.STH_CNT, 32, 32⟩
abbrev STH_CNT_OUTCH : Field := ⟨.STH_CNT, 0, 32⟩
abbrev STH_ESRC_SRC : Field := ⟨.STH_ESRC, 0, 48⟩
abbrev STH_EDST_DST : Field := ⟨.STH_EDST, 0, 48⟩
abbrev STH_ELEN_SSTRIDE : Field := ⟨.STH_ELEN, 32, 32⟩
abbrev STH_ELEN_BYTES : Field := ⟨.STH_ELEN, 0, 32⟩
abbrev STH_EOFF_RSTRIDE : Field := ⟨.STH_EOFF, 32, 32⟩
abbrev STH_EOFF_SLOTOFF : Field := ⟨.STH_EOFF, 0, 32⟩
abbrev SYN_PCOUNT_OWNED : Field := ⟨.SYN_PCOUNT, 16, 15⟩
abbrev SYN_PCOUNT_FREE : Field := ⟨.SYN_PCOUNT, 0, 15⟩
abbrev SYN_PDISC_BSTALE : Field := ⟨.SYN_PDISC, 16, 16⟩
abbrev SYN_PDISC_CSTALE : Field := ⟨.SYN_PDISC, 0, 16⟩
abbrev SYN_BCMD_OP : Field := ⟨.SYN_BCMD, 12, 2⟩
abbrev SYN_BCMD_BID : Field := ⟨.SYN_BCMD, 0, 12⟩
abbrev SYN_CFGST_TARGET : Field := ⟨.SYN_CFGST, 24, 1⟩
abbrev SYN_CFGST_INDEX : Field := ⟨.SYN_CFGST, 8, 16⟩
abbrev SYN_CFGST_STATUS : Field := ⟨.SYN_CFGST, 0, 8⟩
abbrev SYN_PBLK_VALID : Field := ⟨.SYN_PBLK, 31, 1⟩
abbrev SYN_PBLK_CTX : Field := ⟨.SYN_PBLK, 0, 10⟩
abbrev SYN_PVAL_VALUE : Field := ⟨.SYN_PVAL, 0, 32⟩
abbrev SYN_BCFG_VALID : Field := ⟨.SYN_BCFG, 63, 1⟩
abbrev SYN_BCFG_CTX : Field := ⟨.SYN_BCFG, 48, 10⟩
abbrev SYN_BCFG_PCOUNT : Field := ⟨.SYN_BCFG, 32, 13⟩
abbrev SYN_BSTAT_PHASE : Field := ⟨.SYN_BSTAT, 32, 32⟩
abbrev SYN_BSTAT_ARRIVED : Field := ⟨.SYN_BSTAT, 0, 13⟩
abbrev OVB_CFG_NCHAN : Field := ⟨.OVB_CFG, 58, 6⟩
abbrev OVB_CFG_AUTOCOMMIT : Field := ⟨.OVB_CFG, 57, 1⟩
abbrev OVB_CFG_LOSSREQ : Field := ⟨.OVB_CFG, 56, 1⟩
abbrev OVB_CFG_ASHIFT : Field := ⟨.OVB_CFG, 52, 4⟩
abbrev OVB_CFG_WARM : Field := ⟨.OVB_CFG, 44, 8⟩
abbrev OVB_GATE_STATE : Field := ⟨.OVB_GATE, 61, 3⟩
abbrev OVB_GATE_REASON : Field := ⟨.OVB_GATE, 53, 8⟩
abbrev OVB_GATE_REQS : Field := ⟨.OVB_GATE, 46, 7⟩
abbrev OVB_GATE_CFGST : Field := ⟨.OVB_GATE, 44, 2⟩
abbrev OVB_GATE_STEP : Field := ⟨.OVB_GATE, 0, 32⟩
abbrev OVB_GCTL_HOLDNEXT : Field := ⟨.OVB_GCTL, 2, 1⟩
abbrev OVB_GCTL_SKIP : Field := ⟨.OVB_GCTL, 1, 1⟩
abbrev OVB_GCTL_RELEASE : Field := ⟨.OVB_GCTL, 0, 1⟩
abbrev OVB_NFSTEP_ARRAY : Field := ⟨.OVB_NFSTEP, 48, 16⟩
abbrev OVB_NFSTEP_REED : Field := ⟨.OVB_NFSTEP, 32, 16⟩
abbrev OVB_NFSTEP_BUCKET : Field := ⟨.OVB_NFSTEP, 16, 16⟩
abbrev OVB_NFSTEP_AMAXNF : Field := ⟨.OVB_NFSTEP, 0, 16⟩
abbrev OVB_NFTA_ARRAY : Field := ⟨.OVB_NFTA, 0, 32⟩
abbrev OVB_NFTR_REED : Field := ⟨.OVB_NFTR, 0, 32⟩
abbrev OVB_NFTB_BUCKET : Field := ⟨.OVB_NFTB, 0, 32⟩
abbrev OVB_NFTHR_ARRAY : Field := ⟨.OVB_NFTHR, 32, 16⟩
abbrev OVB_NFTHR_REED : Field := ⟨.OVB_NFTHR, 16, 16⟩
abbrev OVB_NFTHR_BUCKET : Field := ⟨.OVB_NFTHR, 0, 16⟩
abbrev OVB_LOSS_SUM : Field := ⟨.OVB_LOSS, 32, 32⟩
abbrev OVB_LOSS_NLOSS : Field := ⟨.OVB_LOSS, 0, 16⟩
abbrev OVB_EMA_EMA : Field := ⟨.OVB_EMA, 0, 32⟩
abbrev OVB_K_K : Field := ⟨.OVB_K, 0, 32⟩
abbrev OVB_LSTEPS_N : Field := ⟨.OVB_LSTEPS, 0, 32⟩
abbrev OVB_MIRROR_BASE : Field := ⟨.OVB_MIRROR, 10, 38⟩
abbrev OVB_CKPT_EPOCH : Field := ⟨.OVB_CKPT, 32, 32⟩
abbrev OVB_CKPT_STEP : Field := ⟨.OVB_CKPT, 0, 32⟩
abbrev OVB_ERR_LATE : Field := ⟨.OVB_ERR, 40, 8⟩
abbrev OVB_ERR_BPOIS : Field := ⟨.OVB_ERR, 32, 8⟩
abbrev OVB_ERR_BOVER : Field := ⟨.OVB_ERR, 24, 8⟩
abbrev OVB_ERR_BSLOT : Field := ⟨.OVB_ERR, 16, 8⟩
abbrev OVB_ERR_BADENT : Field := ⟨.OVB_ERR, 8, 8⟩
abbrev OVB_ERR_STALE_BADREQ : Field := ⟨.OVB_ERR, 0, 8⟩
abbrev OVB_HSEL_ENTRY : Field := ⟨.OVB_HSEL, 0, 8⟩
abbrev OVB_VROUTEA_VALID : Field := ⟨.OVB_VROUTEA, 63, 1⟩
abbrev OVB_VROUTEA_KIND : Field := ⟨.OVB_VROUTEA, 62, 1⟩
abbrev OVB_VROUTEA_DTYPE : Field := ⟨.OVB_VROUTEA, 60, 2⟩
abbrev OVB_VROUTEA_DPORT : Field := ⟨.OVB_VROUTEA, 56, 4⟩
abbrev OVB_VROUTEA_DID : Field := ⟨.OVB_VROUTEA, 50, 6⟩
abbrev OVB_VROUTEA_DQ : Field := ⟨.OVB_VROUTEA, 45, 5⟩
abbrev OVB_VROUTEA_RETQ : Field := ⟨.OVB_VROUTEA, 40, 5⟩
abbrev OVB_VROUTEA_TAG : Field := ⟨.OVB_VROUTEA, 32, 8⟩
abbrev OVB_VROUTEA_DEPOCH : Field := ⟨.OVB_VROUTEA, 16, 16⟩
abbrev OVB_VROUTEA_GRANT : Field := ⟨.OVB_VROUTEA, 0, 10⟩
abbrev OVB_VROUTEB_CRCE : Field := ⟨.OVB_VROUTEB, 63, 1⟩
abbrev OVB_VROUTEB_CRCN : Field := ⟨.OVB_VROUTEB, 56, 6⟩
abbrev OVB_VROUTEB_CTRV : Field := ⟨.OVB_VROUTEB, 55, 1⟩
abbrev OVB_VROUTEB_CTRPOOL : Field := ⟨.OVB_VROUTEB, 54, 1⟩
abbrev OVB_VROUTEB_CTRIDX : Field := ⟨.OVB_VROUTEB, 40, 14⟩
abbrev OVB_VRSTAT_FAULTED : Field := ⟨.OVB_VRSTAT, 63, 1⟩
abbrev OVB_VRSTAT_ORPHAN : Field := ⟨.OVB_VRSTAT, 62, 1⟩
abbrev OVB_VRSTAT_CRED : Field := ⟨.OVB_VRSTAT, 48, 10⟩
abbrev OVB_VRSTAT_ORPHANS : Field := ⟨.OVB_VRSTAT, 32, 16⟩
abbrev OVB_VRSTAT_SEQ : Field := ⟨.OVB_VRSTAT, 0, 32⟩
abbrev OVB_BBASE_BASE : Field := ⟨.OVB_BBASE, 12, 36⟩
abbrev OVB_BCFG_VALID : Field := ⟨.OVB_BCFG, 63, 1⟩
abbrev OVB_BCFG_CFMT : Field := ⟨.OVB_BCFG, 62, 1⟩
abbrev OVB_BCFG_SIZE : Field := ⟨.OVB_BCFG, 53, 9⟩
abbrev OVB_BCFG_RUNITS : Field := ⟨.OVB_BCFG, 0, 17⟩
abbrev OVB_BCTR_CEN : Field := ⟨.OVB_BCTR, 63, 1⟩
abbrev OVB_BCTR_CPOOL : Field := ⟨.OVB_BCTR, 62, 1⟩
abbrev OVB_BCTR_CBORE : Field := ⟨.OVB_BCTR, 56, 6⟩
abbrev OVB_BCTR_CIDX : Field := ⟨.OVB_BCTR, 42, 14⟩
abbrev OVB_BSTAT_ROUNDS : Field := ⟨.OVB_BSTAT, 32, 32⟩
abbrev OVB_BSTAT_ARRIVED : Field := ⟨.OVB_BSTAT, 0, 29⟩
abbrev OVB_SENT_VALID : Field := ⟨.OVB_SENT, 63, 1⟩
abbrev OVB_SENT_FMT : Field := ⟨.OVB_SENT, 56, 4⟩
abbrev OVB_SENT_HLEN : Field := ⟨.OVB_SENT, 50, 6⟩
abbrev OVB_SENT_HCOUNT : Field := ⟨.OVB_SENT, 44, 6⟩
abbrev OVB_SENT_HPOS : Field := ⟨.OVB_SENT, 38, 6⟩
abbrev OVB_SENT_HANY : Field := ⟨.OVB_SENT, 37, 1⟩
abbrev OVB_SENT_MARGIN : Field := ⟨.OVB_SENT, 28, 4⟩
abbrev OVB_SENT_S : Field := ⟨.OVB_SENT, 0, 8⟩
abbrev OVB_SCUR_CUR : Field := ⟨.OVB_SCUR, 0, 32⟩
abbrev OVB_HIST_AMAX : Field := ⟨.OVB_HIST, 0, 32⟩
abbrev CRK_LOCALID_ID : Field := ⟨.CRK_LOCALID, 0, 32⟩
abbrev CRK_CTRL_RESET : Field := ⟨.CRK_CTRL, 2, 1⟩
abbrev CRK_CTRL_RETRAIN : Field := ⟨.CRK_CTRL, 1, 1⟩
abbrev CRK_CTRL_ENABLE : Field := ⟨.CRK_CTRL, 0, 1⟩
abbrev CRK_CFG_MODE : Field := ⟨.CRK_CFG, 24, 1⟩
abbrev CRK_CFG_UCTHR : Field := ⟨.CRK_CFG, 16, 8⟩
abbrev CRK_CFG_W3 : Field := ⟨.CRK_CFG, 12, 4⟩
abbrev CRK_CFG_W1 : Field := ⟨.CRK_CFG, 8, 4⟩
abbrev CRK_CFG_W0 : Field := ⟨.CRK_CFG, 4, 4⟩
abbrev CRK_STATUS_STATE : Field := ⟨.CRK_STATUS, 29, 3⟩
abbrev CRK_STATUS_LASTFAIL : Field := ⟨.CRK_STATUS, 26, 3⟩
abbrev CRK_STATUS_REVERSED : Field := ⟨.CRK_STATUS, 25, 1⟩
abbrev CRK_STATUS_WINBAD : Field := ⟨.CRK_STATUS, 24, 1⟩
abbrev CRK_STATUS_POLINV : Field := ⟨.CRK_STATUS, 20, 4⟩
abbrev CRK_STATUS_LANEOK : Field := ⟨.CRK_STATUS, 16, 4⟩
abbrev CRK_STATUS_RETRAINS : Field := ⟨.CRK_STATUS, 0, 16⟩
abbrev CRK_PEER_VALID : Field := ⟨.CRK_PEER, 63, 1⟩
abbrev CRK_PEER_PORT : Field := ⟨.CRK_PEER, 56, 4⟩
abbrev CRK_PEER_ID : Field := ⟨.CRK_PEER, 0, 32⟩
abbrev CRK_REPLAY_NEXTSEQ : Field := ⟨.CRK_REPLAY, 48, 16⟩
abbrev CRK_REPLAY_ACKSEQ : Field := ⟨.CRK_REPLAY, 32, 16⟩
abbrev CRK_REPLAY_EXPSEQ : Field := ⟨.CRK_REPLAY, 16, 16⟩
abbrev CRK_REPLAY_HELD : Field := ⟨.CRK_REPLAY, 0, 13⟩
abbrev CRK_VLCRED_VL3 : Field := ⟨.CRK_VLCRED, 48, 16⟩
abbrev CRK_VLCRED_VL2 : Field := ⟨.CRK_VLCRED, 32, 16⟩
abbrev CRK_VLCRED_VL1 : Field := ⟨.CRK_VLCRED, 16, 16⟩
abbrev CRK_VLCRED_VL0 : Field := ⟨.CRK_VLCRED, 0, 16⟩
abbrev CRK_ERR_CRCERR : Field := ⟨.CRK_ERR, 56, 8⟩
abbrev CRK_ERR_REPLAYS : Field := ⟨.CRK_ERR, 48, 8⟩
abbrev CRK_ERR_NAKS : Field := ⟨.CRK_ERR, 40, 8⟩
abbrev CRK_ERR_SRCFAULT : Field := ⟨.CRK_ERR, 32, 8⟩
abbrev CRK_ERR_REJECT : Field := ⟨.CRK_ERR, 24, 8⟩
abbrev CRK_ERR_WINVIOL : Field := ⟨.CRK_ERR, 16, 8⟩
abbrev CRK_ERR_CMDREF : Field := ⟨.CRK_ERR, 8, 8⟩
abbrev CRK_ERR_BADFLIT : Field := ⟨.CRK_ERR, 0, 8⟩
abbrev CRK_FEC_CORR : Field := ⟨.CRK_FEC, 32, 32⟩
abbrev CRK_FEC_UNCORR : Field := ⟨.CRK_FEC, 0, 32⟩
abbrev CRK_IWINA_VALID : Field := ⟨.CRK_IWINA, 63, 1⟩
abbrev CRK_IWINA_KIND : Field := ⟨.CRK_IWINA, 62, 1⟩
abbrev CRK_IWINA_CTX : Field := ⟨.CRK_IWINA, 52, 10⟩
abbrev CRK_IWINA_BASE : Field := ⟨.CRK_IWINA, 12, 36⟩
abbrev CRK_IWINB_NWIN : Field := ⟨.CRK_IWINB, 40, 3⟩
abbrev CRK_IWINB_NPORT : Field := ⟨.CRK_IWINB, 32, 4⟩
abbrev CRK_IWINB_SIZE : Field := ⟨.CRK_IWINB, 0, 28⟩
abbrev HIF_LINK_UP : Field := ⟨.HIF_LINK, 31, 1⟩
abbrev HIF_LINK_FLIT : Field := ⟨.HIF_LINK, 30, 1⟩
abbrev HIF_LINK_SPEED : Field := ⟨.HIF_LINK, 27, 3⟩
abbrev HIF_LINK_WIDTH : Field := ⟨.HIF_LINK, 22, 5⟩
abbrev HIF_LINK_NUMVF : Field := ⟨.HIF_LINK, 0, 8⟩
abbrev HIF_B4BASE_BASE : Field := ⟨.HIF_B4BASE, 28, 20⟩
abbrev HIF_ARB_WSTASH : Field := ⟨.HIF_ARB, 8, 4⟩
abbrev HIF_ARB_WDMA : Field := ⟨.HIF_ARB, 4, 4⟩
abbrev HIF_ARB_WBAR : Field := ⟨.HIF_ARB, 0, 4⟩
abbrev HIF_ERR_LINKDROP : Field := ⟨.HIF_ERR, 48, 16⟩
abbrev HIF_ERR_VECBAD : Field := ⟨.HIF_ERR, 32, 16⟩
abbrev HIF_ERR_HEADBAD : Field := ⟨.HIF_ERR, 16, 16⟩
abbrev HIF_ERR_DBBAD : Field := ⟨.HIF_ERR, 0, 16⟩
abbrev HIF_CFGST_STATUS : Field := ⟨.HIF_CFGST, 0, 8⟩
abbrev HIF_IRQSRC_EN : Field := ⟨.HIF_IRQSRC, 31, 1⟩
abbrev HIF_IRQSRC_PEND : Field := ⟨.HIF_IRQSRC, 30, 1⟩
abbrev HIF_IRQSRC_VEC : Field := ⟨.HIF_IRQSRC, 0, 11⟩
abbrev HIF_VFMAP_COUNT : Field := ⟨.HIF_VFMAP, 16, 7⟩
abbrev HIF_VFMAP_FIRST : Field := ⟨.HIF_VFMAP, 0, 10⟩
abbrev HIF_CTXH_EVEN : Field := ⟨.HIF_CTXH, 63, 1⟩
abbrev HIF_CTXH_EVEC : Field := ⟨.HIF_CTXH, 48, 11⟩
abbrev HIF_CTXH_RFIRST : Field := ⟨.HIF_CTXH, 32, 11⟩
abbrev HIF_CTXH_RCOUNT : Field := ⟨.HIF_CTXH, 16, 6⟩
abbrev HIF_HRING_VALID : Field := ⟨.HIF_HRING, 63, 1⟩
abbrev HIF_HRING_LOG2SIZE : Field := ⟨.HIF_HRING, 59, 4⟩
abbrev HIF_HRING_VEC : Field := ⟨.HIF_HRING, 48, 11⟩
abbrev HIF_HRING_BASE : Field := ⟨.HIF_HRING, 12, 35⟩
abbrev HIF_DBR_VALID : Field := ⟨.HIF_DBR, 63, 1⟩
abbrev HIF_DBR_IBORE : Field := ⟨.HIF_DBR, 56, 6⟩
abbrev HIF_DBR_DQ : Field := ⟨.HIF_DBR, 51, 5⟩
abbrev HIF_DBR_TAG : Field := ⟨.HIF_DBR, 40, 8⟩
abbrev HIF_DBR_GRANT : Field := ⟨.HIF_DBR, 0, 10⟩
abbrev HIF_VCMD_OP : Field := ⟨.HIF_VCMD, 28, 4⟩
abbrev HIF_VCMD_I : Field := ⟨.HIF_VCMD, 0, 6⟩
abbrev HIF_VCMDST_PENDING : Field := ⟨.HIF_VCMDST, 31, 1⟩
abbrev HIF_VCMDST_DROPPED : Field := ⟨.HIF_VCMDST, 30, 1⟩
abbrev HIF_VCMDST_OP : Field := ⟨.HIF_VCMDST, 24, 4⟩
abbrev HIF_VCMDST_CTX : Field := ⟨.HIF_VCMDST, 8, 10⟩
abbrev HIF_VCMDST_STATUS : Field := ⟨.HIF_VCMDST, 0, 8⟩
abbrev EMB_STBASE_BASE : Field := ⟨.EMB_STBASE, 20, 28⟩
abbrev EMB_SCMD_OP : Field := ⟨.EMB_SCMD, 28, 4⟩
abbrev EMB_SCMD_STREAM : Field := ⟨.EMB_SCMD, 0, 14⟩
abbrev EMB_SCMDST_PENDING : Field := ⟨.EMB_SCMDST, 31, 1⟩
abbrev EMB_SCMDST_DROPPED : Field := ⟨.EMB_SCMDST, 30, 1⟩
abbrev EMB_SCMDST_OP : Field := ⟨.EMB_SCMDST, 24, 4⟩
abbrev EMB_SCMDST_STREAM : Field := ⟨.EMB_SCMDST, 8, 14⟩
abbrev EMB_SCMDST_STATUS : Field := ⟨.EMB_SCMDST, 0, 8⟩
abbrev EMB_SINFO_STATE : Field := ⟨.EMB_SINFO, 61, 3⟩
abbrev EMB_SINFO_CAUSE : Field := ⟨.EMB_SINFO, 58, 3⟩
abbrev EMB_SINFO_GSID : Field := ⟨.EMB_SINFO, 32, 16⟩
abbrev EMB_SINFO_FRAME : Field := ⟨.EMB_SINFO, 0, 32⟩
abbrev EMB_ERR_BADCMD : Field := ⟨.EMB_ERR, 0, 16⟩
abbrev EMB_CFGST_STATUS : Field := ⟨.EMB_CFGST, 0, 8⟩
abbrev EMB_PCFG_EVROUTE : Field := ⟨.EMB_PCFG, 40, 8⟩
abbrev EMB_PCFG_EVEN : Field := ⟨.EMB_PCFG, 39, 1⟩
abbrev EMB_PCFG_HIZ : Field := ⟨.EMB_PCFG, 36, 1⟩
abbrev EMB_PCFG_FSDLY : Field := ⟨.EMB_PCFG, 35, 1⟩
abbrev EMB_PCFG_DEDGE : Field := ⟨.EMB_PCFG, 34, 1⟩
abbrev EMB_PCFG_SLOTW : Field := ⟨.EMB_PCFG, 32, 2⟩
abbrev EMB_PCFG_MASTER : Field := ⟨.EMB_PCFG, 31, 1⟩
abbrev EMB_PCFG_AUTOFOLLOW : Field := ⟨.EMB_PCFG, 30, 1⟩
abbrev EMB_PCFG_RATE : Field := ⟨.EMB_PCFG, 27, 3⟩
abbrev EMB_PCFG_RATEMASK : Field := ⟨.EMB_PCFG, 22, 5⟩
abbrev EMB_PCFG_NSLOT : Field := ⟨.EMB_PCFG, 0, 8⟩
abbrev EMB_PCTL_ACK : Field := ⟨.EMB_PCTL, 2, 1⟩
abbrev EMB_PCTL_DISABLE : Field := ⟨.EMB_PCTL, 1, 1⟩
abbrev EMB_PCTL_ENABLE : Field := ⟨.EMB_PCTL, 0, 1⟩
abbrev EMB_PSTAT_STATE : Field := ⟨.EMB_PSTAT, 61, 3⟩
abbrev EMB_PSTAT_RATE : Field := ⟨.EMB_PSTAT, 58, 3⟩
abbrev EMB_PSTAT_NEWRATE : Field := ⟨.EMB_PSTAT, 55, 3⟩
abbrev EMB_PSTAT_PERIOD : Field := ⟨.EMB_PSTAT, 32, 16⟩
abbrev EMB_PSTAT_REFDRIFT : Field := ⟨.EMB_PSTAT, 7, 1⟩
abbrev EMB_PSTAT_RATEBAD : Field := ⟨.EMB_PSTAT, 6, 1⟩
abbrev EMB_PSTAT_RATECHG : Field := ⟨.EMB_PSTAT, 5, 1⟩
abbrev EMB_PSTAT_LOCK : Field := ⟨.EMB_PSTAT, 4, 1⟩
abbrev EMB_PSTAT_HOLD : Field := ⟨.EMB_PSTAT, 3, 1⟩
abbrev EMB_PSTAT_GLITCH : Field := ⟨.EMB_PSTAT, 2, 1⟩
abbrev EMB_PCNT_GLITCHES : Field := ⟨.EMB_PCNT, 48, 16⟩
abbrev EMB_PCNT_HOLDOVERS : Field := ⟨.EMB_PCNT, 32, 16⟩
abbrev EMB_PCNT_RATECHGS : Field := ⟨.EMB_PCNT, 16, 16⟩
abbrev EMB_PFRAME_FRAME : Field := ⟨.EMB_PFRAME, 0, 32⟩
abbrev EMB_FROUTE_VALID : Field := ⟨.EMB_FROUTE, 63, 1⟩
abbrev EMB_FROUTE_DEST : Field := ⟨.EMB_FROUTE, 62, 1⟩
abbrev EMB_FROUTE_CTX : Field := ⟨.EMB_FROUTE, 50, 10⟩
abbrev EMB_FROUTE_IBORE : Field := ⟨.EMB_FROUTE, 44, 6⟩
abbrev EMB_FROUTE_DQ : Field := ⟨.EMB_FROUTE, 39, 5⟩
abbrev EMB_FROUTE_TAG : Field := ⟨.EMB_FROUTE, 31, 8⟩
abbrev EMB_FROUTE_GRANT : Field := ⟨.EMB_FROUTE, 0, 10⟩
abbrev EMB_FRSTAT_ORPHAN : Field := ⟨.EMB_FRSTAT, 63, 1⟩
abbrev EMB_FRSTAT_CRED : Field := ⟨.EMB_FRSTAT, 48, 10⟩
abbrev EMB_FRSTAT_ORPHANS : Field := ⟨.EMB_FRSTAT, 32, 16⟩
abbrev EMB_FRSTAT_NOCRED : Field := ⟨.EMB_FRSTAT, 16, 16⟩
abbrev BEL_ERR_BADCMD : Field := ⟨.BEL_ERR, 0, 16⟩
abbrev BEL_PCTL_TIMCOMMIT : Field := ⟨.BEL_PCTL, 5, 1⟩
abbrev BEL_PCTL_FLUSH : Field := ⟨.BEL_PCTL, 4, 1⟩
abbrev BEL_PCTL_COMMIT : Field := ⟨.BEL_PCTL, 3, 1⟩
abbrev BEL_PCTL_DISABLE : Field := ⟨.BEL_PCTL, 1, 1⟩
abbrev BEL_PCTL_ENABLE : Field := ⟨.BEL_PCTL, 0, 1⟩
abbrev BEL_PCFG_CTX : Field := ⟨.BEL_PCFG, 54, 10⟩
abbrev BEL_PCFG_DPEN : Field := ⟨.BEL_PCFG, 53, 1⟩
abbrev BEL_PSTAT_STATE : Field := ⟨.BEL_PSTAT, 63, 1⟩
abbrev BEL_PSTAT_LINK : Field := ⟨.BEL_PSTAT, 60, 3⟩
abbrev BEL_PSTAT_COMMITST : Field := ⟨.BEL_PSTAT, 58, 2⟩
abbrev BEL_PSTAT_TIMST : Field := ⟨.BEL_PSTAT, 56, 2⟩
abbrev BEL_PSTAT_CTXGONE : Field := ⟨.BEL_PSTAT, 55, 1⟩
abbrev BEL_PSTAT_CPEND : Field := ⟨.BEL_PSTAT, 54, 1⟩
abbrev BEL_PSTAT_TPEND : Field := ⟨.BEL_PSTAT, 53, 1⟩
abbrev BEL_PSTAT_FCVALID : Field := ⟨.BEL_PSTAT, 52, 1⟩
abbrev BEL_FCOUNT_FRAME : Field := ⟨.BEL_FCOUNT, 0, 32⟩
abbrev BEL_PEVT_COMMITBAD : Field := ⟨.BEL_PEVT, 5, 1⟩
abbrev BEL_PEVT_LINKUP : Field := ⟨.BEL_PEVT, 4, 1⟩
abbrev BEL_PEVT_LINKFAIL : Field := ⟨.BEL_PEVT, 3, 1⟩
abbrev BEL_PEVT_FAULT : Field := ⟨.BEL_PEVT, 2, 1⟩
abbrev BEL_PEVT_UNDERRUN : Field := ⟨.BEL_PEVT, 1, 1⟩
abbrev BEL_PEVT_CRCFAIL : Field := ⟨.BEL_PEVT, 0, 1⟩
abbrev BEL_PCNT_UNDERRUNS : Field := ⟨.BEL_PCNT, 48, 16⟩
abbrev BEL_PCNT_FAULTS : Field := ⟨.BEL_PCNT, 32, 16⟩
abbrev BEL_PCNT_CRCFAILS : Field := ⟨.BEL_PCNT, 16, 16⟩
abbrev BEL_PCNT_DISC : Field := ⟨.BEL_PCNT, 0, 16⟩
abbrev BEL_HTIM_HACTIVE : Field := ⟨.BEL_HTIM, 48, 16⟩
abbrev BEL_HTIM_HFP : Field := ⟨.BEL_HTIM, 32, 16⟩
abbrev BEL_HTIM_HSYNC : Field := ⟨.BEL_HTIM, 16, 16⟩
abbrev BEL_HTIM_HBP : Field := ⟨.BEL_HTIM, 0, 16⟩
abbrev BEL_VTIM_VACTIVE : Field := ⟨.BEL_VTIM, 48, 16⟩
abbrev BEL_VTIM_VFP : Field := ⟨.BEL_VTIM, 32, 16⟩
abbrev BEL_VTIM_VSYNC : Field := ⟨.BEL_VTIM, 16, 16⟩
abbrev BEL_VTIM_VBP : Field := ⟨.BEL_VTIM, 0, 16⟩
abbrev BEL_PCLK_HPOL : Field := ⟨.BEL_PCLK, 31, 1⟩
abbrev BEL_PCLK_VPOL : Field := ⟨.BEL_PCLK, 30, 1⟩
abbrev BEL_PCLK_KHZ : Field := ⟨.BEL_PCLK, 0, 20⟩
abbrev BEL_DPCFG_SSC : Field := ⟨.BEL_DPCFG, 4, 1⟩
abbrev BEL_DPCFG_RATE : Field := ⟨.BEL_DPCFG, 2, 2⟩
abbrev BEL_DPCFG_LANES : Field := ⟨.BEL_DPCFG, 0, 2⟩
abbrev BEL_BG_BGCOL : Field := ⟨.BEL_BG, 0, 24⟩
abbrev BEL_WBBASE_BASE : Field := ⟨.BEL_WBBASE, 6, 42⟩
abbrev BEL_WBCFG_WBEN : Field := ⟨.BEL_WBCFG, 63, 1⟩
abbrev BEL_WBCFG_NWB : Field := ⟨.BEL_WBCFG, 32, 4⟩
abbrev BEL_WBCFG_STRIDE : Field := ⟨.BEL_WBCFG, 6, 26⟩
abbrev BEL_FCBASE_BASE : Field := ⟨.BEL_FCBASE, 6, 42⟩
abbrev BEL_MLOAD_V : Field := ⟨.BEL_MLOAD, 8, 2⟩
abbrev BEL_MLOAD_PRESET : Field := ⟨.BEL_MLOAD, 0, 3⟩
abbrev BEL_VADDR_ADDR : Field := ⟨.BEL_VADDR, 6, 42⟩
abbrev BEL_VCADDR_CADDR : Field := ⟨.BEL_VCADDR, 6, 42⟩
abbrev BEL_VSRC_PITCH : Field := ⟨.BEL_VSRC, 48, 16⟩
abbrev BEL_VSRC_SW : Field := ⟨.BEL_VSRC, 16, 16⟩
abbrev BEL_VSRC_SH : Field := ⟨.BEL_VSRC, 0, 16⟩
abbrev BEL_VDST_X : Field := ⟨.BEL_VDST, 48, 16⟩
abbrev BEL_VDST_Y : Field := ⟨.BEL_VDST, 32, 16⟩
abbrev BEL_VDST_DW : Field := ⟨.BEL_VDST, 16, 16⟩
abbrev BEL_VDST_DH : Field := ⟨.BEL_VDST, 0, 16⟩
abbrev BEL_VCTL_EN : Field := ⟨.BEL_VCTL, 63, 1⟩
abbrev BEL_VCTL_PIXALPHA : Field := ⟨.BEL_VCTL, 62, 1⟩
abbrev BEL_VCTL_FILT : Field := ⟨.BEL_VCTL, 61, 1⟩
abbrev BEL_VCTL_Z : Field := ⟨.BEL_VCTL, 56, 4⟩
abbrev BEL_VCTL_PALPHA : Field := ⟨.BEL_VCTL, 48, 8⟩
abbrev BEL_VCTL_FMT : Field := ⟨.BEL_VCTL, 44, 4⟩
abbrev BEL_VM0_C0 : Field := ⟨.BEL_VM0, 48, 16⟩
abbrev BEL_VM0_C1 : Field := ⟨.BEL_VM0, 32, 16⟩
abbrev BEL_VM0_C2 : Field := ⟨.BEL_VM0, 16, 16⟩
abbrev BEL_VM0_OFF : Field := ⟨.BEL_VM0, 0, 16⟩
abbrev BEL_VM1_C0 : Field := ⟨.BEL_VM1, 48, 16⟩
abbrev BEL_VM1_C1 : Field := ⟨.BEL_VM1, 32, 16⟩
abbrev BEL_VM1_C2 : Field := ⟨.BEL_VM1, 16, 16⟩
abbrev BEL_VM1_OFF : Field := ⟨.BEL_VM1, 0, 16⟩
abbrev BEL_VM2_C0 : Field := ⟨.BEL_VM2, 48, 16⟩
abbrev BEL_VM2_C1 : Field := ⟨.BEL_VM2, 32, 16⟩
abbrev BEL_VM2_C2 : Field := ⟨.BEL_VM2, 16, 16⟩
abbrev BEL_VM2_OFF : Field := ⟨.BEL_VM2, 0, 16⟩
abbrev BEL_GADDR_ADDR : Field := ⟨.BEL_GADDR, 6, 42⟩
abbrev BEL_GGEOM_PITCH : Field := ⟨.BEL_GGEOM, 48, 16⟩
abbrev BEL_GGEOM_W : Field := ⟨.BEL_GGEOM, 32, 16⟩
abbrev BEL_GGEOM_H : Field := ⟨.BEL_GGEOM, 16, 16⟩
abbrev BEL_GGEOM_X : Field := ⟨.BEL_GGEOM, 0, 16⟩
abbrev BEL_GCTL_EN : Field := ⟨.BEL_GCTL, 63, 1⟩
abbrev BEL_GCTL_PREMUL : Field := ⟨.BEL_GCTL, 62, 1⟩
abbrev BEL_GCTL_STATIC : Field := ⟨.BEL_GCTL, 61, 1⟩
abbrev BEL_GCTL_Z : Field := ⟨.BEL_GCTL, 56, 4⟩
abbrev BEL_GCTL_PALPHA : Field := ⟨.BEL_GCTL, 48, 8⟩
abbrev BEL_GCTL_FMT : Field := ⟨.BEL_GCTL, 44, 4⟩
abbrev BEL_GCTL_Y : Field := ⟨.BEL_GCTL, 24, 16⟩
abbrev BEL_GCTL_COLOUR : Field := ⟨.BEL_GCTL, 0, 24⟩
abbrev BEL_CADDR_ADDR : Field := ⟨.BEL_CADDR, 6, 42⟩
abbrev BEL_CPOS_EN : Field := ⟨.BEL_CPOS, 63, 1⟩
abbrev BEL_CPOS_X : Field := ⟨.BEL_CPOS, 16, 13⟩
abbrev BEL_CPOS_Y : Field := ⟨.BEL_CPOS, 0, 13⟩
abbrev BEL_RRECT_X : Field := ⟨.BEL_RRECT, 48, 16⟩
abbrev BEL_RRECT_Y : Field := ⟨.BEL_RRECT, 32, 16⟩
abbrev BEL_RRECT_W : Field := ⟨.BEL_RRECT, 16, 16⟩
abbrev BEL_RRECT_H : Field := ⟨.BEL_RRECT, 0, 16⟩
abbrev BEL_REXP_MODE : Field := ⟨.BEL_REXP, 32, 2⟩
abbrev BEL_REXP_EXP : Field := ⟨.BEL_REXP, 0, 32⟩
abbrev BEL_RCRC_MISMATCH : Field := ⟨.BEL_RCRC, 63, 1⟩
abbrev BEL_RCRC_FAILS : Field := ⟨.BEL_RCRC, 32, 16⟩
abbrev BEL_RCRC_LASTCRC : Field := ⟨.BEL_RCRC, 0, 32⟩
abbrev BEL_RFAIL_LASTFRAME : Field := ⟨.BEL_RFAIL, 0, 32⟩
abbrev BEL_HTAP_TAPS : Field := ⟨.BEL_HTAP, 0, 64⟩
abbrev BEL_VTAP_TAPS : Field := ⟨.BEL_VTAP, 0, 64⟩
abbrev BEL_FROUTE_VALID : Field := ⟨.BEL_FROUTE, 63, 1⟩
abbrev BEL_FROUTE_DEST : Field := ⟨.BEL_FROUTE, 62, 1⟩
abbrev BEL_FROUTE_CTX : Field := ⟨.BEL_FROUTE, 50, 10⟩
abbrev BEL_FROUTE_IBORE : Field := ⟨.BEL_FROUTE, 44, 6⟩
abbrev BEL_FROUTE_DQ : Field := ⟨.BEL_FROUTE, 39, 5⟩
abbrev BEL_FROUTE_TAG : Field := ⟨.BEL_FROUTE, 31, 8⟩
abbrev BEL_FROUTE_GRANT : Field := ⟨.BEL_FROUTE, 0, 10⟩
abbrev BEL_FRSTAT_ORPHAN : Field := ⟨.BEL_FRSTAT, 63, 1⟩
abbrev BEL_FRSTAT_CRED : Field := ⟨.BEL_FRSTAT, 48, 10⟩
abbrev BEL_FRSTAT_ORPHANS : Field := ⟨.BEL_FRSTAT, 32, 16⟩
abbrev BEL_FRSTAT_NOCRED : Field := ⟨.BEL_FRSTAT, 16, 16⟩
abbrev BEL_DPCTL_TRAIN : Field := ⟨.BEL_DPCTL, 0, 1⟩
abbrev BEL_DPSTAT_HPD : Field := ⟨.BEL_DPSTAT, 31, 1⟩
abbrev BEL_DPSTAT_PLUG : Field := ⟨.BEL_DPSTAT, 30, 1⟩
abbrev BEL_DPSTAT_UNPLUG : Field := ⟨.BEL_DPSTAT, 29, 1⟩
abbrev BEL_DPSTAT_IRQHPD : Field := ⟨.BEL_DPSTAT, 28, 1⟩
abbrev BEL_DPSTAT_TRATE : Field := ⟨.BEL_DPSTAT, 4, 2⟩
abbrev BEL_DPSTAT_TLANES : Field := ⟨.BEL_DPSTAT, 2, 2⟩
abbrev BEL_AUXCMD_REQ : Field := ⟨.BEL_AUXCMD, 28, 4⟩
abbrev BEL_AUXCMD_ADDR : Field := ⟨.BEL_AUXCMD, 8, 20⟩
abbrev BEL_AUXCMD_LEN : Field := ⟨.BEL_AUXCMD, 0, 4⟩
abbrev BEL_AUXST_PENDING : Field := ⟨.BEL_AUXST, 31, 1⟩
abbrev BEL_AUXST_REPLY : Field := ⟨.BEL_AUXST, 0, 3⟩
abbrev BEL_AUXDATA_DATA : Field := ⟨.BEL_AUXDATA, 0, 32⟩
abbrev KEEP_CMD_OP : Field := ⟨.KEEP_CMD, 28, 4⟩
abbrev KEEP_CMD_ADDR : Field := ⟨.KEEP_CMD, 0, 26⟩
abbrev KEEP_ST_PENDING : Field := ⟨.KEEP_ST, 31, 1⟩
abbrev KEEP_ST_DROPPED : Field := ⟨.KEEP_ST, 30, 1⟩
abbrev KEEP_ST_STATUS : Field := ⟨.KEEP_ST, 0, 8⟩
abbrev KEEP_HOLDUP_EUJ : Field := ⟨.KEEP_HOLDUP, 32, 32⟩
abbrev KEEP_HOLDUP_CODE : Field := ⟨.KEEP_HOLDUP, 16, 12⟩
abbrev KEEP_BUF_DATA : Field := ⟨.KEEP_BUF, 0, 32⟩
abbrev LOG_HEAD_COUNT : Field := ⟨.LOG_HEAD, 0, 32⟩
abbrev LOG_CFG_PERSISTMIN : Field := ⟨.LOG_CFG, 4, 3⟩
abbrev LOG_CFG_IRQMIN : Field := ⟨.LOG_CFG, 0, 3⟩
abbrev LOG_STAT_SUPPRESSED : Field := ⟨.LOG_STAT, 48, 16⟩
abbrev LOG_STAT_PFAIL : Field := ⟨.LOG_STAT, 32, 16⟩
abbrev LOG_STAT_PLOST : Field := ⟨.LOG_STAT, 16, 16⟩
abbrev LOG_STAT_PENDING : Field := ⟨.LOG_STAT, 0, 16⟩
abbrev LOG_PERS_PAGES : Field := ⟨.LOG_PERS, 32, 32⟩
abbrev LOG_PERS_NEXT : Field := ⟨.LOG_PERS, 0, 26⟩
abbrev LOG_KLOSS_FLITS : Field := ⟨.LOG_KLOSS, 48, 16⟩
abbrev LOG_KLOSS_MSGS : Field := ⟨.LOG_KLOSS, 32, 16⟩
abbrev LOG_KLOSS_PUTS : Field := ⟨.LOG_KLOSS, 16, 16⟩
abbrev LOG_KLOSS_OTHER : Field := ⟨.LOG_KLOSS, 0, 16⟩
abbrev LOG_ENTRY_WORD : Field := ⟨.LOG_ENTRY, 0, 32⟩
abbrev DMP_STATUS_STATE : Field := ⟨.DMP_STATUS, 61, 3⟩
abbrev DMP_STATUS_SUMST : Field := ⟨.DMP_STATUS, 58, 3⟩
abbrev DMP_STATUS_MULTI : Field := ⟨.DMP_STATUS, 57, 1⟩
abbrev DMP_STATUS_CAUSE : Field := ⟨.DMP_STATUS, 32, 16⟩
abbrev DMP_STATUS_SOURCE : Field := ⟨.DMP_STATUS, 16, 16⟩
abbrev DMP_CFG_AUTOREBOOT : Field := ⟨.DMP_CFG, 1, 1⟩
abbrev DMP_CFG_SUMMARY : Field := ⟨.DMP_CFG, 0, 1⟩
abbrev DMP_CTRL_CLEAR : Field := ⟨.DMP_CTRL, 1, 1⟩
abbrev DMP_CTRL_FORCE : Field := ⟨.DMP_CTRL, 0, 1⟩
abbrev DMP_TIME_TICKS : Field := ⟨.DMP_TIME, 0, 64⟩
abbrev DMP_PRST_OP : Field := ⟨.DMP_PRST, 28, 4⟩
abbrev DMP_PRST_PART : Field := ⟨.DMP_PRST, 0, 4⟩
abbrev DMP_PRSTST_PENDING : Field := ⟨.DMP_PRSTST, 31, 1⟩
abbrev DMP_PRSTST_DROPPED : Field := ⟨.DMP_PRSTST, 30, 1⟩
abbrev DMP_PRSTST_PART : Field := ⟨.DMP_PRSTST, 16, 4⟩
abbrev DMP_PRSTST_STATUS : Field := ⟨.DMP_PRSTST, 0, 8⟩
abbrev DMP_RBASE_BASE : Field := ⟨.DMP_RBASE, 12, 36⟩
abbrev DMP_RLEN_EN : Field := ⟨.DMP_RLEN, 63, 1⟩
abbrev DMP_RLEN_LEN : Field := ⟨.DMP_RLEN, 0, 16⟩
abbrev BORE_CAP_ISA : Field := ⟨.BORE_CAP, 56, 8⟩
abbrev BORE_CAP_VALID : Field := ⟨.BORE_CAP, 55, 1⟩
abbrev BORE_CAP_STANDIN : Field := ⟨.BORE_CAP, 54, 1⟩
abbrev BORE_CAP_HEALTH : Field := ⟨.BORE_CAP, 52, 2⟩
abbrev BORE_CAP_MXA_WIDTH : Field := ⟨.BORE_CAP, 40, 8⟩
abbrev BORE_CAP_BYPASS : Field := ⟨.BORE_CAP, 36, 4⟩
abbrev BORE_CAP_RANKS : Field := ⟨.BORE_CAP, 24, 8⟩
abbrev BORE_CAP_WCH_BANKS : Field := ⟨.BORE_CAP, 16, 8⟩
abbrev BORE_CAP_PS_BUNDLES : Field := ⟨.BORE_CAP, 0, 16⟩
abbrev BORE_SRSEED_SEED_HI : Field := ⟨.BORE_SRSEED, 32, 32⟩
abbrev BORE_SRSEED_SEED_LO : Field := ⟨.BORE_SRSEED, 0, 32⟩
abbrev BORE_CVTCNT_NANZ : Field := ⟨.BORE_CVTCNT, 16, 16⟩
abbrev BORE_CVTCNT_SATC : Field := ⟨.BORE_CVTCNT, 0, 16⟩
abbrev CHN_CTRL_CLRCNT : Field := ⟨.CHN_CTRL, 4, 1⟩
abbrev CHN_CTRL_STEP : Field := ⟨.CHN_CTRL, 3, 1⟩
abbrev CHN_CTRL_CLRFAULT : Field := ⟨.CHN_CTRL, 2, 1⟩
abbrev CHN_CTRL_HALT : Field := ⟨.CHN_CTRL, 1, 1⟩
abbrev CHN_CTRL_GO : Field := ⟨.CHN_CTRL, 0, 1⟩
abbrev CHN_STATUS_HREASON : Field := ⟨.CHN_STATUS, 16, 3⟩
abbrev CHN_STATUS_WAIT_Y : Field := ⟨.CHN_STATUS, 9, 1⟩
abbrev CHN_STATUS_WAIT_Q : Field := ⟨.CHN_STATUS, 8, 1⟩
abbrev CHN_STATUS_REGWIN_DROP : Field := ⟨.CHN_STATUS, 5, 1⟩
abbrev CHN_STATUS_PSWR_DROP : Field := ⟨.CHN_STATUS, 4, 1⟩
abbrev CHN_STATUS_OUTSTANDING : Field := ⟨.CHN_STATUS, 3, 1⟩
abbrev CHN_STATUS_GATE_HELD : Field := ⟨.CHN_STATUS, 2, 1⟩
abbrev CHN_STATUS_STATE : Field := ⟨.CHN_STATUS, 0, 2⟩
abbrev CHN_PC_PC : Field := ⟨.CHN_PC, 0, 13⟩
abbrev CHN_FAULT_HALTPC : Field := ⟨.CHN_FAULT, 48, 13⟩
abbrev CHN_FAULT_FAULTPC : Field := ⟨.CHN_FAULT, 32, 13⟩
abbrev CHN_FAULT_PRECISE : Field := ⟨.CHN_FAULT, 15, 1⟩
abbrev CHN_FAULT_MULTI : Field := ⟨.CHN_FAULT, 14, 1⟩
abbrev CHN_FAULT_SLOT : Field := ⟨.CHN_FAULT, 8, 3⟩
abbrev CHN_FAULT_CAUSE : Field := ⟨.CHN_FAULT, 0, 8⟩
abbrev CHN_FAULTINFO_INFO : Field := ⟨.CHN_FAULTINFO, 0, 64⟩
abbrev CHN_CYCLES_CYCLES : Field := ⟨.CHN_CYCLES, 0, 64⟩
abbrev CHN_BUNDLES_BUNDLES : Field := ⟨.CHN_BUNDLES, 0, 64⟩
abbrev CHN_STALL_WAIT : Field := ⟨.CHN_STALL, 32, 32⟩
abbrev CHN_STALL_OPND : Field := ⟨.CHN_STALL, 0, 32⟩
abbrev CHN_UNITS_MQ : Field := ⟨.CHN_UNITS, 20, 4⟩
abbrev CHN_UNITS_FEEDOK : Field := ⟨.CHN_UNITS, 16, 4⟩
abbrev CHN_UNITS_DMAQ : Field := ⟨.CHN_UNITS, 8, 5⟩
abbrev CHN_UNITS_DMAACT : Field := ⟨.CHN_UNITS, 0, 3⟩
abbrev MXA_STATUS_STAT_FMT : Field := ⟨.MXA_STATUS, 16, 4⟩
abbrev MXA_STATUS_STAT_VALID : Field := ⟨.MXA_STATUS, 15, 1⟩
abbrev MXA_STATUS_STAT_MODE : Field := ⟨.MXA_STATUS, 14, 1⟩
abbrev MXA_STATUS_TYPEMIX : Field := ⟨.MXA_STATUS, 9, 1⟩
abbrev MXA_STATUS_FMTMIX : Field := ⟨.MXA_STATUS, 8, 1⟩
abbrev MXA_STATUS_ACC3_TYPE : Field := ⟨.MXA_STATUS, 6, 2⟩
abbrev MXA_STATUS_ACC2_TYPE : Field := ⟨.MXA_STATUS, 4, 2⟩
abbrev MXA_STATUS_ACC1_TYPE : Field := ⟨.MXA_STATUS, 2, 2⟩
abbrev MXA_STATUS_ACC0_TYPE : Field := ⟨.MXA_STATUS, 0, 2⟩
abbrev MXA_DCTRL_DSHIFT : Field := ⟨.MXA_DCTRL, 0, 8⟩
abbrev MXA_BUSY_CYCLES : Field := ⟨.MXA_BUSY, 0, 64⟩
abbrev MXA_GATED_CELLS : Field := ⟨.MXA_GATED, 0, 64⟩
abbrev MXA_BYPACT_MASK : Field := ⟨.MXA_BYPACT, 0, 64⟩
abbrev MXA_BYPPEND_MASK : Field := ⟨.MXA_BYPPEND, 0, 64⟩
abbrev MXA_CTRES_MASK : Field := ⟨.MXA_CTRES, 0, 64⟩
abbrev MXA_BYPCMD_CMD_STATUS : Field := ⟨.MXA_BYPCMD, 16, 4⟩
abbrev MXA_BYPCMD_ROWFAIL : Field := ⟨.MXA_BYPCMD, 8, 1⟩
abbrev MXA_BYPCMD_COMMIT : Field := ⟨.MXA_BYPCMD, 1, 1⟩
abbrev MXA_BYPCMD_CTEST : Field := ⟨.MXA_BYPCMD, 0, 1⟩
abbrev REED_FAULT_VALID : Field := ⟨.REED_FAULT, 63, 1⟩
abbrev REED_FAULT_MULTI : Field := ⟨.REED_FAULT, 62, 1⟩
abbrev REED_FAULT_HELD : Field := ⟨.REED_FAULT, 61, 1⟩
abbrev REED_FAULT_LAUNCHPC : Field := ⟨.REED_FAULT, 48, 13⟩
abbrev REED_FAULT_RPC : Field := ⟨.REED_FAULT, 36, 12⟩
abbrev REED_FAULT_CODE : Field := ⟨.REED_FAULT, 16, 8⟩
abbrev REED_FAULT_LANE : Field := ⟨.REED_FAULT, 7, 6⟩
abbrev REED_FAULT_RANK : Field := ⟨.REED_FAULT, 0, 7⟩
abbrev REED_FAULTDET_DETAIL : Field := ⟨.REED_FAULTDET, 0, 32⟩
abbrev REED_DBGSEL_DROP : Field := ⟨.REED_DBGSEL, 15, 1⟩
abbrev REED_DBGSEL_RANK : Field := ⟨.REED_DBGSEL, 6, 7⟩
abbrev REED_DBGSEL_LANE : Field := ⟨.REED_DBGSEL, 0, 6⟩
abbrev REED_INSNS_COUNT : Field := ⟨.REED_INSNS, 0, 64⟩
abbrev REED_PSTALL_COUNT : Field := ⟨.REED_PSTALL, 0, 64⟩
abbrev REED_RSTAT_LIVE : Field := ⟨.REED_RSTAT, 16, 7⟩
abbrev REED_RSTAT_STOPPED : Field := ⟨.REED_RSTAT, 3, 1⟩
abbrev REED_RSTAT_PEND : Field := ⟨.REED_RSTAT, 2, 1⟩
abbrev REED_RSTAT_STATE : Field := ⟨.REED_RSTAT, 0, 2⟩
abbrev WCH_CCTRL_CLEAR : Field := ⟨.WCH_CCTRL, 1, 1⟩
abbrev WCH_CCTRL_FREEZE : Field := ⟨.WCH_CCTRL, 0, 1⟩
abbrev WCH_ECC_UNCORR : Field := ⟨.WCH_ECC, 24, 8⟩
abbrev WCH_ECC_POISFEED : Field := ⟨.WCH_ECC, 16, 8⟩
abbrev WCH_ECC_CORR : Field := ⟨.WCH_ECC, 0, 16⟩
abbrev WCH_BCW_WWAIT : Field := ⟨.WCH_BCW, 32, 32⟩
abbrev WCH_BCW_GSLOT : Field := ⟨.WCH_BCW, 0, 32⟩
abbrev WCH_BCN_CWAIT : Field := ⟨.WCH_BCN, 32, 32⟩
abbrev WCH_BCN_RWAIT : Field := ⟨.WCH_BCN, 0, 32⟩
abbrev LIG_CMD_OP : Field := ⟨.LIG_CMD, 8, 3⟩
abbrev LIG_CMD_HANDLE : Field := ⟨.LIG_CMD, 0, 6⟩
abbrev LIG_CMDST_PENDING : Field := ⟨.LIG_CMDST, 31, 1⟩
abbrev LIG_CMDST_DROPPED : Field := ⟨.LIG_CMDST, 30, 1⟩
abbrev LIG_CMDST_HANDLE : Field := ⟨.LIG_CMDST, 8, 6⟩
abbrev LIG_CMDST_STATUS : Field := ⟨.LIG_CMDST, 0, 8⟩
abbrev LIG_STAGE_BASE_ROW : Field := ⟨.LIG_STAGE, 32, 11⟩
abbrev LIG_STAGE_SIZE : Field := ⟨.LIG_STAGE, 0, 18⟩
abbrev LIG_STAGEMASK_BANKMASK : Field := ⟨.LIG_STAGEMASK, 0, 64⟩
abbrev LIG_COUNT_SCRUBBING : Field := ⟨.LIG_COUNT, 24, 7⟩
abbrev LIG_COUNT_LOCKED : Field := ⟨.LIG_COUNT, 16, 7⟩
abbrev LIG_COUNT_ALLOCATED : Field := ⟨.LIG_COUNT, 8, 7⟩
abbrev LIG_COUNT_FREE : Field := ⟨.LIG_COUNT, 0, 7⟩
abbrev LIG_HDESC_STATE : Field := ⟨.LIG_HDESC, 62, 2⟩
abbrev LIG_HDESC_INFLIGHT : Field := ⟨.LIG_HDESC, 32, 20⟩
abbrev LIG_HDESC_BASE_ROW : Field := ⟨.LIG_HDESC, 18, 11⟩
abbrev LIG_HDESC_SIZE : Field := ⟨.LIG_HDESC, 0, 18⟩
abbrev LIG_HMASK_BANKMASK : Field := ⟨.LIG_HMASK, 0, 64⟩
abbrev QUE_STATUS_ORPHAN : Field := ⟨.QUE_STATUS, 16, 1⟩
abbrev QUE_STATUS_POOLUSED : Field := ⟨.QUE_STATUS, 0, 12⟩
abbrev QUE_CFGST_TARGET : Field := ⟨.QUE_CFGST, 16, 1⟩
abbrev QUE_CFGST_INDEX : Field := ⟨.QUE_CFGST, 8, 8⟩
abbrev QUE_CFGST_STATUS : Field := ⟨.QUE_CFGST, 0, 8⟩
abbrev QUE_QCTL_OP : Field := ⟨.QUE_QCTL, 8, 2⟩
abbrev QUE_QCTL_Q : Field := ⟨.QUE_QCTL, 0, 5⟩
abbrev QUE_AUDCMD_CH : Field := ⟨.QUE_AUDCMD, 0, 8⟩
abbrev QUE_AUDRES_BUSY : Field := ⟨.QUE_AUDRES, 63, 1⟩
abbrev QUE_AUDRES_DROPPED : Field := ⟨.QUE_AUDRES, 62, 1⟩
abbrev QUE_AUDRES_STATUS : Field := ⟨.QUE_AUDRES, 59, 3⟩
abbrev QUE_AUDRES_CH : Field := ⟨.QUE_AUDRES, 48, 8⟩
abbrev QUE_AUDRES_GRANT : Field := ⟨.QUE_AUDRES, 30, 10⟩
abbrev QUE_AUDRES_CRED : Field := ⟨.QUE_AUDRES, 20, 10⟩
abbrev QUE_AUDRES_OCC : Field := ⟨.QUE_AUDRES, 10, 10⟩
abbrev QUE_AUDRES_RET : Field := ⟨.QUE_AUDRES, 0, 10⟩
abbrev QUE_ROT_LAST : Field := ⟨.QUE_ROT, 0, 5⟩
abbrev QUE_QCFG_MODE : Field := ⟨.QUE_QCFG, 62, 1⟩
abbrev QUE_QCFG_WAKE : Field := ⟨.QUE_QCFG, 61, 1⟩
abbrev QUE_QCFG_DEPTH : Field := ⟨.QUE_QCFG, 56, 4⟩
abbrev QUE_QCFG_CRES : Field := ⟨.QUE_QCFG, 46, 10⟩
abbrev QUE_QCFG_SRCEP : Field := ⟨.QUE_QCFG, 32, 12⟩
abbrev QUE_QCFG_SRCCH : Field := ⟨.QUE_QCFG, 24, 8⟩
abbrev QUE_QSTAT_READER : Field := ⟨.QUE_QSTAT, 62, 2⟩
abbrev QUE_QSTAT_EPOCH : Field := ⟨.QUE_QSTAT, 32, 16⟩
abbrev QUE_QSTAT_RESV : Field := ⟨.QUE_QSTAT, 20, 10⟩
abbrev QUE_QSTAT_NOCC : Field := ⟨.QUE_QSTAT, 10, 10⟩
abbrev QUE_QSTAT_OCC : Field := ⟨.QUE_QSTAT, 0, 10⟩
abbrev QUE_QDISC_CLOSED : Field := ⟨.QUE_QDISC, 48, 16⟩
abbrev QUE_QDISC_EPOCH : Field := ⟨.QUE_QDISC, 32, 16⟩
abbrev QUE_QDISC_NOROUTE : Field := ⟨.QUE_QDISC, 16, 16⟩
abbrev QUE_QDISC_OVF : Field := ⟨.QUE_QDISC, 0, 16⟩
abbrev QUE_ROUTEA_VALID : Field := ⟨.QUE_ROUTEA, 63, 1⟩
abbrev QUE_ROUTEA_KIND : Field := ⟨.QUE_ROUTEA, 62, 1⟩
abbrev QUE_ROUTEA_DTYPE : Field := ⟨.QUE_ROUTEA, 60, 2⟩
abbrev QUE_ROUTEA_DPORT : Field := ⟨.QUE_ROUTEA, 56, 4⟩
abbrev QUE_ROUTEA_DID : Field := ⟨.QUE_ROUTEA, 50, 6⟩
abbrev QUE_ROUTEA_DQ : Field := ⟨.QUE_ROUTEA, 45, 5⟩
abbrev QUE_ROUTEA_RETQ : Field := ⟨.QUE_ROUTEA, 40, 5⟩
abbrev QUE_ROUTEA_TAG : Field := ⟨.QUE_ROUTEA, 32, 8⟩
abbrev QUE_ROUTEA_DEPOCH : Field := ⟨.QUE_ROUTEA, 16, 16⟩
abbrev QUE_ROUTEA_GRANT : Field := ⟨.QUE_ROUTEA, 0, 10⟩
abbrev QUE_ROUTEB_CRCE : Field := ⟨.QUE_ROUTEB, 63, 1⟩
abbrev QUE_ROUTEB_CRCN : Field := ⟨.QUE_ROUTEB, 56, 6⟩
abbrev QUE_ROUTEB_CTRV : Field := ⟨.QUE_ROUTEB, 55, 1⟩
abbrev QUE_ROUTEB_CTRPOOL : Field := ⟨.QUE_ROUTEB, 54, 1⟩
abbrev QUE_ROUTEB_CTRIDX : Field := ⟨.QUE_ROUTEB, 40, 14⟩
abbrev QUE_RSTAT_FAULTED : Field := ⟨.QUE_RSTAT, 63, 1⟩
abbrev QUE_RSTAT_ORPHAN : Field := ⟨.QUE_RSTAT, 62, 1⟩
abbrev QUE_RSTAT_CRED : Field := ⟨.QUE_RSTAT, 48, 10⟩
abbrev QUE_RSTAT_ORPHANS : Field := ⟨.QUE_RSTAT, 32, 16⟩
abbrev QUE_RSTAT_SEQ : Field := ⟨.QUE_RSTAT, 0, 32⟩
abbrev SYN_LCVAL_VALUE : Field := ⟨.SYN_LCVAL, 0, 32⟩
abbrev SYN_LCARM_EN : Field := ⟨.SYN_LCARM, 63, 1⟩
abbrev SYN_LCARM_FIRED : Field := ⟨.SYN_LCARM, 62, 1⟩
abbrev SYN_LCARM_TARGET : Field := ⟨.SYN_LCARM, 0, 32⟩
abbrev SYN_WSTAT_LONG : Field := ⟨.SYN_WSTAT, 31, 1⟩
abbrev SYN_WSTAT_WATCH : Field := ⟨.SYN_WSTAT, 30, 1⟩
abbrev SYN_WSTAT_ASLOTS : Field := ⟨.SYN_WSTAT, 24, 4⟩
abbrev SYN_LWAIT_ENTRIES : Field := ⟨.SYN_LWAIT, 32, 32⟩
abbrev SYN_LWAIT_TICKS : Field := ⟨.SYN_LWAIT, 0, 32⟩
abbrev SYN_ASLOT_VALID : Field := ⟨.SYN_ASLOT, 63, 1⟩
abbrev SYN_ASLOT_DONE : Field := ⟨.SYN_ASLOT, 62, 1⟩
abbrev SYN_ASLOT_ABORTED : Field := ⟨.SYN_ASLOT, 61, 1⟩
abbrev SYN_ASLOT_BID : Field := ⟨.SYN_ASLOT, 32, 12⟩
abbrev SYN_ASLOT_PHASE : Field := ⟨.SYN_ASLOT, 0, 32⟩

end Fld

end Sys2Proof.Machine
end

