-- ==== Sys2Proof/Machine/State.lean ====
section
/-!
DEFINITION. Machine/State.lean: the state of the device as plain data, and its value at reset.  Every register that
software can read lies in `State.regs` (the register map of Machine/Regs.lean); the structures below hold the state
that registers do not show: the contents of queues, the chanter's own registers, work in progress, and so on.
-/

namespace Sys2Proof.Machine

/-- Reasons for which the device would stop.  No command of the block raises one: R759 promises no behaviour while a
rail is out of its range, and no command runs the device in that condition.  Safe.
(DESIGN CHOICE, log 73.) -/
inductive Fault
  | railOutOfRange
  deriving DecidableEq, Repr

/-- Reasons for which a command has no meaning here. -/
inductive Refusal
  /-- The command has no meaning in this model yet.  Raised by a dispatch arm only; safe. -/
  | notModelled (mnemonic : String)
  /-- Raised by `BOUNDARY_SCAN` for a private TAP instruction whose debug permission is granted: R749 names such
  instructions and gives none of their effects.  Safe. -/
  | privateTapInstruction
  deriving DecidableEq, Repr

/-! ### Windway -/

/-- One entry of a queue (R290). -/
structure QEntry where
  msg    : Message
  isNack : Bool                -- a landed NACK message
  sig    : Bool                -- SIG flag (R305)
  nspace : Bool                -- occupies NACK space (R291)
  deriving DecidableEq, Repr

/-- A participant of a barrier (R330). -/
inductive Participant
  | chanter (b : Nat)
  | rank (b r id : Nat)          -- a rank, for a launch on it (R231)
  deriving DecidableEq, Repr

/-- Who issued a memory access, so that its data or acknowledgement finds its way back. -/
inductive Accessor
  | chanter (b : Nat)
  | engine (b : Nat)
  | rank (b r : Nat)
  | unit (u : HubUnit)
  | port (k : Nat)
  deriving DecidableEq, Repr

/-- The status an access carries back (R38, R41). -/
inductive AccStatus
  | ok | unmapped | dark | poison
  deriving DecidableEq, Repr

/-- One transfer's content. -/
inductive Packet
  | write (who : Accessor) (id ctx addr : Nat) (data : List Byte) (poisoned : Bool)
  | read (who : Accessor) (id ctx addr len : Nat)   -- `ctx` is the context that the access carries, 1024 for none (R446)
  | readData (who : Accessor) (id addr : Nat) (data : List Byte) (st : AccStatus)
  | writeAck (who : Accessor) (id ctx addr : Nat) (st : AccStatus)
  | message (did q : Nat) (m : Message)   -- DID and DQ of the route (R287)
  | chanInc (did q : Nat) (i : ChanInc)
  | nackMsg (o : Origin) (n : NackMsg)
  | creditRet (r : Origin) (orphan : Bool)
  | release (r : Origin)
  | orphanMark (r : Origin)
  | auditMarker (did q : Nat) (r : Origin)
  | auditReply (r : Origin) (oc : Nat)
  | poolInc (idx amt ctx : Nat)
  | watch (b idx : Nat) (target : Word32) (ctx : Nat)
  | watchAns (b : Nat) (reached : Bool)
  | barArrive (p : Participant) (bid ctx : Nat)
  | barDone (p : Participant) (bid : Nat) (phase : Word32) (aborted : Bool)
  deriving DecidableEq, Repr

/-- One transfer of the windway: its class and ordered path (R26, R28) and its content. -/
structure Transfer where
  cls : XClass
  src : Endpoint
  dst : Endpoint
  pkt : Packet
  deriving DecidableEq, Repr

/-! ### Chanter -/

/-- A chanter register (R84). -/
inductive RegRef
  | g (n : Nat) | a (n : Nat) | d (n : Nat) | p (n : Nat)
  deriving DecidableEq, Repr

/-- A pending register write: the value computed at issue, not yet written (R93). -/
structure PendWrite where
  dst : RegRef
  val : Word256
  deriving DecidableEq, Repr

/-- The mapping of a handle as an operation captured it (R264); `h` counts in INFLIGHT. -/
structure HMap where
  h    : Nat
  row  : Nat
  mask : Word64
  deriving DecidableEq, Repr

/-- Where an L-slot access goes: through a handle of the own windchest, or to a context address. -/
inductive LTarget
  | handle (m : HMap) (off : Nat)
  | ctxAddr (a : Nat)
  deriving DecidableEq, Repr

/-- A register load in flight (R146). `back` holds what returned over the windway. -/
structure ChLoad where
  id   : Nat
  dst  : RegRef
  len  : Nat
  tgt  : LTarget
  pc   : Nat
  back : Option (List Byte × AccStatus × Nat)
  deriving DecidableEq, Repr

/-- A store not yet acknowledged, with the handle it captured and its bundle. -/
structure StoreWait where
  id : Nat
  h  : Option Nat
  pc : Nat
  deriving DecidableEq, Repr

/-- A context-address access that awaits its translation walk (R99, R445). -/
structure ChXlate where
  id    : Nat
  load  : Bool
  len   : Nat
  data  : List Byte
  caddr : Nat
  ctx   : Nat                  -- context it carries, 1024 for none (R446)
  pc    : Nat
  deriving DecidableEq, Repr

/-- A fault status that returned after issue (R110), in detection order. -/
structure ImpFault where
  cause : Nat
  slot  : Nat
  pc    : Nat
  info  : Word64
  deriving DecidableEq, Repr

/-- How a chanter that no longer issues will come to rest once no register write is outstanding (R90, R91). -/
inductive StopKind
  | halted (hreason : Nat) (pc : Nat)
  | faulted (f : ImpFault) (precise multi : Bool) (haltpc : Nat)
  deriving DecidableEq, Repr

/-- A request of the DMA engine (R147 to R149). -/
structure DmaReq where
  id    : Nat
  fill  : Bool
  dd    : Word256
  ds    : Word256
  dh    : Option HMap
  sh    : Option HMap
  fillv : Word64
  ck    : Nat
  cn    : Nat
  ch    : Nat
  tag   : Nat
  seed  : Word64
  ctx   : Nat
  pc    : Nat
  moving : Bool
  copied : Bool                -- every write acknowledged; the completion is left to signal (R297)
  deriving DecidableEq, Repr

/-- An MFEED whose tile has not wholly arrived (R150). -/
structure FeedReq where
  fb   : Nat
  ds   : Word256
  sh   : HMap
  tfmt : Nat
  seed : Word64
  deriving DecidableEq, Repr

/-- A slot of a feed buffer or a cell of the stationary set: an encoding and its E8M0 scale (R174). -/
structure Cell16 where
  enc   : BitVec 16
  scale : Byte
  deriving DecidableEq, Repr

/-- A feed buffer: the format it was filled with and its slots outside zero (R173); key 128 × row + column. -/
structure FeedBuf where
  tfmt  : Nat
  slots : Map Cell16
  deriving DecidableEq, Repr

/-- How far an accepted array instruction has come (R184): it waits to begin; it runs, reading its buffers or its bank; or that
read is over, with an MRUN's tail still to write its bank, or a drain's writes still to be issued. -/
inductive ArrPhase
  | waits | runs | tail
  deriving DecidableEq, Repr

/-- An accepted array instruction (R152): its slot word and what it captured at issue. -/
structure ArrOp where
  word   : Word64
  dd     : Word256
  dh     : Option HMap
  dshift : BitVec 8
  seed   : Word64
  phase  : ArrPhase
  deriving DecidableEq, Repr

/-- A drain that has read its bank and awaits its write acknowledgements (R153). -/
structure DrainWait where
  cn : Option Nat
  h  : Nat
  deriving DecidableEq, Repr

/-- The watch of a bore (R336). -/
structure Watch where
  idx    : Nat
  target : Word32
  answer : Option Bool
  deriving DecidableEq, Repr

/-- A YBAR or YARR arrival that waits for earlier writes before it leaves (R342). -/
structure ArrWait where
  slot : Nat
  bid  : Nat
  ctx  : Nat
  deps : List Nat              -- ids of writes that must be acknowledged first
  dmas : List Nat              -- ids of DMA requests that must complete first
  drains : Nat                 -- drains that must complete first
  deriving DecidableEq, Repr

/-- The chanter's state that its registers do not show. -/
structure Chanter where
  g : Map Word64
  a : Map (BitVec 48)
  d : Map Word256
  p : Map Bool
  pend    : List PendWrite
  loads   : List ChLoad
  xlate   : List ChXlate
  stores  : List StoreWait       -- stores not yet acknowledged (R92 fence)
  nextId  : Nat
  imp     : List ImpFault
  stop    : Option StopKind
  step1   : Bool                 -- a STEP is in progress (R90)
  met     : Bool                 -- the held bundle has met every other gate condition (R94)
  judged  : Bool                 -- its Y slot passed the check of R351 when it first met them
  bubble  : Nat                  -- cycles of a taken branch in which no bundle issues yet (R102)
  tout    : List Nat             -- its slots whose timeout has been reached (R166)
  barSlot : Option (Nat × Nat)   -- bundle index and slot of a YBAR that has arrived (R349)
  watch   : Option Watch
  dma     : List DmaReq
  feeds   : List FeedReq
  arrq    : List ArrOp
  drains  : List DrainWait
  deriving DecidableEq, Repr

/-- The matrix array's cells, banks and maps (R173 to R177, R189). -/
structure MatArray where
  feed   : Map FeedBuf            -- key 0 to 3
  stat   : Map Cell16             -- the stationary set, key 128 × row + column
  acc    : Map Word32             -- key 16384 × bank + 128 × row + column
  testing    : Bool
  committing : Bool
  applied    : BitVec 128         -- the applied map in drone SRAM (R189)
  deriving DecidableEq, Repr

/-! ### Reeds -/

/-- A launch (R215 to R218, R230). -/
structure Launch where
  id    : Nat
  ranks : List Nat
  entry : Nat
  arg0  : Word64
  arg1  : Word64
  cn    : Option Nat
  pc    : Nat                    -- bundle that issued it
  left  : List Nat               -- ranks on which it has not finished
  dead  : Bool                   -- a rank of it was stopped (R233)
  deriving DecidableEq, Repr

/-- A VKLOAD in progress (R216). -/
structure KLoad where
  ranks : List Nat
  m     : HMap
  off   : Nat
  kaddr : Nat
  count : Nat
  cn    : Option Nat
  deriving DecidableEq, Repr

/-- What a reed is doing. -/
inductive ReedMode
  | ended
  | running
  | rbar (scope : Nat)           -- waiting in RBAR
  | rgbar (bid : Nat)            -- waiting in RGBAR
  deriving DecidableEq, Repr

/-- A WLD in flight (R226). -/
structure ReedLoad where
  rt  : Nat
  sz  : Nat
  m   : HMap
  off : Nat
  pc  : Nat                      -- its index in the kernel store
  lid : Nat                      -- the launch that issued it, and that launch's bundle
  lpc : Nat
  deriving DecidableEq, Repr

/-- One reed's state beside its registers and cell memory (R210). -/
structure Reed where
  pc    : Nat
  mode  : ReedMode
  loads : List ReedLoad
  bars0 : Nat                    -- RBAR executions of scope 0 in this launch (R230)
  bars1 : Nat
  deriving DecidableEq, Repr

/-- One rank's state beside REED_RSTAT (R213, R231). -/
structure Rank where
  cur     : Option Nat           -- id of the running launch
  pendl   : Option Nat           -- id of the pending launch
  stopping : Bool
  gsent   : Option Nat           -- a package-barrier arrival sent, not yet completed
  deriving DecidableEq, Repr

/-- A handle command written and not yet in effect (R266). -/
structure LigCmd where
  op     : Nat
  handle : Nat
  stage  : Word64
  mask   : Word64
  host   : Bool
  deriving DecidableEq, Repr

/-- The ligature table's state beside its registers (R265 to R267). -/
structure Lig where
  cmd     : Option LigCmd
  rmStage : Word64               -- the residency manager's staging set
  rmMask  : Word64
  scrubs  : List Nat             -- handles waiting to be scrubbed, oldest first
  active  : Bool                 -- the first of them has started
  deriving DecidableEq, Repr

/-- A channel audit in progress (R311). -/
structure Audit where
  ch : Nat
  rt : Nat
  deriving DecidableEq, Repr

/-- A reservation that a message on a NACK channel holds: its channel and SEQ, the return queue, and that queue's EPOCH when it was
taken (R296, R314). -/
structure Resv where
  ch   : Nat
  seq  : Word32
  retq : Nat
  ep   : Nat
  deriving DecidableEq, Repr

/-- The vestibule's state beside its registers. -/
structure Vestibule where
  queues : Map (List QEntry)     -- key 0 to 31, oldest entry first
  taken  : List Nat              -- queues from which a message was taken in this epoch (FIRST flag)
  audit  : Option Audit
  slots  : List Nat              -- arrival slots in use, oldest first (R342)
  arrs   : List ArrWait
  stuck  : List Nat              -- route entries left stuck until the next rebuild (R471)
  orphanAud : List Nat           -- channels of audits that a reset ended before their reply (R311)
  resv   : List Resv             -- reservations that messages on NACK channels hold, oldest first (R296)
  deriving DecidableEq, Repr

/-! ### Stage schedulers and the stash engine (chapter Running a pipeline stage) -/

/-- A stash-out or restore in progress (R382, R383): the chunk position is entry `e`, byte `off`. -/
structure StashJob where
  tag    : Nat
  ord    : Nat
  e      : Nat
  off    : Nat
  poison : Bool
  open1  : Bool                -- the header has been written (stash-out) or checked (restore)
  deriving DecidableEq, Repr

/-- A stage scheduler beside its registers (R365, R371, R372). -/
structure Sched where
  fwdIn  : List Nat
  bwdIn  : List Nat
  fwdOut : List Nat
  bwdOut : List Nat
  live   : List (Nat × Bool × Nat)   -- dispatched and not yet done: tag, backward, ordinal
  early  : List TagMsg
  inbox  : List TagMsg         -- delivered by crook ports, not yet judged
  resume : Nat                 -- STATE that STOP interrupted (R389)
  outs   : List StashJob
  ins    : List StashJob
  late   : List Nat            -- tags already counted in PFLATE
  deriving DecidableEq, Repr

/-! ### Health sets (chapter Training state and numeric health) -/

/-- A health set beside its registers (R420, R428, R418). -/
structure Health where
  holdNext : Bool
  evaluated : Bool             -- the step's evaluation has happened (R426)
  verdict  : Option Bool       -- in PUBLISH: true for COMMIT
  rounds   : List Nat          -- slots with a complete round whose increment has not been sent
  amaxTotal : Nat              -- total of non-finite AMAX reports (R409), which no register shows
  deriving DecidableEq, Repr

/-! ### Contexts and residency (chapter Partitions, contexts and model residency) -/

/-- What a context holds on one bore it is bound to (R456). -/
structure BoreBind where
  bore    : Nat
  ib      : Nat
  psBase  : Nat
  nps     : Nat
  rBase   : Nat
  nrank   : Nat
  rowBase : Nat
  nrow    : Nat
  entry   : Nat
  handles : List Nat
  saves   : List Nat           -- physical handles of SAVE declarations, in declaration order
  queues  : List Nat
  lctrs   : List Nat
  chans   : List Nat
  startq  : Option Nat
  epochs  : List Nat           -- EPOCH of each declared queue when the context was bound (R517)
  deriving DecidableEq, Repr

/-- A context beside its registers. -/
structure Ctx where
  binds  : List BoreBind
  image  : List Byte           -- the image of a load, from its checks until its binding (R452)
  variant : Nat                -- the variant that fits
  blocks : List Nat            -- physical pool blocks and barriers granted by the load, in declared order
  bars   : List Nat
  started : Nat                -- order of its latest start, 0 when never started (R460)
  faulted : Option Nat         -- the bore whose fault ends it
  cause  : Nat                 -- ENDCAUSE to record
  deriving DecidableEq, Repr

/-- A message held for a context that is not resident (R458). -/
structure HeldMsg where
  ctx : Nat
  ib  : Nat
  dq  : Nat
  msg : Message
  deriving DecidableEq, Repr

/-- A rebuild (R463): the bore it substitutes, whether a PARTITION error asked for it (R697), whether it has begun, and its
partitions. -/
structure Rebuild where
  subst : Option Nat
  auto  : Bool
  begun : Bool
  parts : List Nat
  deriving DecidableEq, Repr

/-- A partition beside its registers: its arrival hold and a rebuild in progress. -/
structure Part where
  hold    : List HeldMsg
  rebuild : Option Rebuild       -- a rebuild asked for or running
  deriving DecidableEq, Repr

/-- A cached translation entry (R445): level 1 or 2, the context address bits that select it, and the entry. -/
structure TlbEntry where
  ctx   : Nat
  level : Nat
  key   : Nat
  ent   : Word64
  deriving DecidableEq, Repr

/-! ### Crook ports (chapter Crook links) -/

/-- A command in a DQ of a port (R484). -/
structure CrkCmd where
  words : List Word32
  bore  : Nat
  ch    : Nat
  deriving DecidableEq, Repr

/-- A PUTID that awaits its ACK (R485). -/
structure PutWait where
  putid : Nat
  lcn   : Option Nat
  bore  : Nat
  ch    : Option Nat              -- channel of a command whose credit has not returned (R484)
  fwd   : Option (Nat × Nat)      -- a forwarded PUT: the port and PUTID its ACK returns on (R489)
  deriving DecidableEq, Repr

/-- One flit's share of a transfer (R480, R482): FIRST, LEN, POISON, and the body without the zeros that fill it up. -/
structure Share where
  first  : Bool
  len    : Nat
  poison : Nat
  body   : List Byte
  deriving DecidableEq, Repr

/-- A transfer accepted for sending: its lane, the flits not yet transmitted, and whether more of them are still to come from the
port that forwards it (R489). -/
structure TxXfer where
  vl    : Nat
  parts : List Share
  more  : Bool
  body  : XferBody
  deriving DecidableEq, Repr

/-- A flit of the replay buffer (R492): `last` in a transfer's last flit. -/
structure Flit where
  seq  : Nat
  vl   : Nat
  part : Share
  last : Option XferBody
  deriving DecidableEq, Repr

/-- An inbound window's fields as a port captures them for a PUT (R487). -/
structure WinCap where
  valid : Bool
  fwd   : Bool
  wctx  : Nat
  base  : Nat
  nwin  : Nat
  nport : Nat
  size  : Nat
  deriving DecidableEq, Repr

/-- A received flit in its lane's buffer: in a transfer's first flit, the transfer and the window captured for it.  `owed` says that
a credit returns when it leaves. -/
structure RxPart where
  vl   : Nat
  part : Share
  head : Option (XferBody × WinCap)
  owed : Bool
  deriving DecidableEq, Repr

/-- What becomes of an inbound transfer of several flits: written, sent on by a port under a PUTID, added to a bucket, or
discarded. -/
inductive RxMode
  | write | forward (n putid : Nat) | add (pois : Bool) | drop
  deriving DecidableEq, Repr

/-- An inbound transfer of which some flits have left their lane's buffer: `got` bytes of data. -/
structure RxCur where
  vl   : Nat
  body : XferBody
  win  : WinCap
  mode : RxMode
  got  : Nat
  deriving DecidableEq, Repr

/-- What a port has put on its lanes in the latest flit time (R481, R498). -/
inductive LinkOut
  | quiet | flit (bytes : List Byte) | init (i : InitFlit)
  deriving DecidableEq, Repr

/-- A PUT at the receiving port whose writes are not all acknowledged (R487, R488). -/
structure PutIn where
  back  : Bool
  putid : Nat
  rinc  : Nat
  wctx  : Nat
  deriving DecidableEq, Repr

/-- A crook port beside its registers. -/
structure Port where
  dq0    : List CrkCmd
  dq1    : List CrkCmd
  dq2    : List CrkCmd
  putid  : Nat                    -- the next fresh PUTID
  waits  : List PutWait
  txq    : List TxXfer             -- transfers not wholly transmitted, in the order in which they were accepted
  held   : List Flit              -- the replay buffer, oldest first (R492)
  resend : Nat                    -- flits of the replay buffer still to retransmit
  rot    : Nat                    -- position of the weighted rotation (R495)
  rx     : List RxPart            -- received flits that have not left their buffer, oldest first
  cur    : List RxCur             -- transfers that are leaving it, at most one of each lane
  skip   : List Nat               -- lanes on which a transfer of no defined KIND is arriving (R483)
  crtot  : List Nat               -- running totals of credits returned on each lane (R493)
  crsent : List Nat               -- the totals last reported to the peer
  crlast : Nat                    -- the lane last reported
  crseen : List Nat               -- the totals last received from the peer
  nak    : Bool                   -- this side sends NAK (R491)
  nakSeen : Bool                  -- the latest good flit carried NAK, and has been acted on
  replays : Nat                   -- replays without ACK progress (R499)
  ucs    : List (Nat × Nat)       -- uncorrectable codewords of the last millisecond: when, and how many (R499)
  putsIn : List PutIn
  out    : LinkOut
  deriving DecidableEq, Repr

/-! ### Host interface (chapter Host interface) -/

/-- What the device has put on the host link, in the order it issued it (R525). -/
inductive HostTlp
  | write (fn addr : Nat) (data : List Byte) (poisoned : Bool)   -- a memory write, poisoned or not (R707)
  | read (fn addr len : Nat)                                     -- a memory read request (R525, R526)
  | msix (fn vec : Nat) (addr : Word64) (data : Word32)          -- an MSI-X message: what its table entry holds (R528)
  deriving DecidableEq, Repr

/-- A read of host memory that has been transmitted and not answered (R526): its requester, the context it carries and the
function it is made for, and how many read requests carry it. -/
structure HostRead where
  who  : Accessor
  id   : Nat
  ctx  : Nat
  fn   : Nat
  addr : Nat
  len  : Nat
  tlps : Nat
  deriving DecidableEq, Repr

/-- The address and the data of an MSI-X table entry (R528). -/
structure MsixEntry where
  addr : Word64
  data : Word32
  deriving DecidableEq, Repr

/-- What PCIe configuration registers hold that this model uses (R508, R526, R528): sizes as powers of two, the Completion
Timeout range as Device Control 2 codes it, and of each function whether it is in D3hot, whether it may send MSI-X messages
and whether its function mask is set. -/
structure PcieCfg where
  mps    : Nat                 -- log2 of Max Payload Size
  mrrs   : Nat                 -- log2 of Max Read Request Size
  cto    : Nat
  aspmL1 : Bool
  d3hot  : List Nat
  msixEn : List Nat
  fmask  : List Nat
  deriving DecidableEq, Repr

/-- A doorbell's status (R516). -/
structure Doorbell where
  cred   : Nat
  orphan : Bool
  drops  : Nat
  deriving DecidableEq, Repr

/-- A host ring's counts (R516, R523). -/
structure Ring where
  head : Word32
  tail : Word32
  arm  : Bool
  ovf  : Nat
  deriving DecidableEq, Repr

/-- A doorbell message that has taken its credit and waits for earlier writes of its function (R520). -/
structure DbMsg where
  fn  : Nat
  ctx : Nat
  db  : Nat
  msg : Message
  deriving DecidableEq, Repr

/-- What an operation of the residency manager does: a load that has not been checked, one that is bound next, an
eviction, an ending, or the rebuild of a partition. -/
inductive RmKind
  | load | bind | evict | evictRun | ending | endRun | rebuild
  deriving DecidableEq, Repr

/-- An operation of the residency manager (R465): its context, or the partition of a rebuild, and whether an arrival began
it (R458). -/
structure RmCmd where
  kind   : RmKind
  target : Nat
  demand : Bool
  deriving DecidableEq, Repr

/-- The host interface beside its registers. -/
structure HostIf where
  linkUp   : Bool
  ready    : Bool              -- the drone has declared the host interface ready (R530)
  inReset  : Bool              -- a host reset is being carried out (R532)
  flr      : List Nat          -- VFs under FLR (R531)
  bells    : Map Doorbell      -- key 8 × context + doorbell
  rings    : Map Ring
  dbq      : List DbMsg
  unmasked : List Nat          -- MSI-X vectors whose mask bit is clear, 4096 × function + vector
  vpend    : List Nat          -- pending MSI-X vectors (R528)
  sent     : List HostTlp      -- requests transmitted to the host, in order
  aer      : List Nat          -- AER status bits that have been reported (R714)
  b4log    : Nat               -- log2 of the size of BAR4 (R514)
  rpois    : Bool              -- the latest BAR4 read completed poisoned (R534)
  retry    : Bool              -- the latest configuration request completed with Request Retry Status (R530)
  reads    : List HostRead     -- reads of host memory outstanding, oldest first (R526)
  cfg      : PcieCfg
  msixTab  : Map MsixEntry     -- MSI-X tables, 4096 × function + vector (R509)
  deriving DecidableEq, Repr

/-! ### Drone, bellows and boot (chapters Drone, bellows and waking; From cold to the first bundle) -/

/-- A movement of tokens that has been debited and not yet credited (R552); `to` none credits the pool. -/
structure TokenMove where
  amt : Nat
  dst : Option Nat
  deriving DecidableEq, Repr

/-- Where a bore's retirement stands (R571). -/
inductive RetireStep
  | none | waitWork | drain
  deriving DecidableEq, Repr

/-- A bore's power state beside DRN_BPST (R550, R559, R767). -/
structure Power where
  entering : Option Nat          -- the state being entered, as DRN_BPST codes it
  goal     : Option Nat          -- the state a DRN_BPCMD drives to through it (R557)
  waking   : Bool
  held     : Option Nat          -- a trigger held until an entry completes (R559)
  leaving  : Option Nat          -- leaving OFF: LASTWAKE code to record (R574)
  powered  : Bool                -- the floor has been taken for leaving OFF
  retire   : RetireStep
  retReq   : Bool                -- retirement accepted and not yet at step 1
  abandoned : Bool
  epochs   : Map Nat             -- the epochs the stub keeps (R573)
  deriving DecidableEq, Repr

/-- The drone and the bellows beside their registers. -/
structure Drone where
  wakeq    : List (Nat × Nat)    -- wake triggers sent and not yet at their bore: bore, code (R558)
  moves    : List TokenMove
  thermCap : Nat
  powerCap : Nat
  coolMs   : Nat                 -- milliseconds for which every diode has stayed below TTHROT - THYST (R564)
  lowMs    : Nat                 -- milliseconds for which the power sum has stayed below LIMIT (R565)
  overs    : Nat                 -- consecutive sums above LIMIT (R565)
  rotLow   : Nat                 -- last bore served below SHARE (R561)
  rotHigh  : Nat
  limPend  : Bool                -- a LIMIT write takes effect at the next period (R578)
  fanDuty  : Map Nat             -- percent that each fan is driven at (R568)
  trip     : Bool                -- THERMTRIP_N is asserted (R566)
  deriving DecidableEq, Repr

/-- The fuses (R590, R597): what manufacture blew, and the security-version floor. -/
structure Fuses where
  keyHash  : List Byte
  dbgHash  : List Byte
  svnMin   : Nat
  uid      : List Byte           -- the 64-bit unique device ID, 8 bytes
  qspare   : Word32
  hbmCfg   : Nat                 -- DRN_DEVID.HBM_CFG: 1 for 18 GiB stacks, 2 for 36 GiB stacks (R18)
  deriving DecidableEq, Repr

/-- Boot and debug beside the registers (R589, R606, R607). -/
structure Boot where
  porst    : Bool                -- PORST_N is asserted
  alwaysOn : Bool                -- the always-on rail is in range
  mainOn   : Bool                -- the main rails are in range
  hubOn    : Bool                -- the hub clock runs: RAILS has ended since (R764)
  cold     : Bool                -- the running boot follows a cold reset
  startT   : Word64              -- DRN_TIME when it started
  holds    : Bool                -- a stage is held under PERM bit 2
  nonceT   : Option Word64       -- DRN_TIME of a nonce that is not void
  sites    : List Nat            -- physical sites that self-test failed
  fuses    : Fuses
  masks    : Map Nat             -- the column masks of the physical sites that publications apply (R191, R597, R601)
  svn      : Nat                 -- the security version of the running image (R596)
  deriving DecidableEq, Repr

/-! ### Embouchure (chapter Embouchure: speech in and out) -/

/-- A gain set (R630). -/
structure GainSet where
  cgain  : Nat
  pgain  : Nat
  agcen  : Bool
  stepUp : Nat
  stepDn : Nat
  gmin   : Nat
  gmax   : Nat
  tlo    : Nat
  thi    : Nat
  deriving DecidableEq, Repr

/-- A frame of a stream while it is captured or played, and until its frame end (R625, R628): its samples at the port rate, and how
many were received and delivered, inserted, and received but not delivered (R645). -/
structure Frame where
  num    : Nat
  xs     : List Int
  recv   : Nat
  ins    : Nat
  drop   : Nat
  flags  : Nat
  tstart : Word64
  gain   : GainSet
  gsid   : Nat
  deriving DecidableEq, Repr

/-- A frame whose samples have been written or played (R625): its record, where it goes, and whether it has been written. -/
structure FrameOut where
  num    : Nat
  addr   : Nat
  record : List Byte
  written : Bool
  flags  : Nat
  gsid   : Nat
  tstart : Word64
  kind   : Nat                 -- KIND of the message
  ctx    : Nat
  route  : Nat
  deriving DecidableEq, Repr

/-- A stream (R618, R645). -/
structure Stream where
  state  : Nat                 -- the STATE codes of EMB_SINFO
  cause  : Nat
  entry  : List Byte           -- the stream entry as read at ENABLE
  gain   : GainSet             -- the set in effect
  gainNx : Option GainSet      -- committed and not yet applying
  gainAgc : Bool               -- that commit is AGC's
  gsid   : Nat
  last   : Nat                 -- the last frame recorded
  next   : Nat                 -- ring kinds: the frame that ends next
  t0     : Word64              -- ring kinds: drone time of ENABLE (R629)
  cur    : Option Frame        -- the frame in progress
  live   : Bool                -- playback: its first frame has begun
  play   : Option (List Int)   -- playback: the samples of the current frame; none plays silence
  pois   : Bool                -- playback: that frame was read poisoned
  fetched : Option (Nat × Option (List Int) × Bool)  -- the frame fetched: its number, its samples if READY, poisoned
  ended  : List Frame          -- complete, before their frame end
  prev   : Int                 -- the latest sample captured
  slot   : Option Word32       -- the slot driven at the latest sample; none where the stream drives none
  cin    : Nat
  cout   : Nat
  cdrop  : Nat
  cins   : Nat
  overrun : Bool               -- the next written frame carries OVERRUN (R627)
  drift  : Bool                -- the current frame overlaps a loss of REFCLK_25 (R644)
  hang   : Nat                 -- frames for which VAD still hangs (R634)
  agc    : Option (Nat × Nat × Nat)  -- a measured frame whose AGC commit is to come: its number, S and n (R632)
  out    : List FrameOut
  stopAt : Bool                -- DISABLE takes effect at the frame's end
  deriving DecidableEq, Repr

/-- A TDM port beside its registers (R623, R639 to R643); periods are in ticks of the 400 MHz timebase. -/
structure TdmPort where
  periods : List Nat           -- the last GOOD periods, newest first, at most 64
  run    : Nat                 -- consecutive GOOD periods
  off    : Option (Nat × List Word32)  -- an OFF period has ended that may be a glitch: its length, and the slots of its edge
  rateC  : Nat                 -- candidate rate of R643 and how many periods in a row match it
  rateN  : Nat
  pos    : Nat                 -- samples of the current frame so far
  began  : Bool                -- port frame 0 has started
  back   : Bool                -- locked again in HOLDOVER, before the boundary (R642)
  await  : Option Nat          -- past the boundary: the next edge starts a frame that carries these flags (R642, R643)
  newRate : Option Nat         -- a rate to take at the next boundary
  acked  : Bool
  ftime  : Word64              -- drone time of the frame's first instant
  fflags : Nat
  deriving DecidableEq, Repr

/-- The embouchure beside its registers. -/
structure Emb where
  ports   : Map TdmPort
  streams : Map Stream
  cmd     : Option (Nat × Nat)  -- the EMB_SCMD command being carried out: OP, stream
  boreGc  : List Nat            -- streams with a bore GAINCOMMIT whose shadow set is being read
  deriving DecidableEq, Repr

/-! ### Bell (chapter Bell: caption composition) -/

/-- A frame that has ended and whose message is still to be sent (R671). -/
structure FrameDone where
  num   : Nat
  flags : Nat                  -- bits 31:16 of word 0
  miss  : Nat                  -- regions that mismatched
  time  : Word32
  deriving DecidableEq, Repr

/-- A pipe beside its registers.  A set is the values of its registers by register key (R657). -/
structure Pipe where
  active   : Map Word64        -- the active composition set
  timing   : Map Word64        -- the active timing set
  pend     : Option (Map Word64)
  tpend    : Option (Map Word64)
  flushed  : Bool              -- a FLUSH waits for the next latch
  stopAt   : Bool              -- DISABLE takes effect at the frame end
  framing  : Bool              -- a frame has started and has not ended
  filling  : Bool              -- the flatten cache has been written and the writes are not yet acknowledged (R668)
  fresh    : Nat               -- frames still suspended after a timing change (R679)
  idle     : Nat               -- frames of idle pattern still to send (R679)
  video    : Bool              -- the current frame is sent as video (R675)
  drift    : Bool              -- the current frame overlaps a loss of REFCLK_25
  startT   : Word64            -- drone time of the current frame's start
  pixels   : List Word32       -- the pixels sent in the latest frame, in raster order
  done     : List FrameDone    -- frames whose message is still to be sent, oldest first
  deriving DecidableEq, Repr

/-- A DisplayPort link beside its registers (R676, R677). -/
structure DpLink where
  unplugged : Bool
  aux       : Option Nat       -- the AUX command being carried out
  deriving DecidableEq, Repr

/-- The bell beside its registers. -/
structure Bell where
  pipes : Map Pipe
  dps   : Map DpLink
  deriving DecidableEq, Repr

/-! ### Faults, dump and keep flash (chapter Faults, recovery and what still holds) -/

/-- An operation on the keep flash, in order of arrival (R721). -/
inductive FlashOp
  | read (addr : Nat)
  | program (addr : Nat) (data : List Byte)
  | erase (addr : Nat)
  | bypass (bore mask : Nat)     -- a bypass-map commit (R190)
  deriving DecidableEq, Repr

/-- Fault handling beside the registers. -/
structure Faults where
  frozen   : Bool                -- R715 step 2: the device is frozen until a reboot
  truncate : Bool                -- PWR_FAIL_N was asserted while a dump is being written (R726)
  dumpHead : Word32              -- LOG_HEAD at step 1 of R715
  dumpBoot : Word64              -- DRN_BOOT at step 1
  sumSlot  : Nat                 -- the next summary slot (R722)
  page     : List (Nat × List Byte)   -- entries gathered into the page being filled, with their numbers
  pages    : List (List (Nat × List Byte))  -- pending pages, oldest first (R722)
  pageSeq  : Nat
  erased   : Bool                -- the next sector of the log tail is erased
  corrSeen : List (Nat × Nat × Nat)   -- SOURCE, CODE and millisecond of CORRECTED entries (R711)
  flash    : List FlashOp        -- operations in order of arrival; the first is being carried out
  pwrFail  : Bool                -- PWR_FAIL_N is asserted
  parts    : List (Nat × Nat)    -- PARTITION errors waiting for a group: leader, cause (R728)
  restart  : Option Nat          -- the leader of a partition restart that is running (R703)
  deriving DecidableEq, Repr

/-! ### SMBus target and test port (chapter Package, balls and the Nalpa tray) -/

/-- The SMBus target (R750): its pointer, the status of the latest write, and the answer of the latest transaction. -/
structure Smbus where
  ptr    : Nat
  last   : Nat                 -- status of the latest write
  status : Nat                 -- status byte of the latest transaction
  data   : List Byte           -- data bytes of the latest read
  nack   : Bool                -- the latest write transaction was not acknowledged at its PEC byte
  deriving DecidableEq, Repr

/-- The boundary-scan port (R749): its instruction, the boundary register's shift and update stages, and what the
latest shift brought out at JTAG_TDO. -/
structure Tap where
  inst   : TapInstr
  chain  : List Bool           -- the shift stage
  upd    : List Bool           -- the update stage, driven under EXTEST and CLAMP
  tdo    : List Bool
  deriving DecidableEq, Repr

/-! ### The whole -/

/-- One bore. -/
structure Bore where
  ch       : Chanter
  arr      : MatArray
  lig      : Lig
  vest     : Vestibule
  ranks    : Map Rank
  reeds    : Map Reed            -- key 64 × rank + lane
  treg     : Map Word32          -- reed registers, key 32 × (64 × rank + lane) + n
  cell     : Map Byte            -- cell memories, key 1024 × (64 × rank + lane) + byte
  kstore   : Map Word32          -- kernel stores, key 4096 × rank + address
  launches : List Launch
  kloads   : List KLoad
  power    : Power
  deriving DecidableEq, Repr

/-- A register half held under R12: the requester, the block with its instance, the register and its element, the word. -/
structure HeldWord where
  who  : Requester
  blk  : Block
  inst : Nat
  reg  : Reg
  idx  : Nat
  word : Word32
  deriving DecidableEq, Repr

/-- The device. -/
structure State where
  regs    : Map Word64          -- the register map; an unlisted register holds its reset value
  capt    : List HeldWord       -- captured high words (R12)
  held    : List HeldWord       -- pending low words (R12)
  rdata   : Word64              -- the data that the latest register or memory read returned to its requester
  rstat   : AccStatus           -- the status that the latest register access returned to it (R38, R41, R44)
  rbytes  : List Byte           -- the bytes that the latest BAR4 read returned
  mem     : Map Byte            -- HBM, the windchests and the program stores, by device address
  poison  : List Nat            -- first addresses of poisoned words (windchests) and blocks (HBM), rising
  single  : List Nat            -- words and blocks that hold a correctable error, rising
  double  : List Nat            -- words and blocks that hold an uncorrectable error not yet found, rising
  net     : List Transfer       -- transfers on the windway, in order of issue
  bores   : Map Bore
  sites   : Map Nat             -- physical site of a substituted bore (R24, R464); unlisted: its own
  tlb     : List TlbEntry
  inval   : List (Accessor × Nat)      -- accesses that an invalidation still waits for (R445)
  watches : List (Nat × Nat × Word32)  -- watches the sync pool holds: bore, counter, target (R336)
  bars    : Map (List Participant)     -- participants that arrived in each barrier's current phase
  scheds  : Map Sched
  stashOut : Nat                -- the scheduler whose stash-out chunk the stash engine served last (R385)
  stashIn : Nat                 -- the scheduler whose restore chunk it served last
  health  : Map Health
  ctxs    : Map Ctx
  parts   : Map Part
  starts  : List (Nat × Nat)    -- pending starts, oldest first: bore, context (R461)
  cmds    : List RmCmd          -- residency commands under way (R465)
  seqno   : Nat                 -- counts context starts (R460)
  ports   : Map Port
  hif     : HostIf
  drone   : Drone
  boot    : Boot
  emb     : Emb
  bell    : Bell
  faults  : Faults
  flash   : Map Byte            -- the keep flash by address; erased bytes read 0xFF
  smb     : Smbus
  tap     : Tap
  freeCtr : Nat                 -- the model's own: how many free values have been drawn (Config.freeValue)
  pending : List Instr          -- the commands waiting, first in, first out
  deriving DecidableEq, Repr

/-! ### Reset -/

/-- The chanter after a cold reset (R117). -/
def Chanter.reset : Chanter :=
  ⟨[], [], [], [], [], [], [], [], 0, [], none, false, false, false, 0, [], none, none, [], [], [], []⟩

/-- The array after a cold reset (R199).
(DESIGN CHOICE, log 70.) -/
def MatArray.reset : MatArray := ⟨[], [], [], false, false, 0⟩

/-- The ligature table after a cold reset (R274).
(DESIGN CHOICE, log 70.) -/
def Lig.reset : Lig := ⟨none, 0, 0, [], false⟩

/-- The vestibule after a cold reset (R319, R355). -/
def Vestibule.reset : Vestibule := ⟨[], [], none, [], [], [], [], []⟩

/-- A rank after a cold reset (R240). -/
def Rank.reset : Rank := ⟨none, none, false, none⟩

/-- A reed after a cold reset (R240): its kernel has ended. -/
def Reed.reset : Reed := ⟨0, .ended, [], 0, 0⟩

/-- A bore's power state after a cold reset: OFF (R580). -/
def Power.reset : Power := ⟨none, none, false, none, none, false, .none, false, false, []⟩

/-- A bore after a cold reset. -/
def Bore.reset : Bore :=
  ⟨.reset, .reset, .reset, .reset, [], [], [], [], [], [], [], .reset⟩

/-- A stage scheduler after a cold reset (R393). -/
def Sched.reset : Sched := ⟨[], [], [], [], [], [], [], 0, [], [], []⟩

/-- A health set after a cold reset (R430). -/
def Health.reset : Health := ⟨false, false, none, [], 0⟩

/-- A context after a cold reset: FREE (R472). -/
def Ctx.reset : Ctx := ⟨[], [], 0, [], [], 0, none, 0⟩

/-- A partition after a cold reset. -/
def Part.reset : Part := ⟨[], none⟩

/-- A crook port after a cold reset: DISABLED (R497). -/
def Port.reset : Port := ⟨[], [], [], 0, [], [], [], 0, 0, [], [], [], [], [], 0, [], false, false, 0, [], [], .quiet⟩

/-- PCIe configuration after a reset: Max Payload Size 128 B, Max Read Request Size 512 B, the default timeout range, D0, and
MSI-X not enabled.
(PRESUMED, log 13.) -/
def PcieCfg.reset : PcieCfg := ⟨7, 9, 0, false, [], [], []⟩

/-- The host interface after a cold reset (R530).
(PRESUMED, log 13.) -/
def HostIf.reset : HostIf :=
  ⟨false, false, false, [], [], [], [], [], [], [], [], 28, false, false, [], .reset, []⟩

/-- The drone after a cold reset. -/
def Drone.reset : Drone := ⟨[], [], 4000, 4000, 0, 0, 0, 63, 63, false, [], false⟩

/-- What manufacture blew into the fuses (R590, R597): the spec gives no values, so the model names zeros, and 36 GiB stacks
(R18).
(DESIGN CHOICE, log 4, log 29.) -/
def Fuses.reset : Fuses := ⟨[], [], 0, [], 0, 2⟩

/-- The boot machine while PORST_N has been released and the ROM has not begun (R589).
(DESIGN CHOICE, log 52.) -/
def Boot.reset : Boot := ⟨false, true, true, false, true, 0, false, none, [], .reset, [], 0⟩

/-- The gain set in effect before a stream is enabled. -/
def GainSet.reset : GainSet := ⟨0, 0, false, 0, 0, 0, 0, 0, 0⟩

/-- A stream that is OFF (R618). -/
def Stream.reset : Stream where
  state := 0
  cause := 0
  entry := []
  gain := .reset
  gainNx := none
  gainAgc := false
  gsid := 0
  last := 0
  next := 0
  t0 := 0
  cur := none
  live := false
  play := none
  pois := false
  fetched := none
  ended := []
  prev := 0
  slot := none
  cin := 0
  cout := 0
  cdrop := 0
  cins := 0
  overrun := false
  drift := false
  hang := 0
  agc := none
  out := []
  stopAt := false

/-- A TDM port that is OFF (R623). -/
def TdmPort.reset : TdmPort := ⟨[], 0, none, 0, 0, 0, false, false, none, none, false, 0, 0⟩

/-- The embouchure after a cold reset (R648). -/
def Emb.reset : Emb := ⟨[], [], none, []⟩

/-- A pipe that is OFF (R684). -/
def Pipe.reset : Pipe := ⟨[], [], none, none, false, false, false, false, 0, 0, false, false, 0, [], []⟩

/-- A DisplayPort link that is down (R684). -/
def DpLink.reset : DpLink := ⟨false, none⟩

/-- The bell after a cold reset. -/
def Bell.reset : Bell := ⟨[], []⟩

/-- Fault handling after a cold reset. -/
def Faults.reset : Faults :=
  ⟨false, false, 0, 0, 0, [], [], 0, false, [], [], false, [], none⟩

/-- The SMBus target after a cold reset. -/
def Smbus.reset : Smbus := ⟨0, 0, 0, [], false⟩

/-- The boundary-scan port after JTAG_TRST_N. -/
def Tap.reset : Tap := ⟨.idcode, [], [], []⟩

/-- The device right after a cold reset (R16): every register at its reset value, no transfer under way, nothing
running, and no command waiting. -/
def State.reset : State where
  regs    := []
  capt    := []
  held    := []
  rdata   := 0
  rstat   := .ok
  rbytes  := []
  mem     := []
  poison  := []
  single  := []
  double  := []
  net     := []
  bores   := []
  sites   := []
  tlb     := []
  inval   := []
  watches := []
  bars    := []
  scheds  := []
  stashOut := 15
  stashIn := 15
  health  := []
  ctxs    := []
  parts   := []
  starts  := []
  cmds    := []
  seqno   := 0
  ports   := []
  hif     := .reset
  drone   := .reset
  boot    := .reset
  emb     := .reset
  bell    := .reset
  faults  := .reset
  flash   := []
  smb     := .reset
  tap     := .reset
  freeCtr := 0
  pending := []

end Sys2Proof.Machine
end

