-- ==== Sys2Proof/Machine/Ops.lean ====
section
/-!
DEFINITION. Machine/Ops.lean: the named operations over tables, registers, fields, memory and bores that every meaning
uses, and the operations that several chapters share.
-/

namespace Sys2Proof.Machine

/-! ### Sparse tables -/

/-- The value at key `k`, or the default. -/
def mget {α : Type} (d : α) : Map α → Nat → α
  | [], _ => d
  | (k', v) :: m, k => if k = k' then v else mget d m k

/-- The table with `(k, v)` before the first entry whose key is larger. -/
def minsert {α : Type} (k : Nat) (v : α) : Map α → Map α
  | [] => [(k, v)]
  | x :: m => if k < x.1 then (k, v) :: x :: m else x :: minsert k v m

/-- The table with `v` at key `k`; a value equal to the default is not listed, and rising keys stay rising. -/
def mput {α : Type} [DecidableEq α] (d : α) (m : Map α) (k : Nat) (v : α) : Map α :=
  match m.filter fun x => x.1 ≠ k with
  | [] => if v = d then [] else [(k, v)]
  | x :: rest => if v = d then x :: rest else minsert k v (x :: rest)

/-- The canonical form of a sparse table: keys strictly rising and no entry equal to the default. -/
def mwf {α : Type} [DecidableEq α] (d : α) (m : Map α) : Bool :=
  decide (m.Pairwise fun x y => x.1 < y.1) && m.all fun x => x.2 ≠ d

/-- A rising list of numbers with `a` in it. -/
def sinsert (a : Nat) : List Nat → List Nat
  | [] => [a]
  | b :: l => if a < b then a :: b :: l else if a = b then b :: l else b :: sinsert a l

/-! ### Bits and bytes -/

/-- Bits `lo` to `lo + w - 1` of a number. -/
def bits (v lo w : Nat) : Nat := (v / 2 ^ lo) % 2 ^ w

/-- Bit `n` of a number. -/
def bit (v n : Nat) : Bool := (v / 2 ^ n) % 2 = 1

/-- `v` with `x` in bits `lo` to `lo + w - 1`. -/
def setBits (v lo w x : Nat) : Nat := v - 2 ^ lo * bits v lo w + 2 ^ lo * (x % 2 ^ w)

/-- A number from its bytes, lowest byte first. -/
def leNat : List Byte → Nat
  | [] => 0
  | b :: bs => b.toNat + 256 * leNat bs

/-- The lowest `n` bytes of a number, lowest byte first. -/
def leBytes : Nat → Nat → List Byte
  | 0, _ => []
  | n + 1, v => BitVec.ofNat 8 v :: leBytes n (v / 256)

/-- A `w`-bit pattern read as a signed number. -/
def sext (w v : Nat) : Int := if 2 ^ (w - 1) ≤ v % 2 ^ w then (v % 2 ^ w : Int) - 2 ^ w else (v % 2 ^ w : Int)

/-- A signed number as a `w`-bit pattern. -/
def uint (w : Nat) (v : Int) : Nat := (v % 2 ^ w).toNat

/-- `v` held between `lo` and `hi`. -/
def clampInt (lo hi v : Int) : Int := if v < lo then lo else if hi < v then hi else v

/-! ### Registers -/

/-- The key of element `j` of register `r` of block instance `i`.
(DESIGN CHOICE, log 68.) -/
def regKey (r : Reg) (i j : Nat) : Nat := 2 ^ 24 * r.ctorIdx + 2 ^ 16 * i + j

/-- The default cost of a clock step in tokens (R554). -/
def ftabDefault (n : Nat) : Nat := if n ≤ 16 then (16 + 5 * n + 1) / 2 else 48 + 4 * (n - 16)

/-- The reset value of element `j` of a register (R17).  Partition p starts with itself as leader (R472), and the cost
table with the defaults of R554. -/
def Reg.resetVal (r : Reg) (j : Nat) : Word64 :=
  match r with
  | .PRT_PCFG => r.info.rst + BitVec.ofNat 64 (2 ^ 16 * j)
  | .PRT_PSTAT => r.info.rst + BitVec.ofNat 64 (2 ^ 56 * j)
  | .BLW_FTAB => BitVec.ofNat 64 (ftabDefault j)
  | _ => r.info.rst

/-- The value of a register as the register map holds it. -/
def State.rget (s : State) (r : Reg) (i : Nat := 0) (j : Nat := 0) : Word64 :=
  mget (r.resetVal j) s.regs (regKey r i j)

/-- The register set to a value. -/
def State.rput (s : State) (r : Reg) (v : Word64) (i : Nat := 0) (j : Nat := 0) : State :=
  { s with regs := mput (r.resetVal j) s.regs (regKey r i j) v }

/-- A field of a register. -/
def State.fget (s : State) (f : Field) (i : Nat := 0) (j : Nat := 0) : Nat :=
  bits (s.rget f.reg i j).toNat f.lo f.w

/-- A one-bit field as a truth value. -/
def State.flag (s : State) (f : Field) (i : Nat := 0) (j : Nat := 0) : Bool := s.fget f i j = 1

/-- A field set to `v` modulo its width. -/
def State.fput (s : State) (f : Field) (v : Nat) (i : Nat := 0) (j : Nat := 0) : State :=
  s.rput f.reg (BitVec.ofNat 64 (setBits (s.rget f.reg i j).toNat f.lo f.w v)) i j

/-- A counter field plus `n`, holding at all ones. -/
def State.fsat (s : State) (f : Field) (n : Nat := 1) (i : Nat := 0) (j : Nat := 0) : State :=
  s.fput f (min (s.fget f i j + n) (2 ^ f.w - 1)) i j

/-- A counter field plus `n`, wrapping at its width. -/
def State.finc (s : State) (f : Field) (n : Nat := 1) (i : Nat := 0) (j : Nat := 0) : State :=
  s.fput f (s.fget f i j + n) i j

/-- A truth value as a field's value. -/
def b2n (b : Bool) : Nat := if b then 1 else 0

/-- Which bits of a register a write sets. -/
def Reg.writable (r : Reg) : Word64 := r.info.rw ||| r.info.rws

/-- The value that a write of `val` leaves in a register that has no row of its own: RW and RWS fields are set, W1C
bits written as 1 are cleared, every other bit stands (R17, R9, R10). -/
def Reg.merge (r : Reg) (old val : Word64) : Word64 :=
  (old &&& ~~~(r.writable ||| r.info.w1c)) ||| (val &&& r.writable) ||| (old &&& r.info.w1c &&& ~~~val)

/-- The bits that a warm reset returns to the reset value: RW, W1C and RC (R17). -/
def Reg.warmMask (r : Reg) : Word64 := r.info.rw ||| r.info.w1c ||| r.info.rc

/-- A register after a warm reset of its block (R17): RWS and RO fields keep their values. -/
def State.warmReg (s : State) (r : Reg) (i : Nat := 0) (j : Nat := 0) : State :=
  s.rput r ((s.rget r i j &&& ~~~r.warmMask) ||| (r.resetVal j &&& r.warmMask)) i j

/-! ### Shadows of halves -/

/-- The captured and pending words that `P` picks are discarded (R12). -/
def State.dropShadows (s : State) (P : HeldWord → Bool) : State :=
  { s with capt := s.capt.filter fun h => !P h, held := s.held.filter fun h => !P h }

/-- Whether a captured or pending word is one of a register of instance `i` of a hub block. -/
def HeldWord.ofInst (h : HeldWord) (l : List Block) (i : Nat) : Bool := h.blk ∈ l && h.idx / 2 ^ 16 = i

/-! ### Free values -/

/-- A free value of `w` bits, and the state that has drawn it.
(DESIGN CHOICE, log 5.) -/
def State.free (s : State) (w : Nat) : BitVec w × State :=
  (Config.freeValue w s.freeCtr, { s with freeCtr := s.freeCtr + 1 })

/-! ### Bores and the other tables -/

/-- Bore `b`. -/
def State.bore (s : State) (b : Nat) : Bore := mget Bore.reset s.bores b

/-- The state with bore `b` changed by `f`. -/
def State.upBore (s : State) (b : Nat) (f : Bore → Bore) : State :=
  { s with bores := mput Bore.reset s.bores b (f (s.bore b)) }

/-- The chanter of bore `b`. -/
def State.ch (s : State) (b : Nat) : Chanter := (s.bore b).ch

/-- The state with the chanter of bore `b` changed by `f`. -/
def State.upCh (s : State) (b : Nat) (f : Chanter → Chanter) : State :=
  s.upBore b fun B => { B with ch := f B.ch }

/-- The state with the matrix array of bore `b` changed by `f`. -/
def State.upArr (s : State) (b : Nat) (f : MatArray → MatArray) : State :=
  s.upBore b fun B => { B with arr := f B.arr }

/-- The state with the ligature table of bore `b` changed by `f`. -/
def State.upLig (s : State) (b : Nat) (f : Lig → Lig) : State :=
  s.upBore b fun B => { B with lig := f B.lig }

/-- The state with the vestibule of bore `b` changed by `f`. -/
def State.upVest (s : State) (b : Nat) (f : Vestibule → Vestibule) : State :=
  s.upBore b fun B => { B with vest := f B.vest }

/-- The state with the power record of bore `b` changed by `f`. -/
def State.upPower (s : State) (b : Nat) (f : Power → Power) : State :=
  s.upBore b fun B => { B with power := f B.power }

/-- Rank `r` of bore `b`. -/
def State.rank (s : State) (b r : Nat) : Rank := mget Rank.reset (s.bore b).ranks r

/-- The state with rank `r` of bore `b` changed by `f`. -/
def State.upRank (s : State) (b r : Nat) (f : Rank → Rank) : State :=
  s.upBore b fun B => { B with ranks := mput Rank.reset B.ranks r (f (mget Rank.reset B.ranks r)) }

/-- Reed `lane` of rank `r` of bore `b`. -/
def State.reed (s : State) (b r lane : Nat) : Reed := mget Reed.reset (s.bore b).reeds (64 * r + lane)

/-- The state with reed `lane` of rank `r` of bore `b` changed by `f`. -/
def State.upReed (s : State) (b r lane : Nat) (f : Reed → Reed) : State :=
  s.upBore b fun B =>
    { B with reeds := mput Reed.reset B.reeds (64 * r + lane) (f (mget Reed.reset B.reeds (64 * r + lane))) }

/-- Stage scheduler `p`. -/
def State.sched (s : State) (p : Nat) : Sched := mget Sched.reset s.scheds p

/-- The state with stage scheduler `p` changed by `f`. -/
def State.upSched (s : State) (p : Nat) (f : Sched → Sched) : State :=
  { s with scheds := mput Sched.reset s.scheds p (f (s.sched p)) }

/-- Health set `h`. -/
def State.hset (s : State) (h : Nat) : Health := mget Health.reset s.health h

/-- The state with health set `h` changed by `f`. -/
def State.upHset (s : State) (h : Nat) (f : Health → Health) : State :=
  { s with health := mput Health.reset s.health h (f (s.hset h)) }

/-- Context `c`. -/
def State.ctx (s : State) (c : Nat) : Ctx := mget Ctx.reset s.ctxs c

/-- The state with context `c` changed by `f`. -/
def State.upCtx (s : State) (c : Nat) (f : Ctx → Ctx) : State :=
  { s with ctxs := mput Ctx.reset s.ctxs c (f (s.ctx c)) }

/-- Partition `p`. -/
def State.part (s : State) (p : Nat) : Part := mget Part.reset s.parts p

/-- The state with partition `p` changed by `f`. -/
def State.upPart (s : State) (p : Nat) (f : Part → Part) : State :=
  { s with parts := mput Part.reset s.parts p (f (s.part p)) }

/-- Crook port `k`. -/
def State.port (s : State) (k : Nat) : Port := mget Port.reset s.ports k

/-- The state with crook port `k` changed by `f`. -/
def State.upPort (s : State) (k : Nat) (f : Port → Port) : State :=
  { s with ports := mput Port.reset s.ports k (f (s.port k)) }

/-- Queue `q` of bore `b`, oldest entry first. -/
def State.queue (s : State) (b q : Nat) : List QEntry := mget [] (s.bore b).vest.queues q

/-- The state with queue `q` of bore `b` holding `l`. -/
def State.setQueue (s : State) (b q : Nat) (l : List QEntry) : State :=
  s.upVest b fun v => { v with queues := mput [] v.queues q l }

/-- Repeat `f` over a list of numbers. -/
def State.each (s : State) (l : List Nat) (f : State → Nat → State) : State := l.foldl f s

/-! ### The windway -/

/-- The state with a transfer issued (R28: behind every earlier one).
(DESIGN CHOICE, log 12.) -/
def State.send (s : State) (cls : XClass) (src dst : Endpoint) (p : Packet) : State :=
  { s with net := s.net ++ [⟨cls, src, dst, p⟩] }

/-- The oldest transfer of one ordered path, and the transfers left without it. -/
def takeFirst (P : Transfer → Bool) : List Transfer → Option (Transfer × List Transfer)
  | [] => none
  | t :: l => if P t then some (t, l) else
    match takeFirst P l with
    | none => none
    | some (u, l') => some (u, t :: l')

/-- The quadrant whose fabric an endpoint stands on (R20, R22); hub units and the host stand on none. -/
def epQuad : Endpoint → Option Nat
  | .bore b => some (b / 16)
  | .hbm h => some (h / 2)
  | .crook k => some (k / 3)
  | _ => none

/-- Whether the fabric clock of quadrant `q` runs (R548). -/
def State.fabRun (s : State) (q : Nat) : Bool := bit (s.rget .DRN_FAB).toNat (8 * q)

/-- Whether the fabric that an endpoint stands on runs: a transfer moves only through running fabrics (R33). -/
def State.fabOk (s : State) (e : Endpoint) : Bool :=
  match epQuad e with
  | some q => s.fabRun q
  | none => true

/-- The oldest transfer on the ordered path from `src` to `dst` in class `cls` (R28).  A REQUEST does not pass a POSTED
transfer of the same source and destination (R29), so a path whose oldest request stands behind one gives none; a path
over a stopped fabric holds its transfers (R33), and a frozen device holds them all (R715).
(DESIGN CHOICE, log 12.) -/
def State.oldest (s : State) (cls : XClass) (src dst : Endpoint) : Option (Transfer × State) :=
  if !(s.fabOk src && s.fabOk dst) || s.faults.frozen then none else
  match takeFirst (fun t => t.src = src && t.dst = dst &&
      (t.cls = cls || (cls = .request && t.cls = .posted))) s.net with
  | none => none
  | some (t, l) => if t.cls = cls then some (t, { s with net := l }) else none

/-! ### Who a requester is -/

/-- Whether a requester is the host, through some PCIe function. -/
def isHost : Requester → Bool
  | .fn _ => true
  | _ => false

/-- Whether a requester is the physical function or acts as it would (R751: the SMBus target does). -/
def isPf : Requester → Bool
  | .fn n => n = 0
  | .smbus => true
  | _ => false

/-- The quadrant of a bore (R22). -/
def quadOf (b : Nat) : Nat := b / 16

/-- The partition of a bore (R23). -/
def partOf (b : Nat) : Nat := b / 4

end Sys2Proof.Machine
end

