-- ==== Sys2Proof/Machine/Fp.lean ====
section
/-!
DEFINITION. Machine/Fp.lean: number formats, conversions and floating-point arithmetic (chapter Number formats and tensor
descriptors; R138, R139): every operation is computed exactly and rounded once.
-/

namespace Sys2Proof.Machine

/-- A value: a NaN, an infinity, or ± m × 2^e; a zero keeps its sign. -/
inductive FVal
  | nan
  | inf (neg : Bool)
  | fin (neg : Bool) (m : Nat) (e : Int)
  deriving DecidableEq, Repr

/-- A floating-point format: exponent and mantissa bits, bias, the largest finite magnitude as a code, the infinity's
magnitude if it has one, and its canonical NaN (R50, R52, R62). -/
structure FFmt where
  eb   : Nat
  mb   : Nat
  bias : Int
  maxc : Nat
  inf  : Option Nat
  nan  : Nat
  deriving DecidableEq, Repr

def fp64 : FFmt := ⟨11, 52, 1023, 0x7FEFFFFFFFFFFFFF, some 0x7FF0000000000000, 0x7FF8000000000000⟩
def fp32 : FFmt := ⟨8, 23, 127, 0x7F7FFFFF, some 0x7F800000, 0x7FC00000⟩
def bf16 : FFmt := ⟨8, 7, 127, 0x7F7F, some 0x7F80, 0x7FC0⟩
def fp16 : FFmt := ⟨5, 10, 15, 0x7BFF, some 0x7C00, 0x7E00⟩
def e4m3 : FFmt := ⟨4, 3, 7, 0x7E, none, 0x7F⟩
def e5m2 : FFmt := ⟨5, 2, 15, 0x7B, some 0x7C, 0x7E⟩
def e3m2 : FFmt := ⟨3, 2, 3, 0x1F, none, 0x20⟩
def e2m3 : FFmt := ⟨2, 3, 1, 0x1F, none, 0x20⟩
def e2m1 : FFmt := ⟨2, 1, 1, 0x7, none, 0x8⟩

/-- The floating-point format of an FMT code; none for INT8 and INT4; codes above 9 act as FP32 (R50, R72). -/
def fmtOf (code : Nat) : Option FFmt :=
  match code with
  | 1 => some bf16
  | 2 => some fp16
  | 3 => some e4m3
  | 4 => some e5m2
  | 5 => some e3m2
  | 6 => some e2m3
  | 7 => some e2m1
  | 8 | 9 => none
  | _ => some fp32

/-- The bits of an element (R50). -/
def fmtBits (code : Nat) : Nat :=
  match code with
  | 1 | 2 => 16
  | 3 | 4 | 8 => 8
  | 5 | 6 => 6
  | 7 | 9 => 4
  | _ => 32

/-- The formats stored as bit planes (R57). -/
def fmtPlanes (code : Nat) : Bool := 5 ≤ code && code ≤ 9 && code ≠ 8

/-- The formats that may carry block scales (R54). -/
def fmtScales (code : Nat) : Bool := 3 ≤ code && code ≤ 7

/-- Whether the negative-zero encoding reads as NaN (R53). -/
def negZeroNan (f : FFmt) : Bool := f.nan = 2 ^ (f.eb + f.mb)

/-- The value of an encoding (R51 to R53). -/
def fdec (f : FFmt) (x : Nat) : FVal :=
  let neg := bit x (f.eb + f.mb)
  let mag := x % 2 ^ (f.eb + f.mb)
  if neg && mag = 0 && negZeroNan f then .nan
  else if f.inf = some mag then .inf neg
  else if f.maxc < mag then .nan
  else
    let e := mag / 2 ^ f.mb
    let m := mag % 2 ^ f.mb
    if e = 0 then .fin neg m (1 - f.bias - f.mb)
    else .fin neg (m + 2 ^ f.mb) ((e : Int) - f.bias - f.mb)

/-- The value of an element of format `code` (R50 to R53). -/
def elemDec (code x : Nat) : FVal :=
  match fmtOf code with
  | some f => fdec f x
  | none =>
    let v := sext (fmtBits code) x
    .fin (v < 0) v.natAbs 0

/-! ### Rounding -/

/-- The hash of R61. -/
def srBits (seed : Word64) (idx : Nat) : Nat :=
  let x : BitVec 32 := BitVec.ofNat 32 seed.toNat ^^^ BitVec.ofNat 32 idx
  let x := 0x85EBCA6B#32 * (x ^^^ (x >>> 16))
  let x := 0xC2B2AE35#32 * (x ^^^ (x >>> 13))
  let x := x ^^^ (x >>> 16)
  let x := x ^^^ BitVec.ofNat 32 (seed.toNat / 2 ^ 32)
  let x := 0x2C1B3C6D#32 * (x ^^^ (x >>> 15))
  (x ^^^ (x >>> 12)).toNat

/-- A rounding: the mode of R60, and the 32 random bits that a stochastic one uses. -/
structure Rnd where
  mode : Nat
  rand : Nat
  deriving DecidableEq, Repr

/-- To nearest, ties to even. -/
def rne : Rnd := ⟨0, 0⟩

/-- m × 2^e in units of 2^q, rounded (R60, R61). -/
def roundMag (r : Rnd) (m : Nat) (e q : Int) : Nat :=
  if q ≤ e then m * 2 ^ (e - q).toNat
  else
    let d := (q - e).toNat
    if Nat.log2 m + 18 ≤ d then 0 else   -- every mode rounds so small a magnitude down
    let k := m / 2 ^ d
    let rem := m % 2 ^ d
    let up :=
      if r.mode = 2 then false
      else if r.mode = 1 then
        0x10000 ≤ (if 16 ≤ d then rem / 2 ^ (d - 16) else rem * 2 ^ (16 - d)) + r.rand / 2 ^ 16
      else 2 ^ d < 2 * rem || (2 * rem = 2 ^ d && k % 2 = 1)
    if up then k + 1 else k

/-- An encoding with what its conversion counts: an element clamped to the largest finite magnitude, and a NaN written
as 0 (R62, R63). -/
structure Enc where
  code : Nat
  satc : Bool
  nanz : Bool
  deriving DecidableEq, Repr

/-- A finite or infinite magnitude past the largest finite one (R62): formats without infinities saturate, FP32 and
binary64 never do, the others as SAT says. -/
def overflow (f : FFmt) (sat neg : Bool) : Enc :=
  let s := b2n neg * 2 ^ (f.eb + f.mb)
  match f.inf with
  | none => ⟨s + f.maxc, true, false⟩
  | some i => if sat && f.mb ≠ 23 && f.mb ≠ 52 then ⟨s + f.maxc, true, false⟩ else ⟨s + i, false, false⟩

/-- A value converted into a floating-point format (R60 to R63). -/
def fenc (f : FFmt) (r : Rnd) (sat : Bool) (v : FVal) : Enc :=
  match v with
  | .nan => ⟨f.nan, false, false⟩
  | .inf neg => overflow f sat neg
  | .fin neg m e =>
    let s := b2n neg * 2 ^ (f.eb + f.mb)
    if m = 0 then ⟨if negZeroNan f then 0 else s, false, false⟩
    else
      let top : Int := (Nat.log2 m : Int) + e
      let q := (if top < 1 - f.bias then 1 - f.bias else top) - f.mb
      let k := roundMag r m e q
      let code := (q - (1 - f.bias - f.mb)).toNat * 2 ^ f.mb + k
      if f.maxc < code then overflow f sat neg
      else if code = 0 && negZeroNan f then ⟨0, false, false⟩
      else ⟨s + code, false, false⟩

/-- A value converted into a `w`-bit integer (R60 to R62). -/
def ienc (w : Nat) (r : Rnd) (v : FVal) : Enc :=
  let lim (neg : Bool) : Nat := if neg then 2 ^ (w - 1) else 2 ^ (w - 1) - 1
  match v with
  | .nan => ⟨0, false, true⟩
  | .inf neg => ⟨lim neg, true, false⟩
  | .fin neg m e =>
    let k := roundMag r m e 0
    if lim neg < k then ⟨lim neg, true, false⟩ else ⟨uint w (if neg then -(k : Int) else k), false, false⟩

/-- A value converted into the format `code` (R59). -/
def elemEnc (code : Nat) (r : Rnd) (sat : Bool) (v : FVal) : Enc :=
  match fmtOf code with
  | some f => fenc f r sat v
  | none => ienc (fmtBits code) r v

/-! ### Arithmetic -/

/-- A signed integer times a power of two as a value; zero takes the sign given. -/
def ofInt (v : Int) (e : Int) (negZero : Bool) : FVal :=
  if v = 0 then .fin negZero 0 e else .fin (v < 0) v.natAbs e

/-- The signed integer that a finite value is in units of 2^e. -/
def inUnits (neg : Bool) (m : Nat) (e q : Int) : Int :=
  let k : Int := m * 2 ^ (e - q).toNat
  if neg then -k else k

/-- The exact sum; an exact zero is +0 unless both operands are −0. -/
def fadd : FVal → FVal → FVal
  | .nan, _ => .nan
  | _, .nan => .nan
  | .inf a, .inf b => if a = b then .inf a else .nan
  | .inf a, _ => .inf a
  | _, .inf b => .inf b
  | .fin a m e, .fin b n f =>
    let q := if e < f then e else f
    ofInt (inUnits a m e q + inUnits b n f q) q (a && b && m = 0 && n = 0)

/-- The negation. -/
def fneg : FVal → FVal
  | .nan => .nan
  | .inf a => .inf (!a)
  | .fin a m e => .fin (!a) m e

/-- The exact product. -/
def fmul : FVal → FVal → FVal
  | .nan, _ => .nan
  | _, .nan => .nan
  | .inf a, .inf b => .inf (a ^^ b)
  | .inf a, .fin b n _ => if n = 0 then .nan else .inf (a ^^ b)
  | .fin a m _, .inf b => if m = 0 then .nan else .inf (a ^^ b)
  | .fin a m e, .fin b n f => .fin (a ^^ b) (m * n) (e + f)

/-- The quotient, with a sticky bit below every bit that rounding to at most 53 bits looks at. -/
def fdiv : FVal → FVal → FVal
  | .nan, _ => .nan
  | _, .nan => .nan
  | .inf _, .inf _ => .nan
  | .inf a, .fin b _ _ => .inf (a ^^ b)
  | .fin a _ _, .inf b => .fin (a ^^ b) 0 0
  | .fin a m e, .fin b n f =>
    if n = 0 then (if m = 0 then .nan else .inf (a ^^ b))
    else
      let num := 2 ^ 128 * m
      .fin (a ^^ b) (2 * (num / n) + b2n (num % n ≠ 0)) (e - f - 129)

/-- The square root, with a sticky bit. -/
def fsqrt : FVal → FVal
  | .nan => .nan
  | .inf a => if a then .nan else .inf false
  | .fin a m e =>
    if m = 0 then .fin a 0 e
    else if a then .nan
    else
      let num := m * 2 ^ (if e % 2 = 0 then 160 else 161)
      let e' := if e % 2 = 0 then e - 160 else e - 161
      let r := Nat.sqrt num
      .fin false (2 * r + b2n (r * r ≠ num)) (e' / 2 - 1)

/-- The reciprocal square root, with a sticky bit (R222). -/
def frsq : FVal → FVal
  | .nan => .nan
  | .inf a => if a then .nan else .fin false 0 0
  | .fin a m e =>
    if m = 0 then .inf a
    else if a then .nan
    else
      let m' := if e % 2 = 0 then m else 2 * m
      let e' := if e % 2 = 0 then e else e - 1
      let r := Nat.sqrt (2 ^ 256 / m')
      .fin false (2 * r + b2n (r * r * m' ≠ 2 ^ 256)) (-(e' / 2) - 129)

/-- 2 to the power of a fraction given by its bits, most significant first, in units of 2^-256: `c` is 2 to the power of
the place before the first bit. -/
def exp2Bits (c acc : Nat) : List Bool → Nat
  | [] => acc
  | x :: l =>
    let c := Nat.sqrt (2 ^ 256 * c)
    exp2Bits c (if x then acc * c / 2 ^ 256 else acc) l

/-- 2 to the power of a value: exact for an integer, else with a sticky bit below 255 fraction bits (R222). -/
def fexp2 : FVal → FVal
  | .nan => .nan
  | .inf a => if a then .fin false 0 0 else .inf false
  | .fin a m e =>
    if m = 0 then .fin false 1 0
    else if 11 < (Nat.log2 m : Int) + e then (if a then .fin false 1 (-4096) else .inf false)
    else
      let k := (-e).toNat
      let v : Int := (if a then -1 else 1) * (m * 2 ^ e.toNat : Nat)
      let n := v / 2 ^ k
      let f := (v % 2 ^ k).toNat
      if f = 0 then .fin false 1 n
      else
        let r := exp2Bits (2 * 2 ^ 256) (2 ^ 256) ((List.range k).map fun i => bit f (k - 1 - i))
        .fin false (2 * r + 1) (n - 257)

/-- The first `n` fraction bits of log2 of y in units of 2^-320, for y from 1 up to 2. -/
def log2Bits : Nat → Nat → Nat → Nat
  | 0, _, acc => acc
  | n + 1, y, acc =>
    let z := y * y / 2 ^ 320
    if 2 ^ 321 ≤ z then log2Bits n (z / 2) (2 * acc + 1) else log2Bits n z (2 * acc)

/-- The base-2 logarithm: exact for a power of two, else with a sticky bit below 100 fraction bits (R222). -/
def flog2 : FVal → FVal
  | .nan => .nan
  | .inf a => if a then .nan else .inf false
  | .fin a m e =>
    if m = 0 then .inf true
    else if a then .nan
    else
      let t := Nat.log2 m
      if m = 2 ^ t then ofInt (t + e) 0 false
      else
        let f := log2Bits 100 (2 ^ 320 * m / 2 ^ t) 0
        ofInt (2 * (((t : Int) + e) * 2 ^ 100 + f) + 1) (-101) false

/-- Whether one value is below another; −0 and +0 compare equal. -/
def flt : FVal → FVal → Bool
  | .nan, _ => false
  | _, .nan => false
  | .inf a, .inf b => a && !b
  | .inf a, _ => a
  | _, .inf b => !b
  | .fin a m e, .fin b n f =>
    let q := if e < f then e else f
    inUnits a m e q < inUnits b n f q

/-- Whether two values are equal; −0 equals +0. -/
def feq : FVal → FVal → Bool
  | .nan, _ => false
  | _, .nan => false
  | .inf a, .inf b => a = b
  | .inf _, _ => false
  | _, .inf _ => false
  | .fin a m e, .fin b n f =>
    let q := if e < f then e else f
    inUnits a m e q = inUnits b n f q

/-- Whether a value is a NaN. -/
def fIsNan : FVal → Bool
  | .nan => true
  | _ => false

/-- Whether a value is finite. -/
def fFinite : FVal → Bool
  | .fin _ _ _ => true
  | _ => false

/-- The sign of a value. -/
def fSign : FVal → Bool
  | .nan => false
  | .inf a => a
  | .fin a _ _ => a

/-- The magnitude of a value. -/
def fabs : FVal → FVal
  | .nan => .nan
  | .inf _ => .inf false
  | .fin _ m e => .fin false m e

/-- Minimum (`hi` false) or maximum: −0 lies below +0, and of one NaN the other operand is the result (R138). -/
def fminmax (hi : Bool) (x y : FVal) : FVal :=
  if fIsNan x then y
  else if fIsNan y then x
  else if flt x y || (feq x y && fSign x) then (if hi then y else x) else (if hi then x else y)

/-- A value times 2^k. -/
def fscale (v : FVal) (k : Int) : FVal :=
  match v with
  | .fin a m e => .fin a m (e + k)
  | x => x

/-- A value of FP32 bits. -/
def f32 (x : Nat) : FVal := fdec fp32 (x % 2 ^ 32)

/-- FP32 bits of a value, rounded to nearest-even. -/
def to32 (v : FVal) : Nat := (fenc fp32 rne false v).code

/-- A value of binary64 bits. -/
def f64 (x : Nat) : FVal := fdec fp64 (x % 2 ^ 64)

/-- binary64 bits of a value, rounded to nearest-even. -/
def to64 (v : FVal) : Nat := (fenc fp64 rne false v).code

/-- A signed 64-bit integer as a value. -/
def ofI64 (x : Nat) : FVal :=
  let v := sext 64 x
  .fin (v < 0) v.natAbs 0

/-! ### Block scales -/

/-- The value of an element under its block's scale byte (R54, R75). -/
def scaled (v : FVal) (e : Nat) : FVal := if e = 255 then .nan else fscale v ((e : Int) - 127)

/-- The unbiased exponent of the largest finite value of a scalable format (R64). -/
def emax (code : Nat) : Int :=
  match code with
  | 3 => 8
  | 4 => 15
  | 5 => 4
  | _ => 2

/-- floor(log2) of the largest magnitude of a block, none when every element is zero or NaN; an infinity counts as such
(R64). -/
def amaxLog : List FVal → Option (Option Int)
  | [] => none
  | v :: l =>
    match v, amaxLog l with
    | .inf _, _ => some none
    | _, some none => some none
    | .nan, r => r
    | .fin _ m e, r =>
      if m = 0 then r
      else
        let t : Int := (Nat.log2 m : Int) + e
        match r with
        | some (some u) => some (some (if t < u then u else t))
        | _ => some (some t)

/-- The scale byte of a block (R64). -/
def blockScale (code : Nat) (l : List FVal) : Nat :=
  match amaxLog l with
  | none => 0x7F
  | some none => 254
  | some (some t) => (clampInt 0 254 (t - emax code + 127)).toNat

end Sys2Proof.Machine
end

