-- ==== Sys2Proof/Machine/Events.lean ====
section
/-!
DEFINITION. Machine/Events.lean: what many chapters share: interrupts to the host (R528), the trouble log (R708 to
R713), wake triggers (R558), and the conditions on who may write a register block.
-/

namespace Sys2Proof.Machine

/-! ### Interrupts -/

/-- How many MSI-X vectors a function has (R509). -/
def msixSize (fn : Nat) : Nat := if fn = 0 then 2048 else 64

/-- A request that the device puts on the host link; while the link is down it is discarded (R533). -/
def State.hostSend (s : State) (t : HostTlp) : State :=
  if s.hif.linkUp then { s with hif := { s.hif with sent := s.hif.sent ++ [t] } }
  else match t with
    | .write _ _ _ _ => s.fsat Fld.HIF_ERR_LINKDROP
    | _ => s

/-- The pieces of a memory request of `n` bytes from `a`: none is longer than `2 ^ lg` bytes or crosses a 4 KiB boundary
(R526). -/
def tlpRuns (lg : Nat) : Nat → Nat → Nat → List (Nat × Nat)
  | 0, _, _ => []
  | k + 1, a, n =>
    if n = 0 then []
    else
      let m := min n (min (2 ^ lg) (4096 - a % 4096))
      (a, m) :: tlpRuns lg k (a + m) (n - m)

/-- Those pieces, as many as the length needs. -/
def tlps (lg a n : Nat) : List (Nat × Nat) := tlpRuns lg (n / 2 ^ lg + n / 4096 + 2) a n

/-- A write to host memory for function `fn`, each byte with its poison: writes of at most Max Payload Size, each poisoned
where any of its data is (R525, R526, R707). -/
def State.hostWrite (s : State) (fn a : Nat) (l : List (Byte × Bool)) : State :=
  (tlps s.hif.cfg.mps a l.length).foldl (fun s r =>
    let x := (l.drop (r.1 - a)).take r.2
    s.hostSend (.write fn r.1 (x.map (·.1)) (x.any (·.2)))) s

/-- The read requests for `n` bytes of host memory (R525, R526). -/
def State.hostReadReq (s : State) (fn a n : Nat) : State :=
  (tlps s.hif.cfg.mrrs a n).foldl (fun s r => s.hostSend (.read fn r.1 r.2)) s

/-- The MSI-X table entry of a vector of a function; one that nothing has written holds 0 (R528). -/
def State.msixEntry (s : State) (k : Nat) : MsixEntry := mget ⟨0, 0⟩ s.hif.msixTab k

/-- Whether a function's vector may send: MSI-X is enabled, and neither the function nor the vector is masked (R528). -/
def State.msixOpen (s : State) (fn vec : Nat) : Bool :=
  fn ∈ s.hif.cfg.msixEn && fn ∉ s.hif.cfg.fmask && 4096 * fn + vec ∈ s.hif.unmasked

/-- The message that a vector's table entry spells. -/
def State.msixTlp (s : State) (fn vec : Nat) : HostTlp :=
  .msix fn vec (s.msixEntry (4096 * fn + vec)).addr (s.msixEntry (4096 * fn + vec)).data

/-- An MSI-X message (R528): a vector past the table counts VECBAD, one that may not send sets its pending bit.
(DESIGN CHOICE, log 75; PRESUMED, log 13.) -/
def State.msix (s : State) (fn vec : Nat) : State :=
  if msixSize fn ≤ vec then s.fsat Fld.HIF_ERR_VECBAD
  else if s.msixOpen fn vec then s.hostSend (s.msixTlp fn vec)
  else { s with hif := { s.hif with vpend := sinsert (4096 * fn + vec) s.hif.vpend } }

/-- The event of interrupt source `n` (R528).
(DESIGN CHOICE, log 75.) -/
def State.irq (s : State) (n : Nat) : State :=
  if s.flag Fld.HIF_IRQSRC_EN 0 n then
    (s.fput Fld.HIF_IRQSRC_PEND 1 0 n).msix 0 (s.fget Fld.HIF_IRQSRC_VEC 0 n)
  else s

/-! ### The trouble log -/

/-- Unit classes of a SOURCE (R709). -/
def srcDrone : Nat := 0x0000
def srcBore (b : Nat) : Nat := 0x1000 + b
def srcPart (p : Nat) : Nat := 0x2000 + p
def srcHbm (h : Nat) : Nat := 0x3000 + h
def srcCrook (k : Nat) : Nat := 0x4000 + k
def srcHif : Nat := 0x5000
def srcStage (p : Nat) : Nat := 0x6000 + p
def srcStash : Nat := 0x7000
def srcHealth (h : Nat) : Nat := 0x8000 + h
def srcEmb (n : Nat) : Nat := 0x9000 + n
def srcBell (p : Nat) : Nat := 0xA000 + p
def srcKeep : Nat := 0xB000
def srcResmgr : Nat := 0xC000
def srcSync : Nat := 0xD000

/-- The 32 bytes of a trouble-log entry (R708). -/
def logBytes (time src code : Nat) (ctx : Option Nat) (sev flags : Nat) (detail : List Byte) : List Byte :=
  leBytes 8 time ++ leBytes 2 src ++ leBytes 2 code
    ++ leBytes 2 (match ctx with | some c => 0x8000 + c % 1024 | none => 0)
    ++ leBytes 1 sev ++ leBytes 1 flags ++ (detail ++ List.replicate 16 0).take 16

/-- The 32-bit words that a list of bytes fills, lowest first. -/
def wordsOf : List Byte → List Nat
  | a :: b :: c :: d :: l => leNat [a, b, c, d] :: wordsOf l
  | _ => []

/-- The words of an entry put into a slot of LOG_ENTRY. -/
def putLogWords (s : State) (k : Nat) : List Nat → State
  | [] => s
  | w :: l => putLogWords (s.rput .LOG_ENTRY (BitVec.ofNat 64 w) 0 k) (k + 1) l

/-- An entry whose persistence is due joins the page being gathered; a full page joins the pending ones, of which the
drone keeps 64 (R722). -/
def State.gather (s : State) (n : Nat) (e : List Byte) : State :=
  let page := s.faults.page ++ [(n, e)]
  if page.length < 7 then { s with faults := { s.faults with page := page } }
  else
    let pages := s.faults.pages ++ [page]
    if pages.length ≤ 64 then
      ({ s with faults := { s.faults with page := [], pages := pages } }).fput Fld.LOG_STAT_PENDING pages.length
    else
      (({ s with faults := { s.faults with page := [], pages := pages.drop 1 } }).fput Fld.LOG_STAT_PENDING 64).fsat
        Fld.LOG_STAT_PLOST

/-- One error detected, one trouble-log entry (R695, R708, R713): for CORRECTED errors at most one entry for each SOURCE
and CODE in a millisecond of drone time (R711). -/
def State.log (s : State) (src code : Nat) (ctx : Option Nat) (sev : Nat) (detail : List Byte) : State :=
  let time := (s.rget .DRN_TIME).toNat
  let ms := time / 25000
  if sev = 1 && (src, code, ms) ∈ s.faults.corrSeen then s.fsat Fld.LOG_STAT_SUPPRESSED
  else
    let n := s.fget Fld.LOG_HEAD_COUNT
    let irq := s.fget Fld.LOG_CFG_IRQMIN ≤ sev
    let pers := s.fget Fld.LOG_CFG_PERSISTMIN ≤ sev
    let e := logBytes time src code ctx sev (if irq then 2 else 0) detail
    let s := putLogWords s (8 * (n % 4096)) (wordsOf e)
    let s := s.finc Fld.LOG_HEAD_COUNT
    let s := if sev = 1 then
      { s with faults := { s.faults with
          corrSeen := (src, code, ms) :: s.faults.corrSeen.filter (fun x => x.2.2 = ms) } } else s
    let s := if pers then s.gather n e else s
    if irq then s.irq 0 else s

/-- An error of the host link reported under AER and logged (R714): bits of the AER status registers as PCIe numbers them
(PRESUMED, log 14). -/
def State.pcie (s : State) (aer fn addr : Nat) (ctx : Option Nat) : State :=
  ({ s with hif := { s.hif with aer := sinsert aer s.hif.aer } }).log srcHif 0x0060 ctx 0
    (leBytes 2 aer ++ leBytes 2 fn ++ leBytes 8 addr)

/-- The AER status bits.
(PRESUMED, log 14.) -/
def aerPoisoned : Nat := 12
def aerTimeout : Nat := 14
def aerAbort : Nat := 15
def aerUnsupported : Nat := 20

/-- A failed access of a hub unit (R696): a NOTE, UNITFAULT. -/
def State.unitFault (s : State) (src : Nat) (ctx : Option Nat) (addr status : Nat) : State :=
  s.log src 0x0021 ctx 0 (leBytes 8 addr ++ leBytes 1 status)

/-! ### Wake triggers -/

/-- The codes of R558. -/
def wakeQueue : Nat := 1
def wakeDoorbell : Nat := 2
def wakeArmed : Nat := 3
def wakeWaitEvt : Nat := 4
def wakeCommand : Nat := 5
def wakeResidency : Nat := 6
def wakeReset : Nat := 7

/-- A wake trigger sent to the drone for bore `b`; `WAKE_TRIGGER` brings it to the bore. -/
def State.wake (s : State) (b code : Nat) : State :=
  { s with drone := { s.drone with wakeq := s.drone.wakeq ++ [(b, code)] } }

/-- The power-state codes of DRN_BPST.STATE (R583). -/
def psActive : Nat := 0
def psIdle : Nat := 1
def psSleep : Nat := 2
def psDeep : Nat := 3
def psOff : Nat := 4

/-- The power state that bore `b` reports. -/
def State.pstate (s : State) (b : Nat) : Nat := s.fget Fld.DRN_BPST_STATE 0 b

/-- Whether bore `b` is bound to context `c`. -/
def State.boundOn (s : State) (c b : Nat) : Option BoreBind := (s.ctx c).binds.find? fun x => x.bore = b

/-! ### Who may write -/

/-- Blocks that accept writes only from the host through BAR0 of the physical function (R512). -/
def mayPf (who : Requester) : Bool := who = .fn 0

/-- Blocks that also accept the tray controller's writes over SMBus (R751, R581). -/
def mayTray (who : Requester) : Bool := who = .fn 0 || who = .smbus

/-- Registers that the host through BAR0 and the residency manager write (R289). -/
def mayHostRm (who : Requester) : Bool := who = .fn 0 || who = .resmgr

/-- The state after an operation that happens only under a condition; otherwise the command finds nothing to do and
leaves the device as it is. -/
def when (c : Bool) (s t : State) : State := if c then t else s

end Sys2Proof.Machine
end

