-- ==== Sys2Proof/Machine/Mem.lean ====
section
/-!
DEFINITION. Machine/Mem.lean: device memory: the address map (R34), the bytes of HBM, the windchests and the program
stores, their poison flags and their error-correcting codes (R249, R706), and which access an address admits.
-/

namespace Sys2Proof.Machine

/-! ### The address map -/

/-- What a device address reaches (R34, R45, R46). -/
inductive Home
  | hbm
  | windchest (b off : Nat)
  | pstore (b off : Nat)
  | boreReg (b blk off : Nat)
  | hubReg (blk off : Nat)
  | host (addr : Nat)
  | unbacked
  deriving DecidableEq, Repr

/-- First address of the windchest of bore `b`. -/
def wchBase (b : Nat) : Nat := 0x008000000000 + 0x02000000 * b

/-- First address of the program store of bore `b`. -/
def psBase (b : Nat) : Nat := 0x009000080000 + 0x00100000 * b

/-- What a device address reaches on a part (R8, R34).  A quadrant's region is unbacked when a stack of its own did not
train (R598), which `dead` says. -/
def homeOf (small : Bool) (dead : Nat → Bool) (a : Nat) : Home :=
  if a < Config.hbmEnd small then (if dead (a / Config.region small) then .unbacked else .hbm)
  else if 0x008000000000 ≤ a ∧ a < 0x008080000000 then
    .windchest ((a % 0x008000000000) / 0x02000000) ((a % 0x008000000000) % 0x02000000)
  else if 0x009000000000 ≤ a ∧ a < 0x009004000000 then
    let b := (a % 0x009000000000) / 0x00100000
    let o := (a % 0x009000000000) % 0x00100000
    if 0x80000 ≤ o then .pstore b (o % 0x80000) else .boreReg b (o / 0x10000) (o % 0x10000)
  else if 0x00A000000000 ≤ a ∧ a < 0x00A002000000 then
    .hubReg ((a % 0x00A000000000) / 0x100000) ((a % 0x00A000000000) % 0x100000)
  else if 0x800000000000 ≤ a ∧ a < 0x1000000000000 then .host (a % 0x800000000000)
  else .unbacked

/-- The stack that holds an HBM address (R35). -/
def stackOf (small : Bool) (a : Nat) : Nat := 2 * (a / Config.region small) + bits (a % Config.region small) 12 1

/-- Whether the part is the YK-A64-144, as its fuses say (R8, R18). -/
def State.small (s : State) : Bool := s.boot.fuses.hbmCfg = 1

/-! ### Bytes -/

/-- The byte at a device address.
(DESIGN CHOICE, log 8.) -/
def State.byteAt (s : State) (a : Nat) : Byte := mget 0 s.mem a

/-- `n` bytes from address `a` upward. -/
def State.bytes (s : State) (a : Nat) : Nat → List Byte
  | 0 => []
  | n + 1 => s.byteAt a :: s.bytes (a + 1) n

/-- A memory with bytes written from `a` upward. -/
def memPut (m : Map Byte) (a : Nat) : List Byte → Map Byte
  | [] => m
  | x :: l => memPut (mput 0 m a x) (a + 1) l

/-- The state with bytes written from `a` upward. -/
def State.setBytes (s : State) (a : Nat) (l : List Byte) : State := { s with mem := memPut s.mem a l }

/-- The form of memory: addresses strictly rising, and no byte listed that holds 0. -/
def Memory.wf (m : Map Byte) : Bool := mwf 0 m

/-! ### Poison and errors -/

/-- The size of the unit that carries one poison flag and one check: a 32-byte block of HBM (R706), an 8-byte word of
any other memory (R249). -/
def unitSize (a : Nat) : Nat := if a < Config.hbmTop then 32 else 8

/-- First address of that unit. -/
def unitOf (a : Nat) : Nat := a / unitSize a * unitSize a

/-- The units that `n` bytes from `a` touch. -/
def unitsOf (a : Nat) : Nat → List Nat
  | 0 => []
  | n + 1 => unitOf a :: (unitsOf (a + 1) n).filter (fun u => u ≠ unitOf a)

/-- Whether a read of `n` bytes from `a` meets poisoned data. -/
def State.poisoned (s : State) (a n : Nat) : Bool := (unitsOf a n).any fun u => u ∈ s.poison

/-- The trouble-log entry of an error found in the unit at `u`, corrected or not, in HBM, in a windchest or in a program
store (R710). -/
def State.logEcc (s : State) (u : Nat) (corrected : Bool) : State :=
  match homeOf s.small (fun _ => false) u with
  | .windchest b o =>
    if corrected then (s.fsat Fld.WCH_ECC_CORR 1 b).log (srcBore b) 0x0002 none 1 (leBytes 4 o)
    else (s.fsat Fld.WCH_ECC_UNCORR 1 b).log (srcBore b) 0x0011 none 0 (leBytes 4 o)
  | .pstore b o =>
    if corrected then s.log (srcBore b) 0x0003 none 1 (leBytes 2 (o / 64) ++ leBytes 1 (o % 64 / 8)) else s
  | _ =>
    if corrected then s.log (srcHbm (stackOf s.small u)) 0x0001 none 1 (leBytes 8 u)
    else s.log (srcHbm (stackOf s.small u)) 0x0010 none 0 (leBytes 8 u)

/-- A read checks each unit it touches: a single-bit error is corrected and written back, an uncorrectable error sets
the unit's poison flag (R249, R706). -/
def State.checkUnit (s : State) (u : Nat) : State :=
  let s := if u ∈ s.single then ({ s with single := s.single.filter (· ≠ u) }).logEcc u true else s
  if u ∈ s.double then
    ({ s with double := s.double.filter (· ≠ u), poison := sinsert u s.poison }).logEcc u false
  else s

/-- Every unit of `n` bytes from `a` checked. -/
def State.checkUnits (s : State) (a n : Nat) : State := s.each (unitsOf a n) State.checkUnit

/-- Whether a write of `n` bytes from `a` covers the unit at `u`. -/
def covers (a n u : Nat) : Bool := a ≤ u && u + unitSize u ≤ a + n

/-- A write of bytes, each with the poison flag of the data it comes from: units covered in part are first read and
checked and keep their flag; a whole unpoisoned write clears the flag, and poisoned data sets it (R249, R706). -/
def State.storeP (s : State) (a : Nat) (l : List (Byte × Bool)) : State :=
  let n := l.length
  let us := unitsOf a n
  let s := s.each (us.filter fun u => !covers a n u) State.checkUnit
  let s := s.setBytes a (l.map (·.1))
  s.each us fun s u =>
    let pois := (l.zipIdx).any fun x => x.1.2 && unitOf (a + x.2) = u
    let s := if covers a n u then
      { s with single := s.single.filter (· ≠ u), double := s.double.filter (· ≠ u) } else s
    if pois then { s with poison := sinsert u s.poison }
    else if covers a n u then { s with poison := s.poison.filter (· ≠ u) }
    else s

/-- A write of bytes that are all poisoned or all not. -/
def State.store (s : State) (a : Nat) (l : List Byte) (pois : Bool) : State := s.storeP a (l.map fun x => (x, pois))

/-- A read of memory: the bytes, whether any of them is poisoned, and the state after the check. -/
def State.fetch (s : State) (a n : Nat) : List Byte × Bool × State :=
  let s := s.checkUnits a n
  (s.bytes a n, s.poisoned a n, s)

/-! ### Power -/

/-- The quadrant regions that are unbacked because a stack of theirs did not train (R598): DRN_BOOT.HBM holds one bit a
stack.
(DEDUCED, log 56.) -/
def State.hbmDead (s : State) (q : Nat) : Bool :=
  !(bit (s.fget Fld.DRN_BOOT_HBMOK) (2 * q) && bit (s.fget Fld.DRN_BOOT_HBMOK) (2 * q + 1))

/-- What a device address reaches now. -/
def State.home (s : State) (a : Nat) : Home := homeOf s.small s.hbmDead a

/-! ### Fabric clocks -/

/-- The fabric of quadrant `q` runs or stands still, and its stacks with it (R548).
(DEDUCED, log 77.) -/
def State.putFab (s : State) (q : Nat) (run : Bool) : State :=
  let v := (s.rget .DRN_FAB).toNat
  s.rput .DRN_FAB (BitVec.ofNat 64 (setBits (setBits v (8 * q) 1 (b2n run)) (8 * q + 1) 1 (b2n (!run))))

/-- A transfer into quadrant `q` that a step makes whole: where the fabric stands still, it is held until the drone has
restarted it, and then goes on (R33, R548).
(DESIGN CHOICE, log 78.) -/
def State.openFab (s : State) (q : Nat) : State := if s.fabRun q then s else s.putFab q true

/-- The same for an access to a device address. -/
def State.crossFab (s : State) (a : Nat) : State :=
  match s.home a with
  | .hbm => s.openFab (a / Config.region s.small)
  | .windchest b _ | .pstore b _ | .boreReg b _ _ => s.openFab (quadOf b)
  | _ => s

/-! ### Access to bores -/

/-- How an access to a bore ends, by the state that the bore reports (R40, R41). -/
inductive Reach
  | done | wait | dark | stub
  deriving DecidableEq, Repr

/-- An access to a bore's vestibule blocks, or to its windchest and other blocks (R40). -/
def State.reach (s : State) (b : Nat) (vestibule : Bool) : Reach :=
  let p := s.pstate b
  if p = psOff then (if vestibule then .stub else .dark)
  else if vestibule || p = psActive then .done
  else if p = psDeep then .dark
  else .wait

/-- A dark access to bore `b` is counted and recorded (R41, R49). -/
def State.darkAccess (s : State) (b : Nat) (host : Bool) : State :=
  (((s.fput Fld.DRN_DARKACC_LAST_BORE b).fput Fld.DRN_DARKACC_LAST_OFF (b2n (s.pstate b = psOff))).fput
    Fld.DRN_DARKACC_LAST_HOST (b2n host)).fsat Fld.DRN_DARKACC_COUNT

/-- Whether the drone is running: it is powered from the always-on rail alone (R546, R585). -/
def State.droneOn (s : State) : Bool := !s.boot.porst && s.boot.alwaysOn

/-- Whether the hub is running: PORST_N is released, and its clock has run since the end of RAILS (R585, R764). -/
def State.powered (s : State) : Bool := !s.boot.porst && s.boot.hubOn

/-- Whether registers other than those of the drone, the log, the dump and the keep flash can be reached: not while the device
is frozen by a fatal error (R716), nor in RECOVERY (R595).
(DESIGN CHOICE, log 52.) -/
def State.hubOpen (s : State) : Bool := s.powered && !s.faults.frozen && s.fget Fld.DRN_BOOT_STAGE ≠ 8

/-- A write of a hub register that would leave `t`, where the requester may make it. -/
def State.hubReg (s : State) (may : Bool) (t : State) : State := if may && s.hubOpen then t else s

/-- A write of a register of the drone, the log, the dump or the keep flash, which a fatal error leaves in reach (R716). -/
def State.drnReg (s : State) (may : Bool) (t : State) : State := if may && s.powered then t else s

/-- The status that an access returns to a requester inside the device (R38, R41); the host is told nothing. -/
def State.status (s : State) (who : Requester) (st : AccStatus) : State :=
  if isHost who then s else { s with rstat := st }

/-- An access that has reached a block of bore `b`, over the fabric of its quadrant (R33). -/
def State.regDone (s : State) (who : Requester) (b : Nat) : State := (s.openFab (quadOf b)).status who .ok

/-- A dark access of a requester to bore `b` (R41). -/
def State.darkFor (s : State) (who : Requester) (b : Nat) : State :=
  ((s.openFab (quadOf b)).darkAccess b (isHost who)).status who .dark

/-- A register access of bore `b` that would leave `t`: it takes effect where the bore's power state lets it and the
requester may make it; in DEEP and OFF it is a dark access (R40, R41, R572). -/
def State.regAccess (s : State) (who : Requester) (b : Nat) (vestibule may : Bool) (t : State) : State :=
  if !s.hubOpen then s else
  match s.reach b vestibule with
  | .done | .wait => (if may then t else s).regDone who b
  | .dark | .stub => s.darkFor who b

end Sys2Proof.Machine
end

