-- ==== Sys2Proof/Machine/Bundle.lean ====
section
/-!
DEFINITION. Machine/Bundle.lean: the slot words of a bundle (R81, R82, R128): the fields that each opcode uses, its
register sources and destinations, and the static checks (R161, R97).
-/

namespace Sys2Proof.Machine

/-! ### Fetching -/

/-- First address of slot `k` of bundle `pc` of bore `b` (R46, R81). -/
def slotAddr (b pc k : Nat) : Nat := psBase b + 64 * pc + 8 * k

/-- Slot word `k` of bundle `pc` of bore `b`. -/
def State.slot (s : State) (b pc k : Nat) : Nat := leNat (s.bytes (slotAddr b pc k) 8)

/-- The opcode of a slot word. -/
def opc (w : Nat) : Nat := bits w 52 8

/-- The predicate register that guards a slot word. -/
def psel (w : Nat) : Nat := bits w 60 3

/-- The inert form (R83). -/
def inert (w : Nat) : Bool := bits w 60 4 = 8

/-! ### Forms -/

/-- The register files of R84. -/
inductive RFile
  | g | a | d | p
  deriving DecidableEq, Repr

/-- A register field of a slot word: its file, its lowest bit and its width. -/
structure RField where
  file : RFile
  lo   : Nat
  w    : Nat
  deriving DecidableEq, Repr

/-- What an opcode uses of bits 51:0: its destinations, its sources, and the mask of its other fields. -/
structure OpSpec where
  dst : List RField
  src : List RField
  imm : Nat
  deriving DecidableEq, Repr

/-- The mask of `w` bits from `lo`. -/
def mask (lo w : Nat) : Nat := 2 ^ lo * (2 ^ w - 1)

/-- Registers of a file (R84). -/
def RFile.size : RFile → Nat
  | .g => 64 | .a => 16 | .d => 32 | .p => 8

/-- The register that a field names: the index of an a, d or p register stands in the low 4, 5 or 3 bits of its field (R129). -/
def RField.ref (f : RField) (w : Nat) : RegRef :=
  match f.file with
  | .g => .g (bits w f.lo f.w)
  | .a => .a (bits w f.lo (min f.w 4))
  | .d => .d (bits w f.lo (min f.w 5))
  | .p => .p (bits w f.lo (min f.w 3))

/-- A 6-bit field of file `f` at bit `lo`. -/
def fld6 (f : RFile) (lo : Nat) : RField := ⟨f, lo, 6⟩

/-- The scalar opcodes (R135, R136); `s1` says that the slot is S1.  RD of MOVHI, DINS, DADDB and DINSI is also a source
(R163).
(DEDUCED, log 17.) -/
def scalarSpec (s1 : Bool) (op : Nat) : Option OpSpec :=
  let gD := fld6 .g 46; let gA := fld6 .g 40; let gB := fld6 .g 34; let gC := fld6 .g 28
  let pD := fld6 .p 46; let pA := fld6 .p 40; let pB := fld6 .p 34; let pC := fld6 .p 28
  let aD := fld6 .a 46; let aA := fld6 .a 40
  let dD := fld6 .d 46; let dA := fld6 .d 40
  if op = 0 then some ⟨[], [], 0⟩
  else if op ≤ 0x0C then some ⟨[gD], [gA, gB], 0⟩
  else if op = 0x0D then some ⟨[gD], [gA, gB, pC], 0⟩
  else if op ≤ 0x0F then some ⟨[gD], [gA], 0⟩
  else if op ≤ 0x13 then some ⟨[gD], [gA], mask 0 40⟩
  else if op ≤ 0x16 then some ⟨[gD], [gA], mask 0 6⟩
  else if op = 0x17 then some ⟨[gD], [], mask 0 46⟩
  else if op = 0x18 then some ⟨[gD], [gD], mask 0 32⟩
  else if 0x20 ≤ op ∧ op ≤ 0x22 ∨ 0x24 ≤ op ∧ op ≤ 0x27 then some ⟨[gD], [gA, gB], 0⟩
  else if 0x30 ≤ op ∧ op ≤ 0x35 then some ⟨[pD], [gA, gB], 0⟩
  else if 0x36 ≤ op ∧ op ≤ 0x38 then some ⟨[pD], [gA], mask 0 40⟩
  else if 0x3A ≤ op ∧ op ≤ 0x3C then some ⟨[pD], [pA, pB], 0⟩
  else if op = 0x3D then some ⟨[pD], [pA], 0⟩
  else if op = 0x3E then some ⟨[pD], [gA], 0⟩
  else if op = 0x3F then some ⟨[gD], [pA], 0⟩
  else if op = 0x40 then some ⟨[aD], [aA, gB], 0⟩
  else if op = 0x41 then some ⟨[aD], [aA], mask 0 40⟩
  else if op = 0x42 then some ⟨[aD], [gA], 0⟩
  else if op = 0x43 then some ⟨[gD], [aA], 0⟩
  else if op = 0x53 ∨ op = 0x5B then some ⟨[gD], [gA, gB, gC], 0⟩
  else if op = 0x57 ∨ op = 0x5F then some ⟨[gD], [gA], 0⟩
  else if 0x50 ≤ op ∧ op ≤ 0x5F then some ⟨[gD], [gA, gB], 0⟩
  else if 0x60 ≤ op ∧ op ≤ 0x67 then some ⟨[pD], [gA, gB], 0⟩
  else if 0x68 ≤ op ∧ op ≤ 0x71 then some ⟨[gD], [gA], mask 25 3⟩
  else if !s1 then none
  else if op = 0xC0 then some ⟨[dD], [dA, gB, dD], mask 24 4⟩
  else if op = 0xC1 then some ⟨[gD], [dA], mask 24 4⟩
  else if op = 0xC2 then some ⟨[dD], [dA], 0⟩
  else if op = 0xC3 then some ⟨[dD], [dA, gB, dD], 0⟩
  else if op = 0xC4 then some ⟨[dD], [dA, dD], mask 0 28⟩
  else none

/-- The branch opcodes (R141). -/
def branchSpec (op : Nat) : Option OpSpec :=
  let gD := fld6 .g 46; let gA := fld6 .g 40
  if op = 0 ∨ op = 8 ∨ op = 9 then some ⟨[], [], 0⟩
  else if op = 1 then some ⟨[], [], mask 0 13⟩
  else if op = 2 then some ⟨[], [gA], 0⟩
  else if op = 3 then some ⟨[gD], [], mask 0 13⟩
  else if op = 4 then some ⟨[gD], [gA], 0⟩
  else if op = 5 then some ⟨[gD], [gD], mask 0 13⟩
  else none

/-- The file of the register that a load or store moves (R146). -/
def lsFile (n : Nat) : RFile :=
  if n = 1 ∨ n = 2 then .g else if n = 3 then .a else if n = 4 then .p else .d

/-- Bytes that a load or store moves (R146). -/
def lsBytes (n : Nat) : Nat := if n = 1 then 4 else if n ≤ 3 then 8 else if n = 4 then 1 else 32

/-- The L-slot opcodes (R144 to R150).  The fields of a form that a request does not use are reserved (R147).
(DEDUCED, log 17.) -/
def loadSpec (w : Nat) : Option OpSpec :=
  let op := opc w
  let rd (n : Nat) : RField := fld6 (lsFile n) 46
  if op = 0 then some ⟨[], [], 0⟩
  else if op ≤ 5 then some ⟨[rd op], [fld6 .g 34], mask 40 6 + mask 0 25⟩
  else if op ≤ 0xA then some ⟨[], [rd (op - 5), fld6 .g 34], mask 40 6 + mask 0 25⟩
  else if 0x11 ≤ op ∧ op ≤ 0x15 then some ⟨[rd (op - 0x10)], [fld6 .a 40], mask 0 40⟩
  else if 0x16 ≤ op ∧ op ≤ 0x1A then some ⟨[], [rd (op - 0x15), fld6 .a 40], mask 0 40⟩
  else if op = 0x20 then
    some ⟨[], [⟨.d, 47, 5⟩, ⟨.d, 42, 5⟩],
      mask 26 4 + mask 16 6 + mask 0 16 + (if bit w 29 then mask 36 6 else 0) + (if bit w 28 then mask 30 6 else 0)⟩
  else if op = 0x21 then
    some ⟨[], [⟨.d, 47, 5⟩, fld6 .g 30], mask 29 1 + mask 26 2 + mask 16 6 + mask 0 16 + (if bit w 29 then mask 36 6 else 0)⟩
  else if op = 0x28 then some ⟨[], [⟨.d, 42, 5⟩], mask 30 6 + mask 24 2 + mask 16 4⟩
  else none

/-- The M-slot opcodes (R151). -/
def arraySpec (w : Nat) : Option OpSpec :=
  let op := opc w
  if op = 0 then some ⟨[], [], 0⟩
  else if op = 1 then some ⟨[], [], mask 46 6 + mask 41 2 + mask 18 14⟩
  else if op = 2 then some ⟨[], [], mask 46 6 + mask 43 3 + mask 41 2 + mask 18 21 + (if bits w 50 2 = 2 then mask 39 2 else 0)⟩
  else if op = 3 then some ⟨[], [⟨.d, 47, 5⟩], mask 30 17⟩
  else if op = 4 then some ⟨[], [], mask 44 2⟩
  else none

/-- The V-slot opcodes (R154). -/
def launchSpec (op : Nat) : Option OpSpec :=
  if op = 0 then some ⟨[], [], 0⟩
  else if op = 1 then some ⟨[], [fld6 .g 20, fld6 .g 14], mask 26 26 + mask 6 8⟩
  else if op = 2 then some ⟨[], [fld6 .g 46, fld6 .g 40, fld6 .g 20, fld6 .g 14], mask 26 12 + mask 6 8⟩
  else if op = 3 then some ⟨[], [], mask 38 14⟩
  else if op = 4 then some ⟨[], [fld6 .g 26, fld6 .g 8], mask 32 20 + mask 14 12 + mask 0 8⟩
  else none

/-- The Q-slot opcodes (R156, R157). -/
def queueSpec (w : Nat) : Option OpSpec :=
  let op := opc w
  let b : List RField := if 2 ≤ bits w 30 2 then [fld6 .g 32] else []
  if op = 0 then some ⟨[], [], 0⟩
  else if op = 1 then some ⟨[⟨.p, 21, 3⟩], fld6 .g 38 :: b, mask 44 8 + mask 30 2⟩
  else if op = 2 then some ⟨[⟨.p, 21, 3⟩], fld6 .g 38 :: fld6 .g 24 :: b, mask 44 8 + mask 30 2⟩
  else if op = 3 then some ⟨[fld6 .g 46, fld6 .g 40, fld6 .g 34, ⟨.p, 5, 3⟩], [], mask 29 5 + mask 8 14⟩
  else if op = 4 then some ⟨[fld6 .g 46, fld6 .g 40, fld6 .g 34, ⟨.p, 5, 3⟩], [fld6 .g 22], mask 28 1 + mask 8 14⟩
  else if op = 5 ∨ op = 6 then some ⟨[], [], mask 29 5⟩
  else none

/-- The Y-slot opcodes (R159). -/
def syncSpec (w : Nat) : Option OpSpec :=
  let op := opc w
  if op = 0 ∨ op = 6 then some ⟨[], [], 0⟩
  else if op = 1 then some ⟨[], [], mask 50 2 + mask 20 16 + (if bits w 50 2 = 2 then mask 36 8 else mask 36 14)⟩
  else if op = 2 then some ⟨[⟨.p, 13, 3⟩], [fld6 .g 30], mask 36 16 + mask 16 14⟩
  else if op = 3 ∨ op = 5 then some ⟨[⟨.p, 13, 3⟩], [], mask 38 12 + mask 16 14⟩
  else if op = 4 then some ⟨[], [], mask 38 12⟩
  else none

/-- What the word of slot `k` uses; none for an opcode that the slot does not have. -/
def slotSpec (k w : Nat) : Option OpSpec :=
  match k with
  | 0 => scalarSpec false (opc w)
  | 1 => scalarSpec true (opc w)
  | 2 => branchSpec (opc w)
  | 3 => loadSpec w
  | 4 => arraySpec w
  | 5 => launchSpec (opc w)
  | 6 => queueSpec w
  | _ => syncSpec w

/-- The registers that the word of slot `k` writes (R163). -/
def slotDst (k w : Nat) : List RegRef :=
  match slotSpec k w with
  | some o => o.dst.map fun f => f.ref w
  | none => []

/-- The registers that the word of slot `k` reads, its guard among them (R92). -/
def slotSrc (k w : Nat) : List RegRef :=
  .p (psel w) :: match slotSpec k w with
  | some o => o.src.map fun f => f.ref w
  | none => []

/-! ### Static checks -/

/-- The mask of bits that a register field may use: its index within its file (R129). -/
def RField.mask (f : RField) : Nat := Sys2Proof.Machine.mask f.lo f.w

/-- The timeout field of a word: none without a timeout, else its bore cycles (R132). -/
def tmoCycles (tmo : Nat) : Nat := bits tmo 0 8 * 2 ^ bits tmo 8 5

/-- An illegal timeout encoding (R132). -/
def tmoBad (tmo : Nat) : Bool := 24 < bits tmo 8 5 || (bits tmo 0 8 = 0 && bits tmo 8 5 ≠ 0)

/-- Formats that an array operand may have: codes 0x1 to 0x9. -/
def fmtBad (f : Nat) : Bool := f = 0 || 9 < f

/-- The slot's own conditions of R161. -/
def slotOwnIllegal (k w : Nat) : Bool :=
  let op := opc w
  match k with
  | 0 | 1 => (0x68 ≤ op && op ≤ 0x71 && bit w 24) || ((op = 0xC0 || op = 0xC1 || op = 0xC4) && bits w 24 4 = 15)
  | 2 => op = 5 && bits w 46 6 = 0
  | 3 =>
    (op = 0x28 && fmtBad (bits w 16 4)) || (op = 0x21 && (bits w 42 5 ≠ 0 || bit w 28))
      || ((op = 0x20 || op = 0x21) && bit w 26 && 47 < bits w 16 6)
  | 4 =>
    ((op = 1 || op = 2) && (bits w 50 2 = 3 || fmtBad (bits w 46 4))) || (op = 1 && bits w 50 2 = 2)
      || (op = 3 && (1 < bits w 36 2 || (bits w 36 2 = 1 && 47 < bits w 30 6)))
  | 5 =>
    ((op = 1 || op = 3 || op = 4) &&
        (bits w 38 7 = 0 || 79 < bits w 45 7 || 80 < bits w 45 7 + bits w 38 7))
      || ((op = 1 || op = 2) && (1 < bits w 12 2 || (bits w 12 2 = 1 && 47 < bits w 6 6)))
      || (op = 4 && (1 < bits w 6 2 || (bits w 6 2 = 1 && 47 < bits w 0 6)))
  | 6 => (op = 3 || op = 4) && tmoBad (bits w 8 13)
  | _ =>
    ((op = 2 || op = 3 || op = 5) && tmoBad (bits w 16 13))
      || ((op = 1 || op = 2) && (bits w 50 2 = 3 || (bits w 50 2 = 0 && 47 < bits w 36 14)))
      || (op = 2 && bits w 50 2 = 2) || (op = 1 && bits w 20 16 = 0)

/-- Whether the enabled word of slot `k` is illegal by itself (R161): an opcode the slot does not have, a bit that its
form does not use, a register out of range, or a condition of the slot. -/
def slotIllegal (k w : Nat) : Bool :=
  match slotSpec k w with
  | none => true
  | some o =>
    let used := (o.dst ++ o.src).foldl (fun m f => m ||| f.mask) o.imm
    (w % 2 ^ 52) &&& used ≠ w % 2 ^ 52
      || (o.dst ++ o.src).any (fun f => f.file.size ≤ bits w f.lo f.w)
      || slotOwnIllegal k w

/-- A register whose writes are discarded (R84), which R97 exempts. -/
def discards : RegRef → Bool
  | .g n => n = 0
  | .p n => n = 0
  | _ => false

/-- Whether a list names some register twice. -/
def repeats : List RegRef → Bool
  | [] => false
  | r :: l => (r ∈ l && !discards r) || repeats l

/-- The slots of a bundle that are illegal under R97: those that name a destination which a lower slot, or the slot
itself, names already.  Inert slots are left out (R83). -/
def clashes (ws : List Nat) : List Nat :=
  let dsts := (List.range 8).map fun k => if inert (ws.getD k 0) then [] else slotDst k (ws.getD k 0)
  (List.range 8).filter fun k =>
    let d := dsts.getD k []
    repeats d || d.any fun r => !discards r && (List.range k).any fun j => r ∈ dsts.getD j []

end Sys2Proof.Machine
end

