-- ==== Sys2Proof/Machine/Flit.lean ====
section
/-!
DEFINITION. Machine/Flit.lean: the layout of crook flits and of the transfers that they carry (R480 to R483): how a transfer is
laid out as the bodies of its flits, and how the receiver reads it back.
-/

namespace Sys2Proof.Machine

/-- The number in `n` bytes from place `i`. -/
def numAt (l : List Byte) (i n : Nat) : Nat := leNat ((l.drop i).take n)

/-- `n` bytes of zero. -/
def zeros (n : Nat) : List Byte := List.replicate n 0

/-! ### Transfer headers (R483) -/

/-- A counter as gC[15:0] names it, and as CTRPOOL and CTRIDX do (R157, R483). -/
def ctrWord (c : CtrRef) : Nat := 2 ^ 15 * b2n c.pool + c.idx % 2 ^ 14
def wordCtr (n : Nat) : CtrRef := ⟨bit n 15, n % 2 ^ 14⟩

/-- The bore and the channel that a header gives for the sender. -/
def originBytes (o : Origin) : List Byte :=
  match o with
  | .here (.bore b ch) => leBytes 1 ch ++ leBytes 1 b
  | .far _ b ch => leBytes 1 ch ++ leBytes 1 b
  | _ => [0, 0]

/-- The 16-byte header of a transfer. -/
def xferHead : XferBody → List Byte
  | .put _ win putid len off rinc =>
    [1] ++ leBytes 1 win ++ leBytes 2 putid ++ leBytes 4 len ++ leBytes 5 off ++ leBytes 3 rinc
  | .red slot putid len eidx => [2] ++ leBytes 1 slot ++ leBytes 2 putid ++ leBytes 4 len ++ leBytes 4 eidx ++ zeros 4
  | .msg did q m =>
    [3] ++ leBytes 1 q ++ leBytes 1 did ++ leBytes 1 (m.words.length - 1 + 4 * b2n m.inc.isSome + 8 * b2n m.nack)
      ++ leBytes 2 m.stamp ++ originBytes m.origin ++ leBytes 2 ((m.inc.map ctrWord).getD 0) ++ leBytes 4 m.seq.toNat ++ zeros 2
  | .nackm did n =>
    [3, 0] ++ leBytes 1 did ++ leBytes 1 (n.words.length - 1 + 16) ++ zeros 2 ++ leBytes 1 n.chan ++ leBytes 1 n.bore ++ zeros 8
  | .inc did q i =>
    [4] ++ leBytes 1 q ++ leBytes 1 did ++ zeros 1 ++ leBytes 2 i.stamp ++ originBytes i.origin ++ leBytes 2 i.amt
      ++ leBytes 2 (ctrWord i.ctr) ++ zeros 4
  | .ret rkind b ch oc => [5] ++ leBytes 1 rkind ++ leBytes 1 b ++ leBytes 1 ch ++ leBytes 2 oc ++ zeros 10
  | .tag p t => [6] ++ leBytes 1 p ++ leBytes 1 t.tag ++ leBytes 1 (b2n t.back) ++ leBytes 4 t.step.toNat ++ zeros 8
  | .ack good putid reason => [7] ++ leBytes 1 (b2n !good) ++ leBytes 2 putid ++ leBytes 1 reason ++ zeros 11
  | .audit did q b ch => [8] ++ leBytes 1 q ++ leBytes 1 did ++ zeros 3 ++ leBytes 1 ch ++ leBytes 1 b ++ zeros 8

/-- The words of a message, in 16 bytes of data. -/
def wordBytes (ws : List Word32) : List Byte :=
  ((ws.flatMap fun w => leBytes 4 w.toNat) ++ zeros 16).take 16

/-- The first `n` 32-bit words of a transfer's data. -/
def dataWords (l : List Byte) (n : Nat) : List Word32 := (List.range n).map fun i => BitVec.ofNat 32 (numAt l (4 * i) 4)

/-- A MSG transfer read back (R483, R486).  The header does not carry the TAG of the sender's route, nor a return queue, which the
sender knows itself.
(DESIGN CHOICE, log 86.) -/
def msgOf (h data : List Byte) : XferBody :=
  let f := numAt h 3 1
  let q := numAt h 1 1
  let did := numAt h 2 1 % 64
  let ch := numAt h 6 1
  let b := numAt h 7 1 % 64
  let ws := dataWords data (f % 4 + 1)
  if bit f 4 then .nackm did ⟨ws, ch, b⟩
  else .msg did q ⟨ws, 0, numAt h 4 2, .here (.bore b ch), 3, bit f 3, BitVec.ofNat 32 (numAt h 10 4),
    if bit f 2 then some (wordCtr (numAt h 8 2)) else none, 1024⟩

/-- A transfer read from its header and its first flit's data, on lane `vl`: none for a KIND that the table does not define on that
lane (R483).
(DESIGN CHOICE, log 86.) -/
def xferOf (vl : Nat) (h data : List Byte) : Option XferBody :=
  let k := numAt h 0 1
  let did := numAt h 2 1 % 64
  let b := numAt h 7 1 % 64
  if vl ≤ 1 then
    if k = 1 then some (.put (vl = 1) (numAt h 1 1 % 8) (numAt h 2 2) (numAt h 4 4) (numAt h 8 5) (numAt h 13 3))
    else if k = 6 then some (.tag (numAt h 1 1 % 16) ⟨bit (numAt h 3 1) 0, numAt h 2 1, BitVec.ofNat 32 (numAt h 4 4)⟩)
    else none
  else if vl = 3 then
    if k = 2 then some (.red (numAt h 1 1 % 64) (numAt h 2 2) (numAt h 4 4) (numAt h 8 4)) else none
  else if k = 3 then some (msgOf h data)
  else if k = 4 then
    some (.inc did (numAt h 1 1) ⟨numAt h 8 2, wordCtr (numAt h 10 2), numAt h 4 2, .here (.bore b (numAt h 6 1)), 3, 1024⟩)
  else if k = 5 then some (.ret (numAt h 1 1) did (numAt h 3 1) (numAt h 4 2))
  else if k = 7 then some (.ack (numAt h 1 1 = 0) (numAt h 2 2) (numAt h 4 1))
  else if k = 8 then some (.audit did (numAt h 1 1) b (numAt h 6 1))
  else none

/-! ### Bodies (R480, R482) -/

/-- The body words that hold a poisoned byte, as the POISON field marks them. -/
def poisonMask (l : List (Byte × Bool)) : Nat :=
  (List.range 30).foldl (fun n w => if ((l.drop (8 * w)).take 8).any (·.2) then n + 2 ^ w else n) 0

/-- One flit's share of a transfer: LEN counts the words of data, the transfer header apart.
(DEDUCED, log 86.) -/
def mkShare (head : List Byte) (l : List (Byte × Bool)) : Share :=
  let body := (head.map fun x => (x, false)) ++ l
  ⟨!head.isEmpty, (l.length + 7) / 8, poisonMask body, body.map (·.1)⟩

/-- The later flits of a transfer, 240 bytes each. -/
def laterShares : Nat → List (Byte × Bool) → List Share
  | 0, _ => []
  | n + 1, l => if l.isEmpty then [] else mkShare [] (l.take 240) :: laterShares n (l.drop 240)

/-- The final flit of a transfer whose source could not be read (R485). -/
def endShare : Share := ⟨false, 0, 2 ^ 30 - 1, []⟩

/-- The flits of a transfer: its header and up to 224 bytes in the first, up to 240 in each later one. -/
def xferShares (b : XferBody) (l : List (Byte × Bool)) : List Share :=
  mkShare (xferHead b) (l.take 224) :: laterShares (l.length / 240 + 1) (l.drop 224)

/-- The data of a transfer that has no source in memory. -/
def ownData : XferBody → List (Byte × Bool)
  | .msg _ _ m => (wordBytes m.words).map fun x => (x, false)
  | .nackm _ n => (wordBytes n.words).map fun x => (x, false)
  | _ => []

/-- The data that a flit's share carries, each byte with its poison. -/
def Share.data (p : Share) : List (Byte × Bool) :=
  let skip := if p.first then 16 else 0
  ((p.body.zipIdx.map fun x => (x.1, bit p.poison (x.2 / 8))).drop skip).take (8 * p.len)

/-- Whether a share is the final flit of a transfer whose source could not be read (R485). -/
def Share.ends (p : Share) : Bool := !p.first && p.len = 0 && p.poison = 2 ^ 30 - 1

/-! ### Flits (R480) -/

/-- The TYPE codes. -/
def tyIdle : Nat := 0
def tyInit : Nat := 1
def tyXfer : Nat := 2

/-- The link fields of a flit's header, beside those of its share. -/
structure Link where
  seq   : Nat
  ack   : Nat
  vl    : Nat
  nak   : Bool
  type  : Nat
  crvl  : Nat
  crtot : Nat
  deriving DecidableEq, Repr

/-- Header bytes 0 to 11. -/
def flitHead (k : Link) (p : Share) : List Byte :=
  leBytes 2 k.seq ++ leBytes 2 k.ack ++ leBytes 1 (2 ^ 6 * k.vl + 2 ^ 5 * b2n k.nak + 2 ^ 4 * b2n p.first + k.type)
    ++ leBytes 1 p.len ++ leBytes 2 (2 ^ 14 * k.crvl + k.crtot) ++ leBytes 4 p.poison

/-- The 240 bytes of a flit's body. -/
def flitBody (p : Share) : List Byte := (p.body ++ zeros 240).take 240

/-- The link fields of a received flit. -/
def linkOf (l : List Byte) : Link :=
  ⟨numAt l 0 2, numAt l 2 2, bits (numAt l 4 1) 6 2, bit (numAt l 4 1) 5, numAt l 4 1 % 16, bits (numAt l 6 2) 14 2,
    numAt l 6 2 % 2 ^ 14⟩

/-- The share of a received flit. -/
def shareIn (l : List Byte) : Share :=
  ⟨bit (numAt l 4 1) 4, numAt l 5 1 % 32, numAt l 8 4 % 2 ^ 30, (l.drop 16).take 240⟩

end Sys2Proof.Machine
end

