-- ==== Sys2Proof/Machine/Queues.lean ====
section
/-!
DEFINITION. Machine/Queues.lean: queues and channels (chapter Queues and channels): sending, landing, returns, NACK
messages, reader states and epochs, the channel audit, and the writes of routes and queue configurations.  Local counters
and the wake events of a long wait are here too, because a landing reaches them.
-/

namespace Sys2Proof.Machine

/-! ### Chanter registers, as the vestibule reads them -/

/-- A general register: g0 reads as 0 (R84). -/
def State.g (s : State) (b n : Nat) : Word64 := if n = 0 then 0 else mget 0 (s.ch b).g n

/-- A predicate register: p0 reads as 1 (R84). -/
def State.p (s : State) (b n : Nat) : Bool := if n = 0 then true else mget false (s.ch b).p n

/-- Whether a slot word of bore `b` is enabled (R82). -/
def State.enabled (s : State) (b w : Nat) : Bool := xor (s.p b (psel w)) (bit w 63)

/-- The state of the chanter (R89): 0 HALTED, 1 RUNNING, 2 WAITING, 3 FAULTED. -/
def State.chState (s : State) (b : Nat) : Nat := s.fget Fld.CHN_STATUS_STATE b

/-- The word of slot `k` of the bundle at the gate. -/
def State.gateSlot (s : State) (b k : Nat) : Nat := s.slot b (s.fget Fld.CHN_PC_PC b) k

/-! ### Counters -/

/-- When a counter has reached a target (R329). -/
def reached (c t : Nat) : Bool := (c + (2 ^ 32 - t % 2 ^ 32)) % 2 ^ 32 < 2 ^ 31

/-- An armed counter that has reached its target fires (R348).
(DEDUCED, log 23.) -/
def State.armCheck (s : State) (b n : Nat) : State :=
  if s.flag Fld.SYN_LCARM_EN b n && reached (s.fget Fld.SYN_LCVAL_VALUE b n) (s.fget Fld.SYN_LCARM_TARGET b n) then
    ((s.fput Fld.SYN_LCARM_EN 0 b n).fput Fld.SYN_LCARM_FIRED 1 b n).wake b wakeArmed
  else s

/-- During a long wait, an event that meets the held bundle's condition wakes the bore (R347). -/
def State.waitEvent (s : State) (b : Nat) (met : Bool) : State :=
  if met && s.flag Fld.SYN_WSTAT_LONG b then s.wake b wakeWaitEvt else s

/-- Whether the held bundle's Y slot is a YWAIT on local counter `n` whose target the counter has reached. -/
def State.ywaitMet (s : State) (b n : Nat) : Bool :=
  let w := s.gateSlot b 7
  s.enabled b w && opc w = 2 && bits w 50 2 = 0 && bits w 36 14 = n
    && reached (s.fget Fld.SYN_LCVAL_VALUE b n) (s.g b (bits w 30 6)).toNat

/-- An increment applied to a local counter (R326, R332). -/
def State.incLocal (s : State) (b n amt : Nat) : State :=
  let s := s.finc Fld.SYN_LCVAL_VALUE amt b n
  (s.armCheck b n).waitEvent b (s.ywaitMet b n)

/-- An increment sent to a pool counter: POSTED from an endpoint to the sync pool, stamped with a context (R332, R334). -/
def State.sendPool (s : State) (src : Endpoint) (idx amt ctx : Nat) : State :=
  s.send .posted src (.unit .sync) (.poolInc idx amt ctx)

/-! ### Routes -/

/-- The registers of a route entry laid out as QUE_ROUTEA, QUE_ROUTEB and QUE_RSTAT. -/
def routeRegs : RouteLoc → Option (Reg × Reg × Reg × Nat × Nat)
  | .bore b ch => some (.QUE_ROUTEA, .QUE_ROUTEB, .QUE_RSTAT, b, ch)
  | .stage p r => some (.STG_DROUTEA, .STG_DROUTEB, .STG_DRSTAT, p, r)
  | .verdict h r => some (.OVB_VROUTEA, .OVB_VROUTEB, .OVB_VRSTAT, h, r)
  | _ => none

/-- A field of a route entry, named as the field of QUE_ROUTEA, QUE_ROUTEB or QUE_RSTAT. -/
def State.rt (s : State) (l : RouteLoc) (f : Field) : Nat :=
  match routeRegs l with
  | none => 0
  | some (ra, rb, rs, i, j) =>
    let r := match f.reg with | .QUE_ROUTEA => ra | .QUE_ROUTEB => rb | _ => rs
    s.fget ⟨r, f.lo, f.w⟩ i j

/-- A field of a route entry set. -/
def State.rtPut (s : State) (l : RouteLoc) (f : Field) (v : Nat) : State :=
  match routeRegs l with
  | none => s
  | some (ra, rb, rs, i, j) =>
    let r := match f.reg with | .QUE_ROUTEA => ra | .QUE_ROUTEB => rb | _ => rs
    s.fput ⟨r, f.lo, f.w⟩ v i j

/-- Valid for messages (R288). -/
def State.rtValid (s : State) (l : RouteLoc) : Bool :=
  s.rt l Fld.QUE_ROUTEA_VALID = 1 && s.rt l Fld.QUE_RSTAT_FAULTED = 0

/-- Valid for channel increments (R288). -/
def State.rtIncValid (s : State) (l : RouteLoc) : Bool :=
  s.rtValid l && s.rt l Fld.QUE_ROUTEB_CTRV = 1 && s.rt l Fld.QUE_ROUTEA_DTYPE ≤ 1

/-- The hub receiver of a number (R287 and the chapters of the receivers). -/
def receiver (did : Nat) : Endpoint :=
  if did = 0 then .unit .hostMsg
  else if 16 ≤ did ∧ did < 32 then .unit (.stage (did - 16))
  else if 32 ≤ did ∧ did < 48 then .unit (.health (did - 32))
  else if 48 ≤ did ∧ did < 60 then .crook (did - 48)
  else if did = 60 then .unit .emb
  else if did = 61 then .unit .bell
  else .unit .resmgr

/-- The endpoint that an origin's returns go to. -/
def originHome : Origin → Endpoint
  | .here (.bore b _) => .bore b
  | .here (.stage p _) => .unit (.stage p)
  | .here (.verdict h _) => .unit (.health h)
  | .here (.doorbell _) => .unit .doorbells
  | .here (.emb _) => .unit .emb
  | .here (.bell _) => .unit .bell
  | .far k _ _ => .crook k

/-- The source endpoint of an origin (R292). -/
def srcEp : Origin → Nat
  | .here (.bore b _) => b
  | .here (.stage p _) => 0x800 + (Config.stageSender p).toNat
  | .here (.verdict h _) => 0x800 + (Config.healthSender h).toNat
  | .here (.doorbell r) => 0x800 + 0xE0 + r % 8
  | .here (.emb _) => 0x800 + 0xD0
  | .here (.bell p) => 0x800 + 0xC0 + p
  | .far k b _ => 0x400 + 64 * k + b

/-- The source channel of an origin (R285, R517, R635, R672). -/
def srcCh : Origin → Nat
  | .here (.bore _ ch) => ch
  | .here (.stage _ r) => r
  | .here (.verdict _ r) => r
  | .here (.doorbell r) => r % 8
  | .here (.emb r) => r
  | .here (.bell _) => 0
  | .far _ _ ch => ch

/-- A transfer with its data accepted by port `k` on lane `vl`, behind every earlier one (R482, R496). -/
def State.crkData (s : State) (k vl : Nat) (b : XferBody) (l : List (Byte × Bool)) : State :=
  s.upPort k fun p => { p with txq := p.txq ++ [⟨vl, xferShares b l, false, b⟩] }

/-- A transfer that has no data in memory accepted by port `k`. -/
def State.crkSend (s : State) (k vl : Nat) (b : XferBody) : State := s.crkData k vl b (ownData b)

/-! ### Returns -/

/-- A credit return or orphan mark: 0x1 credit, 0x2 credit with mark, 0x3 release, 0x4 mark alone, as RKIND of R483
codes them, sent from `src` to the sender (R306, R312); to a far package it crosses as a RET transfer. -/
def State.sendReturn (s : State) (src : Endpoint) (o : Origin) (kind : Nat) : State :=
  match o with
  | .far k b ch => s.crkSend k 2 (.ret kind b ch 0)
  | .here _ =>
    s.send .posted src (originHome o)
      (if kind = 3 then .release o else if kind = 4 then .orphanMark o else .creditRet o (kind = 2))

/-- An orphan mark counts at the sender (R312). -/
def State.countOrphan (s : State) (o : Origin) : State :=
  match o with
  | .here (.doorbell r) =>
    let d := mget ⟨0, false, 0⟩ s.hif.bells r
    { s with hif := { s.hif with bells := mput ⟨0, false, 0⟩ s.hif.bells r { d with orphan := true } } }
  | .here (.emb r) => (s.fsat Fld.EMB_FRSTAT_ORPHANS 1 0 r).fput Fld.EMB_FRSTAT_ORPHAN 1 0 r
  | .here (.bell p) => (s.fsat Fld.BEL_FRSTAT_ORPHANS 1 p).fput Fld.BEL_FRSTAT_ORPHAN 1 p
  | .here l =>
    (s.rtPut l Fld.QUE_RSTAT_ORPHANS (min (s.rt l Fld.QUE_RSTAT_ORPHANS + 1) 0xFFFF)).rtPut l Fld.QUE_RSTAT_ORPHAN 1
  | .far _ _ _ => s

/-- A returned credit adds 1 to CRED (R306). -/
def State.addCredit (s : State) (o : Origin) : State :=
  match o with
  | .here (.doorbell r) =>
    let d := mget ⟨0, false, 0⟩ s.hif.bells r
    { s with hif := { s.hif with bells := mput ⟨0, false, 0⟩ s.hif.bells r { d with cred := d.cred + 1 } } }
  | .here (.emb r) => s.finc Fld.EMB_FRSTAT_CRED 1 0 r
  | .here (.bell p) => s.finc Fld.BEL_FRSTAT_CRED 1 p
  | .here l => s.rtPut l Fld.QUE_RSTAT_CRED (s.rt l Fld.QUE_RSTAT_CRED + 1)
  | .far _ _ _ => s

/-- With CRCE 1 each return adds 1 to local counter CRCN of the sending bore (R306). -/
def State.crcn (s : State) (o : Origin) : State :=
  match o with
  | .here (.bore b ch) =>
    if s.rt (.bore b ch) Fld.QUE_ROUTEB_CRCE = 1 then s.incLocal b (s.rt (.bore b ch) Fld.QUE_ROUTEB_CRCN) 1 else s
  | _ => s

/-- A credit return that arrives while an audit of its channel runs counts in RT (R311). -/
def State.auditCount (s : State) (o : Origin) : State :=
  match o with
  | .here (.bore b ch) =>
    s.upVest b fun v => match v.audit with
      | some a => if a.ch = ch then { v with audit := some { a with rt := a.rt + 1 } } else v
      | none => v
  | _ => s

/-- A credit return reaches its sender (R306). -/
def State.takeCredit (s : State) (o : Origin) (orphan : Bool) : State :=
  let s := (s.addCredit o).auditCount o
  let s := if orphan then s.countOrphan o else s
  s.crcn o

/-- A reservation taken (R296). -/
def State.holdResv (s : State) (b : Nat) (r : Resv) : State := s.upVest b fun v => { v with resv := v.resv ++ [r] }
/-- The oldest reservation that `want` accepts, given back (R306). -/
def State.dropResv (s : State) (b : Nat) (want : Resv → Bool) : State := s.upVest b fun v => { v with resv := v.resv.eraseP want }

/-- A release reaches a NACK channel's sender: one reservation less in the route and in its return queue (R306). -/
def State.takeRelease (s : State) (o : Origin) : State :=
  match o with
  | .here (.bore b ch) =>
    let l := RouteLoc.bore b ch
    let s := s.rtPut l Fld.QUE_RSTAT_CRED (s.rt l Fld.QUE_RSTAT_CRED - 1)
    let q := s.rt l Fld.QUE_ROUTEA_RETQ
    let s := (s.fput Fld.QUE_QSTAT_RESV (s.fget Fld.QUE_QSTAT_RESV b q - 1) b q).dropResv b fun r => r.ch = ch
    s.crcn o
  | .here l => s.rtPut l Fld.QUE_RSTAT_CRED (s.rt l Fld.QUE_RSTAT_CRED - 1)
  | .far _ _ _ => s

/-! ### Queues -/

/-- Entries of a queue by its DEPTH code (R290). -/
def qDepth (code : Nat) : Nat := if code = 0 then 0 else 2 ^ code

/-- Entries of queue `q` of bore `b`. -/
def State.depth (s : State) (b q : Nat) : Nat := qDepth (s.fget Fld.QUE_QCFG_DEPTH b q)

/-- Sum of the queue depths of bore `b` (R290). -/
def State.poolUsed (s : State) (b : Nat) : Nat := ((List.range 32).map (s.depth b)).foldl (· + ·) 0

/-- The refusal reasons (R308). -/
def rFull : Nat := 1
def rClosed : Nat := 2
def rEpoch : Nat := 3
def rRetired : Nat := 4
def rNoroute : Nat := 5

/-- The judgement of an arrival by rows 1 to 4 of R303: the reason for which it is refused, or none. -/
def State.judge (s : State) (b q stamp : Nat) (o : Origin) (nack inc : Bool) : Option Nat :=
  if s.depth b q = 0 || (!s.flag Fld.QUE_QCFG_MODE b q &&
      ((srcEp o) ≠ s.fget Fld.QUE_QCFG_SRCEP b q || (srcCh o) ≠ s.fget Fld.QUE_QCFG_SRCCH b q)) then some rNoroute
  else if stamp ≠ s.fget Fld.QUE_QSTAT_EPOCH b q then some rEpoch
  else if s.fget Fld.QUE_QSTAT_READER b q = 1 then some rClosed
  else if inc then none
  else
    let occ := s.fget Fld.QUE_QSTAT_OCC b q
    let nocc := s.fget Fld.QUE_QSTAT_NOCC b q
    let cres := s.fget Fld.QUE_QCFG_CRES b q
    if nack then
      (if s.depth b q - cres ≤ nocc + s.fget Fld.QUE_QSTAT_RESV b q then some rFull else none)
    else if cres ≤ occ - nocc then some rFull else none

/-- The QUE_QDISC field of a reason. -/
def qdisc (reason : Nat) : Field :=
  if reason = rClosed then Fld.QUE_QDISC_CLOSED else if reason = rEpoch then Fld.QUE_QDISC_EPOCH
  else if reason = rNoroute then Fld.QUE_QDISC_NOROUTE else Fld.QUE_QDISC_OVF

/-- The four words of a NACK message (R307). -/
def nackWords (epoch reason : Nat) (m : Message) : List Word32 :=
  [BitVec.ofNat 32 (2 ^ 16 * epoch + 2 ^ 10 * b2n m.inc.isSome + 2 ^ 8 * (m.words.length - 1) + reason), m.seq,
    m.words.getD 0 0, m.words.getD 1 0]

/-- A NACK message for a refused message, sent to the sender's return queue from `src` (R307). -/
def State.sendNack (s : State) (src : Endpoint) (epoch reason : Nat) (m : Message) : State :=
  let n : NackMsg := ⟨nackWords epoch reason m, srcCh m.origin,
    match m.origin with | .far _ b _ => b | .here (.bore b _) => b | _ => 0⟩
  match m.origin with
  | .far k b _ => s.crkSend k 2 (.nackm b n)
  | .here _ => s.send .posted src (originHome m.origin) (.nackMsg m.origin n)

/-- What the refusal of a message does beyond its count: a discarded credited message returns its credit with an orphan
mark (R312), a message of a NACK channel is answered by a NACK message (R307). -/
def State.answer (s : State) (src : Endpoint) (epoch reason : Nat) (m : Message) : State :=
  if m.nack then s.sendNack src epoch reason m else s.sendReturn src m.origin 2

/-- A message refused at queue `q` of bore `b`. -/
def State.refuse (s : State) (b q reason : Nat) (m : Message) : State :=
  (s.fsat (qdisc reason) 1 b q).answer (.bore b) (s.fget Fld.QUE_QSTAT_EPOCH b q) reason m

/-- Whether the held bundle's Q slot waits on queue `q` (R347). -/
def State.qHeld (s : State) (b q : Nat) : Bool :=
  let w := s.gateSlot b 6
  s.enabled b w && ((opc w = 3 && bits w 29 5 = q) || (opc w = 4 && bit (s.g b (bits w 22 6)).toNat q))

/-- A landing asks for the wakes of R303, R558 and R347. -/
def State.landWake (s : State) (b q : Nat) (doorbell : Bool) : State :=
  let s := if s.flag Fld.QUE_QCFG_WAKE b q then s.wake b wakeQueue else s
  let s := if doorbell then s.wake b wakeDoorbell else s
  s.waitEvent b (s.qHeld b q)

/-- The resident context that is not exclusive and whose start queue on bore `b` is `q` (R461). -/
def State.startOf (s : State) (b q : Nat) : Option Nat :=
  s.ctxs.findSome? fun (c, x) =>
    if s.fget Fld.CTX_STATE_STATE 0 c = 3 && !s.flag Fld.CTX_STATE_EXCL 0 c &&
        x.binds.any (fun i => i.bore = b && i.startq = some q) then some c else none

/-- PRT_BCUR.NPEND brought up to date. -/
def State.putNpend (s : State) (b : Nat) : State :=
  s.fput Fld.PRT_BCUR_NPEND (s.starts.filter fun x => x.1 = b).length 0 b

/-- A pending start of context `c` on bore `b`, unless one is pending there already (R461). -/
def State.addStart (s : State) (b c : Nat) : State :=
  if (b, c) ∈ s.starts then s else ({ s with starts := s.starts ++ [(b, c)] }).putNpend b

/-- A landing in the start queue of a context adds a pending start, unless the context is running there (R461); a chanter that is
coming to rest runs it no longer (R467). -/
def State.startLanding (s : State) (b q : Nat) : State :=
  match s.startOf b q with
  | none => s
  | some c =>
    if (s.chState b = 1 || s.chState b = 2) && (s.ch b).stop.isNone && s.flag Fld.PRT_BCUR_VALID 0 b && s.fget Fld.PRT_BCUR_CTX 0 b = c then s
    else s.addStart b c

/-- A message lands: it takes an entry, and its attached increment is applied in the same step (R299, R303). -/
def State.land (s : State) (b q : Nat) (m : Message) : State :=
  let sig := match m.inc with
    | none => false
    | some c => c.pool || c.idx ≤ 47
  let s := s.setQueue b q (s.queue b q ++ [⟨m, false, sig, m.nack⟩])
  let s := s.finc Fld.QUE_QSTAT_OCC 1 b q
  let s := if m.nack then s.finc Fld.QUE_QSTAT_NOCC 1 b q else s
  let s := match m.inc with
    | none => s
    | some c => if c.pool then s.sendPool (.bore b) c.idx 1 m.ctx else if c.idx ≤ 47 then s.incLocal b c.idx 1 else s
  (s.startLanding b q).landWake b q (match m.origin with | .here (.doorbell _) => true | _ => false)

/-- A message arrives at queue `q` of bore `b` and is judged (R303). -/
def State.deliver (s : State) (b q : Nat) (m : Message) : State :=
  match s.judge b q m.stamp m.origin m.nack false with
  | some reason => s.refuse b q reason m
  | none => s.land b q m

/-- A channel increment arrives at queue `q` of bore `b` (R300). -/
def State.deliverInc (s : State) (b q : Nat) (i : ChanInc) : State :=
  match s.judge b q i.stamp i.origin false true with
  | some reason => (s.fsat (qdisc reason) 1 b q).sendReturn (.bore b) i.origin 4
  | none =>
    if i.ctr.pool then s.sendPool (.bore b) i.ctr.idx i.amt i.ctx
    else if i.ctr.idx ≤ 47 then s.incLocal b i.ctr.idx i.amt else s

/-- A NACK message arrives at its return queue: it lands on its reservation, or is discarded when the queue is closed or
has changed epoch since (R307, R314).  One whose reservation the bore no longer holds changes nothing.
(DESIGN CHOICE, log 86.) -/
def State.deliverNack (s : State) (b : Nat) (n : NackMsg) : State :=
  let mine (r : Resv) : Bool := r.ch = n.chan && r.seq = n.words.getD 1 0
  match (s.bore b).vest.resv.find? mine with
  | none => s
  | some r =>
  let s := s.dropResv b mine
  let q := r.retq
  let l := RouteLoc.bore b n.chan
  let s := s.rtPut l Fld.QUE_RSTAT_CRED (s.rt l Fld.QUE_RSTAT_CRED - 1)
  let s := s.fput Fld.QUE_QSTAT_RESV (s.fget Fld.QUE_QSTAT_RESV b q - 1) b q
  if s.fget Fld.QUE_QSTAT_EPOCH b q ≠ r.ep then s.fsat Fld.QUE_QDISC_EPOCH 1 b q
  else if s.fget Fld.QUE_QSTAT_READER b q = 1 then s.fsat Fld.QUE_QDISC_CLOSED 1 b q
  else
    let m : Message := ⟨n.words, n.chan, 0, .here l, 7, false, 0, none, 0⟩
    let s := s.setQueue b q (s.queue b q ++ [⟨m, true, false, true⟩])
    ((s.finc Fld.QUE_QSTAT_OCC 1 b q).finc Fld.QUE_QSTAT_NOCC 1 b q).landWake b q false

/-! ### Receiving and discarding entries -/

/-- An entry leaves its queue. -/
def State.free1 (s : State) (b q : Nat) (e : QEntry) : State :=
  let s := s.fput Fld.QUE_QSTAT_OCC (s.fget Fld.QUE_QSTAT_OCC b q - 1) b q
  if e.nspace then s.fput Fld.QUE_QSTAT_NOCC (s.fget Fld.QUE_QSTAT_NOCC b q - 1) b q else s

/-- The oldest entry of queue `q` is taken: its return is sent, the queue has delivered a message in its epoch, and a
queue in RESET becomes OPEN (R293, R305, R306). -/
def State.take (s : State) (b q : Nat) (e : QEntry) : State :=
  let s := (s.setQueue b q (s.queue b q).tail).free1 b q e
  let s := s.upVest b fun v => { v with taken := sinsert q v.taken }
  let s := if s.fget Fld.QUE_QSTAT_READER b q = 2 then s.fput Fld.QUE_QSTAT_READER 0 b q else s
  if e.isNack then s else s.sendReturn (.bore b) e.msg.origin (if e.msg.nack then 3 else 1)

/-- The entries of a queue, oldest first, refused for a reason (R313). -/
def State.refuseAll (s : State) (b q reason : Nat) : State :=
  let l := s.queue b q
  let s := s.setQueue b q []
  l.foldl (fun s e =>
    let s := s.free1 b q e
    if e.isNack then s.fsat (qdisc reason) 1 b q else s.refuse b q reason e.msg) s

/-- Queue `q` becomes CLOSED: its entries are refused (R313). -/
def State.qClose (s : State) (b q : Nat) : State := (s.fput Fld.QUE_QSTAT_READER 1 b q).refuseAll b q rClosed

/-- Queue `q` becomes OPEN (R293). -/
def State.qOpen (s : State) (b q : Nat) : State := s.fput Fld.QUE_QSTAT_READER 0 b q

/-- Queue `q` takes a new epoch: RESET, with its entries refused (R294, R313). -/
def State.qEpoch (s : State) (b q : Nat) : State :=
  let s := (s.finc Fld.QUE_QSTAT_EPOCH 1 b q).fput Fld.QUE_QSTAT_READER 2 b q
  (s.upVest b fun v => { v with taken := v.taken.filter (· ≠ q) }).refuseAll b q rEpoch

/-! ### Sending -/

/-- The context that a bore's accesses and sends carry (R446): PRT_BCUR when valid, else 1024, which names none. -/
def State.boreCtx (s : State) (b : Nat) : Nat :=
  if s.flag Fld.PRT_BCUR_VALID 0 b then s.fget Fld.PRT_BCUR_CTX 0 b else 1024

/-- Whether a reservation can be taken in queue `q` of bore `b` (R296). -/
def State.resvOk (s : State) (b q : Nat) : Bool :=
  s.depth b q ≠ 0 && s.fget Fld.QUE_QSTAT_NOCC b q + s.fget Fld.QUE_QSTAT_RESV b q
    < s.depth b q - s.fget Fld.QUE_QCFG_CRES b q

/-- A message issued on a route: POSTED toward its destination, or through a crook port as a MSG transfer (R295, R486). -/
def State.issue (s : State) (src : Endpoint) (l : RouteLoc) (m : Message) : State :=
  let did := s.rt l Fld.QUE_ROUTEA_DID
  let q := s.rt l Fld.QUE_ROUTEA_DQ
  if s.rt l Fld.QUE_ROUTEA_DTYPE = 1 then
    s.crkSend (s.rt l Fld.QUE_ROUTEA_DPORT) 2 (.msg did q m)
  else
    s.send .posted src (if s.rt l Fld.QUE_ROUTEA_DTYPE = 2 then receiver did else .bore did) (.message did q m)

/-- A send of bore `b` on channel `ch` (R295, R296): none when the sender holds no credit, or no reservation can be
taken. -/
def State.trySend (s : State) (b ch : Nat) (ws : List Word32) (kind : Nat) (inc : Option CtrRef) : Option State :=
  let l := RouteLoc.bore b ch
  let nack := s.rt l Fld.QUE_ROUTEA_KIND = 1
  let q := s.rt l Fld.QUE_ROUTEA_RETQ
  let m : Message := ⟨ws, s.rt l Fld.QUE_ROUTEA_TAG, s.rt l Fld.QUE_ROUTEA_DEPOCH, .here l, kind, nack,
    BitVec.ofNat 32 (s.rt l Fld.QUE_RSTAT_SEQ), inc, s.boreCtx b⟩
  let cred := s.rt l Fld.QUE_RSTAT_CRED
  let go (s : State) (cred : Nat) : State :=
    ((s.rtPut l Fld.QUE_RSTAT_CRED cred).rtPut l Fld.QUE_RSTAT_SEQ (s.rt l Fld.QUE_RSTAT_SEQ + 1)).issue (.bore b) l m
  if nack then
    if s.resvOk b q then some (go ((s.finc Fld.QUE_QSTAT_RESV 1 b q).holdResv b ⟨ch, m.seq, q, s.fget Fld.QUE_QSTAT_EPOCH b q⟩) (cred + 1))
    else none
  else if cred = 0 then none
  else some (go s (cred - 1))

/-- A hub sender's message on a credited route of its own (R285, R295): none without credit. -/
def State.hubSend (s : State) (src : Endpoint) (l : RouteLoc) (ws : List Word32) (ctx : Nat) : Option State :=
  let cred := s.rt l Fld.QUE_RSTAT_CRED
  if cred = 0 || !s.rtValid l then none
  else
    let m : Message := ⟨ws, s.rt l Fld.QUE_ROUTEA_TAG, s.rt l Fld.QUE_ROUTEA_DEPOCH, .here l, 4, false,
      BitVec.ofNat 32 (s.rt l Fld.QUE_RSTAT_SEQ), none, ctx⟩
    some (((s.rtPut l Fld.QUE_RSTAT_CRED (cred - 1)).rtPut l Fld.QUE_RSTAT_SEQ (s.rt l Fld.QUE_RSTAT_SEQ + 1)).issue src l m)

/-- A channel increment of bore `b` on channel `ch` (R300). -/
def State.sendInc (s : State) (b ch amt kind : Nat) : State :=
  let l := RouteLoc.bore b ch
  let i : ChanInc := ⟨amt, ⟨s.rt l Fld.QUE_ROUTEB_CTRPOOL = 1, s.rt l Fld.QUE_ROUTEB_CTRIDX⟩,
    s.rt l Fld.QUE_ROUTEA_DEPOCH, .here l, kind, s.boreCtx b⟩
  let did := s.rt l Fld.QUE_ROUTEA_DID
  let q := s.rt l Fld.QUE_ROUTEA_DQ
  if s.rt l Fld.QUE_ROUTEA_DTYPE = 1 then s.crkSend (s.rt l Fld.QUE_ROUTEA_DPORT) 2 (.inc did q i)
  else s.send .posted (.bore b) (.bore did) (.chanInc did q i)

/-! ### Commands -/

/-- The next state of a command that always has a meaning. -/
def ok (s : State) : Host.Outcome State Fault Refusal := .next s

/-- MESSAGE_ARRIVAL: the oldest POSTED transfer from `src` to bore `b` is a message, and is judged (R303).  A bore that is
OFF is answered for by its stub, which `STUB_ANSWER` does. -/
def execMessageArrival (src : Endpoint) (b : Nat) (s : State) : Host.Outcome State Fault Refusal :=
  if s.pstate b = psOff then ok s else
  match s.oldest .posted src (.bore b) with
  | some (⟨_, _, _, .message _ q m⟩, t) => ok (t.deliver b q m)
  | _ => ok s

/-- CHANNEL_INCREMENT_ARRIVAL (R300). -/
def execChannelIncrementArrival (src : Endpoint) (b : Nat) (s : State) : Host.Outcome State Fault Refusal :=
  if s.pstate b = psOff then ok s else
  match s.oldest .posted src (.bore b) with
  | some (⟨_, _, _, .chanInc _ q i⟩, t) => ok (t.deliverInc b q i)
  | _ => ok s

/-- NACK_MESSAGE_ARRIVAL (R314). -/
def execNackMessageArrival (src : Endpoint) (b : Nat) (s : State) : Host.Outcome State Fault Refusal :=
  if s.pstate b = psOff then ok s else
  match s.oldest .posted src (.bore b) with
  | some (⟨_, _, _, .nackMsg _ n⟩, t) => ok (t.deliverNack b n)
  | _ => ok s

/-- Whether an endpoint is a bore that is OFF, whose stub discards what reaches it (R572). -/
def State.atStub (s : State) (e : Endpoint) : Bool :=
  match e with
  | .bore b => s.pstate b = psOff
  | _ => false

/-- CREDIT_RETURN (R306). -/
def execCreditReturn (src dst : Endpoint) (s : State) : Host.Outcome State Fault Refusal :=
  if s.atStub dst then ok s else
  match s.oldest .posted src dst with
  | some (⟨_, _, _, .creditRet o orphan⟩, t) => ok (t.takeCredit o orphan)
  | _ => ok s

/-- RESERVATION_RELEASE (R306). -/
def execReservationRelease (src dst : Endpoint) (s : State) : Host.Outcome State Fault Refusal :=
  if s.atStub dst then ok s else
  match s.oldest .posted src dst with
  | some (⟨_, _, _, .release o⟩, t) => ok (t.takeRelease o)
  | _ => ok s

/-- ORPHAN_MARK_ARRIVAL (R312). -/
def execOrphanMarkArrival (src dst : Endpoint) (s : State) : Host.Outcome State Fault Refusal :=
  if s.atStub dst then ok s else
  match s.oldest .posted src dst with
  | some (⟨_, _, _, .orphanMark o⟩, t) => ok (t.countOrphan o)
  | _ => ok s

/-- Entries of queue `q` of bore `b` that a channel occupies (R311). -/
def State.occupancy (s : State) (b q : Nat) (o : Origin) : Nat :=
  ((s.queue b q).filter fun e => !e.isNack && (srcEp e.msg.origin) = (srcEp o) && (srcCh e.msg.origin) = (srcCh o)).length

/-- The reply to an audit marker, on the reverse path behind every earlier return (R311). -/
def State.auditReplyTo (s : State) (src : Endpoint) (o : Origin) (oc : Nat) : State :=
  match o with
  | .far k b ch => s.crkSend k 2 (.ret 5 b ch oc)
  | .here _ => s.send .posted src (originHome o) (.auditReply o oc)

/-- A write of the host or the residency manager to a register of bore `b`'s QUE block, that would leave `t` (R289). -/
def qctl (who : Requester) (b : Nat) (s t : State) : Host.Outcome State Fault Refusal :=
  ok (s.regAccess who b true (mayHostRm who) t)

/-- The values of an audit cleared: none is reported (R318).
(DEDUCED, log 76.) -/
def State.auditClear (s : State) (b : Nat) : State :=
  let s := (s.fput Fld.QUE_AUDRES_GRANT 0 b).fput Fld.QUE_AUDRES_CRED 0 b
  (s.fput Fld.QUE_AUDRES_OCC 0 b).fput Fld.QUE_AUDRES_RET 0 b

/-- The start of an audit of channel `ch` of bore `b` (R311, R318).
(DEDUCED, log 76.) -/
def State.auditStart (s : State) (b ch : Nat) : State :=
  if (s.bore b).vest.audit.isSome then s.fput Fld.QUE_AUDRES_DROPPED 1 b
  else
    let l := RouteLoc.bore b ch
    let s := (s.auditClear b).fput Fld.QUE_AUDRES_CH ch b
    if !s.rtValid l || s.rt l Fld.QUE_ROUTEA_KIND = 1 || s.rt l Fld.QUE_ROUTEA_DTYPE = 2 then
      (s.fput Fld.QUE_AUDRES_STATUS 2 b).fput Fld.QUE_AUDRES_BUSY 0 b
    else
      let s := s.fput Fld.QUE_AUDRES_GRANT (s.rt l Fld.QUE_ROUTEA_GRANT) b
      let s := s.fput Fld.QUE_AUDRES_CRED (s.rt l Fld.QUE_RSTAT_CRED) b
      let s := (s.fput Fld.QUE_AUDRES_BUSY 1 b).fput Fld.QUE_AUDRES_STATUS 0 b
      let s := s.upVest b fun v => { v with audit := some ⟨ch, 0⟩ }
      let did := s.rt l Fld.QUE_ROUTEA_DID
      let q := s.rt l Fld.QUE_ROUTEA_DQ
      if s.rt l Fld.QUE_ROUTEA_DTYPE = 1 then
        s.crkSend (s.rt l Fld.QUE_ROUTEA_DPORT) 2 (.audit did q b ch)
      else s.send .posted (.bore b) (.bore did) (.auditMarker did q (.here l))

/-- CHANNEL_AUDIT (R311): a write of QUE_AUDCMD. -/
def execChannelAudit (who : Requester) (b ch : Nat) (s : State) : Host.Outcome State Fault Refusal :=
  qctl who b s (s.auditStart b ch)

/-- AUDIT_MARKER_ARRIVAL (R311). -/
def execAuditMarkerArrival (src : Endpoint) (b : Nat) (s : State) : Host.Outcome State Fault Refusal :=
  if s.pstate b = psOff then ok s else
  match s.oldest .posted src (.bore b) with
  | some (⟨_, _, _, .auditMarker _ q o⟩, t) => ok (t.auditReplyTo (.bore b) o (t.occupancy b q o))
  | _ => ok s

/-- The reply to an audit of channel `ch` reaches bore `b`: the audit ends with its values (R311).  The reply to one that a reset has
ended, or to an audit of another channel, changes nothing. -/
def State.auditDone (s : State) (b ch oc : Nat) : State :=
  if ch ∈ (s.bore b).vest.orphanAud then s.upVest b fun v => { v with orphanAud := v.orphanAud.erase ch } else
  match (s.bore b).vest.audit with
  | none => s
  | some a =>
    if a.ch ≠ ch then s else
    let s := (s.fput Fld.QUE_AUDRES_OCC oc b).fput Fld.QUE_AUDRES_RET a.rt b
    let s := (s.fput Fld.QUE_AUDRES_STATUS 1 b).fput Fld.QUE_AUDRES_BUSY 0 b
    s.upVest b fun v => { v with audit := none }

/-- The audit of bore `b` ends FAULTED, reporting no values (R318). -/
def State.auditFault (s : State) (b : Nat) : State :=
  let s := ((s.auditClear b).fput Fld.QUE_AUDRES_STATUS 3 b).fput Fld.QUE_AUDRES_BUSY 0 b
  s.upVest b fun v => { v with audit := none }

/-- AUDIT_REPLY_ARRIVAL (R311). -/
def execAuditReplyArrival (src : Endpoint) (b : Nat) (s : State) : Host.Outcome State Fault Refusal :=
  if s.pstate b = psOff then ok s else
  match s.oldest .posted src (.bore b) with
  | some (⟨_, _, _, .auditReply o oc⟩, t) => ok (t.auditDone b (srcCh o) oc)
  | _ => ok s

/-! ### Configuration -/

/-- The report of a configuration write in QUE_CFGST (R321). -/
def State.cfgst (s : State) (b target index status : Nat) : State :=
  ((s.fput Fld.QUE_CFGST_TARGET target b).fput Fld.QUE_CFGST_INDEX index b).fput Fld.QUE_CFGST_STATUS status b

/-- Whether a route entry is idle (R316, R701). -/
def State.rtIdle (s : State) (l : RouteLoc) : Bool :=
  let auditing := match l with
    | .bore b ch => (s.bore b).vest.audit.any fun a => a.ch = ch
    | _ => false
  s.rt l Fld.QUE_RSTAT_FAULTED = 1 || s.rt l Fld.QUE_ROUTEA_VALID = 0 ||
    (!auditing && s.rt l Fld.QUE_RSTAT_CRED =
      (if s.rt l Fld.QUE_ROUTEA_KIND = 1 then 0 else s.rt l Fld.QUE_ROUTEA_GRANT))

/-- Whether a route entry as it would stand is refused with BADCFG (R316; R399 and R434 add that a hub sender's routes
lead to bores of this package). -/
def State.rtBad (s : State) (l : RouteLoc) : Bool :=
  let grant := s.rt l Fld.QUE_ROUTEA_GRANT
  let nack := s.rt l Fld.QUE_ROUTEA_KIND = 1
  (if nack then grant ≠ 0 else grant = 0 || 512 < grant)
    || s.rt l Fld.QUE_ROUTEA_DTYPE = 3 || 47 < s.rt l Fld.QUE_ROUTEB_CRCN
    || (s.rt l Fld.QUE_ROUTEB_CTRPOOL = 0 && 47 < s.rt l Fld.QUE_ROUTEB_CTRIDX)
    || (match l with
        | .bore b _ => nack && s.depth b (s.rt l Fld.QUE_ROUTEA_RETQ) = 0
        | _ => s.rt l Fld.QUE_ROUTEA_DTYPE ≠ 0)

/-- A write of a route word as R316 judges it: the state after, and the status that the table's status register
reports. -/
def State.writeRoute (s : State) (l : RouteLoc) (second : Bool) (val : Word64) : State × Nat :=
  match routeRegs l with
  | none => (s, 0)
  | some (ra, rb, _, i, j) =>
    if !s.rtIdle l then (s, 2)
    else
      let s := s.rtPut l Fld.QUE_RSTAT_FAULTED 0
      let r := if second then rb else ra
      let t := s.rput r (r.merge (s.rget r i j) val) i j
      if t.rt l Fld.QUE_ROUTEA_VALID = 1 && t.rtBad l then (s, 3)
      else
        let t := t.rtPut l Fld.QUE_RSTAT_SEQ 0
        if t.rt l Fld.QUE_ROUTEA_VALID = 1 then
          let t := t.rtPut l Fld.QUE_RSTAT_CRED
            (if t.rt l Fld.QUE_ROUTEA_KIND = 1 then 0 else t.rt l Fld.QUE_ROUTEA_GRANT)
          ((t.rtPut l Fld.QUE_RSTAT_ORPHANS 0).rtPut l Fld.QUE_RSTAT_ORPHAN 0, 1)
        else (t, 1)

/-- A write of QUE_QCFG as R317 judges it. -/
def State.writeQcfg (s : State) (b q : Nat) (val : Word64) : State × Nat :=
  let t := s.rput .QUE_QCFG (Reg.QUE_QCFG.merge (s.rget .QUE_QCFG b q) val) b q
  let code := t.fget Fld.QUE_QCFG_DEPTH b q
  if s.fget Fld.QUE_QSTAT_OCC b q ≠ 0 || s.fget Fld.QUE_QSTAT_RESV b q ≠ 0 then (s, 2)
  else if code = 1 || 9 < code || t.depth b q < t.fget Fld.QUE_QCFG_CRES b q then (s, 3)
  else if 2048 < t.poolUsed b then (s, 4)
  else (t.fput Fld.QUE_STATUS_POOLUSED (t.poolUsed b) b, 1)

/-- QUEUE_CONFIG_WRITE (R317). -/
def execQueueConfigWrite (who : Requester) (b q : Nat) (val : Word64) (s : State) : Host.Outcome State Fault Refusal :=
  qctl who b s ((s.writeQcfg b q val).1.cfgst b 1 q (s.writeQcfg b q val).2)

/-- QCTL_OPEN (R322). -/
def execQctlOpen (who : Requester) (b q : Nat) (s : State) : Host.Outcome State Fault Refusal :=
  qctl who b s (s.qOpen b q)

/-- QCTL_CLOSE (R313). -/
def execQctlClose (who : Requester) (b q : Nat) (s : State) : Host.Outcome State Fault Refusal :=
  qctl who b s (s.qClose b q)

/-- NEWEPOCH (R294). -/
def execNewepoch (who : Requester) (b q : Nat) (s : State) : Host.Outcome State Fault Refusal :=
  qctl who b s (s.qEpoch b q)

end Sys2Proof.Machine
end

