-- ==== Sys2Proof/Machine/Sync.lean ====
section
/-!
DEFINITION. Machine/Sync.lean: counters and barriers (chapter Counters and barriers): the sync pool and its watches, the
barrier combiner, arrival slots, and the writes of counters, pool blocks and barriers.
-/

namespace Sys2Proof.Machine

/-! ### The sync pool -/

/-- Whether context `c` owns the block of pool counter `n` (R328). -/
def State.poolOwned (s : State) (c n : Nat) : Bool :=
  s.flag Fld.SYN_PBLK_VALID 0 (n / 16) && s.fget Fld.SYN_PBLK_CTX 0 (n / 16) = c

/-- The answer to the watch of bore `b` (R336). -/
def State.answerWatch (s : State) (b : Nat) (met : Bool) : State :=
  s.send .posted (.unit .sync) (.bore b) (.watchAns b met)

/-- The pool answers every held watch whose counter has reached its target (R336). -/
def State.judgeWatches (s : State) (n : Nat) : State :=
  let v := s.fget Fld.SYN_PVAL_VALUE 0 n
  let met (w : Nat × Nat × Word32) : Bool := w.2.1 = n && reached v w.2.2.toNat
  let l := s.watches.filter met
  l.foldl (fun s w => s.answerWatch w.1 true) { s with watches := s.watches.filter fun w => !met w }

/-- A pool increment reaches the pool (R334). -/
def State.poolArrive (s : State) (idx amt ctx : Nat) : State :=
  if s.poolOwned ctx idx then (s.finc Fld.SYN_PVAL_VALUE amt 0 idx).judgeWatches idx
  else s.fsat Fld.SYN_PDISC_CSTALE

/-- POOL_INCREMENT_ARRIVAL (R334). -/
def execPoolIncrementArrival (src : Endpoint) (s : State) : Host.Outcome State Fault Refusal :=
  match s.oldest .posted src (.unit .sync) with
  | some (⟨_, _, _, .poolInc idx amt ctx⟩, t) => ok (t.poolArrive idx amt ctx)
  | _ => ok s

/-- A watch reaches the pool: for a counter whose block its context does not own it is answered as not reached (R352),
and at once when the counter has reached the target. -/
def State.watchArrive (s : State) (b idx : Nat) (target : Word32) (ctx : Nat) : State :=
  if !s.poolOwned ctx idx then s.answerWatch b false
  else if reached (s.fget Fld.SYN_PVAL_VALUE 0 idx) target.toNat then s.answerWatch b true
  else { s with watches := s.watches ++ [(b, idx, target)] }

/-- WATCH_ARRIVAL (R336). -/
def execWatchArrival (src : Endpoint) (s : State) : Host.Outcome State Fault Refusal :=
  match s.oldest .posted src (.unit .sync) with
  | some (⟨_, _, _, .watch b idx target ctx⟩, t) => ok (t.watchArrive b idx target ctx)
  | _ => ok s

/-- The vestibule of bore `b` sends its watch (R336). -/
def State.sendWatch (s : State) (b idx : Nat) (target : Word32) : State :=
  let s := (s.upCh b fun c => { c with watch := some ⟨idx, target, none⟩ }).fput Fld.SYN_WSTAT_WATCH 1 b
  s.send .posted (.bore b) (.unit .sync) (.watch b idx target (s.boreCtx b))

/-- The watch of bore `b` is cancelled: the pool no longer holds it, and no answer to it lands (R336). -/
def State.cancelWatch (s : State) (b : Nat) : State :=
  let own (t : Transfer) : Bool := match t.pkt with
    | .watch b' _ _ _ => b' = b
    | .watchAns b' _ => b' = b
    | _ => false
  let s := { s with watches := s.watches.filter (fun w => w.1 ≠ b), net := s.net.filter fun t => !own t }
  (s.upCh b fun c => { c with watch := none }).fput Fld.SYN_WSTAT_WATCH 0 b

/-- WATCH_ANSWER_ARRIVAL (R336): the answer lands, and wakes the bore from a long wait (R347). -/
def execWatchAnswerArrival (b : Nat) (s : State) : Host.Outcome State Fault Refusal :=
  if s.pstate b = psOff then ok s else
  match s.oldest .posted (.unit .sync) (.bore b) with
  | some (⟨_, _, _, .watchAns _ met⟩, t) =>
    ok ((t.upCh b fun c => { c with watch := c.watch.map fun w => { w with answer := some met } }).waitEvent b true)
  | _ => ok s

/-! ### The barrier combiner -/

/-- The bore of a participant. -/
def Participant.bore : Participant → Nat
  | .chanter b => b
  | .rank b _ _ => b

/-- Every participant that arrived in the current phase is released, and the phase ends (R343, R350). -/
def State.endPhase (s : State) (bid : Nat) (aborted : Bool) : State :=
  let phase := BitVec.ofNat 32 (s.fget Fld.SYN_BSTAT_PHASE 0 bid)
  let l := mget [] s.bars bid
  let s := { s with bars := mput [] s.bars bid [] }
  let s := (s.finc Fld.SYN_BSTAT_PHASE 1 0 bid).fput Fld.SYN_BSTAT_ARRIVED 0 0 bid
  l.foldl (fun s p => s.send .posted (.unit .sync) (.bore p.bore) (.barDone p bid phase aborted)) s

/-- An arrival reaches the combiner (R343, R351). -/
def State.barArriveAt (s : State) (p : Participant) (bid ctx : Nat) : State :=
  if s.flag Fld.SYN_BCFG_VALID 0 bid && s.fget Fld.SYN_BCFG_CTX 0 bid = ctx then
    let s := { s with bars := mput [] s.bars bid (mget [] s.bars bid ++ [p]) }
    let s := s.finc Fld.SYN_BSTAT_ARRIVED 1 0 bid
    if s.fget Fld.SYN_BSTAT_ARRIVED 0 bid = s.fget Fld.SYN_BCFG_PCOUNT 0 bid then s.endPhase bid false else s
  else s.fsat Fld.SYN_PDISC_BSTALE

/-- BARRIER_ARRIVAL (R343). -/
def execBarrierArrival (src : Endpoint) (s : State) : Host.Outcome State Fault Refusal :=
  match s.oldest .posted src (.unit .sync) with
  | some (⟨_, _, _, .barArrive p bid ctx⟩, t) => ok (t.barArriveAt p bid ctx)
  | _ => ok s

/-- The oldest arrival slot of bore `b` that is pending for a barrier. -/
def State.pendingSlot (s : State) (b bid : Nat) : Option Nat :=
  (s.bore b).vest.slots.find? fun k =>
    s.fget Fld.SYN_ASLOT_BID b k = bid && s.fget Fld.SYN_ASLOT_DONE b k = 0 && s.fget Fld.SYN_ASLOT_ABORTED b k = 0

/-- The arrival slots of bore `b` for a barrier, oldest first. -/
def State.slotsOf (s : State) (b bid : Nat) : List Nat :=
  (s.bore b).vest.slots.filter fun k => s.fget Fld.SYN_ASLOT_BID b k = bid

/-- Whether the held bundle's Y slot waits on the phase of arrival slot `k`, which is one for barrier `bid`: a YBAR on its own
slot, a YBWT on the newest (R344, R347). -/
def State.ybarHeld (s : State) (b bid k : Nat) : Bool :=
  let w := s.gateSlot b 7
  s.enabled b w && ((opc w = 3 && (s.ch b).barSlot.any (fun x => x.2 = k)) ||
    (opc w = 5 && bits w 38 12 = bid && (s.slotsOf b bid).getLast? = some k))

/-- A phase completion, or its abort, reaches a participant (R344, R350): the oldest pending slot of a chanter is
marked, or the reeds of a rank waiting in RGBAR resume.  The completion of an arrival that another launch made, which was stopped
since, releases nothing (R232). -/
def State.barDoneAt (s : State) (p : Participant) (bid : Nat) (phase : Word32) (aborted : Bool) : State :=
  match p with
  | .chanter b =>
    match s.pendingSlot b bid with
    | none => s
    | some k =>
      let s := s.fput (if aborted then Fld.SYN_ASLOT_ABORTED else Fld.SYN_ASLOT_DONE) 1 b k
      (s.fput Fld.SYN_ASLOT_PHASE phase.toNat b k).waitEvent b (s.ybarHeld b bid k)
  | .rank b r id =>
    if (s.rank b r).cur ≠ some id || (s.rank b r).gsent ≠ some bid then s
    else
      let s := s.upRank b r fun k => { k with gsent := none }
      s.each (List.range 64) fun s lane =>
        s.upReed b r lane fun d => if d.mode = .rgbar bid then { d with mode := .running } else d

/-- BARRIER_COMPLETION_ARRIVAL (R344). -/
def execBarrierCompletionArrival (b : Nat) (s : State) : Host.Outcome State Fault Refusal :=
  if s.pstate b = psOff then ok s else
  match s.oldest .posted (.unit .sync) (.bore b) with
  | some (⟨_, _, _, .barDone p bid phase aborted⟩, t) => ok (t.barDoneAt p bid phase aborted)
  | _ => ok s

/-- The abort of a barrier (R350). -/
def State.abortBarrier (s : State) (bid : Nat) : State :=
  if s.flag Fld.SYN_BCFG_VALID 0 bid then s.endPhase bid true else s

/-- ABORT (R350): SYN_BCMD. -/
def execAbort (who : Requester) (bid : Nat) (s : State) : Host.Outcome State Fault Refusal :=
  ok (s.hubReg (mayHostRm who) (s.abortBarrier bid))

/-! ### Writes -/

/-- The report of a pool-block or barrier write in SYN_CFGST (R357). -/
def State.syncSt (s : State) (target index status : Nat) : State :=
  ((s.fput Fld.SYN_CFGST_TARGET target).fput Fld.SYN_CFGST_INDEX index).fput Fld.SYN_CFGST_STATUS status

/-- A grant zeroes the 16 counters of a block (R352). -/
def State.grantBlock (s : State) (blk : Nat) : State :=
  let s := s.each (List.range 16) fun s k => s.rput .SYN_PVAL 0 0 (16 * blk + k)
  (s.fput Fld.SYN_PCOUNT_OWNED (s.fget Fld.SYN_PCOUNT_OWNED + 16)).fput Fld.SYN_PCOUNT_FREE
    (s.fget Fld.SYN_PCOUNT_FREE - 16)

/-- A release answers the watches held on the block's counters as not reached (R352). -/
def State.releaseBlock (s : State) (blk : Nat) : State :=
  let mine (w : Nat × Nat × Word32) : Bool := w.2.1 / 16 = blk
  let l := s.watches.filter mine
  let s := l.foldl (fun s w => s.answerWatch w.1 false) { s with watches := s.watches.filter fun w => !mine w }
  (s.fput Fld.SYN_PCOUNT_OWNED (s.fget Fld.SYN_PCOUNT_OWNED - 16)).fput Fld.SYN_PCOUNT_FREE
    (s.fget Fld.SYN_PCOUNT_FREE + 16)

/-- A quota as it acts (R447, R477). -/
def quota (n : Nat) : Nat := min n 64

/-- Pool-counter blocks that a context owns. -/
def State.blocksOf (s : State) (c : Nat) : List Nat :=
  (List.range 1024).filter fun k => s.flag Fld.SYN_PBLK_VALID 0 k && s.fget Fld.SYN_PBLK_CTX 0 k = c

/-- Barriers that are valid for a context. -/
def State.barsOf (s : State) (c : Nat) : List Nat :=
  (List.range 4096).filter fun k => s.flag Fld.SYN_BCFG_VALID 0 k && s.fget Fld.SYN_BCFG_CTX 0 k = c

/-- Whether a list has more than `n` elements. -/
def longer {α : Type} (n : Nat) (l : List α) : Bool := !(l.drop n).isEmpty

/-- A write of SYN_PBLK as R358 and R447 judge it. -/
def State.writeBlock (s : State) (blk : Nat) (val : Word64) : State :=
  let t := s.rput .SYN_PBLK (Reg.SYN_PBLK.merge (s.rget .SYN_PBLK 0 blk) val) 0 blk
  let v0 := s.flag Fld.SYN_PBLK_VALID 0 blk
  let v1 := t.flag Fld.SYN_PBLK_VALID 0 blk
  if v0 && v1 && s.fget Fld.SYN_PBLK_CTX 0 blk ≠ t.fget Fld.SYN_PBLK_CTX 0 blk then s.syncSt 0 blk 2
  else if !v0 && v1 then
    let c := t.fget Fld.SYN_PBLK_CTX 0 blk
    if longer (quota (s.fget Fld.CTX_QUOTA_PBLK 0 c)) (t.blocksOf c) then s.syncSt 0 blk 3
    else (t.grantBlock blk).syncSt 0 blk 1
  else if v0 && !v1 then (t.releaseBlock blk).syncSt 0 blk 1
  else t.syncSt 0 blk 1

/-- POOL_BLOCK_WRITE (R358). -/
def execPoolBlockWrite (who : Requester) (blk : Nat) (val : Word64) (s : State) : Host.Outcome State Fault Refusal :=
  ok (s.hubReg (mayHostRm who) (s.writeBlock blk val))

/-- A write of SYN_BCFG as R359 and R447 judge it. -/
def State.writeBarrier (s : State) (bid : Nat) (val : Word64) : State :=
  let t := s.rput .SYN_BCFG (Reg.SYN_BCFG.merge (s.rget .SYN_BCFG 0 bid) val) 0 bid
  let n := t.fget Fld.SYN_BCFG_PCOUNT 0 bid
  let v1 := t.flag Fld.SYN_BCFG_VALID 0 bid
  if s.fget Fld.SYN_BSTAT_ARRIVED 0 bid ≠ 0 then s.syncSt 1 bid 2
  else if v1 && (n = 0 || 4096 < n) then s.syncSt 1 bid 3
  else if v1 && longer (quota (s.fget Fld.CTX_QUOTA_BARS 0 (t.fget Fld.SYN_BCFG_CTX 0 bid)))
      (t.barsOf (t.fget Fld.SYN_BCFG_CTX 0 bid)) && !(s.flag Fld.SYN_BCFG_VALID 0 bid &&
        s.fget Fld.SYN_BCFG_CTX 0 bid = t.fget Fld.SYN_BCFG_CTX 0 bid) then s.syncSt 1 bid 3
  else
    let t := if v1 && !s.flag Fld.SYN_BCFG_VALID 0 bid then t.fput Fld.SYN_BSTAT_PHASE 0 0 bid else t
    t.syncSt 1 bid 1

/-- BARRIER_CONFIG_WRITE (R359). -/
def execBarrierConfigWrite (who : Requester) (bid : Nat) (val : Word64) (s : State) :
    Host.Outcome State Fault Refusal :=
  ok (s.hubReg (mayHostRm who) (s.writeBarrier bid val))

/-- A write of a counter's value register: every waiter judges the new value (R348, R353).
(DEDUCED, log 23.) -/
def State.writeCounter (s : State) (bore : Option Nat) (n : Nat) (val : Word64) : State :=
  match bore with
  | some b => ((s.fput Fld.SYN_LCVAL_VALUE val.toNat b n).armCheck b n).waitEvent b
      ((s.fput Fld.SYN_LCVAL_VALUE val.toNat b n).ywaitMet b n)
  | none => (s.fput Fld.SYN_PVAL_VALUE val.toNat 0 n).judgeWatches n

/-- COUNTER_VALUE_WRITE (R353): of a local counter of a bore, or of a pool counter. -/
def execCounterValueWrite (who : Requester) (bore : Option Nat) (n : Nat) (val : Word64) (s : State) :
    Host.Outcome State Fault Refusal :=
  match bore with
  | some b => qctl who b s (s.writeCounter bore n val)
  | none => ok (s.hubReg (mayHostRm who) (s.writeCounter bore n val))

/-- A write of SYN_LCARM, judged at once (R348). -/
def State.writeArm (s : State) (b n : Nat) (val : Word64) : State :=
  (s.rput .SYN_LCARM (Reg.SYN_LCARM.merge (s.rget .SYN_LCARM b n) val) b n).armCheck b n

/-- COUNTER_ARM_WRITE (R348). -/
def execCounterArmWrite (who : Requester) (b n : Nat) (val : Word64) (s : State) : Host.Outcome State Fault Refusal :=
  qctl who b s (s.writeArm b n val)

end Sys2Proof.Machine
end

