-- ==== Sys2Proof/Machine/Ligature.lean ====
section
/-!
DEFINITION. Machine/Ligature.lean: the ligature table (chapter Windchest and ligature table): the mapping of handles, the
accesses through them, their commands and their scrubs, and the bank counters' controls.
-/

namespace Sys2Proof.Machine

/-! ### Handles -/

/-- States of a handle (R283). -/
def hFree : Nat := 0
def hAllocated : Nat := 1
def hLocked : Nat := 2
def hScrubbing : Nat := 3

/-- The state of handle `h` of bore `b`. -/
def State.hState (s : State) (b h : Nat) : Nat := s.fget Fld.LIG_HDESC_STATE b h

/-- The bits set in a number below 2^64, lowest first. -/
def setBitsOf (v : Nat) : List Nat := (List.range 64).filter fun k => bit v k

/-- The windchest offset of byte `off` of a handle's buffer (R262). -/
def HMap.offset (m : HMap) (off : Nat) : Nat :=
  let banks := setBitsOf m.mask.toNat
  let o := off % 2 ^ 25
  let line := o / 256
  let bank := banks.getD (line % banks.length) 0
  16384 * ((m.row + line / banks.length) % 2048) + 256 * bank + o % 256

/-- The device address of byte `off` of a handle's buffer. -/
def HMap.addr (m : HMap) (b off : Nat) : Nat := wchBase b + m.offset off

/-- The mapping of handle `h` of bore `b` as it stands (R264); none for a FREE handle (R261). -/
def State.hmap (s : State) (b h : Nat) : Option HMap :=
  if s.hState b h = hFree then none else some ⟨h, s.fget Fld.LIG_HDESC_BASE_ROW b h, s.rget .LIG_HMASK b h⟩

/-- An operation that captured a handle counts in its INFLIGHT (R264). -/
def State.hold (s : State) (b h : Nat) : State := s.finc Fld.LIG_HDESC_INFLIGHT 1 b h

/-- An operation that captured a handle has finished (R264). -/
def State.unhold (s : State) (b h : Nat) : State :=
  s.fput Fld.LIG_HDESC_INFLIGHT (s.fget Fld.LIG_HDESC_INFLIGHT b h - 1) b h

/-- The handle of a captured mapping, if any, is no longer held. -/
def State.unholdOpt (s : State) (b : Nat) (m : Option HMap) : State :=
  match m with
  | some m => s.unhold b m.h
  | none => s

/-- The handle of a captured mapping, if any, is held. -/
def State.holdOpt (s : State) (b : Nat) (m : Option HMap) : State :=
  match m with
  | some m => s.hold b m.h
  | none => s

/-! ### Accesses through a handle -/

/-- The runs within one line into which `n` bytes from handle offset `off` fall. -/
def lineRuns : Nat → Nat → Nat → List (Nat × Nat)
  | 0, _, _ => []
  | k + 1, off, n =>
    if n = 0 then [] else
    let m := min n (256 - off % 256)
    (off, m) :: lineRuns k (off + m) (n - m)

/-- `n` bytes read through a handle from offset `off`: the bytes, whether any is poisoned, and the state after. -/
def State.hRead (s : State) (b : Nat) (m : HMap) (off n : Nat) : List Byte × Bool × State :=
  (lineRuns (n / 256 + 2) off n).foldl (fun (l, p, s) r =>
    let (l', p', s) := s.fetch (m.addr b r.1) r.2
    (l ++ l', p || p', s)) ([], false, s)

/-- Bytes written through a handle from offset `off`. -/
def State.hWrite (s : State) (b : Nat) (m : HMap) (off : Nat) (l : List Byte) (pois : Bool) : State :=
  (lineRuns (l.length / 256 + 2) off l.length).foldl (fun s r =>
    s.store (m.addr b r.1) ((l.drop (r.1 - off)).take r.2) pois) s

/-! ### Commands -/

/-- The statuses of LIG_CMDST (R280). -/
def ligOk : Nat := 1
def ligNotFree : Nat := 2
def ligNotAlloc : Nat := 3
def ligLocked : Nat := 4
def ligBadMask : Nat := 5
def ligBadSize : Nat := 6
def ligBadOp : Nat := 7
def ligScrubbing : Nat := 8

/-- A mask is valid when it has a power of two bits set (R265). -/
def maskValid (mask : Word64) : Bool := (setBitsOf mask.toNat).length ∈ [1, 2, 4, 8, 16, 32, 64]

/-- A size is valid when its rows exist (R265). -/
def sizeValid (stage mask : Word64) : Bool :=
  let size := bits stage.toNat 0 18
  let n := (setBitsOf mask.toNat).length
  1 ≤ size && size ≤ 131072 && bits stage.toNat 32 11 + (size + n - 1) / n ≤ 2048

/-- A handle moves from one state to another, and the four counts with it (R268). -/
def State.hMove (s : State) (b h dest : Nat) : State :=
  let cnt (st : Nat) : Field :=
    if st = hFree then Fld.LIG_COUNT_FREE else if st = hAllocated then Fld.LIG_COUNT_ALLOCATED
    else if st = hLocked then Fld.LIG_COUNT_LOCKED else Fld.LIG_COUNT_SCRUBBING
  let fr := s.hState b h
  let s := s.fput (cnt fr) (s.fget (cnt fr) b - 1) b
  let s := s.fput (cnt dest) (s.fget (cnt dest) b + 1) b
  s.fput Fld.LIG_HDESC_STATE dest b h

/-- A handle becomes FREE: every field but INFLIGHT reads 0 (R283). -/
def State.hRelease (s : State) (b h : Nat) : State :=
  (((s.hMove b h hFree).fput Fld.LIG_HDESC_BASE_ROW 0 b h).fput Fld.LIG_HDESC_SIZE 0 b h).rput .LIG_HMASK 0 b h

/-- A handle becomes allocated with a mapping. -/
def State.hAlloc (s : State) (b h dest : Nat) (stage mask : Word64) : State :=
  (((s.hMove b h dest).fput Fld.LIG_HDESC_BASE_ROW (bits stage.toNat 32 11) b h).fput Fld.LIG_HDESC_SIZE
    (bits stage.toNat 0 18) b h).rput .LIG_HMASK mask b h

/-- A handle begins to be scrubbed: its scrub waits behind the earlier ones (R267). -/
def State.hScrub (s : State) (b h : Nat) : State :=
  (s.hMove b h hScrubbing).upLig b fun l => { l with scrubs := l.scrubs ++ [h] }

/-- What a command finds: the status that it reports (R265, R266). -/
def State.ligJudge (s : State) (b : Nat) (c : LigCmd) : Nat :=
  let st := s.hState b c.handle
  if c.op = 1 || c.op = 2 then
    if c.op = 2 && c.host then ligBadOp
    else if st ≠ hFree then ligNotFree
    else if !maskValid c.mask then ligBadMask
    else if !sizeValid c.stage c.mask then ligBadSize
    else ligOk
  else if c.op = 3 || c.op = 4 then
    if st = hFree then ligNotAlloc
    else if st = hScrubbing then ligScrubbing
    else if st = hLocked && c.host then ligLocked
    else ligOk
  else ligBadOp

/-- A command carried out: what it changes and the status it reports. -/
def State.ligDo (s : State) (b : Nat) (c : LigCmd) : State × Nat :=
  let st := s.ligJudge b c
  if st ≠ ligOk then (s, st)
  else if c.op = 1 then (s.hAlloc b c.handle hAllocated c.stage c.mask, st)
  else if c.op = 2 then (s.hAlloc b c.handle hLocked c.stage c.mask, st)
  else if c.op = 3 then (s.hRelease b c.handle, st)
  else (s.hScrub b c.handle, st)

/-- LIG_CMD written by a requester: the command waits to take effect, or is dropped behind a pending one (R266,
R272). -/
def State.ligWrite (s : State) (who : Requester) (b op h : Nat) : State :=
  if (s.bore b).lig.cmd.isSome then s.fput Fld.LIG_CMDST_DROPPED 1 b
  else
    let host := who ≠ .resmgr
    let l := (s.bore b).lig
    let c : LigCmd := ⟨op, h, if host then s.rget .LIG_STAGE b else l.rmStage,
      if host then s.rget .LIG_STAGEMASK b else l.rmMask, host⟩
    let s := s.upLig b fun l => { l with cmd := some c }
    (s.fput Fld.LIG_CMDST_PENDING 1 b).fput Fld.LIG_CMDST_HANDLE h b

/-- A command written to the LIG block of bore `b`: by the host or the residency manager, in a power state that lets
it through (R265, R274). -/
def ligCmd (who : Requester) (b op h : Nat) (s : State) : Host.Outcome State Fault Refusal :=
  ok (s.regAccess who b false (mayHostRm who) (s.ligWrite who b op h))

/-- ALLOC (R265). -/
def execAlloc (who : Requester) (b h : Nat) (s : State) : Host.Outcome State Fault Refusal := ligCmd who b 1 h s

/-- ALLOC_LOCK (R265). -/
def execAllocLock (who : Requester) (b h : Nat) (s : State) : Host.Outcome State Fault Refusal := ligCmd who b 2 h s

/-- RELEASE (R265). -/
def execRelease (who : Requester) (b h : Nat) (s : State) : Host.Outcome State Fault Refusal := ligCmd who b 3 h s

/-- RELEASE_SCRUB (R265). -/
def execReleaseScrub (who : Requester) (b h : Nat) (s : State) : Host.Outcome State Fault Refusal := ligCmd who b 4 h s

/-- A command that has been written takes effect (R266). -/
def State.ligEffect (s : State) (b : Nat) : State :=
  match (s.bore b).lig.cmd with
  | none => s
  | some c =>
    let (t, st) := s.ligDo b c
    let t := t.upLig b fun l => { l with cmd := none }
    (t.fput Fld.LIG_CMDST_PENDING 0 b).fput Fld.LIG_CMDST_STATUS st b

/-- HANDLE_COMMAND_EFFECT (R266). -/
def execHandleCommandEffect (b : Nat) (s : State) : Host.Outcome State Fault Refusal :=
  if s.faults.frozen then ok s else ok (s.ligEffect b)

/-- A command that the residency manager makes in the course of a load, an eviction or an ending: it is applied behind one that
reached the table before it (R272), and LIG_CMDST reports it (R280). -/
def State.ligRm (s : State) (b op h : Nat) (stage mask : Word64) : State :=
  let s := s.ligEffect b
  let (t, st) := s.ligDo b ⟨op, h, stage, mask, false⟩
  (t.fput Fld.LIG_CMDST_HANDLE h b).fput Fld.LIG_CMDST_STATUS st b

/-! ### Scrubs -/

/-- SCRUB_START: the oldest scrub begins once its handle's INFLIGHT is 0 (R267). -/
def execScrubStart (b : Nat) (s : State) : Host.Outcome State Fault Refusal :=
  if s.faults.frozen then ok s else
  let l := (s.bore b).lig
  match l.scrubs with
  | [] => ok s
  | h :: _ =>
    ok (when (!l.active && s.fget Fld.LIG_HDESC_INFLIGHT b h = 0) s (s.upLig b fun l => { l with active := true }))

/-- Lines 0 to SIZE − 1 of a handle filled with zero, one after another. -/
def State.scrubLines (s : State) (b : Nat) (m : HMap) : Nat → State
  | 0 => s
  | n + 1 => (s.scrubLines b m n).store (m.addr b (256 * n)) (List.replicate 256 0) false

/-- SCRUB_END: the last line is written and the handle is FREE (R267). -/
def execScrubEnd (b : Nat) (s : State) : Host.Outcome State Fault Refusal :=
  if s.faults.frozen then ok s else
  let l := (s.bore b).lig
  match l.scrubs with
  | [] => ok s
  | h :: rest =>
    if !l.active then ok s else
    let m : HMap := ⟨h, s.fget Fld.LIG_HDESC_BASE_ROW b h, s.rget .LIG_HMASK b h⟩
    let s := s.scrubLines b m (s.fget Fld.LIG_HDESC_SIZE b h)
    let s := s.upLig b fun l => { l with scrubs := rest, active := false }
    ok (s.hRelease b h)

/-- The ligature table after a reset (R274): every handle FREE, the scrub and the command abandoned. -/
def State.ligReset (s : State) (b : Nat) : State :=
  let s := s.each (List.range 64) fun s h => (s.rput .LIG_HDESC 0 b h).rput .LIG_HMASK 0 b h
  let s := (s.rput .LIG_COUNT Reg.LIG_COUNT.info.rst b).rput .LIG_CMDST 0 b
  s.upLig b fun l => { l with cmd := none, scrubs := [], active := false }

/-! ### Bank counters -/

/-- Every bank counter zeroed (R276).
(DESIGN CHOICE, log 33.) -/
def State.wchClearAll (s : State) (b : Nat) : State :=
  s.each (List.range 64) fun s k => (s.rput .WCH_BCW 0 b k).rput .WCH_BCN 0 b k

/-- WCH_CLEAR (R276). -/
def execWchClear (who : Requester) (b : Nat) (s : State) : Host.Outcome State Fault Refusal :=
  ok (s.regAccess who b false (mayHostRm who) (s.wchClearAll b))

/-- WCH_FREEZE (R275). -/
def execWchFreeze (who : Requester) (b : Nat) (v : Bool) (s : State) : Host.Outcome State Fault Refusal :=
  ok (s.regAccess who b false (mayHostRm who) (s.fput Fld.WCH_CCTRL_FREEZE (b2n v) b))

end Sys2Proof.Machine
end

