-- ==== Sys2Proof/Machine/Translate.lean ====
section
/-!
DEFINITION. Machine/Translate.lean: context addresses (R443 to R446), and the accesses of engines and hub units to memory by
device address, by context address or through a handle.
-/

namespace Sys2Proof.Machine

/-- The effective leader of partition `p` (R438). -/
def State.leader (s : State) (p : Nat) : Nat := s.fget Fld.PRT_PSTAT_LEADER 0 p

/-- The partitions of the coupling group that partition `l` leads (R438). -/
def State.groupParts (s : State) (l : Nat) : List Nat := (List.range 16).filter fun p => s.leader p = l

/-- The bores of a coupling group. -/
def State.groupBores (s : State) (l : Nat) : List Nat :=
  (s.groupParts l).flatMap fun p => [4 * p, 4 * p + 1, 4 * p + 2, 4 * p + 3]

/-- The function that owns a context (R510, R511): the virtual function up to NumVFs whose range holds it, else the physical
one. -/
def State.ctxFn (s : State) (c : Nat) : Nat :=
  (((List.range (s.fget Fld.HIF_LINK_NUMVF + 1)).filter (1 ≤ ·)).find? fun v =>
    let first := s.fget Fld.HIF_VFMAP_FIRST 0 v
    first ≤ c && c < first + s.fget Fld.HIF_VFMAP_COUNT 0 v).getD 0

/-- A context number as the trouble log holds it: none above 1,023. -/
def ctxOpt (c : Nat) : Option Nat := if c < 1024 then some c else none

/-! ### The walk -/

/-- One table entry at device address `a`: none when the read does not reach HBM, is poisoned, or finds VALID 0
(R444). -/
def State.walkEntry (s : State) (a : Nat) : Option Nat × State :=
  match s.home a with
  | .hbm =>
    let (l, pois, s) := s.fetch a 8
    let e := leNat l
    (if pois || !bit e 63 then none else some e, s)
  | _ => (none, s)

/-- An entry of a level, from the cache or by a table read that the cache then holds (R445). -/
def State.walkLevel (s : State) (ctx level key a : Nat) : Option Nat × State :=
  match s.tlb.find? fun t => t.ctx = ctx && t.level = level && t.key = key with
  | some t => (some t.ent.toNat, s)
  | none =>
    match s.walkEntry a with
    | (none, s) => (none, s)
    | (some e, s) => (some e, { s with tlb := s.tlb ++ [⟨ctx, level, key, BitVec.ofNat 64 e⟩] })

/-- Whether a context may reach a page (R444): HBM below the dump window, a windchest of its group, or host memory. -/
def State.pageOk (s : State) (ctx a : Nat) : Bool :=
  match homeOf s.small (fun _ => false) a with
  | .hbm => a < Config.dumpBase s.small
  | .windchest b _ => s.leader (partOf b) = s.fget Fld.CTX_CFG_HOME 0 ctx
  | .host _ => true
  | _ => false

/-- Translation of a context address (R443, R444): the device address, or none for UNMAPPED.
(DESIGN CHOICE, log 30.) -/
def State.xlate (s : State) (ctx : Nat) (write : Bool) (ca : Nat) : Option Nat × State :=
  if 1024 ≤ ctx || 2 ^ 40 ≤ ca then (none, s)
  else
    let root := 4096 * s.fget Fld.CTX_ROOT_ROOT 0 ctx
    match s.walkLevel ctx 1 (bits ca 31 9) (root + 8 * bits ca 31 9) with
    | (none, s) => (none, s)
    | (some e1, s) =>
      match s.walkLevel ctx 2 (bits ca 21 19) (8192 * bits e1 13 35 + 8 * bits ca 21 10) with
      | (none, s) => (none, s)
      | (some e2, s) =>
        let page := 2 ^ 21 * bits e2 21 27
        if (write && !bit e2 62) || !s.pageOk ctx page then (none, s) else (some (page + ca % 2 ^ 21), s)

/-- Whether translating an address would find both its entries in the cache. -/
def State.xlateHit (s : State) (ctx ca : Nat) : Bool :=
  s.tlb.any (fun t => t.ctx = ctx && t.level = 1 && t.key = bits ca 31 9) &&
    s.tlb.any (fun t => t.ctx = ctx && t.level = 2 && t.key = bits ca 21 19)

/-- The cache without the entries of a context (R445).
(DESIGN CHOICE, log 30.) -/
def State.dropTlb (s : State) (ctx : Nat) : State := { s with tlb := s.tlb.filter fun t => t.ctx ≠ ctx }

/-! ### Accesses by device address -/

/-- The endpoint that homes a device address of memory; none where no endpoint does (R34, R38). -/
def State.memEnd (s : State) (a : Nat) : Option Endpoint :=
  match s.home a with
  | .hbm => some (.hbm (stackOf s.small a))
  | .windchest c _ => some (.bore c)
  | .host _ => some .host
  | _ => none

/-- Whether a posted transfer from `src` is still on its way to the home of one of some device addresses: an access that `src`
makes there now would pass it (R28, R29). -/
def State.passes (s : State) (src : Endpoint) (l : List Nat) : Bool :=
  s.net.any fun t => t.cls = .posted && t.src = src && l.any fun a => s.memEnd a = some t.dst

/-- `n` free bytes: what a read of host memory returns is the host's (log 9). -/
def State.freeBytes (s : State) : Nat → List Byte × State
  | 0 => ([], s)
  | n + 1 =>
    let (x, s) := s.free 8
    let (l, s) := s.freeBytes n
    (x :: l, s)

/-- A read of host memory that an engine or a hub unit makes for context `c` (R525, R526, R533): while the link is down it is
UNMAPPED; else the requests are sent, and how the host completes them and with what data are free values.
(DESIGN CHOICE, log 9.) -/
def State.hostFetch (s : State) (c h n : Nat) : AccStatus × List Byte × State :=
  if !s.hif.linkUp then (.unmapped, List.replicate n 0, s)
  else
    let (o, s) := (s.hostReadReq (s.ctxFn c) h n).free 2
    let err (aer : Nat) : AccStatus × List Byte × State :=
      (.unmapped, List.replicate n 0, s.pcie aer (s.ctxFn c) h (ctxOpt c))
    match o.toNat with
    | 1 => err aerUnsupported
    | 2 => err aerAbort
    | 3 => err aerTimeout
    | _ =>
      let (l, s) := s.freeBytes n
      (.ok, l, s)

/-- An engine's or hub unit's read of `n` bytes that lie together, at a device address, for context `c` where it goes to the
host: its status, its bytes and the state after (R38, R41).
(DESIGN CHOICE, log 9.) -/
def State.devRead (s : State) (c a n : Nat) : AccStatus × List Byte × State :=
  let s := s.crossFab a
  match s.home a with
  | .hbm =>
    let (l, p, s) := s.fetch a n
    (if p then .poison else .ok, l, s)
  | .windchest b _ =>
    if s.pstate b = psDeep || s.pstate b = psOff then (.dark, List.replicate n 0, s.darkAccess b false)
    else
      let (l, p, s) := s.fetch a n
      (if p then .poison else .ok, l, s)
  | .host h => s.hostFetch c h n
  | _ => (.unmapped, List.replicate n 0, s)

/-- An engine's or hub unit's write at a device address, for context `c` where it goes to the host (R38, R525).
(DESIGN CHOICE, log 9.) -/
def State.devWrite (s : State) (c a : Nat) (l : List (Byte × Bool)) : AccStatus × State :=
  let s := s.crossFab a
  match s.home a with
  | .hbm => (.ok, s.storeP a l)
  | .windchest b _ =>
    if s.pstate b = psDeep || s.pstate b = psOff then (.dark, s.darkAccess b false) else (.ok, s.storeP a l)
  | .host h => (.ok, s.hostWrite (s.ctxFn c) h l)
  | _ => (.unmapped, s)

/-! ### Accesses by space -/

/-- How an access names memory: through a handle of a bore, by an address of a context, or by device address. -/
inductive Space
  | handle (b : Nat) (m : HMap)
  | context (c : Nat)
  | device
  deriving DecidableEq, Repr

/-- The device address that a space's address names; none for UNMAPPED. -/
def State.spaceAddr (s : State) (sp : Space) (write : Bool) (a : Nat) : Option Nat × State :=
  match sp with
  | .handle b m => (some (m.addr b a), s)
  | .context c => s.xlate c write a
  | .device => (some a, s)

/-- The context that an access of a space carries, 1024 for none (R446). -/
def Space.ctx : Space → Nat
  | .context c => c
  | _ => 1024

/-- Whether a status stops an access. -/
def AccStatus.bad : AccStatus → Bool
  | .unmapped => true
  | .dark => true
  | _ => false

/-- A read of `n` bytes of a space: the status, the bytes with their poison, and the state after.  It goes line by line,
and stops at the first line that it cannot reach. -/
def State.spaceRead (s : State) (sp : Space) (a n : Nat) : AccStatus × List (Byte × Bool) × State :=
  (lineRuns (n / 256 + 2) a n).foldl (fun (st, l, s) r =>
    if st.bad then (st, l, s) else
    match s.spaceAddr sp false r.1 with
    | (none, s) => (.unmapped, l, s)
    | (some d, s) =>
      let (st', x, s) := match sp with
        | .handle _ _ =>
          let (x, p, s) := s.fetch d r.2
          (if p then AccStatus.poison else .ok, x, s)
        | _ => s.devRead sp.ctx d r.2
      if st'.bad then (st', l, s)
      else
        let y := x.zipIdx.map fun e => (e.1, decide (unitOf (d + e.2) ∈ s.poison))
        (if st = .poison then .poison else st', l ++ y, s)) (.ok, [], s)

/-- A write of bytes of a space, each with its poison; it stops at the first line that it cannot reach. -/
def State.spaceWrite (s : State) (sp : Space) (a : Nat) (l : List (Byte × Bool)) : AccStatus × State :=
  (lineRuns (l.length / 256 + 2) a l.length).foldl (fun (st, s) r =>
    if st.bad then (st, s) else
    let x := (l.drop (r.1 - a)).take r.2
    match s.spaceAddr sp true r.1 with
    | (none, s) => (.unmapped, s)
    | (some d, s) =>
      match sp with
      | .handle _ _ => (.ok, s.storeP d x)
      | _ => s.devWrite sp.ctx d x) (.ok, s)

/-- A hub unit's whole write of unpoisoned bytes to device memory. -/
def State.hubWrite (s : State) (sp : Space) (a : Nat) (l : List Byte) : AccStatus × State :=
  s.spaceWrite sp a (l.map fun x => (x, false))

/-- The device address that a space's address names, or that address itself where translation finds none: the address that a
UNITFAULT entry holds (R710).
(DESIGN CHOICE, log 84.) -/
def State.deviceAt (s : State) (sp : Space) (write : Bool) (a : Nat) : Nat := (s.spaceAddr sp write a).1.getD a

/-- The first line of a write of `n` bytes from `a` that cannot be reached; `a` where each can. -/
def State.stopLine (s : State) (sp : Space) (a n : Nat) : Nat :=
  (((lineRuns (n / 256 + 2) a n).find? fun r =>
    match (s.spaceAddr sp true r.1).1 with
    | none => true
    | some d =>
      match s.home d with
      | .hbm => false
      | .host _ => false
      | .windchest b _ => s.pstate b = psDeep || s.pstate b = psOff
      | _ => true).map (·.1)).getD a

/-- The status code that a UNITFAULT entry holds (R710): 1 UNMAPPED, 2 DARK.
(DESIGN CHOICE, log 84.) -/
def faultCode (st : AccStatus) : Nat := if st = .dark then 2 else 1

/-- A hub unit's access that failed at address `a` of context `c` (R696, R710). -/
def State.contextFault (s : State) (src c : Nat) (write : Bool) (a : Nat) (st : AccStatus) : State :=
  s.unitFault src (ctxOpt c) (s.deviceAt (.context c) write a) (faultCode st)

/-- The bytes of a read. -/
def plain (l : List (Byte × Bool)) : List Byte := l.map (·.1)

end Sys2Proof.Machine
end

