-- ==== Sys2Proof/Machine/Tensor.lean ====
section
/-!
DEFINITION. Machine/Tensor.lean: tensor descriptors (R65 to R76) and the passes that move tensors: reading elements with
their scales, and writing elements, plane groups and scale trailers.
-/

namespace Sys2Proof.Machine

/-! ### Descriptors -/

/-- Number of dimensions. -/
def tNdim (d : Nat) : Nat := bits d 62 2 + 1

/-- Elements of dimension `n`: 1 above NDIM (R67). -/
def tDim (d n : Nat) : Nat := if n < tNdim d then bits d (64 + 32 * n) 32 else 1

/-- Stride of dimension `n` in bytes (R66). -/
def tStride (d n : Nat) : Nat := bits d (192 + 16 * n) 12 * 4 ^ bits d (204 + 16 * n) 4

/-- Stride of dimension `n`, ignored above NDIM (R67). -/
def tUsed (d n : Nat) : Nat := if n < tNdim d then tStride d n else 0

def tBase (d : Nat) : Nat := bits d 0 48
def tFmt (d : Nat) : Nat := bits d 48 4
def tRnd (d : Nat) : Nat := bits d 57 2
def tSat (d : Nat) : Bool := bit d 59

/-- Whether the tensor carries block scales (R54, R72). -/
def tScaled (d : Nat) : Bool := bit d 60 && fmtScales (tFmt d)

/-- Whether any dimension is empty (R67). -/
def tEmpty (d : Nat) : Bool := (List.range 4).any fun n => tDim d n = 0

/-- The access width of R69. -/
def tWidth (d : Nat) : Nat := if fmtPlanes (tFmt d) then 16 else fmtBits (tFmt d) / 8

/-- The first value of a descriptor that is not a multiple of the access width (R69): its base, then every stride up to its own
NDIM, whether or not the access comes to use it.
(DESIGN CHOICE, log 80.) -/
def tMisaligned (d : Nat) : Option Nat :=
  ((tBase d) :: (((List.range 4).filter (· < tNdim d)).map (tStride d))).find? fun v => v % tWidth d ≠ 0

/-- Address of a row (R67). -/
def tRow (d i1 i2 i3 : Nat) : Nat := (tBase d + i1 * tUsed d 1 + i2 * tUsed d 2 + i3 * tUsed d 3) % 2 ^ 48

/-- Address of the plane group, or of the element of a packed format, that holds element `i0` of a row (R67). -/
def tAt (d row i0 : Nat) : Nat :=
  if fmtPlanes (tFmt d) then (row + i0 / 128 * tUsed d 0) % 2 ^ 48 else (row + i0 * tUsed d 0) % 2 ^ 48

/-- Address of a row's scale trailer (R58). -/
def tTrailer (d row : Nat) : Nat :=
  (row + (if fmtPlanes (tFmt d) then (tDim d 0 + 127) / 128 else tDim d 0) * tUsed d 0) % 2 ^ 48

/-- The linear index of an element (R61). -/
def tIndex (d i0 i1 i2 i3 : Nat) : Nat := i0 + tDim d 0 * (i1 + tDim d 1 * (i2 + tDim d 2 * i3))

/-- A tensor and the space that its addresses lie in. -/
structure Tensor where
  d  : Nat
  sp : Space
  deriving DecidableEq, Repr

/-! ### Reading -/

/-- A pass in progress: the state, and where and how it stopped. -/
structure Pass where
  s    : State
  stop : Option (AccStatus × Nat)
  deriving DecidableEq, Repr

/-- `n` bytes read in a pass; nothing once the pass has stopped.  Bytes at an address of `ov`, which the same
instruction also writes, are not promised: they are free values (R73).
(DEDUCED, log 31.) -/
def Pass.read (p : Pass) (sp : Space) (ov : List Nat) (a n : Nat) : List (Byte × Bool) × Pass :=
  if p.stop.isSome then (List.replicate n (0, false), p)
  else
    match p.s.spaceRead sp a n with
    | (.ok, l, s) | (.poison, l, s) =>
      (List.range n).foldl (fun (acc, q) k =>
        match q.s.spaceAddr sp false (a + k) with
        | (some d, t) =>
          if d ∈ ov then
            let (x, t) := t.free 8
            (acc ++ [(x, (l.getD k (0, false)).2)], { q with s := t })
          else (acc ++ [l.getD k (0, false)], { q with s := t })
        | (none, t) => (acc ++ [(0, false)], { q with s := t })) ([], { p with s := s })
    | (st, _, s) => (List.replicate n (0, false), ⟨s, some (st, a)⟩)

/-- The encoding of element `i0` of a row of a tensor, and whether it is poisoned.  In a bit-plane format bit k lies in
plane k (R57), and a load accesses the whole group (R74). -/
def Pass.elemBits (p : Pass) (t : Tensor) (ov : List Nat) (row i0 : Nat) : Nat × Bool × Pass :=
  let a := tAt t.d row i0
  if fmtPlanes (tFmt t.d) then
    let j := i0 % 128
    let n := fmtBits (tFmt t.d)
    let (l, p) := p.read t.sp ov a (16 * n)
    let v := (List.range n).foldl (fun v k => v + 2 ^ k * b2n ((l.getD (16 * k + j / 8) (0, false)).1.getLsbD (j % 8))) 0
    (v, (List.range n).any (fun k => (l.getD (16 * k + j / 8) (0, false)).2), p)
  else
    let (l, p) := p.read t.sp ov a (tWidth t.d)
    (leNat (plain l), l.any (·.2), p)

/-- The value of an element of a tensor as it lies in memory, under its block's scale (R54, R75). -/
def Pass.elem (p : Pass) (t : Tensor) (ov : List Nat) (i0 i1 i2 i3 : Nat) : FVal × Bool × Pass :=
  let row := tRow t.d i1 i2 i3
  let (x, pois, p) := p.elemBits t ov row i0
  let v := elemDec (tFmt t.d) x
  if tScaled t.d then
    let (l, p) := p.read t.sp ov (tTrailer t.d row + i0 / 32) 1
    (scaled v (l.getD 0 (0, false)).1.toNat, pois || (l.getD 0 (0, false)).2, p)
  else (v, pois, p)

/-- Whether a source is read transposed within 128 × 128 tiles (R70). -/
def tTransposed (t : Tensor) : Bool :=
  bit t.d 61 && (fmtBits (tFmt t.d) = 8 || fmtBits (tFmt t.d) = 16) &&
    match t.sp with
    | .handle _ _ => true
    | _ => false

/-- Element (i0, i1, i2, i3) as a load delivers it (R70, R258): a slot that a short transposed tile lacks is zero. -/
def Pass.deliver (p : Pass) (t : Tensor) (ov : List Nat) (i0 i1 i2 i3 : Nat) : FVal × Bool × Pass :=
  if tTransposed t then
    let s0 := 128 * (i0 / 128) + i1 % 128
    let s1 := 128 * (i1 / 128) + i0 % 128
    if s0 < tDim t.d 0 && s1 < tDim t.d 1 then p.elem t ov s0 s1 i2 i3 else (.fin false 0 0, false, p)
  else p.elem t ov i0 i1 i2 i3

/-! ### Converting -/

/-- What a conversion counts (R62, R63). -/
structure CvtCount where
  satc : Nat
  nanz : Nat
  deriving DecidableEq, Repr

/-- One encoding added to the counts. -/
def CvtCount.add (c : CvtCount) (e : Enc) : CvtCount := ⟨c.satc + b2n e.satc, c.nanz + b2n e.nanz⟩

/-- The counts added to BORE_CVTCNT of bore `b` (R79). -/
def State.countCvt (s : State) (b : Nat) (c : CvtCount) : State :=
  (s.fsat Fld.BORE_CVTCNT_SATC c.satc b).fsat Fld.BORE_CVTCNT_NANZ c.nanz b

/-- A value converted for the destination descriptor `d` with its linear index (R60, R61). -/
def cvt (d : Nat) (seed : Word64) (idx : Nat) (v : FVal) : Enc :=
  elemEnc (tFmt d) ⟨tRnd d, srBits seed idx⟩ (tSat d) v

/-! ### Writing -/

/-- A run of bytes to write, each with its poison. -/
structure Item where
  addr : Nat
  data : List (Byte × Bool)
  deriving DecidableEq, Repr

/-- Items in order, with those merged that one access covers: bytes that follow one another within one line (R257). -/
def mergeItems : List Item → List Item
  | [] => []
  | x :: l =>
    match mergeItems l with
    | [] => [x]
    | y :: r =>
      if x.addr + x.data.length = y.addr && x.addr / 256 = (y.addr + y.data.length - 1) / 256 then
        ⟨x.addr, x.data ++ y.data⟩ :: r
      else x :: y :: r

/-- The items written in order, until one cannot be reached (R168). -/
def Pass.write (p : Pass) (sp : Space) (l : List Item) : Pass :=
  (mergeItems l).foldl (fun p x =>
    if p.stop.isSome then p else
    match p.s.spaceWrite sp x.addr x.data with
    | (.ok, s) | (.poison, s) => { p with s := s }
    | (st, s) => ⟨s, some (st, x.addr)⟩) p

/-- The bytes of one plane group from its 128 encodings, each with its poison (R57, R74). -/
def groupBytes (n : Nat) (l : List (Nat × Bool)) : List (Byte × Bool) :=
  let pois := l.any (·.2)
  (List.range n).flatMap fun k => (List.range 16).map fun m =>
    (BitVec.ofNat 8 ((List.range 8).foldl (fun v j => v + 2 ^ j * b2n (bit (l.getD (8 * m + j) (0, false)).1 k)) 0), pois)

/-- A row's elements cut into blocks of `n`. -/
def chunks {α : Type} (n : Nat) : Nat → List α → List (List α)
  | 0, _ => []
  | k + 1, l => if l.isEmpty then [] else l.take n :: chunks n k (l.drop n)

/-- The encodings and the scale bytes of (the leading elements of) a row, with their poison, and what the conversion
counts (R60 to R64).  `vs` holds the values from element `i0` = 0 upward; `idx` gives their linear indices. -/
def encodeRow (d : Nat) (seed : Word64) (idx : Nat → Nat) (vs : List (FVal × Bool)) :
    List (Nat × Bool) × List (Nat × Bool) × CvtCount :=
  if tScaled d then
    (chunks 32 (vs.length / 32 + 1) vs).zipIdx.foldl (fun (es, scs, c) (blk, j) =>
      let sc := blockScale (tFmt d) (blk.map (·.1))
      let out := blk.zipIdx.map fun ((v, p), k) => (cvt d seed (idx (32 * j + k)) (fscale v (127 - (sc : Int))), p)
      (es ++ out.map (fun (e, p) => (e.code, p)), scs ++ [(sc, blk.any (·.2))], out.foldl (fun c e => c.add e.1) c))
      ([], [], ⟨0, 0⟩)
  else
    let out := vs.zipIdx.map fun ((v, p), k) => (cvt d seed (idx k) v, p)
    (out.map (fun (e, p) => (e.code, p)), [], out.foldl (fun c e => c.add e.1) ⟨0, 0⟩)

/-- The items of a row: its elements or plane groups, then its scale trailer (R58), before the next row's.  `whole` says that every
element of the row was read; of a row that was not, only what is complete is written.
(DESIGN CHOICE, log 80.) -/
def rowItems (d row : Nat) (whole : Bool) (es scs : List (Nat × Bool)) : List Item :=
  let es := if tScaled d && !whole then es.take (es.length / 32 * 32) else es
  let body :=
    if fmtPlanes (tFmt d) then
      ((chunks 128 (es.length / 128 + 1) es).zipIdx.filter fun (g, _) => whole || g.length = 128).map fun (g, j) =>
        ⟨tAt d row (128 * j), groupBytes (fmtBits (tFmt d)) g⟩
    else es.zipIdx.map fun ((v, p), k) => ⟨tAt d row k, (leBytes (tWidth d) v).map fun x => (x, p)⟩
  if tScaled d && whole then
    body ++ [⟨tTrailer d row, scs.map fun (v, p) => (BitVec.ofNat 8 v, p)⟩]
  else body

/-- The rows (i1, i2, i3) of a tensor in visiting order (R67). -/
def tRows (d : Nat) : List (Nat × Nat × Nat) :=
  (List.range (tDim d 3)).flatMap fun i3 => (List.range (tDim d 2)).flatMap fun i2 =>
    (List.range (tDim d 1)).map fun i1 => (i1, i2, i3)

/-- The items of one row of a destination from its values. -/
def destRow (d : Nat) (seed : Word64) (r : Nat × Nat × Nat) (vs : List (FVal × Bool)) : List Item × CvtCount :=
  let row := tRow d r.1 r.2.1 r.2.2
  let (es, scs, c) := encodeRow d seed (fun k => tIndex d k r.1 r.2.1 r.2.2) vs
  (rowItems d row (vs.length = tDim d 0) es scs, c)

/-- The device addresses of the bytes that items cover, where they translate. -/
def State.itemAddrs (s : State) (sp : Space) (write : Bool) (l : List Item) : List Nat :=
  l.flatMap fun x => (List.range x.data.length).filterMap fun k => (s.spaceAddr sp write (x.addr + k)).1

/-- The device addresses that a tensor covers, as a destination or as a source. -/
def State.tensorAddrs (s : State) (t : Tensor) (write : Bool) : List Nat :=
  s.itemAddrs t.sp write ((tRows t.d).flatMap fun r =>
    (destRow t.d 0 r (List.replicate (tDim t.d 0) (.fin false 0 0, false))).1)

/-- The values of one row of the destination, read from the source until the pass stops. -/
def Pass.readRow (p : Pass) (src : Tensor) (ov : List Nat) (r : Nat × Nat × Nat) (n : Nat) :
    List (FVal × Bool) × Pass :=
  (List.range n).foldl (fun (l, p) i0 =>
    if p.stop.isSome then (l, p) else
    let (v, pois, p) := p.deliver src ov i0 r.1 r.2.1 r.2.2
    if p.stop.isSome then (l, p) else (l ++ [(v, pois)], p)) ([], p)

/-- A copy of one tensor into another (R147): the items, the conversion counts and the pass that read them. -/
def Pass.gatherItems (p : Pass) (src dst : Tensor) (ov : List Nat) (seed : Word64) : List Item × CvtCount × Pass :=
  (tRows dst.d).foldl (fun (l, c, p) r =>
    if p.stop.isSome then (l, c, p) else
    let (vs, p) := p.readRow src ov r (tDim dst.d 0)
    let (x, c') := destRow dst.d seed r vs
    (l ++ x, ⟨c.satc + c'.satc, c.nanz + c'.nanz⟩, p)) ([], ⟨0, 0⟩, p)

/-- A whole copy of a tensor for bore `b` (R147, R168): the pass after its last write, or where it stopped.
(DESIGN CHOICE, log 15.) -/
def State.copyTensor (s : State) (b : Nat) (src dst : Tensor) (seed : Word64) : Pass :=
  let ov := s.tensorAddrs dst true
  let (l, c, p) := (⟨s, none⟩ : Pass).gatherItems src dst ov seed
  let q := (⟨p.s, none⟩ : Pass).write dst.sp l
  let q := if q.stop.isSome then q else { q with stop := p.stop }
  { q with s := q.s.countCvt b c }

/-- The value that DFILL writes (R148): gV's low word as FP32, or gV as a signed integer. -/
def fillValue (d : Nat) (v : Word64) : FVal :=
  match fmtOf (tFmt d) with
  | some _ => f32 v.toNat
  | none => ofI64 v.toNat

/-- A whole fill of a tensor for bore `b` (R148): one conversion with index 0, and one scale.  The one conversion counts once
(R79), however many elements are written.
(DESIGN CHOICE, log 80.) -/
def State.fillTensor (s : State) (b : Nat) (dst : Tensor) (v : Word64) (seed : Word64) : Pass :=
  let d := dst.d
  let x := fillValue d v
  let sc := if tScaled d then blockScale (tFmt d) [x] else 0
  let e := cvt d seed 0 (if tScaled d then fscale x (127 - (sc : Int)) else x)
  let n := tDim d 0
  let l := (tRows d).flatMap fun r =>
    rowItems d (tRow d r.1 r.2.1 r.2.2) true (List.replicate n (e.code, false))
      (List.replicate ((n + 31) / 32) (sc, false))
  let q := (⟨s, none⟩ : Pass).write dst.sp l
  { q with s := q.s.countCvt b ((⟨0, 0⟩ : CvtCount).add e) }

end Sys2Proof.Machine
end

