-- ==== Sys2Proof/Machine/Operands.lean ====
section
/-!
DEFINITION. Machine/Operands.lean: the operands of chanter slots: the register files (R84), immediates (R130), offsets and
context addresses (R145), timeouts (R132) and descriptor fields (R140).
-/

namespace Sys2Proof.Machine

/-- An address register. -/
def State.a (s : State) (b n : Nat) : Nat := (mget 0 (s.ch b).a n).toNat

/-- A descriptor register. -/
def State.d (s : State) (b n : Nat) : Nat := (mget 0 (s.ch b).d n).toNat

/-- A general register as a number. -/
def State.gn (s : State) (b n : Nat) : Nat := (s.g b n).toNat

/-- The value of a register as a 256-bit word. -/
def State.regVal (s : State) (b : Nat) : RegRef → Nat
  | .g n => s.gn b n
  | .a n => s.a b n
  | .d n => s.d b n
  | .p n => b2n (s.p b n)

/-- A register written with the low bits of a value; writes of g0 and p0 are discarded (R84). -/
def State.regPut (s : State) (b : Nat) (r : RegRef) (v : Nat) : State :=
  match r with
  | .g n => if n = 0 then s else s.upCh b fun c => { c with g := mput 0 c.g n (BitVec.ofNat 64 v) }
  | .a n => s.upCh b fun c => { c with a := mput 0 c.a n (BitVec.ofNat 48 v) }
  | .d n => s.upCh b fun c => { c with d := mput 0 c.d n (BitVec.ofNat 256 v) }
  | .p n => if n = 0 then s else s.upCh b fun c => { c with p := mput false c.p n (v % 2 = 1) }

/-- A sign-extended immediate of `w` bits as a 64-bit number. -/
def immSext (w v : Nat) : Nat := uint 64 (sext w v)

/-- The offset of an LH access: 25 bits (R145). -/
def State.lhOffset (s : State) (b w : Nat) : Nat := (s.gn b (bits w 34 6) + bits w 0 25) % 2 ^ 25

/-- The context address of an LM access: 48 bits (R145). -/
def State.lmAddress (s : State) (b w : Nat) : Nat := uint 48 ((s.a b (bits w 40 6) : Int) + sext 40 (bits w 0 40))

/-- The timeout field of the word of slot 6 or 7 (R156, R159). -/
def tmoField (k w : Nat) : Nat := if k = 6 then bits w 8 13 else bits w 16 13

/-- The TF bit of the word of slot 6 or 7. -/
def tfBit (k w : Nat) : Bool := if k = 6 then bit w 21 else bit w 29

/-- The lowest bit and the width of descriptor field FSEL (R140). -/
def fselField (f : Nat) : Nat × Nat :=
  [(0, 48), (48, 4), (57, 2), (59, 1), (60, 1), (61, 1), (62, 2), (64, 32), (96, 32), (128, 32), (160, 32), (192, 16),
    (208, 16), (224, 16), (240, 16)].getD f (0, 0)

end Sys2Proof.Machine
end

