-- ==== Sys2Proof/Machine/Overblow.lean ====
section
/-!
DEFINITION. Machine/Overblow.lean: the non-finite counts of a health set (R403, R405, R426), which the array, the reeds and the
reductions feed.
-/

namespace Sys2Proof.Machine

/-- The three sources of non-finite values (R405). -/
inductive NfSource
  | array | reed | bucket
  deriving DecidableEq, Repr

/-- The per-step count of a source. -/
def NfSource.step : NfSource → Field
  | .array => Fld.OVB_NFSTEP_ARRAY
  | .reed => Fld.OVB_NFSTEP_REED
  | .bucket => Fld.OVB_NFSTEP_BUCKET

/-- The total count of a source. -/
def NfSource.total : NfSource → Field
  | .array => Fld.OVB_NFTA_ARRAY
  | .reed => Fld.OVB_NFTR_REED
  | .bucket => Fld.OVB_NFTB_BUCKET

/-- The health set that counts for partition `p`: that of the lowest partition of its group, the leader (R403, R438). -/
def State.healthOf (s : State) (p : Nat) : Nat := s.leader p

/-- `n` non-finite values attributed to partition `p` (R405); after the step's evaluation they reach the totals only and
count as LATE (R426).
(DEDUCED, log 35.) -/
def State.nonFinite (s : State) (src : NfSource) (p n : Nat) : State :=
  let h := s.healthOf p
  let s := s.fsat src.total n h
  if (s.hset h).evaluated && s.fget Fld.OVB_GATE_STEP h = s.fget Fld.STG_STEP_STEP h then s.fsat Fld.OVB_ERR_LATE n h else s.fsat src.step n h

end Sys2Proof.Machine
end

