-- ==== Sys2Proof/Machine/MatrixArray.lean ====
section
/-!
DEFINITION. Machine/MatrixArray.lean: the matrix array (chapter The matrix array): feed buffers, the stationary set,
accumulator banks, array instructions and drains, the column test and the bypass commit request.
-/

namespace Sys2Proof.Machine

/-! ### Feed buffers -/

/-- A zero slot (R173, R174). -/
def Cell16.zero : Cell16 := ⟨0, 0x7F⟩

/-- A feed buffer that holds zeros. -/
def FeedBuf.zero : FeedBuf := ⟨0, []⟩

/-- Feed buffer `k` of bore `b`. -/
def State.feedBuf (s : State) (b k : Nat) : FeedBuf := mget FeedBuf.zero (s.bore b).arr.feed k

/-- Slot (row, column) of a feed buffer. -/
def FeedBuf.slot (f : FeedBuf) (row col : Nat) : Cell16 := mget Cell16.zero f.slots (128 * row + col)

/-- Whether F(k) holds a complete tile (R170). -/
def State.feedOk (s : State) (b k : Nat) : Bool := bit (s.fget Fld.CHN_UNITS_FEEDOK b) k

/-- CHN_UNITS.FEEDOK bit `k` set to a value. -/
def State.putFeedOk (s : State) (b k : Nat) (v : Bool) : State :=
  s.fput Fld.CHN_UNITS_FEEDOK (setBits (s.fget Fld.CHN_UNITS_FEEDOK b) k 1 (b2n v)) b

/-- Where a tile's source element goes: its row and column in the buffer (R173, R70). -/
def tilePlace (t : Tensor) (i0 i1 : Nat) : Nat × Nat := if tTransposed t then (i0, i1) else (i1, i0)

/-- The stochastic index of an element of a tile: i0 + 128 × i1 of its place.  R174 gives it for a scalable TFMT; the model takes
it for every TFMT.
(DESIGN CHOICE, log 80.) -/
def tileIndex (t : Tensor) (i0 i1 : Nat) : Nat := (tilePlace t i0 i1).2 + 128 * (tilePlace t i0 i1).1

/-- The value, scale byte and poison of an element of a tile as it lies in the windchest, with its scale apart. -/
def Pass.tileElem (p : Pass) (t : Tensor) (i0 i1 : Nat) : (FVal × Nat × Bool) × Pass :=
  let row := tRow t.d i1 0 0
  let (x, pois, p) := p.elemBits t [] row i0
  let v := if pois then FVal.nan else elemDec (tFmt t.d) x
  if tScaled t.d then
    let (l, p) := p.read t.sp [] (tTrailer t.d row + i0 / 32) 1
    let e := l.getD 0 (0, false)
    ((if e.2 then .nan else v, e.1.toNat, pois || e.2), p)
  else ((v, 0x7F, pois), p)

/-- The cells of one row of a tile after conversion to `tfmt` (R174), with what the conversion counts.  A poisoned element
enters as the NaN of the format, or as 0 (R273).  The stochastic index of R174 serves every TFMT.
(DESIGN CHOICE, log 80.) -/
def feedRow (t : Tensor) (tfmt : Nat) (seed : Word64) (i1 : Nat) (vs : List (FVal × Nat × Bool)) :
    List Cell16 × CvtCount :=
  let enc (k : Nat) (v : FVal) : Enc :=
    elemEnc tfmt ⟨tRnd t.d, srBits seed (tileIndex t k i1)⟩ (tSat t.d) v
  if fmtScales tfmt && tfmt = tFmt t.d then
    vs.zipIdx.foldl (fun (l, c) ((v, e, _), k) =>
      let x := enc k v
      (l ++ [⟨BitVec.ofNat 16 x.code, BitVec.ofNat 8 e⟩], c.add x)) ([], ⟨0, 0⟩)
  else if fmtScales tfmt then
    (chunks 32 (vs.length / 32 + 1) vs).zipIdx.foldl (fun (l, c) (blk, j) =>
      let sc := blockScale tfmt (blk.map fun (v, e, _) => scaled v e)
      blk.zipIdx.foldl (fun (l, c) ((v, e, _), k) =>
        let x := enc (32 * j + k) (fscale (scaled v e) (127 - (sc : Int)))
        (l ++ [⟨BitVec.ofNat 16 x.code, BitVec.ofNat 8 sc⟩], c.add x)) (l, c)) ([], ⟨0, 0⟩)
  else
    vs.zipIdx.foldl (fun (l, c) ((v, e, pois), k) =>
      let x := enc k (scaled v e)
      (l ++ [⟨BitVec.ofNat 16 x.code, 0x7F⟩], if pois then c else c.add x)) ([], ⟨0, 0⟩)

/-- The poisoned words of the windchest that a tile's read touches (R273). -/
def State.poisFeed (s : State) (t : Tensor) (d0 d1 : Nat) : Nat :=
  let n := fmtBits (tFmt t.d)
  let addrs := (List.range d1).flatMap fun i1 =>
    let row := tRow t.d i1 0 0
    (List.range d0).flatMap fun i0 =>
      let a := tAt t.d row i0
      (if fmtPlanes (tFmt t.d) then (List.range n).flatMap fun k => [a + 16 * k, a + 16 * k + 8]
        else (List.range (tWidth t.d)).map (a + ·)) ++ (if tScaled t.d then [tTrailer t.d row + i0 / 32] else [])
  let units := addrs.foldl (fun l a =>
    match (s.spaceAddr t.sp false a).1 with
    | some d => sinsert (unitOf d) l
    | none => l) []
  (units.filter fun u => u ∈ s.poison).length

/-- The tile of a feed read into its buffer (R150, R173, R174, R273). -/
def State.fillFeed (s : State) (b : Nat) (f : FeedReq) : State :=
  let t : Tensor := ⟨f.ds.toNat, .handle b f.sh⟩
  let d0 := min (tDim t.d 0) 128
  let d1 := min (tDim t.d 1) 128
  let (slots, c, p) := (List.range d1).foldl (fun (m, c, p) i1 =>
    let (vs, p) := (List.range d0).foldl (fun (l, p) i0 =>
      let (x, p) := p.tileElem t i0 i1
      (l ++ [x], p)) (([] : List (FVal × Nat × Bool)), p)
    let (cells, c') := feedRow t f.tfmt f.seed i1 vs
    (cells.zipIdx.foldl (fun m (x, i0) =>
      let (r, k) := tilePlace t i0 i1
      mput Cell16.zero m (128 * r + k) x) m, (⟨c.satc + c'.satc, c.nanz + c'.nanz⟩ : CvtCount), p))
    (([] : Map Cell16), (⟨0, 0⟩ : CvtCount), (⟨s, none⟩ : Pass))
  let s := p.s.countCvt b c
  let s := s.fsat Fld.WCH_ECC_POISFEED (s.poisFeed t d0 d1) b
  s.upArr b fun A => { A with feed := mput FeedBuf.zero A.feed f.fb ⟨f.tfmt, slots⟩ }

/-- The feed buffers that the word of an M slot reads (R151). -/
def armBuffers (w : Nat) : List Nat :=
  if opc w = 1 then [bits w 41 2]
  else if opc w = 2 then (if bits w 50 2 = 2 then [bits w 41 2, bits w 39 2] else [bits w 41 2])
  else []

/-- The bank that the word of an M slot names. -/
def armBank (w : Nat) : Option Nat :=
  if opc w = 2 ∨ opc w = 4 then some (bits w 44 2) else if opc w = 3 then some (bits w 39 2) else none

/-- Whether an accepted array instruction has yet to finish reading F(k) (R164). -/
def ArrOp.reads (o : ArrOp) (k : Nat) : Bool := o.phase ≠ .tail && k ∈ armBuffers o.word.toNat

/-- Whether an MFEED into F(k) is outstanding. -/
def Chanter.feeding (c : Chanter) (k : Nat) : Bool := c.feeds.any fun f => f.fb = k

/-- The fill of every outstanding MFEED whose buffer no accepted instruction has yet to read is under way: the buffer no longer
holds a complete tile (R164, R170). -/
def State.startFills (s : State) (b : Nat) : State :=
  s.each [0, 1, 2, 3] fun s k =>
    if (s.ch b).feeding k && !(s.ch b).arrq.any (·.reads k) then s.putFeedOk b k false else s

/-- FEED_TILE_COMPLETE: the oldest feed's tile has arrived (R259).  It does not overwrite a tile that an array instruction
accepted before it has yet to read (R164).  The buffer is complete once no further MFEED into it is outstanding.
(DESIGN CHOICE, log 82.) -/
def execFeedTileComplete (b : Nat) (s : State) : Host.Outcome State Fault Refusal :=
  if s.faults.frozen then ok s else
  match (s.ch b).feeds with
  | [] => ok s
  | f :: rest =>
    if (s.ch b).arrq.any (·.reads f.fb) then ok s
    else
      let s := (s.fillFeed b f).upCh b fun c => { c with feeds := rest }
      ok ((s.putFeedOk b f.fb (!(s.ch b).feeding f.fb)).unhold b f.sh.h)

/-! ### Banks -/

/-- The type of a bank (R176): 0 UNTYPED, 1 FP32, 2 INT32. -/
def accField (a : Nat) : Field := ⟨.MXA_STATUS, 2 * a, 2⟩

/-- Entry [row][column] of a bank. -/
def State.acc (s : State) (b a row col : Nat) : Nat := (mget 0 (s.bore b).arr.acc (16384 * a + 128 * row + col)).toNat

/-- Entry [row][column] of a bank set. -/
def State.putAcc (s : State) (b a row col v : Nat) : State :=
  s.upArr b fun A => { A with acc := mput 0 A.acc (16384 * a + 128 * row + col) (BitVec.ofNat 32 v) }

/-- A bank becomes UNTYPED, with zero in every entry (R176, R186). -/
def State.zeroBank (s : State) (b a : Nat) : State :=
  (s.upArr b fun A => { A with acc := A.acc.filter fun e => e.1 / 16384 ≠ a }).fput (accField a) 0 b

/-- The pairing class of an operand format (R172). -/
def pairClass (f : Nat) : Nat :=
  if f = 1 ∨ f = 2 then 0 else if f = 3 ∨ f = 4 then 1 else if f = 8 then 2 else if f = 9 then 3 else 4

/-- The packing factor of an operand format (R172). -/
def packing (f : Nat) : Nat := if f = 1 ∨ f = 2 then 1 else if f = 3 ∨ f = 4 ∨ f = 8 then 2 else 4

/-- The accumulator type of an operand format (R172). -/
def accType (f : Nat) : Nat := if f = 8 ∨ f = 9 then 2 else 1

/-- Usable columns of bore `b` (R177). -/
def State.width (s : State) (b : Nat) : Nat := s.fget Fld.BORE_CAP_MXA_WIDTH b

/-- The value of a cell in a format: the element under its scale (R181, R197). -/
def Cell16.val (fmt : Nat) (x : Cell16) : FVal :=
  if fmtScales fmt then scaled (elemDec fmt x.enc.toNat) x.scale.toNat else elemDec fmt x.enc.toNat

/-- The integer of a cell in INT8 or INT4. -/
def Cell16.int (fmt : Nat) (x : Cell16) : Int := sext (fmtBits fmt) x.enc.toNat

/-- One rounding of the array: the exact sum of products added to an entry (R181).  An exact zero leaves the entry as it
is. -/
def accRound (prior : Nat) (prods : List (FVal × FVal)) : Nat :=
  let sum := prods.foldl (fun v p => fadd v (fmul p.1 p.2)) (.fin false 0 0)
  match sum with
  | .fin _ 0 _ => prior
  | v => to32 (fadd (f32 prior) v)

/-- The stationary set's cell (r, c). -/
def State.statCell (s : State) (b r c : Nat) : Cell16 := mget Cell16.zero (s.bore b).arr.stat (128 * r + c)

/-- The fields of an MX form (R151). -/
structure MxOp where
  mode : Nat
  fmt  : Nat
  acc  : Nat
  clr  : Bool
  fa   : Nat
  fb   : Nat
  m    : Nat
  n    : Nat
  k    : Nat
  deriving DecidableEq, Repr

/-- The fields of a word of form MX. -/
def mxOp (w : Nat) : MxOp :=
  ⟨bits w 50 2, bits w 46 4, bits w 44 2, bit w 43, bits w 41 2, bits w 39 2, bits w 32 7, bits w 25 7, bits w 18 7⟩

/-- The operand pair of product k of entry [m][n] in a mode, with the format of the second operand (R178). -/
def State.pair (s : State) (b : Nat) (o : MxOp) (m n k : Nat) : FVal × FVal :=
  let x := ((s.feedBuf b o.fa).slot m k).val o.fmt
  if o.mode = 2 then (x, ((s.feedBuf b o.fb).slot k n).val o.fmt)
  else if s.flag Fld.MXA_STATUS_STAT_VALID b then (x, (s.statCell b k n).val (s.fget Fld.MXA_STATUS_STAT_FMT b))
  else (x, .fin false 0 0)

/-- The integer operand pair of product k of entry [m][n]. -/
def State.ipair (s : State) (b : Nat) (o : MxOp) (m n k : Nat) : Int × Int :=
  let x := ((s.feedBuf b o.fa).slot m k).int o.fmt
  if o.mode = 2 then (x, ((s.feedBuf b o.fb).slot k n).int o.fmt)
  else if s.flag Fld.MXA_STATUS_STAT_VALID b then (x, (s.statCell b k n).int (s.fget Fld.MXA_STATUS_STAT_FMT b))
  else (x, 0)

/-- The result of a pass for entry [m][n] from its prior value (R179 to R182). -/
def State.passEntry (s : State) (b : Nat) (o : MxOp) (m n prior : Nat) : Nat :=
  let ks := List.range (o.k + 1)
  if accType o.fmt = 2 then
    uint 32 ((prior : Int) + ks.foldl (fun v k => v + (s.ipair b o m n k).1 * (s.ipair b o m n k).2) 0)
  else if o.mode = 2 then
    (chunks (packing o.fmt) (o.k + 1) ks).foldl (fun e c => accRound e (c.map (s.pair b o m n))) prior
  else accRound prior (ks.map (s.pair b o m n))

/-- Cycles of a pass (R178). -/
def passLength (o : MxOp) : Nat :=
  let p := packing o.fmt
  if o.mode = 2 then (o.k + 1 + p - 1) / p else (o.m + 1 + p - 1) / p

/-- Whether a value is an exact zero. -/
def isZero : FVal → Bool
  | .fin _ 0 _ => true
  | _ => false

/-- Whether a product is gated: one broadcast operand is an exact zero and the other operand is finite (R183).  In
output-stationary mode both operands are broadcast. -/
def gated (mode : Nat) (p : FVal × FVal) : Bool :=
  (isZero p.1 && fFinite p.2) || (mode = 2 && isZero p.2 && fFinite p.1)

/-- The products of cell (r, c) in cycle `t` of a pass: those of the rows, or of the depths, that the cycle streams; an
operand outside the instruction's own fields is zero.
(DEDUCED, log 10.) -/
def State.cellProducts (s : State) (b : Nat) (o : MxOp) (t r c : Nat) : List (FVal × FVal) :=
  let p := packing o.fmt
  (List.range p).map fun j =>
    if o.mode = 2 then
      let k := t * p + j
      if k ≤ o.k && r ≤ o.m && c ≤ o.n then s.pair b o r c k else (.fin false 0 0, .fin false 0 0)
    else
      let m := t * p + j
      let x := s.pair b o m c r
      if m ≤ o.m && r ≤ o.k then x else (.fin false 0 0, x.2)

/-- Gated cell-cycles of a pass: those in which every product of the cell is gated (R183, log 10). -/
def State.gatedCells (s : State) (b : Nat) (o : MxOp) : Nat :=
  ((List.range (passLength o)).map fun t => ((List.range 128).map fun r => ((List.range (s.width b)).filter fun c =>
    (s.cellProducts b o t r c).all (gated o.mode)).length).sum).sum

/-- Whether an MRUN pairs its format with a stationary set of another class (R193). -/
def State.fmtMix (s : State) (b : Nat) (o : MxOp) : Bool :=
  o.mode ≠ 2 && s.flag Fld.MXA_STATUS_STAT_VALID b &&
    pairClass (s.fget Fld.MXA_STATUS_STAT_FMT b) ≠ pairClass o.fmt

/-- An MRUN computed (R178 to R183, R193 to R195). -/
def State.mrun (s : State) (b : Nat) (o : MxOp) : State :=
  let s0 := s
  let mix := s0.fmtMix b o
  let ty := s0.fget (accField o.acc) b
  let s := (s.fsat Fld.MXA_BUSY_CYCLES (passLength o) b).fsat Fld.MXA_GATED_CELLS (s0.gatedCells b o) b
  let s := s.each (List.range (o.m + 1)) fun s m => s.each (List.range (o.n + 1)) fun s n =>
    let prior := if o.clr then 0 else s0.acc b o.acc m n
    if mix then (if o.clr then s.putAcc b o.acc m n 0 else s)
    else s.putAcc b o.acc m n (s0.passEntry b o m n prior)
  if mix then
    let s := s.fput Fld.MXA_STATUS_FMTMIX 1 b
    if o.clr then s.fput (accField o.acc) (accType o.fmt) b else s
  else
    let s := if !o.clr && ty ≠ 0 && ty ≠ accType o.fmt then s.fput Fld.MXA_STATUS_TYPEMIX 1 b else s
    s.fput (accField o.acc) (accType o.fmt) b

/-- An MLOAD: the stationary set latched from F(FA) (R175). -/
def State.mload (s : State) (b : Nat) (o : MxOp) : State :=
  let f := s.feedBuf b o.fa
  let set := (List.range (o.k + 1)).foldl (fun m r => (List.range (o.n + 1)).foldl (fun m c =>
    mput Cell16.zero m (128 * r + c) (if o.mode = 0 then f.slot r c else f.slot c r)) m) ([] : Map Cell16)
  let s := (s.upArr b fun A => { A with stat := set }).fsat Fld.MXA_BUSY_CYCLES 8 b
  ((s.fput Fld.MXA_STATUS_STAT_FMT o.fmt b).fput Fld.MXA_STATUS_STAT_VALID 1 b).fput Fld.MXA_STATUS_STAT_MODE o.mode b

/-! ### Drain -/

/-- The value that a drain converts (R187). -/
def drainVal (ty shift v : Nat) : FVal :=
  if ty = 0 then .fin false 0 0
  else
    let x := if ty = 1 then f32 v else (let i := sext 32 v; .fin (i < 0) i.natAbs 0)
    fscale x (sext 8 shift)

/-- The items of one drained row: elements 0 to n − 1 of row i1.  In a bit-plane format a group's slots that the drain does
not write keep their bits, read from `s` (R186, R198). -/
def drainRow (s : State) (t : Tensor) (seed : Word64) (i1 : Nat) (vs : List FVal) : List Item × CvtCount :=
  let d := t.d
  let row := tRow d i1 0 0
  let n := vs.length
  let (es, scs, c) := encodeRow d seed (fun k => tIndex d k i1 0 0) (vs.map fun v => (v, false))
  let es :=
    if fmtPlanes (tFmt d) && n < tDim d 0 then
      let keep := (List.range (min (tDim d 0) (128 * ((n + 127) / 128)) - n)).map fun j =>
        let (x, pois, _) := (⟨s, none⟩ : Pass).elemBits t [] row (n + j)
        (x, pois)
      es ++ keep
    else es
  let items :=
    if fmtPlanes (tFmt d) then
      (chunks 128 (es.length / 128 + 1) es).zipIdx.map fun (g, j) =>
        (⟨tAt d row (128 * j), groupBytes (fmtBits (tFmt d)) g⟩ : Item)
    else es.zipIdx.map fun ((v, p), k) => ⟨tAt d row k, (leBytes (tWidth d) v).map fun x => (x, p)⟩
  (if tScaled d then items ++ [⟨tTrailer d row, scs.map fun (v, p) => (BitVec.ofNat 8 v, p)⟩] else items, c)

/-- An MDRAIN: the bank read, converted and written (R186, R187, R198). -/
def State.mdrain (s : State) (b : Nat) (o : ArrOp) (m : HMap) : State :=
  let w := o.word.toNat
  let a := bits w 39 2
  let ty := s.fget (accField a) b
  let t : Tensor := ⟨o.dd.toNat, .handle b m⟩
  let n := min (tDim t.d 0) (s.width b)
  let rows := min (tDim t.d 1) 128
  let nf := if ty = 1 then ((List.range rows).map fun r => ((List.range n).filter fun j =>
    !fFinite (f32 (s.acc b a r j))).length).sum else 0
  let (items, c) := (List.range rows).foldl (fun (l, c) r =>
    let (x, c') := drainRow s t o.seed r ((List.range n).map fun j => drainVal ty o.dshift.toNat (s.acc b a r j))
    (l ++ x, (⟨c.satc + c'.satc, c.nanz + c'.nanz⟩ : CvtCount))) ([], ⟨0, 0⟩)
  let p := (⟨s, none⟩ : Pass).write t.sp items
  let s := (p.s.countCvt b c).nonFinite .array (partOf b) nf
  if bit w 38 then s else s.zeroBank b a

/-! ### Instructions -/

/-- Whether an accepted instruction has not finished: an MDRAIN has once it has read its bank, though its writes hold the drain
path (R184). -/
def ArrOp.live (o : ArrOp) : Bool := !(o.phase = .tail && opc o.word.toNat = 3)

/-- Instructions in the array's queue of four (R152, R170). -/
def Chanter.mq (c : Chanter) : Nat := (c.arrq.filter ArrOp.live).length

/-- The array's queue count (R170). -/
def State.putMq (s : State) (b : Nat) : State := s.fput Fld.CHN_UNITS_MQ (s.ch b).mq b

/-- Whether an instruction runs on the compute unit (R184). -/
def ArrOp.computes (o : ArrOp) : Bool := opc o.word.toNat = 1 || opc o.word.toNat = 2

/-- Whether a begun instruction `x` keeps `o` from beginning: it holds `o`'s bank, the compute unit or the drain path, and `o`
needs it (R152, R184). -/
def ArrOp.blocks (x o : ArrOp) : Bool :=
  (x.live && (armBank x.word.toNat).any (fun a => armBank o.word.toNat = some a)) ||
    (x.computes && o.computes && x.phase = .runs) || (opc x.word.toNat = 3 && opc o.word.toNat = 3)

/-- Whether queued instruction `o` may begin behind `before`: every earlier one has begun, and none holds what it needs
(R152, R184). -/
def mayBegin (before : List ArrOp) (o : ArrOp) : Bool := before.all fun x => x.phase ≠ .waits && !x.blocks o

/-- What an array instruction does when it begins. -/
def State.armBegin (s : State) (b : Nat) (o : ArrOp) : State :=
  let w := o.word.toNat
  match opc w with
  | 1 => s.mload b (mxOp w)
  | 2 => s.mrun b (mxOp w)
  | 3 =>
    match o.dh with
    | some m =>
      (s.mdrain b o m).upCh b fun c =>
        { c with drains := c.drains ++ [⟨if bits w 36 2 = 1 then some (bits w 30 6) else none, m.h⟩] }
    | none => s
  | _ => s.zeroBank b (bits w 44 2)

/-- ARRAY_INSTRUCTION_BEGIN (R184): the oldest queued instruction that has not begun. -/
def execArrayInstructionBegin (b : Nat) (s : State) : Host.Outcome State Fault Refusal :=
  if s.faults.frozen then ok s else
  let q := (s.ch b).arrq
  let before := q.takeWhile (·.phase ≠ .waits)
  match q.drop before.length with
  | [] => ok s
  | o :: after =>
    if mayBegin before o then
      ok ((s.armBegin b o).upCh b fun c => { c with arrq := before ++ { o with phase := .runs } :: after })
    else ok s

/-- What the end of a begun instruction's current part leaves of it behind `before` (R184): an MRUN's stream ends, then its tail; an
MDRAIN has read its bank, then issued its writes; an MLOAD or MZERO is over.  Instructions of one unit finish in order. -/
def ArrOp.finish (o : ArrOp) (before : List ArrOp) : List ArrOp :=
  match o.phase with
  | .waits => [o]
  | .runs => if opc o.word.toNat = 2 || opc o.word.toNat = 3 then [{ o with phase := .tail }] else []
  | .tail => if before.any fun x => opc x.word.toNat = opc o.word.toNat then [o] else []

/-- ARRAY_INSTRUCTION_FINISH (R184): the begun instruction at a place of the queue ends its current part, whatever stands before
it on another unit.
(DESIGN CHOICE, log 83.) -/
def execArrayInstructionFinish (o : ArrPlace) (s : State) : Host.Outcome State Fault Refusal :=
  if s.faults.frozen then ok s else
  let q := (s.ch o.bore).arrq
  match q[o.pos]? with
  | none => ok s
  | some x =>
    let s := s.upCh o.bore fun c => { c with arrq := q.take o.pos ++ x.finish (q.take o.pos) ++ q.drop (o.pos + 1) }
    ok ((s.startFills o.bore).putMq o.bore)

/-- DRAIN_COMPLETION (R153): every write of the oldest drain has been acknowledged. -/
def execDrainCompletion (b : Nat) (s : State) : Host.Outcome State Fault Refusal :=
  if s.faults.frozen then ok s else
  match (s.ch b).drains with
  | [] => ok s
  | d :: rest =>
    let s := (s.upCh b fun c => { c with drains := rest }).unhold b d.h
    let s := s.upVest b fun v => { v with arrs := v.arrs.map fun a => { a with drains := a.drains - 1 } }
    ok (match d.cn with
      | some n => s.incLocal b n 1
      | none => s)

/-! ### Column test and bypass commit -/

/-- The statuses of MXA_BYPCMD (R208). -/
def bypRunning : Nat := 1
def bypDone : Nat := 2
def bypBusy : Nat := 3
def bypTooMany : Nat := 4
def bypHoldup : Nat := 5
def bypFlashErr : Nat := 6

/-- Whether a column test may start (R201). -/
def State.mayCtest (s : State) (b : Nat) : Bool :=
  s.chState b ≠ 1 && s.chState b ≠ 2 && s.fget Fld.CHN_UNITS_MQ b = 0 && !(s.bore b).arr.testing &&
    !(s.bore b).arr.committing

/-- MXA_BYPCMD.CTEST written (R192, R201). -/
def State.ctest (s : State) (b : Nat) : State :=
  if s.mayCtest b then
    (s.upArr b fun A => { A with testing := true }).fput Fld.MXA_BYPCMD_CMD_STATUS bypRunning b
  else s.fput Fld.MXA_BYPCMD_CMD_STATUS bypBusy b

/-- COLUMN_TEST (R192, R203). -/
def execColumnTest (who : Requester) (b : Nat) (s : State) : Host.Outcome State Fault Refusal :=
  ok (s.regAccess who b false (mayPf who) (s.ctest b))

/-- The array's own state cleared, as the column test and a reset leave it (R192, R199). -/
def State.arrClear (s : State) (b : Nat) : State :=
  let s := s.upArr b fun A => { A with feed := [], stat := [], acc := [] }
  let s := s.each [0, 1, 2, 3] fun s a => s.fput (accField a) 0 b
  let s := (s.fput Fld.MXA_STATUS_STAT_FMT 0 b).fput Fld.MXA_STATUS_STAT_VALID 0 b
  (s.fput Fld.MXA_STATUS_STAT_MODE 0 b).fput Fld.CHN_UNITS_FEEDOK 0 b

/-- COLUMN_TEST_DONE (R192): the test ends with the columns that failed and whether a row did. -/
def execColumnTestDone (b : Nat) (cols : BitVec 128) (rowfail : Bool) (s : State) : Host.Outcome State Fault Refusal :=
  if s.faults.frozen then ok s else
  if !(s.bore b).arr.testing then ok s else
  let s := (s.arrClear b).upArr b fun A => { A with testing := false }
  let s := (s.rput .MXA_CTRES (BitVec.ofNat 64 cols.toNat) b 0).rput .MXA_CTRES (BitVec.ofNat 64 (cols.toNat / 2 ^ 64)) b 1
  ok ((s.fput Fld.MXA_BYPCMD_ROWFAIL (b2n rowfail) b).fput Fld.MXA_BYPCMD_CMD_STATUS bypDone b)

/-- The mask held in a pair of registers (R207). -/
def State.maskPair (s : State) (r : Reg) (b : Nat) : Nat := (s.rget r b 0).toNat + 2 ^ 64 * (s.rget r b 1).toNat

/-- A pair of registers set to a mask. -/
def State.putMaskPair (s : State) (r : Reg) (b v : Nat) : State :=
  (s.rput r (BitVec.ofNat 64 v) b 0).rput r (BitVec.ofNat 64 (v / 2 ^ 64)) b 1

/-- Bits set in a 128-bit mask. -/
def maskCount (v : Nat) : Nat := ((List.range 128).filter (bit v)).length

/-- The array after a reset (R199): its state, MXA_DCTRL and the flags cleared; the applied map stays. -/
def State.arrReset (s : State) (b : Nat) : State :=
  let s := (s.arrClear b).upArr b fun A => { A with testing := false }
  (s.rput .MXA_STATUS 0 b).rput .MXA_DCTRL 0 b

end Sys2Proof.Machine
end

