-- ==== Sys2Proof/Machine/Dma.lean ====
section
/-!
DEFINITION. Machine/Dma.lean: the DMA engine (R147 to R149, R168, R171) and the completion of R134 and R766.
-/

namespace Sys2Proof.Machine

/-- The fault causes of R111. -/
def cIllegal : Nat := 0x01
def cAlign : Nat := 0x02
def cUnmapped : Nat := 0x03
def cDark : Nat := 0x04
def cPsecc : Nat := 0x05
def cPcovf : Nat := 0x06
def cWidth : Nat := 0x07
def cReed : Nat := 0x08
def cPoison : Nat := 0x09
def cRoute : Nat := 0x0A
def cLigstate : Nat := 0x0B
def cSyncown : Nat := 0x0C
def cTimeout : Nat := 0x0D

/-- An imprecise fault detected (R110): it waits for `IMPRECISE_FAULT`.
(DEDUCED, log 18.) -/
def State.impFault (s : State) (b cause slot pc info : Nat) : State :=
  s.upCh b fun c => { c with imp := c.imp ++ [⟨cause, slot, pc, BitVec.ofNat 64 info⟩] }

/-- The occupancy that CHN_UNITS reports (R170). -/
def State.putDmaq (s : State) (b : Nat) : State :=
  let l := (s.ch b).dma
  (s.fput Fld.CHN_UNITS_DMAQ l.length b).fput Fld.CHN_UNITS_DMAACT (l.filter fun r => r.moving && !r.copied).length b

/-- A request of bore `b` changed. -/
def State.upDma (s : State) (b id : Nat) (f : DmaReq → DmaReq) : State :=
  (s.upCh b fun c => { c with dma := c.dma.map fun r => if r.id = id then f r else r }).putDmaq b

/-- A request leaves the engine. -/
def State.dropDma (s : State) (b id : Nat) : State :=
  (s.upCh b fun c => { c with dma := c.dma.filter fun r => r.id ≠ id }).putDmaq b

/-- The tensors of a request. -/
def DmaReq.dst (r : DmaReq) (b : Nat) : Tensor :=
  ⟨r.dd.toNat, match r.dh with | some m => .handle b m | none => .context r.ctx⟩
def DmaReq.src (r : DmaReq) (b : Nat) : Tensor :=
  ⟨r.ds.toNat, match r.sh with | some m => .handle b m | none => .context r.ctx⟩

/-- The first address of a run that an access could not reach, as CHN_FAULTINFO reports it: a device address, or a context
address with bit 63 set where it did not translate (R111). -/
def State.failInfo (s : State) (sp : Space) (write : Bool) (a : Nat) : Nat :=
  (((lineRuns 3 a 256).filterMap fun r =>
    match (s.spaceAddr sp write r.1).1 with
    | none => some (2 ^ 63 + r.1)
    | some d =>
      match s.home d with
      | .hbm | .host _ => none
      | .windchest c _ => if s.pstate c = psDeep || s.pstate c = psOff then some d else none
      | _ => some d).head?).getD a

/-- The message of a completion, one word that holds TAG (R134, R766): sent, discarded because its channel is no longer
valid, or none while no credit or reservation is free (R297). -/
def State.completionMsg (s : State) (b ch tag : Nat) : Option State :=
  if s.rtValid (.bore b ch) then s.trySend b ch [BitVec.ofNat 32 tag] 2 none
  else some (s.countOrphan (.here (.bore b ch)))

/-- A request that has written everything signals its message if it has one, and leaves (R134, R297). -/
def State.dmaSignal (s : State) (b : Nat) (r : DmaReq) : State :=
  if bit r.ck 1 then
    match s.completionMsg b r.ch r.tag with
    | some s => s.dropDma b r.id
    | none => s.upDma b r.id fun r => { r with copied := true }
  else s.dropDma b r.id

/-- A request has finished its writes: its handles are free, its counter is incremented, then its message is sent. -/
def State.dmaDone (s : State) (b : Nat) (r : DmaReq) : State :=
  let s := (s.unholdOpt b r.dh).unholdOpt b r.sh
  let s := if bit r.ck 0 then s.incLocal b r.cn 1 else s
  s.dmaSignal b { r with copied := true }

/-- DMA_REQUEST_START (R149): the oldest request that has not started, while fewer than four move; an empty one completes at
once (R147). -/
def execDmaRequestStart (b : Nat) (s : State) : Host.Outcome State Fault Refusal :=
  if s.faults.frozen then ok s else
  let l := (s.ch b).dma
  match l.find? fun r => !r.moving with
  | none => ok s
  | some r =>
    if 4 ≤ (l.filter fun r => r.moving && !r.copied).length then ok s
    else
      let t := s.upDma b r.id fun r => { r with moving := true }
      ok (if tEmpty r.dd.toNat then t.dmaDone b { r with moving := true } else t)

/-- The writes of a request: a copy or a fill (R147, R148).
(DESIGN CHOICE, log 15.) -/
def State.dmaMove (s : State) (b : Nat) (r : DmaReq) : Pass :=
  if r.fill then s.fillTensor b (r.dst b) r.fillv r.seed else s.copyTensor b (r.src b) (r.dst b) r.seed

/-- A request that could not reach an address is abandoned, and faults (R168). -/
def State.dmaAbandon (s : State) (b : Nat) (r : DmaReq) (st : AccStatus) (a : Nat) : State :=
  let s := (s.unholdOpt b r.dh).unholdOpt b r.sh
  let srcFails := !r.fill && (match s.spaceRead (r.src b).sp a 1 with | (st, _, _) => st.bad)
  let sp := if srcFails then (r.src b).sp else (r.dst b).sp
  (s.impFault b (if st = .dark then cDark else cUnmapped) 3 r.pc (s.failInfo sp (!srcFails) a)).dropDma b r.id

/-- Whether a request waits for an earlier posted transfer of its bore to a home that it reads or writes (R28, R29). -/
def State.dmaBehind (s : State) (b : Nat) (r : DmaReq) : Bool :=
  s.passes (.bore b) (s.tensorAddrs (r.dst b) true) || (!r.fill && s.passes (.bore b) (s.tensorAddrs (r.src b) false))

/-- DMA_COMPLETION: request `id` has written everything and signals (R134), or had to wait for credit and tries again
(R297).  It does not pass an earlier store of its bore (R28, R29). -/
def execDmaCompletion (b id : Nat) (s : State) : Host.Outcome State Fault Refusal :=
  if s.faults.frozen then ok s else
  match (s.ch b).dma.find? fun r => r.id = id && r.moving with
  | none => ok s
  | some r =>
    if r.copied then ok (s.dmaSignal b r)
    else if s.dmaBehind b r then ok s
    else
      let p := s.dmaMove b r
      ok (match p.stop with
        | none => p.s.dmaDone b r
        | some (st, a) => p.s.dmaAbandon b r st a)

end Sys2Proof.Machine
end

