-- ==== Sys2Proof/Machine/Reeds.lean ====
section
/-!
DEFINITION. Machine/Reeds.lean: reeds and ranks (chapter Reeds and ranks): launches, kernel loads, the reed instruction set,
rank barriers, stopping and faults, and the debug window.
-/

namespace Sys2Proof.Machine

/-! ### Registers, cell memory and kernel store -/

/-- Register t(n) of a reed: t0 reads as 0 (R210). -/
def State.t (s : State) (b r l n : Nat) : Nat :=
  if n = 0 then 0 else (mget 0 (s.bore b).treg (32 * (64 * r + l) + n)).toNat

/-- Register t(n) of a reed set; a write of t0 is discarded (R210). -/
def State.tput (s : State) (b r l n v : Nat) : State :=
  if n = 0 then s else
    s.upBore b fun B => { B with treg := mput 0 B.treg (32 * (64 * r + l) + n) (BitVec.ofNat 32 v) }

/-- `n` bytes of a reed's cell memory. -/
def State.cell (s : State) (b r l a n : Nat) : List Byte :=
  (List.range n).map fun k => mget 0 (s.bore b).cell (1024 * (64 * r + l) + (a + k) % 1024)

/-- Bytes of a reed's cell memory set. -/
def State.cellPut (s : State) (b r l a : Nat) (x : List Byte) : State :=
  s.upBore b fun B => { B with cell := x.zipIdx.foldl (fun m (v, k) =>
    mput 0 m (1024 * (64 * r + l) + (a + k) % 1024) v) B.cell }

/-- Instruction `i` of the kernel store of rank `r`. -/
def State.kinsn (s : State) (b r i : Nat) : Nat := (mget 0 (s.bore b).kstore (4096 * r + i)).toNat

/-- The number under which the error lists hold an instruction of a kernel store (log 11). -/
def ksKey (b r i : Nat) : Nat := 2 ^ 50 + 4096 * (80 * b + r) + i

/-- The number under which the error lists hold a word of cell memory.
(DEDUCED, log 11.) -/
def cmKey (b r l a : Nat) : Nat := 2 ^ 51 + 256 * (64 * (80 * b + r) + l) + a / 4

/-- A single-bit error of reed memory corrected and logged (R234, R710). -/
def State.reedCorr (s : State) (b r l key kind at' : Nat) : State :=
  if key ∈ s.single then
    ({ s with single := s.single.filter (· ≠ key) }).log (srcBore b) 0x0004 none 1
      (leBytes 1 r ++ leBytes 1 l ++ leBytes 2 kind ++ leBytes 4 at')
  else s

/-! ### Rank states -/

/-- The codes of REED_RSTAT.STATE (R245). -/
def rkIdle : Nat := 0
def rkLoading : Nat := 1
def rkRunning : Nat := 2

/-- The state of rank `r`. -/
def State.rkState (s : State) (b r : Nat) : Nat := s.fget Fld.REED_RSTAT_STATE b r

/-- Launch `id` of bore `b`. -/
def State.launch (s : State) (b id : Nat) : Option Launch := (s.bore b).launches.find? fun x => x.id = id

/-- Launch `id` changed by `f`. -/
def State.upLaunch (s : State) (b id : Nat) (f : Launch → Launch) : State :=
  s.upBore b fun B => { B with launches := B.launches.map fun x => if x.id = id then f x else x }

/-- The reeds of a rank that still run their kernel. -/
def State.live (s : State) (b r : Nat) : Nat :=
  ((List.range 64).filter fun l => (s.reed b r l).mode ≠ .ended).length

/-- REED_RSTAT.LIVE brought up to date. -/
def State.putLive (s : State) (b r : Nat) : State := s.fput Fld.REED_RSTAT_LIVE (s.live b r) b r

/-- The launch has nothing more to do on a rank. -/
def State.leaveRank (s : State) (b r id : Nat) : State :=
  s.upLaunch b id fun x => { x with left := x.left.filter (· ≠ r) }

/-- A launch starts on all 64 reeds of a rank (R215, R217); a load that an ended reed has in flight stays (R221). -/
def State.startRank (s : State) (b r : Nat) (x : Launch) : State :=
  let j := (x.ranks.filter (· < r)).length
  let s := s.each (List.range 64) fun s l =>
    let s := s.upReed b r l fun d => { d with pc := x.entry, mode := .running, bars0 := 0, bars1 := 0 }
    [x.arg0.toNat, x.arg0.toNat / 2 ^ 32, x.arg1.toNat, x.arg1.toNat / 2 ^ 32, l, r, 64 * j + l].zipIdx.foldl
      (fun s (v, n) => s.tput b r l (n + 1) v) s
  let s := s.upRank b r fun k => { k with cur := some x.id, gsent := none }
  let s := (s.fput Fld.REED_RSTAT_STATE rkRunning b r).fput Fld.REED_RSTAT_STOPPED 0 b r
  s.putLive b r

/-- A rank that has no reed running becomes IDLE, and its launch has finished there (R213). -/
def State.idleRank (s : State) (b r : Nat) : State :=
  let k := s.rank b r
  let s := match k.cur with
    | some id => s.leaveRank b r id
    | none => s
  (s.upRank b r fun k => { k with cur := none, stopping := false, gsent := none }).fput Fld.REED_RSTAT_STATE rkIdle b r

/-- A launch accepted by its ranks (R214, R215): it starts at once on those that are IDLE, and is pending on the others. -/
def State.vlaunch (s : State) (b : Nat) (ranks : List Nat) (entry : Nat) (a0 a1 : Word64) (cn : Option Nat)
    (pc : Nat) : State :=
  if ranks.isEmpty then
    match cn with
    | some n => s.incLocal b n 1
    | none => s
  else
    let id := (s.ch b).nextId
    let x : Launch := ⟨id, ranks, entry, a0, a1, cn, pc, ranks, false⟩
    let s := s.upCh b fun c => { c with nextId := id + 1 }
    let s := s.upBore b fun B => { B with launches := B.launches ++ [x] }
    s.each ranks fun s r =>
      if s.rkState b r = rkIdle then s.startRank b r x
      else (s.upRank b r fun k => { k with pendl := some id }).fput Fld.REED_RSTAT_PEND 1 b r

/-- A VKLOAD accepted by its ranks (R216). -/
def State.vkload (s : State) (b : Nat) (k : KLoad) : State :=
  let s := s.hold b k.m.h
  let s := s.upBore b fun B => { B with kloads := B.kloads ++ [k] }
  s.each k.ranks fun s r => s.fput Fld.REED_RSTAT_STATE rkLoading b r

/-- The loads of a reed abandoned (R232). -/
def State.dropLoads (s : State) (b r l : Nat) : State :=
  let s := (s.reed b r l).loads.foldl (fun s x => s.unhold b x.m.h) s
  s.upReed b r l fun d => { d with loads := [] }

/-- A rank stopped (R232): its pending launch is discarded, and its reeds stop. -/
def State.vstop (s : State) (b r : Nat) : State :=
  let k := s.rank b r
  let s := match k.pendl with
    | some id => (((s.upLaunch b id fun x => { x with dead := true }).leaveRank b r id).upRank b r fun k =>
        { k with pendl := none }).fput Fld.REED_RSTAT_PEND 0 b r
    | none => s
  let s := if k.pendl.isSome || k.cur.isSome then s.fput Fld.REED_RSTAT_STOPPED 1 b r else s
  match k.cur with
  | none => s
  | some id =>
    let s := s.upLaunch b id fun x => { x with dead := true }
    let s := s.each (List.range 64) fun s l =>
      (s.dropLoads b r l).upReed b r l fun d => { d with mode := .ended }
    (s.upRank b r fun k => { k with stopping := true, gsent := none }).putLive b r

/-- Whether rank `r` can accept a launch, and a kernel load (R214). -/
def State.canLaunch (s : State) (b r : Nat) : Bool := (s.rank b r).pendl.isNone
def State.canKload (s : State) (b r : Nat) : Bool := s.rkState b r = rkIdle && (s.rank b r).pendl.isNone

/-! ### Faults -/

/-- The reed fault codes (R234). -/
def rfIllegal : Nat := 1
def rfAlign : Nat := 2
def rfLigstate : Nat := 3
def rfRoute : Nat := 4
def rfSyncown : Nat := 5
def rfPoison : Nat := 6
def rfPcovf : Nat := 7
def rfKsecc : Nat := 8
def rfCmecc : Nat := 9

/-- CHN_FAULTINFO of a recorded reed fault (R235). -/
def State.reedInfo (s : State) (b : Nat) : Nat :=
  s.fget Fld.REED_FAULT_RANK b + 2 ^ 7 * s.fget Fld.REED_FAULT_LANE b + 2 ^ 16 * s.fget Fld.REED_FAULT_CODE b

/-- The recorded reed fault raised at the chanter (R235, R236).
(DEDUCED, log 32.) -/
def State.raiseReed (s : State) (b : Nat) : State :=
  s.impFault b cReed 5 (s.fget Fld.REED_FAULT_LAUNCHPC b) (s.reedInfo b)

/-- A reed faults at instruction `rpc` of launch `lid`, which bundle `lpc` issued (R235): the launch is stopped on every rank where
it has not finished, and the fault is recorded. -/
def State.reedFaultAt (s : State) (b r l rpc lid lpc code detail : Nat) : State :=
  let s := match s.launch b lid with
    | some x => s.each x.left fun s k => s.vstop b k
    | none => s
  if s.flag Fld.REED_FAULT_VALID b then s.fput Fld.REED_FAULT_MULTI 1 b
  else
    let s := ((s.fput Fld.REED_FAULT_VALID 1 b).fput Fld.REED_FAULT_LAUNCHPC lpc b).fput Fld.REED_FAULT_RPC rpc b
    let s := ((s.fput Fld.REED_FAULT_CODE code b).fput Fld.REED_FAULT_LANE l b).fput Fld.REED_FAULT_RANK r b
    let s := s.rput .REED_FAULTDET (BitVec.ofNat 64 (detail % 2 ^ 32)) b
    if s.chState b = 0 || s.chState b = 3 then s.fput Fld.REED_FAULT_HELD 1 b else s.raiseReed b

/-- The running reed of a rank faults at its next instruction. -/
def State.reedFault (s : State) (b r l code detail : Nat) : State :=
  match (s.rank b r).cur.bind (s.launch b) with
  | none => s
  | some x => s.reedFaultAt b r l (s.reed b r l).pc x.id x.pc code detail

/-! ### Encoding -/

/-- The opcode of a reed word. -/
def rop (w : Nat) : Nat := bits w 26 6

/-- FN codes of OP 0x01 and 0x02 that read no second source. -/
def unary1 (fn : Nat) : Bool := fn = 0x11 || fn = 0x12
def unary2 (fn : Nat) : Bool := fn = 0x0A || fn = 0x0B || (0x0D ≤ fn && fn ≤ 0x11)

/-- Whether a reed word is illegal (R219, R220, R224, R226 to R228, R230, R231, R234). -/
def reedIllegal (w : Nat) : Bool :=
  let op := rop w
  let fn := bits w 0 11
  if op = 0x00 || op = 0x28 then bits w 0 26 ≠ 0
  else if op = 0x01 then 0x12 < fn || (unary1 fn && bits w 11 5 ≠ 0)
  else if op = 0x02 then
    !(fn ≤ 0x11 || (0x20 ≤ fn && fn ≤ 0x24)) || (unary2 fn && bits w 11 5 ≠ 0)
  else if op = 0x03 then
    9 < bits fn 6 4 || bits fn 0 3 ≠ 0 || (bit fn 10 && (bits fn 3 3 ≠ 0 || bits w 11 5 ≠ 0))
  else if op ≤ 0x07 then true
  else if op ≤ 0x0B then false
  else if op ≤ 0x0E then bits w 5 11 ≠ 0
  else if op = 0x0F then bits w 16 5 ≠ 0
  else if op = 0x10 then false
  else if op ≤ 0x17 then true
  else if op ≤ 0x25 then false
  else if op = 0x26 then bits w 16 5 ≠ 0 || bits w 12 4 ≠ 0
  else if op = 0x27 then bits w 0 16 ≠ 0
  else if op = 0x30 then bits w 8 2 = 3 || bits w 6 2 ≠ 0 || 31 < bits w 21 5 + 2 ^ bits w 8 2 - 1
  else if op = 0x31 then bits w 8 2 = 3 || 31 < bits w 21 5 + 2 ^ bits w 8 2 - 1
  else if op = 0x34 then bits w 8 6 ≠ 0 || 31 < bits w 16 5 + bits w 14 2
  else if op = 0x35 then
    bits w 24 2 = 3 || (bits w 24 2 = 2 && bits w 18 6 ≠ 0) || (bits w 24 2 = 0 && 47 < bits w 10 14) || bits w 0 10 = 0
  else if op = 0x38 then bits w 0 25 ≠ 0
  else if op = 0x39 then bit w 25 || bits w 0 13 ≠ 0
  else true

/-- The registers that a word reads or writes, by its form (R219): an instruction waits for a pending load of any of them (R221). -/
def reedRegs (w : Nat) : List Nat :=
  let op := rop w
  let rd := bits w 21 5
  if op = 0x30 then bits w 16 5 :: (List.range (2 ^ bits w 8 2)).map (rd + ·)
  else if op = 0x31 then bits w 16 5 :: (List.range (2 ^ bits w 8 2)).map (rd + ·)
  else if op = 0x34 then rd :: (List.range (bits w 14 2 + 1)).map (bits w 16 5 + ·)
  else if op = 0x35 || op = 0x38 || op = 0x39 || op = 0x00 || op = 0x28 then []
  else if op ≤ 0x03 then [rd, bits w 16 5, bits w 11 5]
  else if op = 0x0F || op = 0x26 then [rd]
  else [rd, bits w 16 5]

/-! ### Arithmetic -/

/-- OP 0x01 on 32-bit values (R220). -/
def reedInt (fn a b : Nat) : Nat :=
  let sa := sext 32 a
  let sb := sext 32 b
  match fn with
  | 0x00 => a + b
  | 0x01 => a + (2 ^ 32 - b)
  | 0x02 => a &&& b
  | 0x03 => a ||| b
  | 0x04 => a ^^^ b
  | 0x05 => a * 2 ^ (b % 32)
  | 0x06 => a / 2 ^ (b % 32)
  | 0x07 => uint 32 (sa / 2 ^ (b % 32))
  | 0x08 => b2n (sa < sb)
  | 0x09 => b2n (a < b)
  | 0x0A => if sa ≤ sb then a else b
  | 0x0B => if sa ≤ sb then b else a
  | 0x0C => min a b
  | 0x0D => max a b
  | 0x0E => a * b
  | 0x0F => uint 32 (sa * sb / 2 ^ 32)
  | 0x10 => a * b / 2 ^ 32
  | 0x11 => if a = 0 then 32 else 31 - Nat.log2 a
  | _ => (setBitsOf a).length

/-- A BF16 result of one half (R223). -/
def bfHalf (fn x y z : Nat) : Nat :=
  let v (k : Nat) : FVal := fdec bf16 k
  let r := match fn with
    | 0x20 => fadd (fmul (v x) (v y)) (v z)
    | 0x21 => fadd (v x) (v y)
    | 0x22 => fmul (v x) (v y)
    | 0x23 => fminmax false (v x) (v y)
    | _ => fminmax true (v x) (v y)
  (fenc bf16 rne false r).code

/-- OP 0x02 on 32-bit values (R220, R222, R223). -/
def reedFloat (fn a b d : Nat) : Nat :=
  let x := f32 a
  let y := f32 b
  match fn with
  | 0x00 => to32 (fadd x y)
  | 0x01 => to32 (fadd x (fneg y))
  | 0x02 => to32 (fmul x y)
  | 0x03 => to32 (fadd (fmul x y) (f32 d))
  | 0x04 => to32 (fminmax false x y)
  | 0x05 => to32 (fminmax true x y)
  | 0x06 => b2n (feq x y)
  | 0x07 => b2n (flt x y)
  | 0x08 => b2n (flt x y || feq x y)
  | 0x09 => to32 (fscale x (sext 32 b))
  | 0x0A => (ienc 32 ⟨2, 0⟩ x).code
  | 0x0B => let i := sext 32 a; to32 (.fin (i < 0) i.natAbs 0)
  | 0x0C => to32 (fdiv x y)
  | 0x0D => to32 (fsqrt x)
  | 0x0E => to32 (fdiv (.fin false 1 0) x)
  | 0x0F => to32 (frsq x)
  | 0x10 => to32 (fexp2 x)
  | 0x11 => to32 (flog2 x)
  | _ => bfHalf fn (a % 2 ^ 16) (b % 2 ^ 16) (d % 2 ^ 16) + 2 ^ 16 * bfHalf fn (a / 2 ^ 16) (b / 2 ^ 16) (d / 2 ^ 16)

/-- CVT (R224): its result, and what it counts. -/
def reedCvt (fn a b : Nat) (seed : Word64) : Nat × CvtCount :=
  let fmt := bits fn 6 4
  if bit fn 10 then (to32 (elemDec fmt (a % 2 ^ fmtBits fmt)), ⟨0, 0⟩)
  else
    let e := elemEnc fmt ⟨bits fn 4 2, srBits seed b⟩ (bit fn 3) (f32 a)
    (e.code, (⟨0, 0⟩ : CvtCount).add e)

/-- A branch's relation (R220). -/
def reedBranch (op a b : Nat) : Bool :=
  match op with
  | 0x20 => a = b
  | 0x21 => a ≠ b
  | 0x22 => sext 32 a < sext 32 b
  | 0x23 => sext 32 b ≤ sext 32 a
  | 0x24 => a < b
  | _ => b ≤ a

/-- NaN and infinite values that a CHK code finds in stored data (R226). -/
def chkCount (chk : Nat) (l : List Byte) : Nat :=
  if chk = 0 then 0
  else if chk = 1 then ((chunks 4 l.length l).filter fun x => !fFinite (f32 (leNat x))).length
  else ((chunks 2 l.length l).filter fun x => !fFinite (fdec (if chk = 2 then bf16 else fp16) (leNat x))).length

/-! ### Issue -/

/-- The offset of a windchest access (R226). -/
def State.wOffset (s : State) (b r l w : Nat) : Nat :=
  uint 25 ((s.t b r l (bits w 16 5) : Int) + 16 * sext 6 (bits w 0 6))

/-- The cell-memory address of an access (R220). -/
def State.cellAddr (s : State) (b r l w : Nat) : Nat :=
  uint 10 ((s.t b r l (bits w 16 5) : Int) + sext 16 (bits w 0 16))

/-- Bytes of a cell-memory access. -/
def cellSize (op : Nat) : Nat :=
  if op = 0x18 || op = 0x1D then 4 else if op = 0x19 || op = 0x1A || op = 0x1E then 2 else 1

/-- The fault that a legal word meets at issue: its code and detail (R234), in the order of R162.
(DEDUCED, log 32.) -/
def State.reedCheck (s : State) (b r l w : Nat) : Option (Nat × Nat) :=
  let op := rop w
  if reedIllegal w then some (rfIllegal, w)
  else if 0x18 ≤ op && op ≤ 0x1F then
    let a := s.cellAddr b r l w
    if a % cellSize op ≠ 0 then some (rfAlign, a)
    else if cmKey b r l a ∈ s.double then some (rfCmecc, a) else none
  else if op = 0x30 || op = 0x31 then
    let o := s.wOffset b r l w
    if (s.hmap b (bits w 10 6)).isNone then some (rfLigstate, bits w 10 6)
    else if o % (4 * 2 ^ bits w 8 2) ≠ 0 then some (rfAlign, o) else none
  else if op = 0x34 then
    if s.rtValid (.bore b (bits w 0 8)) then none else some (rfRoute, bits w 0 8)
  else if op = 0x35 then
    let i := bits w 10 14
    if bits w 24 2 = 1 && !s.poolOwned (s.boreCtx b) i then some (rfSyncown, i)
    else if bits w 24 2 = 2 && !s.rtIncValid (.bore b (i % 256)) then some (rfRoute, i % 256) else none
  else if op = 0x39 then
    let bid := bits w 13 12
    if s.flag Fld.SYN_BCFG_VALID 0 bid && s.fget Fld.SYN_BCFG_CTX 0 bid = s.boreCtx b then none
    else some (rfSyncown, bid)
  else none

/-- A reed's PC set. -/
def State.setRpc (s : State) (b r l pc : Nat) : State := s.upReed b r l fun d => { d with pc := pc }

/-- A reed ends its kernel; the last one of a rank leaves it IDLE (R213, R218). -/
def State.endReed (s : State) (b r l : Nat) : State :=
  let s := (s.upReed b r l fun d => { d with mode := .ended }).putLive b r
  if s.live b r = 0 then s.idleRank b r else s

/-- The effect of a word that falls through, beside the PC: arithmetic, cell memory, the windchest, messages and
increments (R220 to R229). -/
def State.reedDo (s : State) (b r l w : Nat) : State :=
  let op := rop w
  let rd := bits w 21 5
  let a := s.t b r l (bits w 16 5)
  let x := s.t b r l (bits w 11 5)
  let fn := bits w 0 11
  let imm := bits w 0 16
  let simm := uint 32 (sext 16 imm)
  let put (v : Nat) : State := s.tput b r l rd v
  match op with
  | 0x01 => put (reedInt fn a x)
  | 0x02 => put (reedFloat fn a x (s.t b r l rd))
  | 0x03 =>
    let (v, c) := reedCvt fn a x (s.rget .BORE_SRSEED b)
    (s.countCvt b c).tput b r l rd v
  | 0x08 => put (a + simm)
  | 0x09 => put (a &&& imm)
  | 0x0A => put (a ||| imm)
  | 0x0B => put (a ^^^ imm)
  | 0x0C => put (reedInt 0x05 a imm)
  | 0x0D => put (reedInt 0x06 a imm)
  | 0x0E => put (reedInt 0x07 a imm)
  | 0x0F => put (2 ^ 16 * imm)
  | 0x10 => put (reedInt 0x08 a simm)
  | 0x18 | 0x19 | 0x1A | 0x1B | 0x1C =>
    let v := leNat (s.cell b r l (s.cellAddr b r l w) (cellSize op))
    let s := s.reedCorr b r l (cmKey b r l (s.cellAddr b r l w)) 1 (s.cellAddr b r l w)
    s.tput b r l rd (if op = 0x19 then uint 32 (sext 16 v) else if op = 0x1B then uint 32 (sext 8 v) else v)
  | 0x1D | 0x1E | 0x1F =>
    let a := s.cellAddr b r l w
    let s := s.reedCorr b r l (cmKey b r l a) 1 a
    s.cellPut b r l a (leBytes (cellSize op) (s.t b r l rd))
  | 0x30 =>
    match s.hmap b (bits w 10 6) with
    | some m =>
      let id := (s.rank b r).cur.getD 0
      let x : ReedLoad := ⟨rd, bits w 8 2, m, s.wOffset b r l w, (s.reed b r l).pc, id, (s.launch b id).elim 0 (·.pc)⟩
      (s.hold b m.h).upReed b r l fun d => { d with loads := d.loads ++ [x] }
    | none => s
  | 0x31 =>
    match s.hmap b (bits w 10 6) with
    | some m =>
      let data := (List.range (2 ^ bits w 8 2)).flatMap fun k => leBytes 4 (s.t b r l (rd + k))
      (s.hWrite b m (s.wOffset b r l w) data false).nonFinite .reed (partOf b) (chkCount (bits w 6 2) data)
    | none => s
  | 0x34 =>
    let ws := (List.range (bits w 14 2 + 1)).map fun k => BitVec.ofNat 32 (s.t b r l (bits w 16 5 + k))
    match s.trySend b (bits w 0 8) ws 1 none with
    | some s => s.tput b r l rd 1
    | none => s.tput b r l rd 0
  | 0x35 =>
    let i := bits w 10 14
    let n := bits w 0 10
    match bits w 24 2 with
    | 0 => s.incLocal b i n
    | 1 => s.sendPool (.bore b) i n (s.boreCtx b)
    | _ => s.sendInc b (i % 256) n 1
  | _ => s

/-- Where a word sends the PC, when it does not fall through: branches and jumps (R220). -/
def State.reedTarget (s : State) (b r l w : Nat) : Option Nat :=
  let op := rop w
  let pc := (s.reed b r l).pc
  if 0x20 ≤ op && op ≤ 0x25 then
    if reedBranch op (s.t b r l (bits w 21 5)) (s.t b r l (bits w 16 5)) then
      some (uint 12 ((pc : Int) + sext 16 (bits w 0 16))) else none
  else if op = 0x26 then some (bits w 0 12)
  else if op = 0x27 then some (s.t b r l (bits w 16 5) % 4096)
  else none

/-- A checked word issues (R220, R221). -/
def State.reedRun (s : State) (b r l w : Nat) : State :=
  let op := rop w
  let pc := (s.reed b r l).pc
  let s := s.fsat Fld.REED_INSNS_COUNT 1 b
  match s.reedTarget b r l w with
  | some t =>
    let s := if op = 0x26 || op = 0x27 then s.tput b r l (bits w 21 5) (pc + 1) else s
    s.setRpc b r l t
  | none =>
    if op = 0x28 then s.endReed b r l
    else if pc = 4095 then s.reedFault b r l rfPcovf 0xFFF
    else
      let s := (s.reedDo b r l w).setRpc b r l (pc + 1)
      if op = 0x38 then
        s.upReed b r l fun d =>
          if bit w 25 then { d with mode := .rbar 1, bars1 := d.bars1 + 1 }
          else { d with mode := .rbar 0, bars0 := d.bars0 + 1 }
      else if op = 0x39 then s.upReed b r l fun d => { d with mode := .rgbar (bits w 13 12) }
      else s

/-- Whether a reed holds its next word: a pending load of a register that it uses (R221), a fifth load (R226), or a store, a message
or an increment behind the reed's own loads, which the port takes in order (R225, R229). -/
def State.reedHeld (s : State) (b r l w : Nat) : Bool :=
  let loads := (s.reed b r l).loads
  (reedRegs w).any (fun n => n ≠ 0 && loads.any fun x => x.rt ≤ n && n < x.rt + 2 ^ x.sz)
    || (rop w = 0x30 && 4 ≤ loads.length)
    || ((rop w = 0x31 || rop w = 0x34 || rop w = 0x35) && !loads.isEmpty)

/-- Whether the clocks of bore `b` run: it is ACTIVE, and the device is not frozen by a fatal error (R715). -/
def State.clocked (s : State) (b : Nat) : Bool := s.pstate b = psActive && !s.faults.frozen

/-- REED_ISSUE (R209, R221): one reed fetches its next word and issues it, unless something holds it. -/
def execReedIssue (b r lane : Nat) (s : State) : Host.Outcome State Fault Refusal :=
  if s.faults.frozen then ok s else
  let d := s.reed b r lane
  if d.mode ≠ .running || !s.clocked b then ok s else
  if ksKey b r d.pc ∈ s.double then ok (s.reedFault b r lane rfKsecc d.pc) else
  let w := s.kinsn b r d.pc
  if !reedIllegal w && s.reedHeld b r lane w then ok s else
  let s := s.reedCorr b r lane (ksKey b r d.pc) 0 d.pc
  ok (match s.reedCheck b r lane w with
    | some (code, detail) => s.reedFault b r lane code detail
    | none => s.reedRun b r lane w)

/-- REED_LOAD_RETURN (R226): the data of a reed's oldest load; poisoned data faults the load's own instruction (R241). -/
def execReedLoadReturn (b r lane : Nat) (s : State) : Host.Outcome State Fault Refusal :=
  if s.faults.frozen then ok s else
  match (s.reed b r lane).loads with
  | [] => ok s
  | x :: rest =>
    let n := 4 * 2 ^ x.sz
    let (data, pois, t) := s.hRead b x.m x.off n
    let t := (t.unhold b x.m.h).upReed b r lane fun d => { d with loads := rest }
    if pois then ok (t.reedFaultAt b r lane x.pc x.lid x.lpc rfPoison (x.m.offset x.off))
    else ok ((chunks 4 n data).zipIdx.foldl (fun t (v, k) => t.tput b r lane (x.rt + k) (leNat v)) t)

/-! ### Launches -/

/-- LAUNCH_START (R215): the pending launch of an IDLE rank starts. -/
def execLaunchStart (b r : Nat) (s : State) : Host.Outcome State Fault Refusal :=
  if s.faults.frozen then ok s else
  if s.rkState b r ≠ rkIdle then ok s else
  match (s.rank b r).pendl.bind (s.launch b) with
  | none => ok s
  | some x =>
    let s := (s.upRank b r fun k => { k with pendl := none }).fput Fld.REED_RSTAT_PEND 0 b r
    ok (s.startRank b r x)

/-- LAUNCH_FINISH (R155, R218, R233): a launch that has finished on every rank leaves, and increments its counter unless one
of its ranks was stopped. -/
def execLaunchFinish (b id : Nat) (s : State) : Host.Outcome State Fault Refusal :=
  if s.faults.frozen then ok s else
  match s.launch b id with
  | none => ok s
  | some x =>
    if !x.left.isEmpty then ok s
    else
      let s := s.upBore b fun B => { B with launches := B.launches.filter fun y => y.id ≠ id }
      ok (match x.cn with
        | some n => if x.dead then s else s.incLocal b n 1
        | none => s)

/-- RANK_STOP_COMPLETE (R232): the accepted writes of a stopped rank have been acknowledged. -/
def execRankStopComplete (b r : Nat) (s : State) : Host.Outcome State Fault Refusal :=
  if s.faults.frozen then ok s else
  ok (when (s.rank b r).stopping s (s.idleRank b r))

/-- The instructions of a kernel load written into the kernel stores of its ranks, which become IDLE (R216). -/
def State.writeKernel (s : State) (b : Nat) (k : KLoad) (data : List Byte) : State :=
  let s := (chunks 4 k.count data).zipIdx.foldl (fun s (v, n) => k.ranks.foldl (fun s r =>
    let i := (k.kaddr + n) % 4096
    let s := { s with single := s.single.filter (· ≠ ksKey b r i), double := s.double.filter (· ≠ ksKey b r i) }
    s.upBore b fun B => { B with kstore := mput 0 B.kstore (4096 * r + i) (BitVec.ofNat 32 (leNat v)) }) s) s
  k.ranks.foldl (fun s r => s.fput Fld.REED_RSTAT_STATE rkIdle b r) s

/-- VKLOAD_COMPLETE (R216): the oldest kernel load has read and written its last instruction. -/
def execVkloadComplete (b : Nat) (s : State) : Host.Outcome State Fault Refusal :=
  if s.faults.frozen then ok s else
  match (s.bore b).kloads with
  | [] => ok s
  | k :: rest =>
    let (data, _, s) := s.hRead b k.m (k.off / 4 * 4) (4 * k.count)
    let s := ((s.writeKernel b k data).upBore b fun B => { B with kloads := rest }).unhold b k.m.h
    ok (match k.cn with
      | some n => s.incLocal b n 1
      | none => s)

/-! ### Barriers -/

/-- Whether an RBAR barrier of a scope completes over some ranks: a reed waits in it, and every reed waits in it or has
ended (R230). -/
def State.rbarMet (s : State) (b scope : Nat) (ranks : List Nat) : Bool :=
  let modes := ranks.flatMap fun r => (List.range 64).map fun l => (s.reed b r l).mode
  modes.any (· = .rbar scope) && modes.all fun m => m = .rbar scope || m = .ended

/-- The ranks over which an RBAR of rank `r` counts (R230): the rank, or the ranks of its launch; none while the launch has
yet to start on one of them. -/
def State.rbarRanks (s : State) (b r scope : Nat) : Option (List Nat) :=
  if scope = 0 then some [r]
  else
    match (s.rank b r).cur.bind (s.launch b) with
    | none => none
    | some x => if x.left.all fun k => (s.rank b k).cur = some x.id then some x.left else none

/-- RANK_BARRIER_COMPLETE (R230): the waiting reeds resume. -/
def execRankBarrierComplete (b r scope : Nat) (s : State) : Host.Outcome State Fault Refusal :=
  if s.faults.frozen then ok s else
  match s.rbarRanks b r scope with
  | none => ok s
  | some ranks =>
    ok (when (s.rbarMet b scope ranks) s
      (s.each ranks fun s r => s.each (List.range 64) fun s l => s.upReed b r l fun d =>
        if d.mode = .rbar scope then { d with mode := .running } else d))

/-- The barrier that a rank is ready to arrive at: each of its reeds waits in RGBAR with that number or has ended, and at
least one waits (R231). -/
def State.rankArrival (s : State) (b r : Nat) : Option Nat :=
  let modes := (List.range 64).map fun l => (s.reed b r l).mode
  match modes.find? (· ≠ .ended) with
  | some (.rgbar bid) => if modes.all fun m => m = .rgbar bid || m = .ended then some bid else none
  | _ => none

/-- RANK_ARRIVAL_SEND (R231): the rank's one arrival. -/
def execRankArrivalSend (b r : Nat) (s : State) : Host.Outcome State Fault Refusal :=
  if s.faults.frozen then ok s else
  match s.rankArrival b r with
  | none => ok s
  | some bid =>
    if (s.rank b r).gsent.isSome then ok s
    else
      let s := s.upRank b r fun k => { k with gsent := some bid }
      ok (s.send .posted (.bore b) (.unit .sync) (.barArrive (.rank b r ((s.rank b r).cur.getD 0)) bid (s.boreCtx b)))

/-! ### Debug window and reset -/

/-- REED_DEBUG_WINDOW_ACCESS (R244): one 32-bit word of the selected reed's cell memory or registers. -/
def State.reedWindow (s : State) (b off : Nat) (wr : Option Word32) : State :=
  let r := s.fget Fld.REED_DBGSEL_RANK b
  let l := s.fget Fld.REED_DBGSEL_LANE b
  if 79 < r || s.rkState b r ≠ rkIdle then ({ s with rdata := if wr.isNone then 0 else s.rdata }).fput Fld.REED_DBGSEL_DROP 1 b
  else if 0x1000 ≤ off && off < 0x1400 then
    let a := off % 0x1000 / 4 * 4
    match wr with
    | none => { s with rdata := BitVec.ofNat 64 (leNat (s.cell b r l a 4)) }
    | some v =>
      let k := cmKey b r l a
      ({ s with single := s.single.filter (· ≠ k), double := s.double.filter (· ≠ k) }).cellPut b r l a (leBytes 4 v.toNat)
  else if 0x1400 ≤ off && off < 0x1480 then
    let n := off % 0x1400 / 4
    match wr with
    | none => { s with rdata := BitVec.ofNat 64 (s.t b r l n) }
    | some v => s.tput b r l n v.toNat
  else s

/-- REED_DEBUG_WINDOW_ACCESS (R244); a read that has no effect returns zeros (R11, R41). -/
def execReedDebugWindowAccess (who : Requester) (b off : Nat) (wr : Option Word32) (s : State) :
    Host.Outcome State Fault Refusal :=
  let s := { s with rdata := if wr.isNone then 0 else s.rdata }
  ok (s.regAccess who b false (mayPf who) (s.reedWindow b off wr))

/-- The errors of a bore's cell memories are gone with their contents. -/
def State.dropCellErrors (s : State) (b : Nat) : State :=
  let out (x : Nat) : Bool := !(cmKey b 0 0 0 ≤ x && x < cmKey (b + 1) 0 0 0)
  { s with single := s.single.filter out, double := s.double.filter out }

/-- The reeds after a reset (R240), with zeroed cell memories; `cold` also clears the kernel stores. -/
def State.reedReset (s : State) (b : Nat) (cold : Bool) : State :=
  let s := s.dropCellErrors b
  let s := s.upBore b fun B =>
    { B with ranks := [], reeds := [], treg := [], cell := [], launches := [], kloads := [],
             kstore := if cold then [] else B.kstore }
  let s := s.each (List.range 80) fun s r => s.rput .REED_RSTAT 0 b r
  (s.rput .REED_FAULT 0 b).rput .REED_FAULTDET 0 b

end Sys2Proof.Machine
end

