-- ==== Sys2Proof/Machine/Halting.lean ====
section
/-!
DEFINITION. Machine/Halting.lean: starting and stopping the chanter (R90, R106 to R108), its fault registers (R121), its
register windows (R116, R127), its program-store window (R87) and its reset (R117).
-/

namespace Sys2Proof.Machine

/-! ### States -/

/-- The state codes of CHN_STATUS.STATE (R122). -/
def csHalted : Nat := 0
def csRunning : Nat := 1
def csWaiting : Nat := 2
def csFaulted : Nat := 3

/-- Whether the chanter is RUNNING or WAITING. -/
def State.running (s : State) (b : Nat) : Bool := s.chState b = csRunning || s.chState b = csWaiting

/-- The chanter enters a state in which nothing holds the gate. -/
def State.putState (s : State) (b st : Nat) : State :=
  (((s.fput Fld.CHN_STATUS_STATE st b).fput Fld.CHN_STATUS_GATE_HELD 0 b).fput Fld.CHN_STATUS_WAIT_Q 0 b).fput
    Fld.CHN_STATUS_WAIT_Y 0 b

/-- Whether a register write is outstanding: an instruction's or a load's (R91, R93). -/
def State.outstanding (s : State) (b : Nat) : Bool := !(s.ch b).pend.isEmpty || !(s.ch b).loads.isEmpty

/-- CHN_STATUS.OUTSTANDING brought up to date. -/
def State.putOut (s : State) (b : Nat) : State := s.fput Fld.CHN_STATUS_OUTSTANDING (b2n (s.outstanding b)) b

/-- The chanter stops issuing: the held bundle leaves the gate, and its watch is cancelled (R107, R336).  A long wait that
has not woken the bore ends with it (R346).  Until it comes to rest it shows RUNNING with nothing held.
(DESIGN CHOICE, log 81.) -/
def State.stopIssue (s : State) (b : Nat) (k : StopKind) : State :=
  let s := if (s.ch b).watch.isSome then s.cancelWatch b else s
  let s := s.upCh b fun c => { c with stop := some k, met := false, judged := false, tout := [] }
  (s.putState b csRunning).fput Fld.SYN_WSTAT_LONG 0 b

/-- CHN_CTRL.HALT of a running chanter (R107).  A chanter that is already coming to rest keeps the reason it has.
(DESIGN CHOICE, log 81.) -/
def State.haltChanter (s : State) (b : Nat) : State :=
  if s.running b && (s.ch b).stop.isNone then s.stopIssue b (.halted 3 (s.fget Fld.CHN_PC_PC b)) else s

/-- GO or STEP of a HALTED chanter (R90); a recorded reed fault that was held is raised first (R236). -/
def State.goStart (s : State) (b : Nat) (step : Bool) : State :=
  if s.chState b ≠ csHalted then s
  else
    let s := s.putState b csRunning
    let s := s.upCh b fun c => { c with step1 := step, stop := none, met := false, judged := false, bubble := 0, tout := [] }
    if s.flag Fld.REED_FAULT_HELD b then (s.fput Fld.REED_FAULT_HELD 0 b).raiseReed b else s

/-- CLRFAULT of a FAULTED chanter (R90, R121, R236, R349). -/
def State.clrFault (s : State) (b : Nat) : State :=
  if s.chState b ≠ csFaulted then s
  else
    let s := s.fput Fld.CHN_PC_PC (s.fget Fld.CHN_FAULT_HALTPC b) b
    let s := ((s.rput .CHN_FAULT 0 b).rput .CHN_FAULTINFO 0 b).rput .REED_FAULT 0 b
    let s := (s.putState b csHalted).fput Fld.CHN_STATUS_HREASON 5 b
    s.upCh b fun c => { c with barSlot := none, imp := [] }

/-- CLRCNT (R126). -/
def State.clrCnt (s : State) (b : Nat) : State :=
  ((s.rput .CHN_CYCLES 0 b).rput .CHN_BUNDLES 0 b).rput .CHN_STALL 0 b

/-- One write of CHN_CTRL: CLRFAULT acts first, then GO or STEP, then HALT, which prevails (R106). -/
def State.chnCtrl (s : State) (b : Nat) (val : Word64) : State :=
  let v := val.toNat
  let s := if bit v 4 then s.clrCnt b else s
  let s := if bit v 2 then s.clrFault b else s
  if bit v 1 then s.haltChanter b
  else if bit v 0 then s.goStart b false
  else if bit v 3 then s.goStart b true
  else s

/-- A write of CHN_CTRL by a requester. -/
def chnCtrl (who : Requester) (b : Nat) (val : Word64) (s : State) : Host.Outcome State Fault Refusal :=
  ok (s.regAccess who b false (mayHostRm who) (s.chnCtrl b val))

/-- GO (R106): CHN_CTRL written with GO alone. -/
def execGo (who : Requester) (b : Nat) (s : State) : Host.Outcome State Fault Refusal := chnCtrl who b 0x01 s

/-- STEP (R90). -/
def execStep (who : Requester) (b : Nat) (s : State) : Host.Outcome State Fault Refusal := chnCtrl who b 0x08 s

/-- CHN_CTRL_HALT (R107). -/
def execChnCtrlHalt (who : Requester) (b : Nat) (s : State) : Host.Outcome State Fault Refusal := chnCtrl who b 0x02 s

/-- CLRFAULT (R121). -/
def execClrfault (who : Requester) (b : Nat) (s : State) : Host.Outcome State Fault Refusal := chnCtrl who b 0x04 s

/-- CLRCNT (R121). -/
def execClrcnt (who : Requester) (b : Nat) (s : State) : Host.Outcome State Fault Refusal := chnCtrl who b 0x10 s

/-- A write of CHN_PC: it sets the next bundle while the chanter is HALTED, and clears the mark of R349 (R108). -/
def State.writePc (s : State) (b : Nat) (val : Word64) : State :=
  if s.chState b = csHalted then
    (s.fput Fld.CHN_PC_PC val.toNat b).upCh b fun c => { c with barSlot := none }
  else s

/-- CHN_PC_WRITE (R108). -/
def execChnPcWrite (who : Requester) (b : Nat) (val : Word64) (s : State) : Host.Outcome State Fault Refusal :=
  ok (s.regAccess who b false (mayHostRm who) (s.writePc b val))

/-! ### Program store -/

/-- PROGRAM_STORE_WRITE (R87): by the host or the residency manager, while the chanter is HALTED or FAULTED; whole words
written clear their errors. -/
def State.writeProgram (s : State) (b addr : Nat) (data : List Byte) : State :=
  if s.running b then s.fput Fld.CHN_STATUS_PSWR_DROP 1 b else s.store addr data false

/-- Whether the program-store window accepts an access of `n` bytes at `a`: 32 bits, or 8 to 64 bytes, naturally aligned, which
keeps it within one bundle (R44). -/
def progAccess (n a : Nat) : Bool := (n = 4 || n = 8 || n = 16 || n = 32 || n = 64) && a % n = 0

/-- PROGRAM_STORE_WRITE (R44, R87): an access that the window does not accept is dropped, and one of a requester that may not
write it is discarded; both are UNMAPPED to a requester inside the device. -/
def execProgramStoreWrite (who : Requester) (addr : Nat) (data : List Byte) (s : State) :
    Host.Outcome State Fault Refusal :=
  match s.home addr with
  | .pstore b _ =>
    if !progAccess data.length addr then ok (s.status who .unmapped)
    else
      let t := s.regAccess who b false (mayHostRm who) (s.writeProgram b addr data)
      ok (if mayHostRm who || t.rstat ≠ .ok then t else t.status who .unmapped)
  | _ => ok s

/-! ### Register windows -/

/-- The value of a 64-bit word of the register windows (R127); none for an offset that the table does not list. -/
def State.winRead (s : State) (b off : Nat) : Option Nat :=
  let o := off / 8 * 8
  if 0x1000 ≤ o && o < 0x1200 then some (s.gn b (o % 0x1000 / 8))
  else if 0x1200 ≤ o && o < 0x1280 then some (s.a b (o % 0x1200 / 8))
  else if 0x1400 ≤ o && o < 0x1800 then some (bits (s.d b (o % 0x1400 / 32)) (64 * (o % 0x1400 % 32 / 8)) 64)
  else if o = 0x1800 then some ((List.range 8).foldl (fun v k => v + 2 ^ k * b2n (s.p b k)) 0)
  else none

/-- A word of the register windows written. -/
def State.winWrite (s : State) (b off v : Nat) : State :=
  let o := off / 8 * 8
  if 0x1000 ≤ o && o < 0x1200 then s.regPut b (.g (o % 0x1000 / 8)) v
  else if 0x1200 ≤ o && o < 0x1280 then s.regPut b (.a (o % 0x1200 / 8)) v
  else if 0x1400 ≤ o && o < 0x1800 then
    let n := o % 0x1400 / 32
    s.regPut b (.d n) (setBits (s.d b n) (64 * (o % 0x1400 % 32 / 8)) 64 v)
  else if o = 0x1800 then s.each (List.range 8) fun s k => s.regPut b (.p k) (b2n (bit v k))
  else s

/-- A whole access to a word of the register windows (R116): it is dropped while the chanter runs; an offset that R127 does not
list reads 0 and discards writes, and is no access to the windows (R11). -/
def State.window (s : State) (b off : Nat) (may : Bool) (wr : Option Word64) : State :=
  if (s.winRead b off).isNone then { s with rdata := if wr.isNone then 0 else s.rdata }
  else if s.running b then
    ({ s with rdata := if wr.isNone then 0 else s.rdata }).fput Fld.CHN_STATUS_REGWIN_DROP 1 b
  else match wr with
    | none => { s with rdata := BitVec.ofNat 64 ((s.winRead b off).getD 0) }
    | some v => if may then s.winWrite b off v.toNat else s

/-- REGISTER_WINDOW_ACCESS (R116). -/
def execRegisterWindowAccess (who : Requester) (b off : Nat) (wr : Option Word64) (s : State) :
    Host.Outcome State Fault Refusal :=
  if !s.hubOpen then ok { s with rdata := if wr.isNone then 0 else s.rdata }
  else match s.reach b false with
  | .dark | .stub => ok ({ s with rdata := if wr.isNone then 0 else s.rdata }.darkFor who b)
  | _ => ok ((s.window b off (mayHostRm who) wr).regDone who b)

/-! ### Reset -/

/-- The chanter after a reset of its bore (R117, R171): the program store stays, loads in flight and queued work are
abandoned, and no later data finds them. -/
def State.chanterReset (s : State) (b : Nat) : State :=
  let s := if (s.ch b).watch.isSome then s.cancelWatch b else s
  let s := s.upCh b fun c => { Chanter.reset with nextId := c.nextId }
  [Reg.CHN_STATUS, .CHN_PC, .CHN_FAULT, .CHN_FAULTINFO, .CHN_CYCLES, .CHN_BUNDLES, .CHN_STALL, .CHN_UNITS].foldl
    (fun s r => s.rput r 0 b) s

end Sys2Proof.Machine
end

