-- ==== Sys2Proof/Machine/Ending.lean ====
section
/-!
DEFINITION. Machine/Ending.lean: how the ending of a context begins (R462), and the states and counts of contexts that it
and the residency manager share (R440, R473).
-/

namespace Sys2Proof.Machine

/-! ### Context states -/

/-- The codes of CTX_STATE.STATE (R477). -/
def cxFree : Nat := 0
def cxIdle : Nat := 1
def cxLoading : Nat := 2
def cxResident : Nat := 3
def cxEvicting : Nat := 4
def cxEnding : Nat := 5
def cxEnded : Nat := 6

/-- The ENDCAUSE codes. -/
def endFault : Nat := 1
def endHost : Nat := 2
def endSaveFail : Nat := 3

/-- The state of context `c`. -/
def State.cxState (s : State) (c : Nat) : Nat := s.fget Fld.CTX_STATE_STATE 0 c

/-- Context `c` moves to a state. -/
def State.putCx (s : State) (c st : Nat) : State := s.fput Fld.CTX_STATE_STATE st 0 c

/-- The bores whose current context is `c` (R441).
(DEDUCED, log 22.) -/
def State.currentOn (s : State) (c : Nat) : List Nat :=
  (List.range 64).filter fun b => s.flag Fld.PRT_BCUR_VALID 0 b && s.fget Fld.PRT_BCUR_CTX 0 b = c

/-- The pending starts of a context are withdrawn. -/
def State.dropStarts (s : State) (c : Nat) : State :=
  let bs := (s.starts.filter fun x => x.2 = c).map (·.1)
  bs.foldl (fun s b => s.putNpend b) { s with starts := s.starts.filter fun x => x.2 ≠ c }

/-! ### Held arrivals -/

/-- PRT_PSTAT.HOLD brought up to date. -/
def State.putHold (s : State) (p : Nat) : State := s.fput Fld.PRT_PSTAT_HOLD (s.part p).hold.length 0 p

/-- The PRT_HSTAT field that a refusal counts in. -/
def hstat (reason : Nat) : Field :=
  if reason = rNoroute then Fld.PRT_HSTAT_NOROUTE else if reason = rFull then Fld.PRT_HSTAT_FULL
  else Fld.PRT_HSTAT_CLOSED

/-- The residency manager refuses a message of partition `p` (R458). -/
def State.rmRefuse (s : State) (p reason : Nat) (m : Message) : State :=
  (s.fsat (hstat reason) 1 0 p).answer (.unit .resmgr) 0 reason m

/-- Every message held for context `c` is refused with CLOSED (R458, R466). -/
def State.refuseHeld (s : State) (c : Nat) : State :=
  let p := s.fget Fld.CTX_CFG_HOME 0 c
  let l := (s.part p).hold.filter fun h => h.ctx = c
  let s := (s.upPart p fun x => { x with hold := x.hold.filter fun h => h.ctx ≠ c }).putHold p
  l.foldl (fun s h => s.rmRefuse p rClosed h.msg) s

/-! ### Ending -/

/-- The declared queues of a context become CLOSED (R313). -/
def State.closeQueues (s : State) (c : Nat) : State :=
  (s.ctx c).binds.foldl (fun s x => x.queues.foldl (fun s q => s.qClose x.bore q) s) s

/-- The pool blocks of a context are released (R352). -/
def State.releaseBlocks (s : State) (c : Nat) : State :=
  s.each (s.blocksOf c) fun s k => (s.fput Fld.SYN_PBLK_VALID 0 0 k).releaseBlock k

/-- HOME of a context. -/
def State.homeOfCtx (s : State) (c : Nat) : Nat := s.fget Fld.CTX_CFG_HOME 0 c

/-- The partition that an operation belongs to (R465). -/
def State.cmdHome (s : State) (x : RmCmd) : Nat := if x.kind = .rebuild then x.target else s.homeOfCtx x.target

/-- The oldest operation of a partition (R465). -/
def State.oldestOp (s : State) (p : Nat) : Option RmCmd := s.cmds.find? fun x => s.cmdHome x = p

/-- Whether a context's operation of a kind is the oldest of its HOME. -/
def State.isNext (s : State) (k : RmKind) (c : Nat) : Bool :=
  (s.oldestOp (s.homeOfCtx c)).any fun x => x.kind = k && x.target = c

/-- The operation of context `c` goes on as another kind. -/
def State.setOp (s : State) (c : Nat) (k : RmKind) : State :=
  { s with cmds := s.cmds.map fun x => if x.target = c && x.kind ≠ .rebuild then { x with kind := k } else x }

/-- The ending of context `c` joins the operations of its HOME, in place of a load or an eviction under way (R465, R466). -/
def State.endOp (s : State) (c : Nat) : State :=
  if s.cmds.any fun x => x.target = c && x.kind ≠ .rebuild then s.setOp c .ending
  else { s with cmds := s.cmds ++ [⟨.ending, c, false⟩] }

/-- The first two steps of an ending whose turn has come (R462): the context's chanters are halted and its ranks stopped, its queues
closed, its barriers aborted and its pool blocks released.  `ENDING_RELEASE` carries out the rest. -/
def State.endSteps (s : State) (c : Nat) : State :=
  let s := (s.setOp c .endRun).each (s.currentOn c) fun s b => s.haltChanter b
  let s := (s.ctx c).binds.foldl (fun s x =>
    s.each ((List.range x.nrank).map (x.rBase + ·)) fun s r => s.vstop x.bore r) s
  let s := s.closeQueues c
  let s := s.each (s.barsOf c) State.abortBarrier
  s.releaseBlocks c

/-- A context begins to end (R462): it is ENDING at once, and nothing starts it any more; its steps run in its turn among the
operations of its HOME (R465). -/
def State.beginEnding (s : State) (c cause : Nat) (faulted : Option Nat) : State :=
  let st := s.cxState c
  if st ≠ cxLoading && st ≠ cxResident && st ≠ cxEvicting then s
  else
    let s := ((s.endOp c).putCx c cxEnding).upCtx c fun x => { x with cause := cause, faulted := faulted }
    let s := if st = cxLoading then s.refuseHeld c else s
    let s := s.dropStarts c
    if s.isNext .ending c then s.endSteps c else s

/-- A fault of bore `b` ends its current context (R109, R462, R468); while a PACKAGE error is recorded it is logged only (R728).
(DEDUCED, log 50.) -/
def State.endCurrent (s : State) (b : Nat) : State :=
  if s.flag Fld.PRT_BCUR_VALID 0 b && s.fget Fld.DMP_STATUS_STATE = 0 then s.beginEnding (s.fget Fld.PRT_BCUR_CTX 0 b) endFault (some b) else s

end Sys2Proof.Machine
end

