-- ==== Sys2Proof/Machine/Flags.lean ====
section
/-!
DEFINITION. Machine/Flags.lean: the predicate results of scalar slots: integer and floating-point compares and predicate
arithmetic (R136, R138).  The chanter has no flags beside its predicate registers.
-/

namespace Sys2Proof.Machine

/-- Integer compares 0x30 to 0x38 on 64-bit values (R136). -/
def intCompare (op a b : Nat) : Bool :=
  match op with
  | 0x30 | 0x36 => a = b
  | 0x31 => a ≠ b
  | 0x32 | 0x37 => sext 64 a < sext 64 b
  | 0x33 => sext 64 a ≤ sext 64 b
  | 0x34 | 0x38 => a < b
  | _ => a ≤ b

/-- Floating-point compares: equal, less, less or equal, unordered; a NaN operand gives 0 but for the last (R138). -/
def floatCompare (op : Nat) (x y : FVal) : Bool :=
  match op % 4 with
  | 0 => feq x y
  | 1 => flt x y
  | 2 => flt x y || feq x y
  | _ => fIsNan x || fIsNan y

end Sys2Proof.Machine
end

