-- ==== Sys2Proof/Machine/Scalar.lean ====
section
/-!
DEFINITION. Machine/Scalar.lean: the scalar slots S0 and S1 (R135 to R140).
-/

namespace Sys2Proof.Machine

/-- Integer arithmetic 0x01 to 0x0F on 64-bit values (R136). -/
def intOp (op a b : Nat) (c : Bool) : Nat :=
  match op with
  | 0x01 => a + b
  | 0x02 => a + (2 ^ 64 - b)
  | 0x03 => a &&& b
  | 0x04 => a ||| b
  | 0x05 => a ^^^ b
  | 0x06 => a * 2 ^ (b % 64)
  | 0x07 => a / 2 ^ (b % 64)
  | 0x08 => uint 64 (sext 64 a / 2 ^ (b % 64))
  | 0x09 => if sext 64 a ≤ sext 64 b then a else b
  | 0x0A => if sext 64 a ≤ sext 64 b then b else a
  | 0x0B => min a b
  | 0x0C => max a b
  | 0x0D => if c then a else b
  | 0x0E => if a = 0 then 64 else 63 - Nat.log2 a
  | _ => (setBitsOf a).length

/-- Multiplication and division 0x20 to 0x27 (R136, R137). -/
def mulDiv (op a b : Nat) : Nat :=
  let sa := sext 64 a
  let sb := sext 64 b
  match op with
  | 0x20 => a * b
  | 0x21 => uint 64 (sa * sb / 2 ^ 64)
  | 0x22 => a * b / 2 ^ 64
  | 0x24 => if b = 0 then 2 ^ 64 - 1 else uint 64 (Int.tdiv sa sb)
  | 0x25 => if b = 0 then 2 ^ 64 - 1 else a / b
  | 0x26 => if b = 0 then a else uint 64 (Int.tmod sa sb)
  | _ => if b = 0 then a else a % b

/-- Floating-point arithmetic by its place in its block of eight: add, subtract, multiply, fused multiply-add, minimum,
maximum, divide, square root (R136, R138). -/
def floatOp (op : Nat) (x y z : FVal) : FVal :=
  match op % 8 with
  | 0 => fadd x y
  | 1 => fadd x (fneg y)
  | 2 => fmul x y
  | 3 => fadd (fmul x y) z
  | 4 => fminmax false x y
  | 5 => fminmax true x y
  | 6 => fdiv x y
  | _ => fsqrt x

/-- The conversions 0x68 to 0x71 of a 64-bit source (R138, R139). -/
def convert (op a : Nat) (r : Rnd) (sat : Bool) : Enc :=
  match op with
  | 0x68 => fenc fp32 r sat (f64 a)
  | 0x69 => fenc fp64 rne false (f32 a)
  | 0x6A => fenc fp32 r sat (ofI64 a)
  | 0x6B => { ienc 64 r (f32 a) with satc := false, nanz := false }
  | 0x6C => fenc fp64 r sat (ofI64 a)
  | 0x6D => { ienc 64 r (f64 a) with satc := false, nanz := false }
  | 0x6E => fenc fp32 rne false (fdec bf16 (a % 2 ^ 16))
  | 0x6F => fenc bf16 r sat (f32 a)
  | 0x70 => fenc fp32 rne false (fdec fp16 (a % 2 ^ 16))
  | _ => fenc fp16 r sat (f32 a)

/-- The result of an enabled scalar slot of the bundle at `pc`: its destination and value, and what a conversion counts
(R136). -/
def State.scalar (s : State) (b pc w : Nat) : Option (RegRef × Nat) × CvtCount :=
  let op := opc w
  let rd := bits w 46 6
  let A := s.gn b (bits w 40 6)
  let B := s.gn b (bits w 34 6)
  let C := s.gn b (bits w 28 6)
  let imm := immSext 40 (bits w 0 40)
  let none' : CvtCount := ⟨0, 0⟩
  let g (v : Nat) := (some (RegRef.g rd, v), none')
  let p (v : Bool) := (some (RegRef.p rd, b2n v), none')
  if op = 0 then (none, none')
  else if op ≤ 0x0F then g (intOp op A B (s.p b (bits w 28 6)))
  else if op = 0x10 then g (A + imm)
  else if op ≤ 0x13 then g (intOp (op - 0x0E) A imm false)
  else if op ≤ 0x16 then g (intOp (op - 0x0E) A (bits w 0 6) false)
  else if op = 0x17 then g (immSext 46 (bits w 0 46))
  else if op = 0x18 then g (s.gn b rd % 2 ^ 32 + 2 ^ 32 * bits w 0 32)
  else if op ≤ 0x27 then g (mulDiv op A B)
  else if op ≤ 0x35 then p (intCompare op A B)
  else if op ≤ 0x38 then p (intCompare op A imm)
  else if op = 0x3A then p (s.p b (bits w 40 6) && s.p b (bits w 34 6))
  else if op = 0x3B then p (s.p b (bits w 40 6) || s.p b (bits w 34 6))
  else if op = 0x3C then p (xor (s.p b (bits w 40 6)) (s.p b (bits w 34 6)))
  else if op = 0x3D then p (!s.p b (bits w 40 6))
  else if op = 0x3E then p (A ≠ 0)
  else if op = 0x3F then g (b2n (s.p b (bits w 40 6)))
  else if op = 0x40 then (some (.a rd, s.a b (bits w 40 6) + B), none')
  else if op = 0x41 then (some (.a rd, s.a b (bits w 40 6) + imm), none')
  else if op = 0x42 then (some (.a rd, A), none')
  else if op = 0x43 then g (s.a b (bits w 40 6))
  else if op ≤ 0x57 then g (to32 (floatOp op (f32 A) (f32 B) (f32 C)))
  else if op ≤ 0x5F then g (to64 (floatOp op (f64 A) (f64 B) (f64 C)))
  else if op ≤ 0x63 then p (floatCompare op (f32 A) (f32 B))
  else if op ≤ 0x67 then p (floatCompare op (f64 A) (f64 B))
  else if op ≤ 0x71 then
    let e := convert op A ⟨bits w 26 2, srBits (s.rget .BORE_SRSEED b) pc⟩ (bit w 25)
    (some (.g rd, e.code), none'.add e)
  else
    let D := s.d b (bits w 40 6)
    let (lo, n) := fselField (bits w 24 4)
    if op = 0xC0 then (some (.d rd, setBits D lo n B), none')
    else if op = 0xC1 then g (bits D lo n)
    else if op = 0xC2 then (some (.d rd, D), none')
    else if op = 0xC3 then (some (.d rd, setBits D 0 48 (bits D 0 48 + B)), none')
    else (some (.d rd, setBits D lo n (bits w 0 24)), none')

end Sys2Proof.Machine
end

