-- ==== Sys2Proof/Machine/Gate.lean ====
section
/-!
DEFINITION. Machine/Gate.lean: the issue gate of the chanter (R92 to R95): its conditions, the precise faults of a bundle
(R110 to R112, R161, R162), the waits of the Q and Y slots, and arrival slots (R342).
-/

namespace Sys2Proof.Machine

/-! ### The bundle at the gate -/

/-- The eight slot words of bundle `pc`. -/
def State.words (s : State) (b pc : Nat) : List Nat := (List.range 8).map (s.slot b pc)

/-- Whether a register has a pending write (R93); writes of g0 and p0 are discarded and never pend. -/
def Chanter.pending (c : Chanter) (r : RegRef) : Bool :=
  !discards r && (c.pend.any (fun x => x.dst = r) || c.loads.any fun x => x.dst = r)

/-- Whether slot `k` is enabled and carries opcode `op` (R82). -/
def State.runs (s : State) (b : Nat) (ws : List Nat) (k op : Nat) : Bool :=
  s.enabled b (ws.getD k 0) && opc (ws.getD k 0) = op

/-- Every register that a slot which is not inert reads or writes is free of pending writes (R92). -/
def State.operandsReady (s : State) (b : Nat) (ws : List Nat) : Bool :=
  (List.range 8).all fun k =>
    let w := ws.getD k 0
    inert w || (slotSrc k w ++ slotDst k w).all fun r => !(s.ch b).pending r

/-- The ranks that an enabled V slot names (R154). -/
def State.vRanks (s : State) (b w : Nat) : List Nat :=
  if opc w = 2 then
    (List.range 80).filter fun r =>
      if r < 64 then bit (s.gn b (bits w 46 6)) r else bit (s.gn b (bits w 40 6)) (r - 64)
  else (List.range (bits w 38 7)).map (bits w 45 7 + ·)

/-- The engines of the L, M and V slots can accept what the bundle asks (R92, R149, R152, R164, R214). -/
def State.unitsReady (s : State) (b : Nat) (ws : List Nat) : Bool :=
  let l := ws.getD 3 0
  let m := ws.getD 4 0
  let v := ws.getD 5 0
  let c := s.ch b
  (!s.enabled b l ||
    (if opc l = 0x20 || opc l = 0x21 then c.dma.length < 16
     else if opc l = 0x28 then !c.arrq.any (·.reads (bits l 24 2))
     else true)) &&
  (!s.enabled b m || opc m = 0 ||
    (c.mq < 4 && !(s.bore b).arr.testing && (armBuffers m).all fun k => s.feedOk b k && !c.feeding k)) &&
  (!s.enabled b v ||
    (if opc v = 1 || opc v = 2 then (s.vRanks b v).all (s.canLaunch b)
     else if opc v = 4 then (s.vRanks b v).all (s.canKload b)
     else true))

/-- Every write that the chanter issued earlier has been acknowledged (R160). -/
def State.fenceMet (s : State) (b : Nat) : Bool :=
  let c := s.ch b
  c.stores.isEmpty && c.dma.all (·.copied) && c.drains.isEmpty && !c.arrq.any fun o => opc o.word.toNat = 3 && o.phase = .waits

/-- Every gate condition but those of the Q and Y slots (R94). -/
def State.needsMet (s : State) (b : Nat) (ws : List Nat) : Bool :=
  s.operandsReady b ws && s.unitsReady b ws && (!s.runs b ws 7 6 || s.fenceMet b)

/-! ### Precise faults -/

/-- A fault condition of a slot: the slot, the cause and CHN_FAULTINFO. -/
structure SlotFault where
  slot  : Nat
  cause : Nat
  info  : Nat
  deriving DecidableEq, Repr

/-- The fault that the fetched word of a slot decides alone (R110): PSECC, whose syndrome the spec does not state, or
ILLEGAL.  A word whose error a read of the window has found already is still uncorrectable.  A guard whose predicate is pending
cannot yet be evaluated.
(DEDUCED, log 20.) -/
def State.fetchFault (s : State) (b pc : Nat) (ws clash : List Nat) (k : Nat) : Option SlotFault :=
  let w := ws.getD k 0
  if slotAddr b pc k ∈ s.double || slotAddr b pc k ∈ s.poison then
    some ⟨k, cPsecc, pc + 2 ^ 16 * k + 2 ^ 24 * (Config.freeValue 8 (s.freeCtr + k)).toNat⟩
  else if inert w then none
  else if k ∈ clash then some ⟨k, cIllegal, w⟩
  else if !(s.ch b).pending (.p (psel w)) && s.enabled b w && slotIllegal k w then some ⟨k, cIllegal, w⟩
  else none

/-- The faults of the fetched words, lowest slot first. -/
def State.fetchFaults (s : State) (b pc : Nat) (ws : List Nat) : List SlotFault :=
  let clash := clashes ws
  (List.range 8).filterMap (s.fetchFault b pc ws clash)

/-- The first misaligned value of a tile, whose dimensions above 1 are ignored (R69, R150). -/
def tileMisaligned (d : Nat) : Option Nat :=
  ((tBase d) :: (((List.range 2).filter (· < tNdim d)).map (tStride d))).find? fun v => v % tWidth d ≠ 0

/-- The L slot's fault (R162): LIGSTATE, ROUTE, ALIGN.  Of two handles that are not allocated, HD is reported.
(DESIGN CHOICE, log 81.) -/
def State.lFault (s : State) (b w : Nat) : Option (Nat × Nat) :=
  let op := opc w
  let lig (h : Nat) : Option (Nat × Nat) := if (s.hmap b h).isNone then some (cLigstate, h) else none
  let align (n v : Nat) : Option (Nat × Nat) := if v % n ≠ 0 then some (cAlign, v) else none
  if op = 0 then none
  else if op ≤ 0x0A then
    lig (bits w 40 6) <|> align (lsBytes (if op ≤ 5 then op else op - 5)) (s.lhOffset b w)
  else if op ≤ 0x1A then
    align (lsBytes (if op ≤ 0x15 then op - 0x10 else op - 0x15)) (s.lmAddress b w)
  else if op = 0x28 then
    lig (bits w 30 6) <|> (tileMisaligned (s.d b (bits w 42 5))).map fun v => (cAlign, v)
  else
    (if bit w 29 then lig (bits w 36 6) else none) <|>
    (if op = 0x20 && bit w 28 then lig (bits w 30 6) else none) <|>
    (if bit w 27 && !s.rtValid (.bore b (bits w 8 8)) then some (cRoute, bits w 8 8) else none) <|>
    (if op = 0x20 then (tMisaligned (s.d b (bits w 42 5))).map fun v => (cAlign, v) else none) <|>
    (tMisaligned (s.d b (bits w 47 5))).map fun v => (cAlign, v)

/-- The M slot's fault: a format other than a buffer's TFMT, WIDTH, LIGSTATE, ALIGN (R151, R153). -/
def State.mFault (s : State) (b w : Nat) : Option (Nat × Nat) :=
  let op := opc w
  if op = 1 || op = 2 then
    if (armBuffers w).any fun k => (s.feedBuf b k).tfmt ≠ bits w 46 4 then some (cIllegal, w)
    else if s.width b < bits w 25 7 + 1 then some (cWidth, bits w 25 7 + 1 + 256 * s.width b)
    else none
  else if op = 3 then
    if (s.hmap b (bits w 41 6)).isNone then some (cLigstate, bits w 41 6)
    else (tileMisaligned (s.d b (bits w 47 5))).map fun v => (cAlign, v)
  else none

/-- The V slot's fault: LIGSTATE of a VKLOAD (R169). -/
def State.vFault (s : State) (b w : Nat) : Option (Nat × Nat) :=
  if opc w = 4 && (s.hmap b (bits w 32 6)).isNone then some (cLigstate, bits w 32 6) else none

/-- The Q slot's fault: ROUTE of a send (R157). -/
def State.qFault (s : State) (b w : Nat) : Option (Nat × Nat) :=
  if (opc w = 1 || opc w = 2) && !s.rtValid (.bore b (bits w 44 8)) then some (cRoute, bits w 44 8) else none

/-- Whether a barrier is valid for the bore's context (R351). -/
def State.barOk (s : State) (b bid : Nat) : Bool :=
  s.flag Fld.SYN_BCFG_VALID 0 bid && s.fget Fld.SYN_BCFG_CTX 0 bid = s.boreCtx b

/-- Whether a Y slot holds the gate for the pool or for a barrier. -/
def yWaits (w : Nat) : Bool := (opc w = 2 && bits w 50 2 = 1) || opc w = 3 || opc w = 5

/-- The Y slot's fault: ROUTE or SYNCOWN (R160, R351).  A wait that passed its check when it first met the other gate conditions
is not judged again while it holds: what changes then leaves it pending, or answers it as not reached (R351, R352).
(DEDUCED, log 20.) -/
def State.yFault (s : State) (b w : Nat) : Option (Nat × Nat) :=
  let op := opc w
  let i := bits w 36 14
  if yWaits w && (s.ch b).judged then none
  else if op = 1 && bits w 50 2 = 2 then
    if s.rtIncValid (.bore b (bits w 36 8)) then none else some (cRoute, bits w 36 8)
  else if (op = 1 || op = 2) && bits w 50 2 = 1 then
    if s.poolOwned (s.boreCtx b) i then none else some (cSyncown, i)
  else if op = 3 || op = 4 || op = 5 then
    if s.barOk b (bits w 38 12) then none else some (cSyncown, bits w 38 12)
  else none

/-- The fault that slot `k` meets once every gate condition holds, a timeout aside. -/
def State.slotFault (s : State) (b : Nat) (ws : List Nat) (k : Nat) : Option SlotFault :=
  let w := ws.getD k 0
  if !s.enabled b w then none
  else
    (match k with
      | 3 => s.lFault b w
      | 4 => s.mFault b w
      | 5 => s.vFault b w
      | 6 => s.qFault b w
      | 7 => s.yFault b w
      | _ => none).map fun (c, i) => ⟨k, c, i⟩

/-- A precise fault takes the bundle: no slot of it has an effect (R110, R112). -/
def State.precise (s : State) (b pc : Nat) (f : SlotFault) (multi : Bool) : State :=
  s.stopIssue b (.faulted ⟨f.cause, f.slot, pc, BitVec.ofNat 64 f.info⟩ true multi pc)

/-! ### Arrival slots -/

/-- SYN_WSTAT.ASLOTS brought up to date. -/
def State.putAslots (s : State) (b : Nat) : State := s.fput Fld.SYN_WSTAT_ASLOTS (s.bore b).vest.slots.length b

/-- An arrival slot is freed (R344). -/
def State.freeSlot (s : State) (b k : Nat) : State :=
  let s := s.rput .SYN_ASLOT 0 b k
  (s.upVest b fun v => { v with slots := v.slots.filter (· ≠ k) }).putAslots b

/-- An arrival takes a free slot, and waits for the chanter's earlier writes before it leaves (R342). -/
def State.arrive (s : State) (b bid : Nat) : Nat × State :=
  let k := ((List.range 8).find? fun k => k ∉ (s.bore b).vest.slots).getD 0
  let c := s.ch b
  let a : ArrWait := ⟨k, bid, s.boreCtx b, c.stores.map (·.id), (c.dma.filter fun r => !r.copied).map (·.id),
    c.drains.length + (c.arrq.filter fun o => opc o.word.toNat = 3 && o.phase = .waits).length⟩
  let s := s.upVest b fun v => { v with slots := v.slots ++ [k], arrs := v.arrs ++ [a] }
  let s := (s.rput .SYN_ASLOT 0 b k).fput Fld.SYN_ASLOT_VALID 1 b k
  (k, (s.fput Fld.SYN_ASLOT_BID bid b k).putAslots b)

/-- Whether the writes that an arrival waits for have been acknowledged. -/
def Chanter.arrReady (c : Chanter) (a : ArrWait) : Bool :=
  a.drains = 0 && a.deps.all (fun i => c.stores.all fun w => w.id ≠ i) && a.dmas.all fun i => c.dma.all fun r => r.id ≠ i || r.copied

/-- ARRIVAL_SEND (R342): the oldest arrival that waits leaves once its chanter's earlier writes are acknowledged. -/
def execArrivalSend (b : Nat) (s : State) : Host.Outcome State Fault Refusal :=
  if s.faults.frozen then ok s else
  match (s.bore b).vest.arrs with
  | [] => ok s
  | a :: rest =>
    if (s.ch b).arrReady a then
      ok ((s.upVest b fun v => { v with arrs := rest }).send .posted (.bore b) (.unit .sync)
        (.barArrive (.chanter b) a.bid a.ctx))
    else ok s

/-- Whether an arrival slot has been marked DONE or ABORTED (R344). -/
def State.slotDone (s : State) (b k : Nat) : Bool := s.flag Fld.SYN_ASLOT_DONE b k || s.flag Fld.SYN_ASLOT_ABORTED b k

/-! ### Waits -/

/-- The queue from which the Q slot would take a message (R304). -/
def State.pick (s : State) (b w : Nat) : Option Nat :=
  if opc w = 3 then (if (s.queue b (bits w 29 5)).isEmpty then none else some (bits w 29 5))
  else
    let m := s.gn b (bits w 22 6)
    let start := if bit w 28 then s.fget Fld.QUE_ROT_LAST b + 1 else 0
    ((List.range 32).map fun k => (start + k) % 32).find? fun q => bit m q && !(s.queue b q).isEmpty

/-- Whether the Q slot's condition is met (R158). -/
def State.qMet (s : State) (b w : Nat) : Bool := !(opc w = 3 || opc w = 4) || (s.pick b w).isSome

/-- Whether the Y slot's condition is met: the counter or barrier condition of R335, R336, R342 and R344; a slot that
will fault waits for nothing. -/
def State.yMet (s : State) (b pc w : Nat) : Bool :=
  if (s.yFault b w).isSome then true
  else match opc w with
    | 2 =>
      if bits w 50 2 = 0 then reached (s.fget Fld.SYN_LCVAL_VALUE b (bits w 36 14)) (s.gn b (bits w 30 6))
      else (s.ch b).watch.any fun x => x.answer.isSome
    | 3 =>
      match (s.ch b).barSlot with
      | some (p, k) => p = pc && s.slotDone b k
      | none => false
    | 4 => (s.bore b).vest.slots.length < 8
    | 5 =>
      match (s.slotsOf b (bits w 38 12)).getLast? with
      | some k => s.slotDone b k
      | none => true
    | _ => true

/-- Whether slot 6 or 7 of the bundle holds the gate. -/
def State.holds (s : State) (b pc : Nat) (ws : List Nat) (k : Nat) : Bool :=
  let w := ws.getD k 0
  s.enabled b w && k ∉ (s.ch b).tout && !(if k = 6 then s.qMet b w else s.yMet b pc w)

/-- Whether slot 6 or 7 has reached its timeout before its condition was met: it completes in its timeout form, whatever is met
while the bundle waits on (R94, R133, R166). -/
def State.timedOut (s : State) (b : Nat) (ws : List Nat) (k : Nat) : Bool :=
  s.enabled b (ws.getD k 0) && k ∈ (s.ch b).tout

/-- The timeout faults of the bundle: a slot of the faulting form that has timed out (R133). -/
def State.timeoutFault (s : State) (b : Nat) (ws : List Nat) (k : Nat) : Option SlotFault :=
  let w := ws.getD k 0
  if (k = 6 || k = 7) && s.timedOut b ws k && tfBit k w then
    some ⟨k, cTimeout, k + 2 ^ 8 * tmoCycles (tmoField k w)⟩
  else none

/-- The faults of a bundle whose gate conditions all hold, lowest slot first (R110, R162); a slot that meets two conditions has
one of them, and counts once.
(DESIGN CHOICE, log 81.) -/
def State.gateFaults (s : State) (b : Nat) (ws : List Nat) : List SlotFault :=
  (List.range 8).filterMap fun k => s.slotFault b ws k <|> s.timeoutFault b ws k

/-- The precise faults that the chanter detects in this cycle in the bundle at its gate (R110). -/
def State.gateNow (s : State) (b : Nat) : List SlotFault :=
  let pc := s.fget Fld.CHN_PC_PC b
  let ws := s.words b pc
  match s.fetchFaults b pc ws with
  | [] => if s.needsMet b ws && !s.holds b pc ws 6 && !s.holds b pc ws 7 then s.gateFaults b ws else []
  | l => l

end Sys2Proof.Machine
end

