-- ==== Sys2Proof/Machine/Chanter.lean ====
section
/-!
DEFINITION. Machine/Chanter.lean: the issue of a bundle (R96 to R104): what each slot does, its timeouts, the return of its
results, and how the chanter comes to rest (R91, R109 to R115).
-/

namespace Sys2Proof.Machine

/-! ### Results -/

/-- A result computed at issue: a pending write until it is written (R93).  A write of g0 or p0 is discarded. -/
def State.pend (s : State) (b : Nat) (r : RegRef) (v : Nat) : State :=
  if discards r then s
  else (s.upCh b fun c => { c with pend := c.pend ++ [⟨r, BitVec.ofNat 256 v⟩] }).putOut b

/-- A fresh number for an operation of bore `b`. -/
def State.newId (s : State) (b : Nat) : Nat × State :=
  ((s.ch b).nextId, s.upCh b fun c => { c with nextId := c.nextId + 1 })

/-! ### Scalar and branch slots -/

/-- A scalar slot's result and what it counts (R136, R139). -/
def State.doScalar (s : State) (b pc w : Nat) : State :=
  if !s.enabled b w then s
  else
    match s.scalar b pc w with
    | (some (r, v), c) => (s.countCvt b c).pend b r v
    | (none, _) => s

/-- The link or count that a B slot writes (R141). -/
def State.doBranch (s : State) (b pc w : Nat) : State :=
  if !s.enabled b w then s
  else if opc w = 3 || opc w = 4 then s.pend b (.g (bits w 46 6)) (pc + 1)
  else if opc w = 5 then s.pend b (.g (bits w 46 6)) (uint 64 ((s.gn b (bits w 46 6) : Int) - 1))
  else s

/-- The target of a taken branch (R102, R103, R141). -/
def State.target (s : State) (b w : Nat) : Option Nat :=
  if !s.enabled b w then none
  else if opc w = 1 || opc w = 3 then some (bits w 0 13)
  else if opc w = 2 || opc w = 4 then some (s.gn b (bits w 40 6) % 8192)
  else if opc w = 5 && uint 64 ((s.gn b (bits w 46 6) : Int) - 1) ≠ 0 then some (bits w 0 13)
  else none

/-! ### Loads and stores -/

/-- A load's answer arrives: data, or the status that makes it fault. -/
def State.loadBack (s : State) (b id : Nat) (data : List Byte) (st : AccStatus) (addr : Nat) : State :=
  s.upCh b fun c => { c with loads := c.loads.map fun x => if x.id = id then { x with back := some (data, st, addr) } else x }

/-- A store is over: acknowledged or failed. -/
def State.storeOver (s : State) (b id : Nat) : State :=
  let s := match (s.ch b).stores.find? (fun w => w.id = id) with
    | some ⟨_, some h, _⟩ => s.unhold b h
    | _ => s
  s.upCh b fun c => { c with stores := c.stores.filter fun w => w.id ≠ id }

/-- A translated access leaves the bore, or is found unbacked at once (R38, R99). -/
def State.launchAccess (s : State) (b : Nat) (x : ChXlate) (d : Nat) : State :=
  match s.memEnd d with
  | some e =>
    if x.load then s.send .request (.bore b) e (.read (.chanter b) x.id x.ctx d x.len)
    else s.send .posted (.bore b) e (.write (.chanter b) x.id x.ctx d x.data false)
  | none =>
    if x.load then s.loadBack b x.id [] .unmapped d
    else (s.storeOver b x.id).impFault b cUnmapped 3 x.pc d

/-- A context-address access is translated, by the cache or by a walk (R443 to R445). -/
def State.translate (s : State) (b : Nat) (x : ChXlate) : State :=
  match s.xlate x.ctx (!x.load) x.caddr with
  | (some d, s) => s.launchAccess b x d
  | (none, s) =>
    if x.load then s.loadBack b x.id [] .unmapped (2 ^ 63 + x.caddr)
    else (s.storeOver b x.id).impFault b cUnmapped 3 x.pc (2 ^ 63 + x.caddr)

/-- TRANSLATION_WALK (R445): the oldest access of bore `b` that missed the cache. -/
def State.walk (s : State) (b : Nat) : State :=
  match (s.ch b).xlate with
  | [] => s
  | x :: rest => (s.upCh b fun c => { c with xlate := rest }).translate b x

/-- TRANSLATION_WALK (R445). -/
def execTranslationWalk (b : Nat) (s : State) : Host.Outcome State Fault Refusal :=
  if s.faults.frozen then ok s else
  ok (s.walk b)

/-- Every access that waits for a walk leaves, in order: what a later slot or bundle starts leaves after it (R99). -/
def State.walkAll (s : State) (b : Nat) : State := (s.ch b).xlate.foldl (fun s _ => s.walk b) s

/-- Whether the access can be answered without table reads: both entries cached, or no walk at all. -/
def State.quick (s : State) (x : ChXlate) : Bool := 1024 ≤ x.ctx || 2 ^ 40 ≤ x.caddr || s.xlateHit x.ctx x.caddr

/-- A context-address access issued: it is translated at once on a hit, and otherwise waits for its walk. -/
def State.lmAccess (s : State) (b : Nat) (x : ChXlate) : State :=
  if s.quick x then s.translate b x else s.upCh b fun c => { c with xlate := c.xlate ++ [x] }

/-- Whether a store of this chanter is on its way to its own windchest.
(DEDUCED, log 21.) -/
def State.selfStore (s : State) (b : Nat) : Bool :=
  (s.ch b).xlate.any (fun x => !x.load) || s.net.any fun t =>
    t.src = .bore b && t.dst = .bore b && (match t.pkt with
      | .write (.chanter c) _ _ _ _ _ => c = b
      | _ => false)

/-- The bytes that a store writes (R146). -/
def State.storeData (s : State) (b n rd : Nat) : List Byte :=
  let v := match lsFile n with
    | .g => s.gn b rd
    | .a => s.a b rd
    | .d => s.d b rd
    | .p => b2n (s.p b rd)
  leBytes (lsBytes n) v

/-- A register load or store through a handle (R145, R146).  A store behind one of this chanter's own on its way to the same
windchest goes the same way, so that they apply in order (R100).
(DEDUCED, log 21.) -/
def State.lhAccess (s : State) (b pc w n : Nat) (load : Bool) : State :=
  match s.hmap b (bits w 40 6) with
  | none => s
  | some m =>
    let off := s.lhOffset b w
    if load then
      let (id, s) := s.newId b
      let ref := (⟨lsFile n, 46, 6⟩ : RField).ref w
      ((s.hold b m.h).upCh b fun c => { c with loads := c.loads ++ [⟨id, ref, lsBytes n, .handle m off, pc, none⟩] }).putOut b
    else
      let data := s.storeData b n (bits w 46 6)
      if s.selfStore b then
        let (id, s) := s.newId b
        let s := (s.hold b m.h).upCh b fun c => { c with stores := c.stores ++ [⟨id, some m.h, pc⟩] }
        s.send .posted (.bore b) (.bore b) (.write (.chanter b) id 1024 (m.addr b off) data false)
      else s.hWrite b m off data false

/-- A register load or store by context address. -/
def State.lmIssue (s : State) (b pc w n : Nat) (load : Bool) : State :=
  let (id, s) := s.newId b
  let x : ChXlate := ⟨id, load, lsBytes n, if load then [] else s.storeData b n (bits w 46 6), s.lmAddress b w, s.boreCtx b, pc⟩
  if load then
    let ref := (⟨lsFile n, 46, 6⟩ : RField).ref w
    let s := (s.upCh b fun c => { c with loads := c.loads ++ [⟨id, ref, lsBytes n, .ctxAddr x.caddr, pc, none⟩] }).putOut b
    s.lmAccess b x
  else (s.upCh b fun c => { c with stores := c.stores ++ [⟨id, none, pc⟩] }).lmAccess b x

/-- A DMA or DFILL request (R147, R148). -/
def State.dmaIssue (s : State) (b pc w : Nat) : State :=
  let fill := opc w = 0x21
  let dh := if bit w 29 then s.hmap b (bits w 36 6) else none
  let sh := if !fill && bit w 28 then s.hmap b (bits w 30 6) else none
  let (id, s) := s.newId b
  let r : DmaReq := ⟨id, fill, BitVec.ofNat 256 (s.d b (bits w 47 5)), BitVec.ofNat 256 (if fill then 0 else s.d b (bits w 42 5)),
    dh, sh, if fill then s.g b (bits w 30 6) else 0, bits w 26 2, bits w 16 6, bits w 8 8, bits w 0 8, s.rget .BORE_SRSEED b,
    s.boreCtx b, pc, false, false⟩
  (((s.holdOpt b dh).holdOpt b sh).upCh b fun c => { c with dma := c.dma ++ [r] }).putDmaq b

/-- An MFEED joins the feeds (R150, R164). -/
def State.feedIssue (s : State) (b w : Nat) : State :=
  match s.hmap b (bits w 30 6) with
  | none => s
  | some m =>
    let f : FeedReq := ⟨bits w 24 2, BitVec.ofNat 256 (s.d b (bits w 42 5)), m, bits w 16 4, s.rget .BORE_SRSEED b⟩
    (s.hold b m.h).upCh b fun c => { c with feeds := c.feeds ++ [f] }

/-- The L slot (R144 to R150). -/
def State.doLoad (s : State) (b pc w : Nat) : State :=
  let op := opc w
  if !s.enabled b w || op = 0 then s
  else if op ≤ 5 then s.lhAccess b pc w op true
  else if op ≤ 0x0A then s.lhAccess b pc w (op - 5) false
  else if op ≤ 0x15 then s.lmIssue b pc w (op - 0x10) true
  else if op ≤ 0x1A then s.lmIssue b pc w (op - 0x15) false
  else if op = 0x28 then s.feedIssue b w
  else s.dmaIssue b pc w

/-! ### Array and launch slots -/

/-- The M slot: the instruction joins the array's queue with what it captures (R151, R152). -/
def State.doArray (s : State) (b w : Nat) : State :=
  if !s.enabled b w || opc w = 0 then s
  else
    let dh := if opc w = 3 then s.hmap b (bits w 41 6) else none
    let o : ArrOp := ⟨BitVec.ofNat 64 w, if opc w = 3 then BitVec.ofNat 256 (s.d b (bits w 47 5)) else 0, dh,
      BitVec.ofNat 8 (s.fget Fld.MXA_DCTRL_DSHIFT b), s.rget .BORE_SRSEED b, .waits⟩
    ((s.holdOpt b dh).upCh b fun c => { c with arrq := c.arrq ++ [o] }).putMq b

/-- The V slot (R154, R155). -/
def State.doLaunch (s : State) (b pc w : Nat) : State :=
  let op := opc w
  if !s.enabled b w || op = 0 then s
  else
    let rs := s.vRanks b w
    if op = 1 || op = 2 then
      s.vlaunch b rs (bits w 26 12) (s.g b (bits w 20 6)) (s.g b (bits w 14 6))
        (if bits w 12 2 = 1 then some (bits w 6 6) else none) pc
    else if op = 3 then s.each rs fun s r => s.vstop b r
    else
      let cn := if bits w 6 2 = 1 then some (bits w 0 6) else none
      let n := s.gn b (bits w 8 6) % 8192
      match s.hmap b (bits w 32 6) with
      | none => s
      | some m =>
        if n = 0 then (match cn with | some k => s.incLocal b k 1 | none => s)
        else s.vkload b ⟨rs, m, s.gn b (bits w 26 6) % 2 ^ 25, bits w 14 12, n, cn⟩

/-! ### Queue and counter slots -/

/-- The words of a send (R157). -/
def State.sendWords (s : State) (b w : Nat) : List Word32 :=
  let a := s.gn b (bits w 38 6)
  let c := s.gn b (bits w 32 6)
  ([a, a / 2 ^ 32, c, c / 2 ^ 32].take (bits w 30 2 + 1)).map (BitVec.ofNat 32)

/-- QSEND and QSENDS (R157, R295, R299). -/
def State.qSend (s : State) (b w : Nat) : State :=
  let c := s.gn b (bits w 24 6)
  let inc : Option CtrRef := if opc w = 2 then some ⟨bit c 15, c % 2 ^ 14⟩ else none
  let pr := RegRef.p (bits w 21 3)
  match s.trySend b (bits w 44 8) (s.sendWords b w) 0 inc with
  | some s => s.pend b pr 1
  | none => s.pend b pr 0

/-- gT of a received message (R158, R305). -/
def gtWord (q : Nat) (first : Bool) (e : QEntry) : Nat :=
  e.msg.tag % 256 + 2 ^ 8 * ((e.msg.words.length - 1) % 4) + 2 ^ 16 * q + 2 ^ 26 * b2n first + 2 ^ 27 * (e.msg.srcKind % 8)
    + 2 ^ 30 * b2n e.sig + 2 ^ 31 * b2n e.isNack

/-- Two words of a message as one register value. -/
def wordPair (l : List Word32) (k : Nat) : Nat := (l.getD k 0).toNat + 2 ^ 32 * (l.getD (k + 1) 0).toNat

/-- QRECV and QSEL (R158, R304, R305): a message taken, or the timeout form (R133). -/
def State.qRecv (s : State) (b w : Nat) (timed : Bool) : State :=
  let put (s : State) (d e t p : Nat) : State :=
    (((s.pend b (.g (bits w 46 6)) d).pend b (.g (bits w 40 6)) e).pend b (.g (bits w 34 6)) t).pend b (.p (bits w 5 3)) p
  match if timed then none else s.pick b w with
  | none => put s 0 0 0 0
  | some q =>
    match s.queue b q with
    | [] => put s 0 0 0 0
    | e :: _ =>
      let t := gtWord q (decide (q ∉ (s.bore b).vest.taken)) e
      let s := s.take b q e
      let s := if opc w = 4 && bit w 28 then s.fput Fld.QUE_ROT_LAST q b else s
      put s (wordPair e.msg.words 0) (wordPair e.msg.words 2) t 1

/-- The Q slot (R156 to R158, R167). -/
def State.doQueue (s : State) (b w : Nat) (timed : Bool) : State :=
  if !s.enabled b w then s
  else match opc w with
    | 1 => s.qSend b w
    | 2 => s.qSend b w
    | 3 => s.qRecv b w timed
    | 4 => s.qRecv b w timed
    | 5 => s.qClose b (bits w 29 5)
    | 6 => s.qOpen b (bits w 29 5)
    | _ => s

/-- YINC (R159, R332). -/
def State.yInc (s : State) (b w : Nat) : State :=
  let i := bits w 36 14
  let n := bits w 20 16
  match bits w 50 2 with
  | 0 => s.incLocal b i n
  | 1 => s.sendPool (.bore b) i n (s.boreCtx b)
  | _ => s.sendInc b (i % 256) n 0

/-- YWAIT (R133, R335, R336, R352): its result is 1 when the counter had reached the target as the cycle began, and 0 after a
timeout or an answer of not reached. -/
def State.yWait (s : State) (b w : Nat) (timed : Bool) : State :=
  let pr := RegRef.p (bits w 13 3)
  if bits w 50 2 = 0 then s.pend b pr (b2n !timed)
  else
    let v := !timed && (s.ch b).watch.any fun x => x.answer = some true
    (s.cancelWatch b).pend b pr (b2n v)

/-- YBAR at issue (R344, R349): its slot is freed when the phase has ended, and kept after a timeout. -/
def State.yBar (s : State) (b w : Nat) (timed : Bool) : State :=
  let pr := RegRef.p (bits w 13 3)
  match if timed then none else (s.ch b).barSlot with
  | some (_, k) => (s.freeSlot b k).pend b pr (b2n (!s.flag Fld.SYN_ASLOT_ABORTED b k))
  | none => s.pend b pr 0

/-- YBWT at issue (R344): every finished slot of the barrier is freed; the timeout form frees none. -/
def State.yBwt (s : State) (b w : Nat) (timed : Bool) : State :=
  let pr := RegRef.p (bits w 13 3)
  if timed then s.pend b pr 0
  else
    let l := (s.slotsOf b (bits w 38 12)).filter (s.slotDone b)
    (s.each l fun s k => s.freeSlot b k).pend b pr (b2n (l.all fun k => !s.flag Fld.SYN_ASLOT_ABORTED b k))

/-- The Y slot (R159); `pre` is the state before the bundle issued, whose writes an arrival waits for (R160, R342). -/
def State.doSync (s : State) (b w : Nat) (pre : State) (timed : Bool) : State :=
  if !s.enabled b w then s
  else match opc w with
    | 1 => s.yInc b w
    | 2 => s.yWait b w timed
    | 3 => s.yBar b w timed
    | 4 =>
      let c := pre.ch b
      let (k, s) := s.arrive b (bits w 38 12)
      s.upVest b fun v => { v with arrs := v.arrs.map fun a =>
        if a.slot = k then { a with
          deps := c.stores.map (·.id), dmas := (c.dma.filter fun r => !r.copied).map (·.id),
          drains := c.drains.length + (c.arrq.filter fun o => opc o.word.toNat = 3 && o.phase = .waits).length } else a }
    | 5 => s.yBwt b w timed
    | _ => s

/-! ### Issue -/

/-- Whether a slot may start a windway transfer that must leave behind every walking access (R99). -/
def State.sends (s : State) (b : Nat) (ws : List Nat) (k : Nat) : Bool :=
  s.enabled b (ws.getD k 0) && opc (ws.getD k 0) ≠ 0

/-- The bundle after its last slot: where the PC goes, whether two cycles of a taken branch follow, and whether the chanter stops
(R102, R104, R113, R143).  A HALT or BRK that CHN_CTRL.STEP issues gives its own reason.
(DESIGN CHOICE, log 81.) -/
def State.advance (s : State) (b pc : Nat) (tgt : Option Nat) (bop : Nat) : State :=
  match tgt with
  | some t =>
    let s := (s.fput Fld.CHN_PC_PC t b).upCh b fun c => { c with bubble := 2 }
    if (s.ch b).step1 then s.stopIssue b (.halted 4 t) else s
  | none =>
    if pc = 8191 then (s.fput Fld.CHN_PC_PC 0 b).stopIssue b (.faulted ⟨cPcovf, 2, pc, 0x1FFF⟩ true false 0)
    else
      let s := s.fput Fld.CHN_PC_PC (pc + 1) b
      if bop = 8 then s.stopIssue b (.halted 1 (pc + 1))
      else if bop = 9 then s.stopIssue b (.halted 2 (pc + 1))
      else if (s.ch b).step1 then s.stopIssue b (.halted 4 (pc + 1))
      else s

/-- The single-bit errors of the fetched words, which are corrected and reported (R114). -/
def State.fetchCorr (s : State) (b pc : Nat) : State :=
  s.each (List.range 8) fun s k =>
    if slotAddr b pc k ∈ s.single then
      s.log (srcBore b) 0x0003 none 1 (leBytes 2 pc ++ leBytes 1 k) else s

/-- The bundle issues: each slot reads its registers as they stand before the bundle (R96), and their transfers leave in
slot order (R99).  A long wait that has not stopped the clock yet ends (R346), and so does the mark of a YBAR that had arrived
(R349). -/
def State.issueBundle (s : State) (b pc : Nat) (ws : List Nat) : State :=
  let pre := s
  let w (k : Nat) : Nat := ws.getD k 0
  let tgt := s.target b (w 2)
  let bop := if s.enabled b (w 2) then opc (w 2) else 0
  let s := ((s.putState b csRunning).fput Fld.SYN_WSTAT_LONG 0 b).fsat Fld.CHN_BUNDLES_BUNDLES 1 b
  let s := if [3, 6, 7].any (s.sends b ws) then s.walkAll b else s
  let s := ((s.doScalar b pc (w 0)).doScalar b pc (w 1)).doBranch b pc (w 2)
  let s := s.doLoad b pc (w 3)
  let s := if [6, 7].any (s.sends b ws) then s.walkAll b else s
  let s := ((s.doArray b (w 4)).startFills b).doLaunch b pc (w 5)
  let s := s.doQueue b (w 6) (pre.timedOut b ws 6)
  let s := s.doSync b (w 7) pre (pre.timedOut b ws 7)
  let s := s.upCh b fun c => { c with met := false, judged := false, tout := [], barSlot := none }
  s.advance b pc tgt bop

/-- The gate holds the bundle: RUNNING with GATE_HELD, or WAITING on the Q and Y slots alone (R89, R95).
(DESIGN CHOICE, log 16.) -/
def State.holdGate (s : State) (b : Nat) (q y : Bool) : State :=
  if q || y then
    ((((s.fput Fld.CHN_STATUS_STATE csWaiting b).fput Fld.CHN_STATUS_GATE_HELD 0 b).fput Fld.CHN_STATUS_WAIT_Q (b2n q) b).fput
      Fld.CHN_STATUS_WAIT_Y (b2n y) b).fsat Fld.CHN_STALL_WAIT 1 b
  else ((s.putState b csRunning).fput Fld.CHN_STATUS_GATE_HELD 1 b).fsat Fld.CHN_STALL_OPND 1 b

/-- What the bundle does in the first cycle in which every other gate condition holds (R94), behind every transfer of an earlier
bundle (R99): its Y slot is judged (R351), the watch of a YWAIT is sent (R336), and a YBAR arrives once a slot is free, unless it
has arrived already (R342, R349). -/
def State.firstMet (s : State) (b pc : Nat) (ws : List Nat) : State :=
  let w := ws.getD 7 0
  let s := s.upCh b fun c => { c with met := true }
  if !s.enabled b w || !yWaits w || (s.yFault b w).isSome || s.timedOut b ws 7 then s
  else
    let s := s.upCh b fun c => { c with judged := true }
    if opc w = 2 && (s.ch b).watch.isNone then
      (s.walkAll b).sendWatch b (bits w 36 14) (BitVec.ofNat 32 (s.gn b (bits w 30 6)))
    else if opc w = 3 && (s.ch b).barSlot.isNone && (s.bore b).vest.slots.length < 8 then
      let (k, s) := s.arrive b (bits w 38 12)
      s.upCh b fun c => { c with barSlot := some (pc, k) }
    else s

/-- The bundle meets every gate condition: it issues, or a precise fault takes it (R110); the errors corrected in its words are
reported (R114). -/
def State.pass (s : State) (b pc : Nat) (ws : List Nat) : State :=
  let s := s.fetchCorr b pc
  match s.gateFaults b ws with
  | f :: l => s.precise b pc f (!l.isEmpty)
  | [] => s.issueBundle b pc ws

/-- One look at the gate (R92, R94, R110).
(DESIGN CHOICE, log 16.) -/
def State.tryIssue (s : State) (b : Nat) : State :=
  let pc := s.fget Fld.CHN_PC_PC b
  let ws := s.words b pc
  match s.fetchFaults b pc ws with
  | f :: l =>
    ({ s with freeCtr := if f.cause = cPsecc then s.freeCtr + 8 else s.freeCtr }.fetchCorr b pc).precise b pc f (!l.isEmpty)
  | [] =>
    if !s.needsMet b ws then s.holdGate b false false
    else
      let s := s.firstMet b pc ws
      let q := s.holds b pc ws 6
      let y := s.holds b pc ws 7
      if q || y then s.holdGate b q y else s.pass b pc ws

/-- A detected imprecise fault takes the chanter: it is recorded over any halt (R113), and sets MULTI behind a fault that
is recorded already; `multi` says that a precise fault of the bundle at the gate is detected in the same cycle (R112).
(DEDUCED, log 18.) -/
def State.takeImp (s : State) (b : Nat) (f : ImpFault) (rest : List ImpFault) (multi : Bool) : State :=
  let s := s.upCh b fun c => { c with imp := rest }
  match (s.ch b).stop with
  | some (.faulted f0 p _ h) => s.upCh b fun c => { c with stop := some (.faulted f0 p true h) }
  | some (.halted _ pc) => s.stopIssue b (.faulted f false multi pc)
  | none => s.stopIssue b (.faulted f false multi (s.fget Fld.CHN_PC_PC b))

/-- One bore cycle of a chanter whose clock runs (R92, R126): while it comes to rest, or behind a taken branch (R102), no bundle is
at the gate; a detected imprecise fault stops it, with MULTI where the bundle at the gate meets a precise one (R112); otherwise
it looks at the gate. -/
def State.boreCycle (s : State) (b : Nat) : State :=
  if !(s.running b && s.clocked b) then s
  else
    let s := s.fsat Fld.CHN_CYCLES_CYCLES 1 b
    if (s.ch b).stop.isSome then s
    else match (s.ch b).imp with
      | f :: rest => s.takeImp b f rest ((s.ch b).bubble = 0 && !(s.gateNow b).isEmpty)
      | [] => if (s.ch b).bubble ≠ 0 then s.upCh b fun c => { c with bubble := c.bubble - 1 } else s.tryIssue b

/-- BUNDLE_ISSUE (R92): one bore cycle at the gate. -/
def execBundleIssue (b : Nat) (s : State) : Host.Outcome State Fault Refusal :=
  if s.faults.frozen then ok s else ok (s.boreCycle b)

/-- The Q and Y slots of the held bundle whose timeout runs, with its length in bore cycles (R94, R132). -/
def State.timers (s : State) (b : Nat) : List (Nat × Nat) :=
  let pc := s.fget Fld.CHN_PC_PC b
  let ws := s.words b pc
  ([6, 7].filter fun k => s.holds b pc ws k &&
      (if k = 6 then opc (ws.getD 6 0) = 3 || opc (ws.getD 6 0) = 4
       else opc (ws.getD 7 0) = 2 || opc (ws.getD 7 0) = 3 || opc (ws.getD 7 0) = 5) &&
      tmoCycles (tmoField k (ws.getD k 0)) ≠ 0).map fun k => (k, tmoCycles (tmoField k (ws.getD k 0)))

/-- A timeout of the held bundle is reached: its slots have timed out, and a watch among them is cancelled (R166, R336). -/
def State.expire (s : State) (b : Nat) (l : List Nat) : State :=
  let s := s.upCh b fun c => { c with tout := c.tout ++ l }
  if 7 ∈ l && (s.ch b).watch.isSome then s.cancelWatch b else s

/-- WAIT_TIMEOUT (R94, R166): the shortest timeout of the held bundle is reached; during a long wait it wakes the bore
(R347), and otherwise it is a cycle in which the gate looks again. -/
def execWaitTimeout (b : Nat) (s : State) : Host.Outcome State Fault Refusal :=
  if s.faults.frozen then ok s else
  if !(s.chState b = csWaiting && (s.ch b).stop.isNone && (s.ch b).met) then ok s else
  let l := s.timers b
  match (l.map (·.2)).min? with
  | none => ok s
  | some t =>
    let s := s.expire b ((l.filter fun x => x.2 = t).map (·.1))
    ok (if s.clocked b then s.boreCycle b else s.waitEvent b true)

/-! ### Results return -/

/-- REGISTER_WRITEBACK (R93): pending write `k` is written. -/
def execRegisterWriteback (b k : Nat) (s : State) : Host.Outcome State Fault Refusal :=
  if s.faults.frozen then ok s else
  match (s.ch b).pend[k]? with
  | none => ok s
  | some x => ok (((s.upCh b fun c => { c with pend := c.pend.eraseIdx k }).regPut b x.dst x.val.toNat).putOut b)

/-- A load leaves the chanter. -/
def State.dropLoad (s : State) (b id : Nat) : State :=
  (s.upCh b fun c => { c with loads := c.loads.filter fun x => x.id ≠ id }).putOut b

/-- A load's answer: the register is written, or the load faults and leaves it (R110, R111, R146). -/
def State.loadDone (s : State) (b : Nat) (x : ChLoad) (data : List Byte) (st : AccStatus) (addr : Nat) : State :=
  let s := s.dropLoad b x.id
  match st with
  | .ok => s.regPut b x.dst (leNat data)
  | .unmapped => s.impFault b cUnmapped 3 x.pc addr
  | .dark => s.impFault b cDark 3 x.pc addr
  | .poison => s.impFault b cPoison 3 x.pc addr

/-- LOAD_COMPLETION (R146): a load through a handle reads the windchest behind this chanter's earlier stores (R100); one by
context address completes once its answer is back. -/
def execLoadCompletion (b id : Nat) (s : State) : Host.Outcome State Fault Refusal :=
  if s.faults.frozen then ok s else
  match (s.ch b).loads.find? fun x => x.id = id with
  | none => ok s
  | some x =>
    match x.tgt, x.back with
    | .handle m off, _ =>
      if s.selfStore b then ok s
      else
        let (data, pois, s) := s.hRead b m off x.len
        ok ((s.unhold b m.h).loadDone b x data (if pois then .poison else .ok) (m.addr b off))
    | .ctxAddr _, some (data, st, addr) => ok (s.loadDone b x data st addr)
    | .ctxAddr _, none => ok s

/-! ### Coming to rest -/

/-- IMPRECISE_FAULT (R110): the oldest detected imprecise fault stops a running chanter at the next bundle boundary; a
HALTED chanter takes it once it runs again, as R236 says of a reed fault. -/
def execImpreciseFault (b : Nat) (s : State) : Host.Outcome State Fault Refusal :=
  if s.faults.frozen then ok s else
  match (s.ch b).imp with
  | [] => ok s
  | f :: rest =>
    ok (if s.running b then s.takeImp b f rest false
      else if s.chState b = csFaulted then s.upCh b fun c => { c with imp := [] }
      else s)

/-- The chanter enters HALTED (R90).
(DEDUCED, log 22.) -/
def State.enterHalted (s : State) (b r pc : Nat) : State :=
  let s := ((s.putState b csHalted).fput Fld.CHN_STATUS_HREASON r b).fput Fld.CHN_PC_PC pc b
  s.upCh b fun c => { c with stop := none, step1 := false }

/-- The chanter enters FAULTED (R108, R109, R124): the fault is recorded and logged, and ends the bore's context. -/
def State.enterFaulted (s : State) (b : Nat) (f : ImpFault) (precise multi : Bool) (haltpc : Nat) : State :=
  let s := (s.putState b csFaulted).fput Fld.CHN_PC_PC haltpc b
  let v := f.cause + 2 ^ 8 * f.slot + 2 ^ 14 * b2n multi + 2 ^ 15 * b2n precise + 2 ^ 32 * f.pc + 2 ^ 48 * haltpc
  let s := (s.rput .CHN_FAULT (BitVec.ofNat 64 v) b).rput .CHN_FAULTINFO f.info b
  let s := s.upCh b fun c => { c with stop := none, step1 := false, imp := [] }
  let s := s.log (srcBore b) 0x0020 (ctxOpt (s.boreCtx b)) 2 (leBytes 8 v ++ leBytes 8 f.info.toNat)
  s.endCurrent b

/-- CHANTER_HALT_COMPLETE (R91): the state changes once no register write is outstanding. -/
def execChanterHaltComplete (b : Nat) (s : State) : Host.Outcome State Fault Refusal :=
  if s.faults.frozen then ok s else
  if s.outstanding b || !s.running b then ok s else
  match (s.ch b).stop, (s.ch b).imp with
  | none, _ => ok s
  | some (.halted _ pc), f :: rest => ok (s.enterFaulted b f false (!rest.isEmpty) pc)
  | some (.halted r pc), [] => ok (s.enterHalted b r pc)
  | some (.faulted f p m h), l => ok (s.enterFaulted b f p (m || !l.isEmpty) h)

end Sys2Proof.Machine
end

