-- ==== Sys2Proof/Machine/Windway.lean ====
section
/-!
DEFINITION. Machine/Windway.lean: the arrival of reads and writes at their homes and the return of their answers (R29 to
R31, R38 to R42), and the fabric clocks (R33, R548).
-/

namespace Sys2Proof.Machine

/-- The endpoint that an accessor's answers go to. -/
def accEnd : Accessor → Endpoint
  | .chanter b => .bore b
  | .engine b => .bore b
  | .rank b _ => .bore b
  | .unit u => .unit u
  | .port k => .crook k

/-- A read is answered (R31). -/
def State.answerRead (s : State) (home : Endpoint) (who : Accessor) (id addr : Nat) (data : List Byte)
    (st : AccStatus) : State :=
  s.send .completion home (accEnd who) (.readData who id addr data st)

/-- A write is acknowledged (R30). -/
def State.answerWrite (s : State) (home : Endpoint) (who : Accessor) (id ctx addr : Nat) (st : AccStatus) : State :=
  s.send .completion home (accEnd who) (.writeAck who id ctx addr st)

/-- A read carried out at its home (R31, R41): `st` says whether the access is dark. -/
def State.readHome (s : State) (home : Endpoint) (who : Accessor) (id ctx addr len : Nat) : State :=
  let (st, data, s) := s.devRead ctx addr len
  s.answerRead home who id addr data st

/-- A write carried out at its home (R31, R41). -/
def State.writeHome (s : State) (home : Endpoint) (who : Accessor) (id ctx addr : Nat) (data : List Byte) (pois : Bool) :
    State :=
  let (st, s) := s.devWrite ctx addr (data.map fun x => (x, pois))
  s.answerWrite home who id ctx addr st

/-- The oldest access from `src` waiting at `dst` is carried out. -/
def State.serve (s : State) (cls : XClass) (src dst : Endpoint) : State :=
  match s.oldest cls src dst with
  | some (⟨_, _, _, .write who id ctx addr data pois⟩, t) => t.writeHome dst who id ctx addr data pois
  | some (⟨_, _, _, .read who id ctx addr len⟩, t) => t.readHome dst who id ctx addr len
  | _ => s

/-- How many non-posted requests to the host are outstanding (R526). -/
def State.hostOut (s : State) : Nat := s.hif.reads.foldl (fun n x => n + x.tlps) 0

/-- The oldest read of host memory from `src` reaches the hub: it is transmitted for the function that owns its context,
unless 768 requests are outstanding, and is UNMAPPED while the link is down (R525, R526, R533). -/
def State.hostAsk (s : State) (src : Endpoint) : State :=
  match s.oldest .request src .host with
  | some (⟨_, _, _, .read who id ctx addr len⟩, t) =>
    let h := addr % 0x800000000000
    let k := (tlps t.hif.cfg.mrrs h len).length
    if !t.hif.linkUp then t.answerRead .host who id addr (List.replicate len 0) .unmapped
    else if 768 < t.hostOut + k then s
    else
      let t := t.hostReadReq (t.ctxFn ctx) h len
      { t with hif := { t.hif with reads := t.hif.reads ++ [⟨who, id, ctx, t.ctxFn ctx, addr, len, k⟩] } }
  | _ => s

/-- Whether an access to an endpoint waits for a bore's clock (R40). -/
def State.waits (s : State) (dst : Endpoint) : Bool :=
  match dst with
  | .bore b => s.reach b false = .wait
  | _ => false

/-- WINDWAY_WRITE_ARRIVAL (R31): the oldest write on its path; at an IDLE or SLEEP bore it waits for the clock, which
`BORE_CLOCK_START_FOR_ACCESS` starts. -/
def execWindwayWriteArrival (src dst : Endpoint) (s : State) : Host.Outcome State Fault Refusal :=
  ok (if s.waits dst then s else s.serve .posted src dst)

/-- WINDWAY_READ_ARRIVAL (R29, R31).  A read of host memory is transmitted, and the host answers it in
`HOST_READ_COMPLETION`. -/
def execWindwayReadArrival (src dst : Endpoint) (s : State) : Host.Outcome State Fault Refusal :=
  ok (if s.waits dst then s else if dst = .host then s.hostAsk src else s.serve .request src dst)

/-- The chanter's load takes its answer (R146). -/
def State.takeRead (s : State) (who : Accessor) (id addr : Nat) (data : List Byte) (st : AccStatus) : State :=
  match who with
  | .chanter b => s.loadBack b id data st addr
  | _ => s

/-- READ_COMPLETION_ARRIVAL (R29). -/
def execReadCompletionArrival (src dst : Endpoint) (s : State) : Host.Outcome State Fault Refusal :=
  match s.oldest .completion src dst with
  | some (⟨_, _, _, .readData who id addr data st⟩, t) => ok (t.takeRead who id addr data st)
  | _ => ok s

/-- The chanter's store is acknowledged; a status that stops the access is an imprecise fault (R38, R110). -/
def State.takeAck (s : State) (who : Accessor) (id addr : Nat) (st : AccStatus) : State :=
  match who with
  | .chanter b =>
    match (s.ch b).stores.find? fun w => w.id = id with
    | none => s
    | some w =>
      let s := s.storeOver b id
      match st with
      | .unmapped => s.impFault b cUnmapped 3 w.pc addr
      | .dark => s.impFault b cDark 3 w.pc addr
      | _ => s
  | _ => s

/-- WRITE_ACKNOWLEDGEMENT (R30). -/
def execWriteAcknowledgement (src dst : Endpoint) (s : State) : Host.Outcome State Fault Refusal :=
  match s.oldest .completion src dst with
  | some (⟨_, _, _, .writeAck who id _ addr st⟩, t) => ok (t.takeAck who id addr st)
  | _ => ok s

/-- The first access that waits at bore `b`: its class and source. -/
def State.firstWaiting (s : State) (b : Nat) : Option (XClass × Endpoint) :=
  s.net.findSome? fun t =>
    if t.dst = .bore b then
      match t.pkt with
      | .write _ _ _ _ _ _ => some (t.cls, t.src)
      | .read _ _ _ _ _ => some (t.cls, t.src)
      | _ => none
    else none

/-- BORE_CLOCK_START_FOR_ACCESS (R40): the oldest access that waits at an IDLE or SLEEP bore completes; the power state does
not change. -/
def execBoreClockStartForAccess (b : Nat) (s : State) : Host.Outcome State Fault Refusal :=
  if s.faults.frozen then ok s else
  match s.firstWaiting b with
  | some (cls, src) => ok (when (s.reach b false = .wait) s (s.serve cls src (.bore b)))
  | none => ok s

end Sys2Proof.Machine
end

