-- ==== Sys2Proof/Machine/Stage.lean ====
section
/-!
DEFINITION. Machine/Stage.lean: the stage schedulers and the stash engine (chapter Running a pipeline stage).
-/

namespace Sys2Proof.Machine

/-! ### Configuration -/

/-- The codes of STG_STATUS.STATE (R396). -/
def sgOff : Nat := 0
def sgRunning : Nat := 1
def sgStepEnd : Nat := 2
def sgStopped : Nat := 3
def sgCoupled : Nat := 4

/-- The state of scheduler `p`. -/
def State.stg (s : State) (p : Nat) : Nat := s.fget Fld.STG_STATUS_STATE p

/-- A field that holds a count minus 1 (R394). -/
def State.stgN (s : State) (f : Field) (p : Nat) : Nat := s.fget f p + 1

/-- The current step. -/
def State.stgStep (s : State) (p : Nat) : Nat := s.fget Fld.STG_STEP_STEP p

/-- Entries of the stash list (R380). -/
def State.nent (s : State) (p : Nat) : Nat := min (s.fget Fld.STH_NENT_NENT p) 16

/-- The stage context of a partition's group (R446); 1024 where there is none. -/
def State.sctx (s : State) (p : Nat) : Nat :=
  let l := s.leader p
  if s.flag Fld.PRT_PSTAT_SCTXV 0 l then s.fget Fld.PRT_PSTAT_SCTX 0 l else 1024

/-- A scheduler stops for a reason (R383, R389, R390), and raises its interrupt (R528). -/
def State.stgHalt (s : State) (p reason : Nat) : State :=
  let s := s.upSched p fun d => { d with resume := if s.stg p = sgStopped then d.resume else s.stg p }
  ((s.fput Fld.STG_STATUS_STATE sgStopped p).fput Fld.STG_STATUS_SREASON reason p).irq (0x20 + p)

/-! ### Tags -/

/-- The codes of STG_TAG.STATE (R400). -/
def tgFree : Nat := 0
def tgFwdP : Nat := 1
def tgFwdD : Nat := 2
def tgBwdP : Nat := 3
def tgRet : Nat := 4

/-- The state of tag `t`. -/
def State.tag (s : State) (p t : Nat) : Nat := s.fget Fld.STG_TAG_STATE p t

/-- The STG_TAGCNT field of a state. -/
def tagCnt (st : Nat) : Field :=
  if st = tgFree then Fld.STG_TAGCNT_FREE else if st = tgFwdP then Fld.STG_TAGCNT_FWDP
  else if st = tgFwdD then Fld.STG_TAGCNT_FWDD else if st = tgBwdP then Fld.STG_TAGCNT_BWDP else Fld.STG_TAGCNT_RET

/-- A tag moves from one state to another, and the five counts with it (R363, R364). -/
def State.putTag (s : State) (p t st : Nat) : State :=
  let o := s.tag p t
  let s := s.fput (tagCnt o) (s.fget (tagCnt o) p - 1) p
  (s.fput (tagCnt st) (s.fget (tagCnt st) p + 1) p).fput Fld.STG_TAG_STATE st p t

/-- A tag enters queue `q`: 0 FWD_IN, 1 BWD_IN, 2 FWD_OUT, 3 BWD_OUT (R365, R400). -/
def State.enqueue (s : State) (p t q : Nat) : State :=
  let s := s.upSched p fun d =>
    if q = 0 then { d with fwdIn := d.fwdIn ++ [t] } else if q = 1 then { d with bwdIn := d.bwdIn ++ [t] }
    else if q = 2 then { d with fwdOut := d.fwdOut ++ [t] } else { d with bwdOut := d.bwdOut ++ [t] }
  (s.fput Fld.STG_TAG_QUEUED 1 p t).fput Fld.STG_TAG_QUEUE q p t

/-- A tag leaves its queue. -/
def State.dequeue (s : State) (p t : Nat) : State :=
  let no (l : List Nat) : List Nat := l.filter (· ≠ t)
  let s := s.upSched p fun d =>
    { d with fwdIn := no d.fwdIn, bwdIn := no d.bwdIn, fwdOut := no d.fwdOut, bwdOut := no d.bwdOut }
  (s.fput Fld.STG_TAG_QUEUED 0 p t).fput Fld.STG_TAG_QUEUE 0 p t

/-- A tag is cleared for reuse (R363). -/
def State.freeTag (s : State) (p t : Nat) : State := (s.putTag p t tgFree).rput .STG_TAG 0 p t

/-- A forward tag is accepted (R370). -/
def State.acceptFwd (s : State) (p t : Nat) : State :=
  let s := (s.rput .STG_TAG 0 p t).putTag p t tgFwdP
  (s.fput Fld.STG_TAG_STEP (s.stgStep p) p t).enqueue p t 0

/-- Whether every backward before ordinal `j` has been accepted (R388). -/
def State.bwdInOrder (s : State) (p j : Nat) : Bool :=
  let b := s.fget Fld.STG_STATUS_BCNT p
  (List.range (j - b)).all fun k => (s.sched p).bwdIn.any fun t => s.fget Fld.STG_TAG_ORD p t = b + k

/-- A backward tag is accepted; one out of ORD order is counted (R370, R388). -/
def State.acceptBwd (s : State) (p t : Nat) : State :=
  let s := if s.bwdInOrder p (s.fget Fld.STG_TAG_ORD p t) then s else s.fsat Fld.STG_ERR_OOO 1 p
  (s.putTag p t tgBwdP).enqueue p t 1

/-- A boundary tag message or injection is judged (R370, R371). -/
def State.judgeTag (s : State) (p : Nat) (m : TagMsg) : State :=
  let st := s.stg p
  let cur := s.stgStep p
  if st = sgOff || st = sgCoupled then s.fsat Fld.STG_ERR_STALE 1 p
  else if m.step.toNat = (cur + 1) % 2 ^ 32 then
    if (s.sched p).early.length < 256 then
      (s.upSched p fun d => { d with early := d.early ++ [m] }).finc Fld.STG_STATUS_EARLY 1 p
    else s.fsat Fld.STG_ERR_STALE 1 p
  else if m.step.toNat ≠ cur then s.fsat Fld.STG_ERR_STALE 1 p
  else if !m.back then
    if s.tag p m.tag = tgFree then s.acceptFwd p m.tag else s.fsat Fld.STG_ERR_DUP 1 p
  else if s.tag p m.tag = tgFwdD && m.tag ∉ (s.sched p).fwdOut then s.acceptBwd p m.tag
  else s.fsat Fld.STG_ERR_DUP 1 p

/-- The scheduler's own injection at a step start, each tag judged as a tag message of the current step (R369, R370). -/
def State.autoInject (s : State) (p : Nat) : State :=
  let role := s.fget Fld.STG_CFG_ROLE p
  if (role = 0 || role = 1) && s.flag Fld.STG_CFG_AUTOINJ p then
    s.each (List.range (s.stgN Fld.STG_CFG_NMB p)) fun s t =>
      s.judgeTag p ⟨false, t, BitVec.ofNat 32 (s.stgStep p)⟩
  else s

/-- FCNT, BCNT, FDONE and BDONE set to 0. -/
def State.zeroCounts (s : State) (p : Nat) : State :=
  let s := ((s.fput Fld.STG_STATUS_FCNT 0 p).fput Fld.STG_STATUS_BCNT 0 p).fput Fld.STG_STATUS_FDONE 0 p
  (s.fput Fld.STG_STATUS_BDONE 0 p).upSched p fun d => { d with late := [] }

/-! ### Stash slots -/

/-- The context address of byte `off` of tag `t`'s slot (R381). -/
def State.slotOff (s : State) (p t off : Nat) : Nat :=
  4096 * s.fget Fld.STH_HBASE_HBASE p + 4096 * (t * s.fget Fld.STH_SLOT_SLOTSZ p) + off

/-- A number without its bits 5:0, which the stash engine ignores (R380). -/
def low6 (n : Nat) : Nat := n / 64 * 64

/-- The 64 bytes of a slot header (R381). -/
def State.slotHeader (s : State) (p t flags : Nat) : List Byte :=
  leBytes 4 (s.stgStep p) ++ leBytes 1 t ++ leBytes 1 flags ++ leBytes 2 (s.nent p) ++ List.replicate 56 0

/-- A failed access of the stash engine stops the scheduler (R390, R696). -/
def State.stashFault (s : State) (p : Nat) (write : Bool) (a : Nat) (st : AccStatus) : State :=
  (s.contextFault srcStash (s.sctx p) write a st).stgHalt p 2

/-- A write of the stash engine in the stage context: true when it succeeded, or the scheduler stopped. -/
def State.stashWrite (s : State) (p a : Nat) (l : List (Byte × Bool)) : Bool × State :=
  let (st, t) := s.spaceWrite (.context (s.sctx p)) a l
  if st.bad then (false, t.stashFault p true (s.stopLine (.context (s.sctx p)) a l.length) st) else (true, t)

/-- Every slot header zeroed before the first dispatch (R705). -/
def State.clearHeaders (s : State) (p : Nat) : State :=
  if s.nent p = 0 then s
  else ((List.range 256).foldl (fun (ok, s) t =>
    if ok then s.stashWrite p (s.slotOff p t 0) (List.replicate 64 (0, false)) else (ok, s)) (true, s)).2

/-! ### Control -/

/-- A scheduler without its queues and copies.  A tag message that a crook port has delivered is still to be judged (R370). -/
def Sched.clear (d : Sched) : Sched := { Sched.reset with inbox := d.inbox }

/-- START (R369, R389, R705). -/
def State.stgStart (s : State) (p : Nat) : State :=
  if s.stg p = sgOff then
    let s := (s.zeroCounts p).each (List.range 256) fun s t => s.freeTag p t
    let s := (s.upSched p Sched.clear).fput Fld.STG_STATUS_EARLY 0 p
    let s := (s.fput Fld.STG_STATUS_STATE sgRunning p).autoInject p
    s.clearHeaders p
  else if s.stg p = sgStopped then s.fput Fld.STG_STATUS_STATE (s.sched p).resume p
  else s

/-- STOP (R389). -/
def State.stgStop (s : State) (p : Nat) : State :=
  if s.stg p = sgRunning || s.stg p = sgStepEnd then s.stgHalt p 0 else s

/-- NEXTSTEP (R371, R379). -/
def State.nextStep (s : State) (p : Nat) : State :=
  if s.stg p ≠ sgStepEnd then s.fsat Fld.STG_ERR_BADDONE 1 p
  else
    let s := s.each (List.range 256) fun s t => if s.tag p t = tgRet then s.freeTag p t else s
    let s := (s.fput Fld.STG_STEP_STEP (s.stgStep p + 1) p).zeroCounts p
    let early := (s.sched p).early
    let s := (s.upSched p fun d => { d with early := [] }).fput Fld.STG_STATUS_EARLY 0 p
    let s := early.foldl (fun s m => s.judgeTag p m) s
    (s.autoInject p).fput Fld.STG_STATUS_STATE sgRunning p

/-- A write of STG_CTRL: more than one bit acts as STOP alone (R395); a COUPLED scheduler discards it (R392). -/
def State.stgCtrl (s : State) (p : Nat) (val : Word64) : State :=
  let v := val.toNat
  if s.stg p = sgCoupled then s.fput Fld.STG_STATUS_CFGST 2 p
  else if 1 < b2n (bit v 0) + b2n (bit v 1) + b2n (bit v 2) then s.stgStop p
  else if bit v 0 then s.stgStart p
  else if bit v 1 then s.stgStop p
  else if bit v 2 then s.nextStep p
  else s

/-- A write of STG_CTRL by a requester. -/
def stgCtrl (who : Requester) (p : Nat) (val : Word64) (s : State) : Host.Outcome State Fault Refusal :=
  ok (s.hubReg (mayHostRm who) (s.stgCtrl p val))

/-- STG_START (R369). -/
def execStgStart (who : Requester) (p : Nat) (s : State) : Host.Outcome State Fault Refusal := stgCtrl who p 1 s

/-- STG_STOP (R389). -/
def execStgStop (who : Requester) (p : Nat) (s : State) : Host.Outcome State Fault Refusal := stgCtrl who p 2 s

/-- NEXTSTEP (R379), written to STG_CTRL. -/
def execNextstep (who : Requester) (p : Nat) (s : State) : Host.Outcome State Fault Refusal := stgCtrl who p 4 s

/-- A write of STG_INJECT (R369). -/
def State.inject (s : State) (p : Nat) (val : Word64) : State :=
  let role := s.fget Fld.STG_CFG_ROLE p
  if s.stg p = sgCoupled then s.fput Fld.STG_STATUS_CFGST 2 p
  else if role = 2 || role = 3 then s.fput Fld.STG_STATUS_CFGST 3 p
  else s.judgeTag p ⟨false, val.toNat % 256, BitVec.ofNat 32 (s.stgStep p)⟩

/-- STG_INJECT (R369). -/
def execStgInject (who : Requester) (p : Nat) (val : Word64) (s : State) : Host.Outcome State Fault Refusal :=
  ok (s.hubReg (mayHostRm who) (s.inject p val))

/-- TAG_MESSAGE_ARRIVAL (R370): the oldest boundary tag message that a crook port has delivered. -/
def execTagMessageArrival (p : Nat) (s : State) : Host.Outcome State Fault Refusal :=
  match (s.sched p).inbox with
  | [] => ok s
  | m :: rest => ok ((s.upSched p fun d => { d with inbox := rest }).judgeTag p m)

/-! ### Done reports and control messages -/

/-- The forward of tag `t` is done (R375). -/
def State.fwdDone (s : State) (p t ord : Nat) : State :=
  let s := (s.finc Fld.STG_STATUS_FDONE 1 p).fput Fld.STG_TAG_ORD ord p t
  let s := if s.nent p = 0 then s
    else s.upSched p fun d => { d with outs := d.outs ++ [⟨t, ord, 0, 0, false, false⟩] }
  let role := s.fget Fld.STG_CFG_ROLE p
  let s := s.putTag p t tgFwdD
  if role = 1 || role = 2 then s.enqueue p t 2 else (s.putTag p t tgBwdP).enqueue p t 1

/-- The backward of tag `t` is done (R375). -/
def State.bwdDone (s : State) (p t : Nat) : State :=
  let s := (s.finc Fld.STG_STATUS_BDONE 1 p).putTag p t tgRet
  let role := s.fget Fld.STG_CFG_ROLE p
  if role = 2 || role = 3 then s.enqueue p t 3 else s

/-- A done report (R375, R386). -/
def State.doneReport (s : State) (p : Nat) (m : Message) : State :=
  let w0 := (m.words.getD 0 0).toNat
  let t := w0 % 256
  let kind := bits w0 8 2
  match (s.sched p).live.find? fun x => x.1 = t && b2n x.2.1 = kind with
  | none => s.fsat Fld.STG_ERR_BADDONE 1 p
  | some x =>
    if (m.words.getD 1 0).toNat ≠ s.stgStep p then s.fsat Fld.STG_ERR_BADDONE 1 p
    else
      let n := s.fget Fld.STG_TAG_DONECNT p t + 1
      if n < s.stgN Fld.STG_CFG_NCHAN p then s.fput Fld.STG_TAG_DONECNT n p t
      else
        let s := s.fput Fld.STG_TAG_DONECNT n p t
        let s := s.upSched p fun d => { d with live := d.live.filter fun y => y ≠ x }
        if x.2.1 then s.bwdDone p t else s.fwdDone p t x.2.2

/-- A control message, or one with a DQ that the receiver does not have (R367). -/
def State.controlMsg (s : State) (p q : Nat) (m : Message) : State :=
  if q = 1 && (m.words.getD 0 0).toNat % 256 = 1 then s.nextStep p else s.fsat Fld.STG_ERR_BADDONE 1 p

/-- The oldest message from `src` that reaches a hub receiver, when its DQ is one that `want` accepts; its credit or release
has been returned (R367). -/
def State.hubTake (s : State) (src : Endpoint) (u : HubUnit) (want : Nat → Bool) : Option (Nat × Message × State) :=
  match s.oldest .posted src (.unit u) with
  | some (⟨_, _, _, .message _ q m⟩, t) =>
    if want q then some (q, m, t.sendReturn (.unit u) m.origin (if m.nack then 3 else 1)) else none
  | _ => none

/-- DONE_REPORT (R375). -/
def execDoneReport (src : Endpoint) (p : Nat) (s : State) : Host.Outcome State Fault Refusal :=
  match s.hubTake src (.stage p) (· = 0) with
  | some (_, m, t) => ok (t.doneReport p m)
  | none => ok s

/-- CONTROL_MESSAGE (R367). -/
def execControlMessage (src : Endpoint) (p : Nat) (s : State) : Host.Outcome State Fault Refusal :=
  match s.hubTake src (.stage p) (· ≠ 0) with
  | some (q, m, t) => ok (t.controlMsg p q m)
  | none => ok s

/-! ### Dispatch -/

/-- The route entries on which a dispatch goes (R366). -/
def State.dRoutes (s : State) (p : Nat) : List RouteLoc :=
  (List.range (s.stgN Fld.STG_CFG_NCHAN p)).map (RouteLoc.stage p)

/-- One message on every dispatch route, once each holds credit (R366). -/
def State.sendAll (s : State) (p : Nat) (ws : List Word32) : Option State :=
  if (s.dRoutes p).all fun l => s.rtValid l && s.rt l Fld.QUE_RSTAT_CRED ≠ 0 then
    some ((s.dRoutes p).foldl (fun s l => (s.hubSend (.unit (.stage p)) l ws (s.sctx p)).getD s) s)
  else none

/-- The four words of a dispatch message (R366). -/
def State.dispatchWords (s : State) (p buf kind t n : Nat) : List Word32 :=
  [BitVec.ofNat 32 (t + 2 ^ 8 * kind + 2 ^ 16 * buf), BitVec.ofNat 32 (s.stgStep p), BitVec.ofNat 32 n, 0]

/-- Whether the window has room (R372). -/
def State.windowOk (s : State) (p : Nat) : Bool := (s.sched p).live.length < s.stgN Fld.STG_CFG_DWIN p

/-- The backward that BCNT names, where it waits in BWD_IN and the schedule allows it (R372 to R374). -/
def State.bwdNext (s : State) (p : Nat) : Option Nat :=
  if s.windowOk p && (s.flag Fld.STG_CFG_MODE p || s.fget Fld.STG_STATUS_FDONE p = s.stgN Fld.STG_CFG_NMB p) then
    (s.sched p).bwdIn.find? fun t => s.fget Fld.STG_TAG_ORD p t = s.fget Fld.STG_STATUS_BCNT p
  else none

/-- Whether the stash-out of the forward with ordinal `j` is complete. -/
def State.stashed (s : State) (p j : Nat) : Bool :=
  (List.range 256).any fun t =>
    tgFwdD ≤ s.tag p t && s.fget Fld.STG_TAG_ORD p t = j && s.flag Fld.STG_TAG_STASHED p t

/-- The forward that may be dispatched (R372 to R374). -/
def State.fwdNext (s : State) (p : Nat) : Option Nat :=
  let f := s.fget Fld.STG_STATUS_FCNT p
  let sbuf := s.stgN Fld.STG_CFG_SBUF p
  if s.windowOk p && f < s.stgN Fld.STG_CFG_NMB p
      && (!s.flag Fld.STG_CFG_MODE p || f ≤ s.fget Fld.STG_STATUS_BCNT p + s.fget Fld.STG_CFG_WARMUP p)
      && (s.nent p = 0 || f < sbuf || s.stashed p (f - sbuf)) then (s.sched p).fwdIn.head?
  else none

/-- A tag leaves its queue, dispatched. -/
def State.launched (s : State) (p t : Nat) (back : Bool) (ord : Nat) : State :=
  let s := (s.dequeue p t).fput Fld.STG_TAG_DONECNT 0 p t
  let s := s.upSched p fun d => { d with live := d.live ++ [(t, back, ord)] }
  s.finc (if back then Fld.STG_STATUS_BCNT else Fld.STG_STATUS_FCNT) 1 p

/-- A backward dispatched, if its routes hold credit. -/
def State.sendBwd (s : State) (p t : Nat) : State :=
  let ord := s.fget Fld.STG_TAG_ORD p t
  match s.sendAll p (s.dispatchWords p (ord % s.stgN Fld.STG_CFG_RBUF p) 1 t ord) with
  | some s => s.launched p t true ord
  | none => s

/-- A forward dispatched, if its routes hold credit. -/
def State.sendFwd (s : State) (p t : Nat) : State :=
  let f := s.fget Fld.STG_STATUS_FCNT p
  match s.sendAll p (s.dispatchWords p (f % s.stgN Fld.STG_CFG_SBUF p) 0 t f) with
  | some s => s.launched p t false f
  | none => s

/-- The dispatch of a RUNNING scheduler: an eligible backward before a forward; a backward that finds its restore
incomplete counts once (R372, R384). -/
def State.dispatch (s : State) (p : Nat) : State :=
  let fwd (s : State) : State :=
    match s.fwdNext p with
    | some t => s.sendFwd p t
    | none => s
  match s.bwdNext p with
  | none => fwd s
  | some t =>
    if s.nent p = 0 || s.flag Fld.STG_TAG_RESTORED p t then s.sendBwd p t
    else if t ∈ (s.sched p).late then fwd s
    else fwd ((s.fsat Fld.STG_ERR_PFLATE 1 p).upSched p fun d => { d with late := t :: d.late })

/-- DISPATCH (R372). -/
def execDispatch (p : Nat) (s : State) : Host.Outcome State Fault Refusal :=
  if s.faults.frozen then ok s else
  ok (when (s.stg p = sgRunning) s (s.dispatch p))

/-- Whether the step is over (R378). -/
def State.stepOver (s : State) (p : Nat) : Bool :=
  s.stg p = sgRunning && s.fget Fld.STG_STATUS_BDONE p = s.stgN Fld.STG_CFG_NMB p
    && (s.sched p).fwdOut.isEmpty && (s.sched p).bwdOut.isEmpty

/-- STEPEND (R378). -/
def execStepend (p : Nat) (s : State) : Host.Outcome State Fault Refusal :=
  if s.faults.frozen then ok s else
  if !s.stepOver p then ok s else
  match s.sendAll p (s.dispatchWords p 0 2 0 (s.stgN Fld.STG_CFG_NMB p)) with
  | some t => ok (t.fput Fld.STG_STATUS_STATE sgStepEnd p)
  | none => ok s

/-! ### Emission -/

/-- The codes of CRK_STATUS.STATE in which a port takes no tag (R702): DISABLED, DOWN and FAILED. -/
def State.portShut (s : State) (k : Nat) : Bool := s.fget Fld.CRK_STATUS_STATE k ∈ [0, 1, 5]

/-- A tag emitted on a boundary route (R368, R377). -/
def State.emitOn (s : State) (p t k farp : Nat) (back : Bool) : State :=
  (s.dequeue p t).crkSend k (if back then 1 else 0) (.tag farp ⟨back, t, BitVec.ofNat 32 (s.stgStep p)⟩)

/-- EMISSION (R377, R702): the head of FWD_OUT, or of BWD_OUT where FWD_OUT has none to send. -/
def execEmission (p : Nat) (s : State) : Host.Outcome State Fault Refusal :=
  if s.faults.frozen then ok s else
  if s.stg p ≠ sgRunning then ok s else
  let fk := s.fget Fld.STG_BROUTE_FKPORT p
  let bk := s.fget Fld.STG_BROUTE_BKPORT p
  let fOk := s.flag Fld.STG_BROUTE_FVALID p && !s.portShut fk
  let bOk := s.flag Fld.STG_BROUTE_BVALID p && !s.portShut bk
  match (s.sched p).fwdOut, (s.sched p).bwdOut with
  | t :: _, l =>
    if fOk then ok (s.emitOn p t fk (s.fget Fld.STG_BROUTE_FFARP p) false)
    else match l with
      | u :: _ => ok (when bOk s (s.emitOn p u bk (s.fget Fld.STG_BROUTE_BFARP p) true))
      | [] => ok s
  | [], u :: _ => ok (when bOk s (s.emitOn p u bk (s.fget Fld.STG_BROUTE_BFARP p) true))
  | [], [] => ok s

/-! ### Stash engine -/

/-- BYTES of entry `e`. -/
def State.entBytes (s : State) (p e : Nat) : Nat := low6 (s.fget Fld.STH_ELEN_BYTES p e)

/-- A job past its exhausted entries. -/
def State.jobNext (s : State) (p : Nat) (j : StashJob) : StashJob :=
  match (List.range 17).find? fun k => s.nent p ≤ j.e + k || (if k = 0 then j.off else 0) < s.entBytes p (j.e + k) with
  | some k => if k = 0 then j else { j with e := j.e + k, off := 0 }
  | none => j

/-- Whether a job has copied every entry. -/
def State.jobDone (s : State) (p : Nat) (j : StashJob) : Bool := s.nent p ≤ (s.jobNext p j).e

/-- The oldest job of a direction replaced; none removes it. -/
def State.putJob (s : State) (p : Nat) (out : Bool) (j : Option StashJob) : State :=
  s.upSched p fun d => if out then { d with outs := j.toList ++ d.outs.tail } else { d with ins := j.toList ++ d.ins.tail }

/-- A stash-out begins with a header that is not VALID (R382); true when it was written. -/
def State.openOut (s : State) (p : Nat) (j : StashJob) : Bool × State :=
  s.stashWrite p (s.slotOff p j.tag 0) ((s.slotHeader p j.tag 0).map fun x => (x, false))

/-- A restore begins by reading the header (R383); none when the scheduler stopped, else the header's POISON. -/
def State.openIn (s : State) (p : Nat) (j : StashJob) : Option Bool × State :=
  let a := s.slotOff p j.tag 0
  match s.spaceRead (.context (s.sctx p)) a 64 with
  | (st, l, s) =>
    if st.bad then (none, s.stashFault p false (a + l.length) st)
    else
      let h := plain l
      let flags := leNat ((h.drop 5).take 1)
      if bit flags 0 && leNat (h.take 4) = s.stgStep p && leNat ((h.drop 4).take 1) = j.tag then (some (bit flags 1), s)
      else (none, (s.fsat Fld.STG_ERR_STASHMISS 1 p).stgHalt p 1)

/-- One chunk of a stash-out: the job after it, or none when it failed (R382, R385). -/
def State.chunkOut (s : State) (p : Nat) (j0 : StashJob) : Option StashJob × State :=
  let j := s.jobNext p j0
  if s.nent p ≤ j.e then (some j, s)
  else
    let n := min 4096 (s.entBytes p j.e - j.off)
    let src := low6 (s.fget Fld.STH_ESRC_SRC p j.e)
      + j.ord % s.stgN Fld.STG_CFG_SBUF p * low6 (s.fget Fld.STH_ELEN_SSTRIDE p j.e) + j.off
    match s.spaceRead (.context (s.sctx p)) src n with
    | (st, l, s) =>
      if st.bad then (none, s.stashFault p false (src + l.length) st)
      else
        match s.stashWrite p (s.slotOff p j.tag (low6 (s.fget Fld.STH_EOFF_SLOTOFF p j.e) + j.off)) l with
        | (false, s) => (none, s)
        | (true, s) =>
          (some { j with off := j.off + n, poison := j.poison || l.any (·.2) }, s.fsat Fld.STH_CNT_OUTCH 1 p)

/-- One chunk of a restore (R383, R385). -/
def State.chunkIn (s : State) (p : Nat) (j0 : StashJob) : Option StashJob × State :=
  let j := s.jobNext p j0
  if s.nent p ≤ j.e then (some j, s)
  else
    let n := min 4096 (s.entBytes p j.e - j.off)
    let src := s.slotOff p j.tag (low6 (s.fget Fld.STH_EOFF_SLOTOFF p j.e) + j.off)
    match s.spaceRead (.context (s.sctx p)) src n with
    | (st, l, s) =>
      if st.bad then (none, s.stashFault p false (src + l.length) st)
      else
        let dst := low6 (s.fget Fld.STH_EDST_DST p j.e)
          + j.ord % s.stgN Fld.STG_CFG_RBUF p * low6 (s.fget Fld.STH_EOFF_RSTRIDE p j.e) + j.off
        match s.stashWrite p dst (l.map fun x => (x.1, x.2 || j.poison)) with
        | (false, s) => (none, s)
        | (true, s) => (some { j with off := j.off + n }, s.fsat Fld.STH_CNT_INCH 1 p)

/-- The oldest stash-out moves one chunk, after its header has been cleared. -/
def State.stepOut (s : State) (p : Nat) (j : StashJob) : State :=
  let (ok, s) := if j.open1 then (true, s) else s.openOut p j
  if !ok then s.putJob p true none
  else
    let (j', s) := s.chunkOut p { j with open1 := true }
    s.putJob p true j'

/-- The oldest restore moves one chunk, after its header has been checked. -/
def State.stepIn (s : State) (p : Nat) (j : StashJob) : State :=
  let (h, s) := if j.open1 then (some j.poison, s) else s.openIn p j
  match h with
  | none => s.putJob p false none
  | some pois =>
    let (j', s) := s.chunkIn p { j with open1 := true, poison := pois }
    s.putJob p false j'

/-- Whether a scheduler has a chunk to move in a direction. -/
def State.stashWork (s : State) (p : Nat) (out : Bool) : Bool :=
  match if out then (s.sched p).outs else (s.sched p).ins with
  | j :: _ => !s.jobDone p j
  | [] => false

/-- Whether the rotation of a direction comes to scheduler `p`: after the scheduler served last, each one before `p` has no work,
or has a rate limit, which may hold it (R385).
(DESIGN CHOICE, log 85.) -/
def State.stashTurn (s : State) (p : Nat) (out : Bool) : Bool :=
  let last := if out then s.stashOut else s.stashIn
  let rate := if out then Fld.STH_RATE_OUTRATE else Fld.STH_RATE_INRATE
  (List.range ((p + 15 - last) % 16)).all fun k =>
    let q := (last + 1 + k) % 16
    !s.stashWork q out || s.fget rate q ≠ 0

/-- STASH_CHUNK (R385): one chunk of scheduler `p`'s oldest stash-out or restore, in its turn. -/
def execStashChunk (p : Nat) (out : Bool) (s : State) : Host.Outcome State Fault Refusal :=
  if s.faults.frozen || !s.stashWork p out || !s.stashTurn p out then ok s else
  if out then
    match (s.sched p).outs with
    | j :: _ => ok ({ s with stashOut := p }.stepOut p j)
    | [] => ok s
  else
    match (s.sched p).ins with
    | j :: _ => ok ({ s with stashIn := p }.stepIn p j)
    | [] => ok s

/-- STASH_OUT_COMPLETE (R382): every data write acknowledged, the header is written VALID; a list without data still writes it
first without VALID. -/
def execStashOutComplete (p : Nat) (s : State) : Host.Outcome State Fault Refusal :=
  if s.faults.frozen then ok s else
  match (s.sched p).outs with
  | [] => ok s
  | j :: _ =>
    if !(s.jobDone p j) then ok s
    else
      let (opened, t) := if j.open1 then (true, s) else s.openOut p j
      if !opened then ok (t.putJob p true none) else
      let (r, t) := t.stashWrite p (t.slotOff p j.tag 0)
        ((t.slotHeader p j.tag (1 + 2 * b2n j.poison)).map fun x => (x, false))
      let t := t.putJob p true none
      ok (if r then t.fput Fld.STG_TAG_STASHED 1 p j.tag else t)

/-- The ordinal of the next restore, which are asked for in ascending order (R384): as many as have been asked for.
(DEDUCED, log 34.) -/
def State.nextRestore (s : State) (p : Nat) : Nat :=
  ((List.range 256).filter fun t => s.flag Fld.STG_TAG_RESTORED p t).length + (s.sched p).ins.length

/-- The tag whose restore may be asked for (R384).  At LAST and ONLY a tag turns around at once, so a tag in BWD_IN is a
candidate as well.
(DEDUCED, log 34.) -/
def State.restorable (s : State) (p : Nat) : Option Nat :=
  let j := s.nextRestore p
  let rbuf := s.stgN Fld.STG_CFG_RBUF p
  if s.nent p ≠ 0 && j < s.fget Fld.STG_STATUS_BCNT p + s.stgN Fld.STG_CFG_PFDIST p &&
      (j < rbuf || (List.range 256).any fun t => s.tag p t = tgRet && s.fget Fld.STG_TAG_ORD p t = j - rbuf) then
    (List.range 256).find? fun t =>
      (s.tag p t = tgFwdD || s.tag p t = tgBwdP) && s.fget Fld.STG_TAG_ORD p t = j && s.flag Fld.STG_TAG_STASHED p t
        && !s.flag Fld.STG_TAG_RESTORED p t
  else none

/-- RESTORE_REQUEST (R384). -/
def execRestoreRequest (p : Nat) (s : State) : Host.Outcome State Fault Refusal :=
  if s.faults.frozen then ok s else
  if s.stg p ≠ sgRunning then ok s else
  match s.restorable p with
  | none => ok s
  | some t => ok (s.upSched p fun d => { d with ins := d.ins ++ [⟨t, s.fget Fld.STG_TAG_ORD p t, 0, 0, false, false⟩] })

/-- RESTORE_COMPLETE (R383): every write of the oldest restore acknowledged; a list without data still checks its
header. -/
def execRestoreComplete (p : Nat) (s : State) : Host.Outcome State Fault Refusal :=
  if s.faults.frozen then ok s else
  match (s.sched p).ins with
  | [] => ok s
  | j :: _ =>
    if !(s.jobDone p j) then ok s
    else
      let (h, t) := if j.open1 then (some j.poison, s) else s.openIn p j
      let t := t.putJob p false none
      ok (if h.isSome then t.fput Fld.STG_TAG_RESTORED 1 p j.tag else t)

/-! ### Register writes and reset -/

/-- Whether a register accepts writes only while its scheduler is OFF or STOPPED (R392, R399, R401). -/
def stgGated (r : Reg) : Bool := r.info.blk = .STH || r = .STG_DRSTAT || r.writable ≠ 0

/-- A write of a scheduler's STG or STH register that has no row of its own; a write of a register with nothing to write changes
nothing, and CFGST reports it where R392 refuses it (R392). -/
def State.stgWrite (s : State) (p : Nat) (r : Reg) (j : Nat) (val : Word64) : State :=
  if s.stg p = sgCoupled || (stgGated r && s.stg p ≠ sgOff && s.stg p ≠ sgStopped) then s.fput Fld.STG_STATUS_CFGST 2 p
  else if r.writable = 0 && r.info.w1c = 0 then s
  else
    let t := s.rput r (r.merge (s.rget r p j) val) p j
    if r = .STG_CFG && t.fget Fld.STG_CFG_RBUF p < t.fget Fld.STG_CFG_PFDIST p then s.fput Fld.STG_STATUS_CFGST 3 p
    else t.fput Fld.STG_STATUS_CFGST 1 p

/-- A write of a dispatch route (R316, R392, R399). -/
def State.stgRoute (s : State) (p k : Nat) (second : Bool) (val : Word64) : State :=
  if s.stg p ≠ sgOff && s.stg p ≠ sgStopped then s.fput Fld.STG_STATUS_CFGST 2 p
  else
    let (s, st) := s.writeRoute (.stage p k) second val
    s.fput Fld.STG_STATUS_CFGST st p

/-- A scheduler after a warm reset of its partition (R393): OFF, or COUPLED where its group's leader is another; what R12 holds
for its registers is discarded. -/
def State.schedReset (s : State) (p : Nat) : State :=
  let s := (s.dropShadows fun h => h.ofInst [.STG, .STH] p).upSched p Sched.clear
  let s := s.each (List.range 256) fun s t => s.rput .STG_TAG 0 p t
  let s := ((s.rput .STG_STATUS 0 p).rput .STG_TAGCNT Reg.STG_TAGCNT.info.rst p).rput .STG_ERR 0 p
  (s.rput .STH_CNT 0 p).fput Fld.STG_STATUS_STATE (if s.leader p = p then sgOff else sgCoupled) p

end Sys2Proof.Machine
end

