-- ==== Sys2Proof/Machine/Training.lean ====
section
/-!
DEFINITION. Machine/Training.lean: the health sets (chapter Training state and numeric health): reports, the step-hold gate,
the scale table, verdicts, and the reduction slots; and the writes of route tables, which three kinds of sender share.
-/

namespace Sys2Proof.Machine

/-! ### States -/

/-- The codes of OVB_GATE.STATE (R432). -/
def gtIdle : Nat := 0
def gtCollect : Nat := 1
def gtHeld : Nat := 2
def gtReady : Nat := 3
def gtPublish : Nat := 4

/-- The state of a gate. -/
def State.gate (s : State) (h : Nat) : Nat := s.fget Fld.OVB_GATE_STATE h

/-- Bits 7:4 of OVB_ERR (R433). -/
def ovbStale : Field := ⟨.OVB_ERR, 4, 4⟩

/-- Bits 3:0 of OVB_ERR (R433). -/
def ovbBadreq : Field := ⟨.OVB_ERR, 0, 4⟩

/-- Whether the current step has been evaluated (R426). -/
def State.lateNow (s : State) (h : Nat) : Bool := (s.hset h).evaluated && s.fget Fld.OVB_GATE_STEP h = s.stgStep h

/-! ### Reports -/

/-- The KIND of a message to a health set; 0, which no KIND is, for a message sent with another DQ (R404). -/
def ovbKind (q : Nat) (m : Message) : Nat := if q = 0 then (m.words.getD 0 0).toNat % 256 else 0

/-- The oldest message from `src` to health set `h`, when its kind is `k` or none that R409 and R419 define; its credit or
release has been returned (R404). -/
def State.ovbTake (s : State) (src : Endpoint) (h k : Nat) : Option (Nat × Message × State) :=
  match s.oldest .posted src (.unit (.health h)) with
  | some (⟨_, _, _, .message _ q m⟩, t) =>
    if ovbKind q m = k || ovbKind q m = 0 || 3 < ovbKind q m then
      some (ovbKind q m, m, t.sendReturn (.unit (.health h)) m.origin (if m.nack then 3 else 1))
    else none
  | _ => none

/-- What a message of kind `k` does at its health set, `f`; one of no kind counts in BADREQ (R404). -/
def ovbMessage (src : Endpoint) (h k : Nat) (s : State) (f : State → Message → State) :
    Host.Outcome State Fault Refusal :=
  match s.ovbTake src h k with
  | none => ok s
  | some (k', m, t) => ok (if k' = k then f t m else t.fsat ovbBadreq 1 (t.healthOf h))

/-- Whether a 32-bit pattern is a finite FP32 value. -/
def finite32 (v : Nat) : Bool := fFinite (f32 v)

/-- An AMAX report (R409, R426, R427). -/
def State.amaxReport (s : State) (h : Nat) (m : Message) : State :=
  let e := bits (m.words.getD 0 0).toNat 8 8
  let v := (m.words.getD 1 0).toNat
  let late := s.lateNow h
  let total (s : State) : State :=
    if finite32 v then s else s.upHset h fun x => { x with amaxTotal := x.amaxTotal + 1 }
  if (m.words.getD 2 0).toNat ≠ s.stgStep h then s.fsat ovbStale 1 h
  else if !s.flag Fld.OVB_SENT_VALID h e then s.fsat Fld.OVB_ERR_BADENT 1 h
  else if late then (total s).fsat Fld.OVB_ERR_LATE 1 h
  else if finite32 v then s.fput Fld.OVB_SCUR_CUR (max (s.fget Fld.OVB_SCUR_CUR h e) (v % 2 ^ 31)) h e
  else (total s).fsat Fld.OVB_NFSTEP_AMAXNF 1 h

/-- AMAX_REPORT (R409). -/
def execAmaxReport (src : Endpoint) (h : Nat) (s : State) : Host.Outcome State Fault Refusal :=
  ovbMessage src h 1 s fun s m => s.amaxReport (s.healthOf h) m

/-- A LOSS report (R412, R426). -/
def State.lossReport (s : State) (h : Nat) (m : Message) : State :=
  if (m.words.getD 2 0).toNat ≠ s.stgStep h then s.fsat ovbStale 1 h
  else if s.lateNow h then s.fsat Fld.OVB_ERR_LATE 1 h
  else
    let sum := to32 (fadd (f32 (s.fget Fld.OVB_LOSS_SUM h)) (f32 (m.words.getD 1 0).toNat))
    (s.fput Fld.OVB_LOSS_SUM sum h).fsat Fld.OVB_LOSS_NLOSS 1 h

/-- LOSS_REPORT (R412). -/
def execLossReport (src : Endpoint) (h : Nat) (s : State) : Host.Outcome State Fault Refusal :=
  ovbMessage src h 2 s fun s m => s.lossReport (s.healthOf h) m

/-! ### The scale table -/

/-- FMTMAX of a format code (R408). -/
def fmtMax (code : Nat) : Nat × Int :=
  match fmtOf code with
  | some f => match fdec f f.maxc with
    | .fin _ m e => (m, e)
    | _ => (0, 0)
  | none => (if code = 8 then 127 else 7, 0)

/-- The largest T for which a × 2^e × 2^T does not exceed FMTMAX, for a positive `a` (R410). -/
def scaleExp (code a : Nat) (e : Int) : Int :=
  let (n, f) := fmtMax code
  let t : Int := (Nat.log2 n : Int) - Nat.log2 a + f - e
  if inUnits false a (e + t) (min (e + t) f) ≤ inUnits false n f (min (e + t) f) then t else t - 1

/-- Filled positions of an entry's history (R436). -/
def State.hcount (s : State) (h e : Nat) : Nat :=
  if s.flag Fld.OVB_SENT_HANY h e then s.fget Fld.OVB_SENT_HCOUNT h e + 1 else 0

/-- The values at the filled positions of an entry's history, the newest first. -/
def State.history (s : State) (h e : Nat) : List FVal :=
  let n := s.fget Fld.OVB_SENT_HLEN h e + 1
  (List.range (min (s.hcount h e) n)).map fun k =>
    f32 (s.fget Fld.OVB_HIST_AMAX h (64 * e + (s.fget Fld.OVB_SENT_HPOS h e + 2 * n - 1 - k) % n))

/-- CUR enters the history of an entry (R410 step 1). -/
def State.pushAmax (s : State) (h e : Nat) : State :=
  let n := s.fget Fld.OVB_SENT_HLEN h e + 1
  let pos := s.fget Fld.OVB_SENT_HPOS h e % n
  let s := s.fput Fld.OVB_HIST_AMAX (s.fget Fld.OVB_SCUR_CUR h e) h (64 * e + pos)
  let s := (s.fput Fld.OVB_SENT_HCOUNT (min (s.hcount h e + 1) n - 1) h e).fput Fld.OVB_SENT_HANY 1 h e
  (s.fput Fld.OVB_SENT_HPOS ((pos + 1) % n) h e).fput Fld.OVB_SCUR_CUR 0 h e

/-- The scale exponent of an entry follows its history (R410 steps 2 and 3).  A history in which software has written a NaN,
an infinity or a negative largest value has no T: the exponent is then free.
(DEDUCED, log 35.) -/
def State.newScale (s : State) (h e : Nat) : State :=
  let l := s.history h e
  let a := l.foldl (fun a v => if flt a v then v else a) (l.headD (.fin false 0 0))
  let margin : Int := s.fget Fld.OVB_SENT_MARGIN h e
  match (if l.any fIsNan then .nan else a) with
  | .fin neg m x =>
    if m = 0 then s
    else if neg then
      let (v, s) := s.free 8
      s.fput Fld.OVB_SENT_S v.toNat h e
    else
      s.fput Fld.OVB_SENT_S (uint 8 (clampInt (-127) 127 (scaleExp (s.fget Fld.OVB_SENT_FMT h e) m x - margin))) h e
  | _ =>
    let (v, s) := s.free 8
    s.fput Fld.OVB_SENT_S v.toNat h e

/-- The mirror word of an entry (R410 step 4). -/
def State.mirrorWord (s : State) (h e : Nat) : Nat :=
  s.fget Fld.OVB_SENT_S h e + 2 ^ 8 * s.fget Fld.OVB_SENT_FMT h e + 2 ^ 15 * s.fget Fld.OVB_SENT_VALID h e

/-- The mirror word of an entry written to memory. -/
def State.writeMirror (s : State) (h e : Nat) : State :=
  let a := 1024 * s.fget Fld.OVB_MIRROR_BASE h + 4 * e
  let (st, s) := s.hubWrite (.context (s.sctx h)) a (leBytes 4 (s.mirrorWord h e))
  if st.bad then s.contextFault (srcHealth h) (s.sctx h) true a st else s

/-- The update of the scale table at a COMMIT (R410, R427). -/
def State.scaleUpdate (s : State) (h : Nat) : State :=
  s.each (List.range 256) fun s e =>
    if !s.flag Fld.OVB_SENT_VALID h e then s
    else
      let fmt := s.fget Fld.OVB_SENT_FMT h e
      let s := if 1 ≤ fmt && fmt ≤ 9 then (s.pushAmax h e).newScale h e else s
      s.writeMirror h e

/-- Every CUR becomes 0. -/
def State.clearCur (s : State) (h : Nat) : State := s.each (List.range 256) fun s e => s.rput .OVB_SCUR 0 h e

/-! ### Loss -/

/-- The update of the loss state at a COMMIT (R413). -/
def State.lossUpdate (s : State) (h : Nat) : State :=
  if s.fget Fld.OVB_LOSS_NLOSS h = 0 then s
  else
    let l := s.fget Fld.OVB_LOSS_SUM h
    let e := f32 (s.fget Fld.OVB_EMA_EMA h)
    let d := f32 (to32 (fadd (f32 l) (fneg e)))
    let q := f32 (to32 (fscale d (-(s.fget Fld.OVB_CFG_ASHIFT h : Int))))
    let e' := if s.fget Fld.OVB_LSTEPS_N h = 0 then l else to32 (fadd e q)
    (s.fput Fld.OVB_EMA_EMA e' h).fsat Fld.OVB_LSTEPS_N 1 h

/-- Whether the loss sum is a spike (R413). -/
def State.spike (s : State) (h : Nat) : Bool :=
  let k := s.fget Fld.OVB_K_K h
  s.fget Fld.OVB_LOSS_NLOSS h ≠ 0 && k ≠ 0 && finite32 (s.fget Fld.OVB_LOSS_SUM h)
    && s.fget Fld.OVB_CFG_WARM h ≤ s.fget Fld.OVB_LSTEPS_N h
    && flt (f32 (to32 (fmul (f32 k) (f32 (s.fget Fld.OVB_EMA_EMA h))))) (f32 (s.fget Fld.OVB_LOSS_SUM h))

/-! ### The gate -/

/-- The reasons that hold (R421). -/
def State.reasons (s : State) (h : Nat) : Nat :=
  let nl := s.fget Fld.OVB_LOSS_NLOSS h
  b2n (s.fget Fld.OVB_NFTHR_ARRAY h < s.fget Fld.OVB_NFSTEP_ARRAY h)
    + 2 * b2n (s.fget Fld.OVB_NFTHR_REED h < s.fget Fld.OVB_NFSTEP_REED h)
    + 4 * b2n (s.fget Fld.OVB_NFTHR_BUCKET h < s.fget Fld.OVB_NFSTEP_BUCKET h)
    + 8 * b2n (0 < s.fget Fld.OVB_NFSTEP_AMAXNF h)
    + 16 * b2n (s.spike h)
    + 32 * b2n (nl ≠ 0 && !finite32 (s.fget Fld.OVB_LOSS_SUM h))
    + 64 * b2n (s.flag Fld.OVB_CFG_LOSSREQ h && nl = 0)
    + 128 * b2n (s.hset h).holdNext

/-- PUBLISH is entered: after COMMIT the scale table and the loss state are updated, after SKIP the step's amaxes are
dropped (R410, R413, R422). -/
def State.publish (s : State) (h : Nat) (commit : Bool) : State :=
  let s := (s.fput Fld.OVB_GATE_STATE gtPublish h).upHset h fun x => { x with verdict := some commit }
  if commit then (s.scaleUpdate h).lossUpdate h else s.clearCur h

/-- HELD or READY is entered (R421). -/
def State.stepHold (s : State) (h st : Nat) : State :=
  let s := s.fput Fld.OVB_GATE_STATE st h
  let detail := leBytes 4 (s.fget Fld.OVB_GATE_REASON h) ++ leBytes 4 (s.fget Fld.OVB_GATE_STEP h)
  (s.log (srcHealth h) 0x0050 (ctxOpt (s.sctx h)) 0 detail).irq (0x10 + h)

/-- Evaluation (R420, R421). -/
def State.evaluate (s : State) (h : Nat) : State :=
  let r := s.reasons h
  let s := (s.fput Fld.OVB_GATE_REASON r h).fput Fld.OVB_GATE_STEP (s.stgStep h) h
  let s := s.upHset h fun x => { x with holdNext := false, evaluated := true }
  if r ≠ 0 then s.stepHold h gtHeld
  else if s.flag Fld.OVB_CFG_AUTOCOMMIT h then s.publish h true
  else s.stepHold h gtReady

/-- A gate request (R419, R420). -/
def State.gateRequest (s : State) (h : Nat) (m : Message) : State :=
  if (m.words.getD 2 0).toNat ≠ s.stgStep h || s.lateNow h || gtCollect < s.gate h then s.fsat ovbBadreq 1 h
  else
    let s := (s.finc Fld.OVB_GATE_REQS 1 h).fput Fld.OVB_GATE_STATE gtCollect h
    if s.fget Fld.OVB_GATE_REQS h = s.fget Fld.OVB_CFG_NCHAN h + 1 then s.evaluate h else s

/-- GATE_REQUEST (R419). -/
def execGateRequest (src : Endpoint) (h : Nat) (s : State) : Host.Outcome State Fault Refusal :=
  ovbMessage src h 3 s fun s m => s.gateRequest (s.healthOf h) m

/-- A write of OVB_GCTL (R428). -/
def State.gctl (s : State) (h : Nat) (val : Word64) : State :=
  let v := val.toNat
  let s := if bit v 2 then s.upHset h fun x => { x with holdNext := true } else s
  if s.gate h ≠ gtHeld && s.gate h ≠ gtReady then s
  else if bit v 1 then s.publish h false
  else if bit v 0 then s.publish h true
  else s

/-- A write of OVB_GCTL by a requester. -/
def gctl (who : Requester) (h : Nat) (val : Word64) (s : State) : Host.Outcome State Fault Refusal :=
  ok (s.hubReg (mayHostRm who) (s.gctl h val))

/-- GATE_RELEASE (R428). -/
def execGateRelease (who : Requester) (h : Nat) (s : State) : Host.Outcome State Fault Refusal := gctl who h 1 s

/-- GATE_SKIP (R428). -/
def execGateSkip (who : Requester) (h : Nat) (s : State) : Host.Outcome State Fault Refusal := gctl who h 2 s

/-- HOLDNEXT (R428). -/
def execHoldnext (who : Requester) (h : Nat) (s : State) : Host.Outcome State Fault Refusal := gctl who h 4 s

/-! ### Verdicts -/

/-- The verdict routes of a step (R422). -/
def State.vRoutes (s : State) (h : Nat) : List RouteLoc :=
  (List.range (s.fget Fld.OVB_CFG_NCHAN h + 1)).map (RouteLoc.verdict h)

/-- The per-step state cleared when the last verdict message leaves (R422). -/
def State.clearStep (s : State) (h : Nat) : State :=
  ((s.rput .OVB_NFSTEP 0 h).rput .OVB_LOSS 0 h).fput Fld.OVB_GATE_REQS 0 h

/-- VERDICT_SEND (R411, R422): on every verdict route, once each holds credit. -/
def execVerdictSend (h : Nat) (s : State) : Host.Outcome State Fault Refusal :=
  if s.faults.frozen then ok s else
  match (s.hset h).verdict with
  | none => ok s
  | some commit =>
    if s.gate h = gtPublish && (s.vRoutes h).all fun l => s.rtValid l && s.rt l Fld.QUE_RSTAT_CRED ≠ 0 then
      let ws : List Word32 := [BitVec.ofNat 32 ((if commit then 1 else 2) + 2 ^ 8 * s.fget Fld.OVB_GATE_REASON h),
        BitVec.ofNat 32 (s.fget Fld.OVB_GATE_STEP h), BitVec.ofNat 32 (s.fget Fld.OVB_CKPT_EPOCH h)]
      let s := (s.vRoutes h).foldl (fun s l => (s.hubSend (.unit (.health h)) l ws (s.sctx h)).getD s) s
      ok (((s.clearStep h).fput Fld.OVB_GATE_STATE gtIdle h).upHset h fun x => { x with verdict := none })
    else ok s

/-! ### Reduction slots -/

/-- RBYTES of slot `j` (R414). -/
def State.roundBytes (s : State) (h j : Nat) : Nat := 4096 * s.fget Fld.OVB_BCFG_RUNITS h j

/-- Bytes of one contributed element of slot `j`. -/
def State.celem (s : State) (h j : Nat) : Nat := if s.flag Fld.OVB_BCFG_CFMT h j then 2 else 4

/-- One element of a contribution added into its bucket (R415, R417): `x` its bytes, and whether they are poisoned. -/
def State.reduce1 (s : State) (src h j i : Nat) (x : List Byte) (pois : Bool) : State :=
  if 2 ^ 18 * s.fget Fld.OVB_BCFG_SIZE h j ≤ i then s.fsat Fld.OVB_ERR_BOVER 1 h
  else
    let sp := Space.context (s.sctx h)
    let a := 4096 * s.fget Fld.OVB_BBASE_BASE h j + 4 * i
    match s.spaceRead sp a 4 with
    | (st, l, s) =>
      if st.bad then s.contextFault src (s.sctx h) false a st
      else
        let c := if s.flag Fld.OVB_BCFG_CFMT h j then fdec bf16 (leNat x) else f32 (leNat x)
        let v := to32 (fadd (f32 (leNat (plain l))) c)
        match s.spaceWrite sp a ((leBytes 4 v).map fun y => (y, pois)) with
        | (st, s) =>
          if st.bad then s.contextFault src (s.sctx h) true a st else if finite32 v then s else s.nonFinite .bucket h 1

/-- The elements of a contribution in index order (R416): `off` is the place of the next in the data, `pw` the poisoned
8-byte words. -/
def State.reduceAll (s : State) (src h j : Nat) (pw : List Nat) : Nat → Nat → Nat → List Byte → State
  | 0, _, _, _ => s
  | k + 1, i, off, l =>
    let n := s.celem h j
    if l.length < n then s
    else (s.reduce1 src h j i (l.take n) (off / 8 ∈ pw)).reduceAll src h j pw k (i + 1) (off + n) (l.drop n)

/-- `n` contribution bytes counted; each complete round waits for its increment (R418). -/
def State.countRound (s : State) (h j n : Nat) : State :=
  let a := s.fget Fld.OVB_BSTAT_ARRIVED h j + n
  let r := s.roundBytes h j
  if r = 0 then s.fput Fld.OVB_BSTAT_ARRIVED a h j
  else
    let s := (s.fput Fld.OVB_BSTAT_ARRIVED (a % r) h j).finc Fld.OVB_BSTAT_ROUNDS (a / r) h j
    s.upHset h fun x => { x with rounds := x.rounds ++ List.replicate (a / r) j }

/-- A run of a contribution's elements from index `i` on reaches package slot `slot` (R414 to R418). -/
def State.addRun (s : State) (src slot i : Nat) (data : List Byte) (pw : List Nat) : State :=
  let h := slot / 4
  let j := slot % 4
  (s.reduceAll src h j pw data.length i 0 data).countRound h j data.length

/-- A contribution to a slot that is not VALID, and one whose data is poisoned, counted (R415, R417). -/
def State.noSlot (s : State) (slot : Nat) : State := s.fsat Fld.OVB_ERR_BSLOT 1 (slot / 4)
def State.poisonedSlot (s : State) (slot : Nat) : State := s.fsat Fld.OVB_ERR_BPOIS 1 (slot / 4)

/-- The completion counter of slot `j` plus 1 (R418). -/
def State.roundInc (s : State) (h j : Nat) : State :=
  let i := s.fget Fld.OVB_BCTR_CIDX h j
  let b := s.fget Fld.OVB_BCTR_CBORE h j
  if !s.flag Fld.OVB_BCTR_CEN h j then s
  else if s.flag Fld.OVB_BCTR_CPOOL h j then s.sendPool (.unit (.health h)) i 1 (s.sctx h)
  else if s.pstate b = psOff then s
  else s.incLocal b i 1

/-- ROUND_COMPLETION (R418): every write of the round is acknowledged. -/
def execRoundCompletion (h slot : Nat) (s : State) : Host.Outcome State Fault Refusal :=
  if s.faults.frozen then ok s else
  if slot ∈ (s.hset h).rounds then
    ok ((s.upHset h fun x => { x with rounds := x.rounds.erase slot }).roundInc h slot)
  else ok s

/-! ### Register writes and reset -/

/-- Whether the registers of R424 accept writes (R425). -/
def State.ovbOpen (s : State) (h : Nat) : Bool :=
  let p := s.leader h
  s.gate h = gtIdle && (s.stg p = sgOff || s.stg p = sgStopped)

/-- The report of a configuration write (R432). -/
def State.ovbSt (s : State) (h st : Nat) : State := s.fput Fld.OVB_GATE_CFGST st h

/-- Whether a slot register as it would stand is refused (R429). -/
def State.slotBad (s : State) (h j : Nat) (r : Reg) : Bool :=
  if r = .OVB_BCFG then
    let n := s.fget Fld.OVB_BCFG_SIZE h j
    let u := s.fget Fld.OVB_BCFG_RUNITS h j
    s.flag Fld.OVB_BCFG_VALID h j && (n < 4 || 256 < n || u = 0 || 65536 < u)
  else r = .OVB_BCTR && !s.flag Fld.OVB_BCTR_CPOOL h j && 47 < s.fget Fld.OVB_BCTR_CIDX h j

/-- A write of a register of health set `h` that has no row of its own (R425, R429, R436): `j` is its element, and for
OVB_HIST the position in the entry that OVB_HSEL selects. -/
def State.ovbWrite (s : State) (h : Nat) (r : Reg) (j : Nat) (val : Word64) : State :=
  let t := s.rput r (r.merge (s.rget r h j) val) h j
  if r = .OVB_HSEL then t
  else if r = .OVB_BBASE || r = .OVB_BCFG || r = .OVB_BCTR then
    if s.fget Fld.OVB_BSTAT_ARRIVED h j ≠ 0 then s.ovbSt h 2
    else if t.slotBad h j r then s.ovbSt h 3
    else t.ovbSt h 1
  else if !s.ovbOpen h then s.ovbSt h 2
  else if r = .OVB_HIST then
    if s.fget Fld.OVB_SENT_HLEN h (j / 64) < j % 64 then s else t.ovbSt h 1
  else t.ovbSt h 1

/-- A write of a verdict route (R434). -/
def State.ovbRoute (s : State) (h k : Nat) (second : Bool) (val : Word64) : State :=
  if !s.ovbOpen h then s.ovbSt h 2
  else
    let (s, st) := s.writeRoute (.verdict h k) second val
    s.ovbSt h st

/-- ROUTE_WRITE (R316, R399, R434). -/
def execRouteWrite (who : Requester) (tbl : RouteTable) (owner entry : Nat) (second : Bool) (val : Word64) (s : State) :
    Host.Outcome State Fault Refusal :=
  match tbl with
  | .queue =>
    let (t, st) := s.writeRoute (.bore owner entry) second val
    qctl who owner s (t.cfgst owner 0 entry st)
  | .dispatch => ok (s.hubReg (mayHostRm who) (s.stgRoute owner entry second val))
  | .verdict => ok (s.hubReg (mayHostRm who) (s.ovbRoute owner entry second val))

/-- A health set as a reset of its partition leaves it: HOLDNEXT is remembered until the next evaluation (R428). -/
def Health.clear (x : Health) : Health := { Health.reset with amaxTotal := x.amaxTotal, holdNext := x.holdNext }

/-- A health set after a warm reset of its partition (R430). -/
def State.ovbReset (s : State) (h : Nat) : State :=
  let s := (s.dropShadows fun w => w.ofInst [.OVB] h).upHset h Health.clear
  let s := ((s.clearStep h).fput Fld.OVB_GATE_STATE gtIdle h).clearCur h
  let s := s.each (List.range 4) fun s j => s.fput Fld.OVB_BSTAT_ARRIVED 0 h j
  [Reg.OVB_NFTA, .OVB_NFTR, .OVB_NFTB, .OVB_ERR, .OVB_HSEL].foldl (fun s r => s.warmReg r h) s

end Sys2Proof.Machine
end

