-- ==== Sys2Proof/Machine/Image.lean ====
section
/-!
DEFINITION. Machine/Image.lean: the program image (R448 to R451): its layout, its validity (R452 phase 1) and its
relocations.
-/

namespace Sys2Proof.Machine

/-- The number in `n` bytes of a list, from byte `off`, lowest byte first. -/
def leAt (d : List Byte) (off n : Nat) : Nat := leNat ((d.drop off).take n)

/-! ### The CRC of the IEEE 802.3 frame check sequence -/

/-- One bit of the reflected CRC-32. -/
def crcBit (c : BitVec 32) : BitVec 32 := if c.getLsbD 0 then (c >>> 1) ^^^ 0xEDB88320 else c >>> 1

/-- One byte of it. -/
def crcByte (c : BitVec 32) (x : Byte) : BitVec 32 :=
  let c := c ^^^ x.zeroExtend 32
  crcBit (crcBit (crcBit (crcBit (crcBit (crcBit (crcBit (crcBit c)))))))

/-- CRC-32 of a list of bytes (R448). -/
def crc32 (l : List Byte) : Nat := (~~~(l.foldl crcByte 0xFFFFFFFF)).toNat

/-! ### Entries -/

/-- A handle declaration (R450). -/
structure HandleDecl where
  rowoff : Nat
  save   : Bool
  size   : Nat
  mask   : Nat
  deriving DecidableEq, Repr

/-- A queue declaration (R450). -/
structure QueueDecl where
  depth : Nat
  mode  : Bool
  wakes : Bool
  cres  : Nat
  srcib : Nat
  srcch : Nat
  deriving DecidableEq, Repr

/-- A channel declaration: its route templates (R450). -/
structure ChanDecl where
  a : Nat
  b : Nat
  deriving DecidableEq, Repr

/-- An init entry (R451). -/
structure InitEnt where
  handle : Nat
  zero   : Bool
  offset : Nat
  src    : Nat
  len    : Nat
  deriving DecidableEq, Repr

/-- A relocation entry (R451). -/
structure Reloc where
  sect  : Nat
  index : Nat
  pos   : Nat
  width : Nat
  kind  : Nat
  deriving DecidableEq, Repr

/-- A bore record with its sections (R449). -/
structure BoreRec where
  place   : Nat
  minw    : Nat
  nrank   : Nat
  nlctr   : Nat
  nps     : Nat
  nrow    : Nat
  startq  : Nat
  bindh   : Nat
  entry   : Nat
  progoff : Nat
  handles : List HandleDecl
  queues  : List QueueDecl
  chans   : List ChanDecl
  rels    : List Reloc
  inits   : List InitEnt
  deriving DecidableEq, Repr

/-- A variant (R449). -/
structure Variant where
  excl   : Bool
  pblk   : Nat
  pcount : List Nat
  bores  : List BoreRec
  deriving DecidableEq, Repr

/-- Whether `n` bytes from `off` lie within an image. -/
def inImage (d : List Byte) (off n : Nat) : Bool := off + n ≤ d.length

/-- The entries of `n` bytes each that start at `off`, read by `f` from their offsets. -/
def entries {α : Type} (off n count : Nat) (f : Nat → α) : List α := (List.range count).map fun k => f (off + n * k)

/-- A bore record at offset `o`; none when a section lies outside the image. -/
def boreRec (d : List Byte) (o : Nat) : Option BoreRec :=
  let nh := leAt d (o + 3) 1
  let nq := leAt d (o + 4) 1
  let nc := leAt d (o + 6) 2
  let nps := leAt d (o + 8) 2
  let decl := leAt d (o + 16) 4
  let prog := leAt d (o + 20) 4
  let rel := leAt d (o + 24) 4
  let nrel := leAt d (o + 28) 4
  let ini := leAt d (o + 32) 4
  let nini := leAt d (o + 36) 4
  if inImage d decl (16 * (nh + nq + nc)) && inImage d prog (64 * nps) && inImage d rel (8 * nrel)
      && inImage d ini (16 * nini) then
    some {
      place := leAt d o 1, minw := leAt d (o + 1) 1, nrank := leAt d (o + 2) 1, nlctr := leAt d (o + 5) 1, nps := nps,
      nrow := leAt d (o + 10) 2, startq := leAt d (o + 12) 1, bindh := leAt d (o + 13) 1,
      entry := leAt d (o + 14) 2, progoff := prog,
      handles := entries decl 16 nh fun e => ⟨leAt d e 2, bit (leAt d (e + 2) 1) 0, leAt d (e + 4) 4, leAt d (e + 8) 8⟩,
      queues := entries (decl + 16 * nh) 16 nq fun e =>
        ⟨leAt d e 1, bit (leAt d (e + 1) 1) 0, bit (leAt d (e + 1) 1) 1, leAt d (e + 2) 2, leAt d (e + 4) 1,
          leAt d (e + 5) 1⟩,
      chans := entries (decl + 16 * (nh + nq)) 16 nc fun e => ⟨leAt d e 8, leAt d (e + 8) 8⟩,
      rels := entries rel 8 nrel fun e =>
        ⟨bits (leAt d e 4) 30 2, bits (leAt d e 4) 0 30, leAt d (e + 4) 1, leAt d (e + 5) 1, leAt d (e + 6) 1⟩,
      inits := entries ini 16 nini fun e =>
        ⟨leAt d e 1, bit (leAt d (e + 1) 1) 0, leAt d (e + 4) 4, leAt d (e + 8) 4, leAt d (e + 12) 4⟩ }
  else none

/-- The variant manifest at offset `o`; none when a part of it lies outside the image. -/
def variantAt (d : List Byte) (o : Nat) : Option Variant :=
  let nb := leAt d o 1
  let nbar := leAt d (o + 4) 2
  if !inImage d o (64 + 64 * nb + 2 * nbar) then none
  else
    match ((List.range nb).mapM fun i => boreRec d (o + 64 + 64 * i)) with
    | none => none
    | some bs =>
      some ⟨leAt d (o + 1) 1 = 1, leAt d (o + 2) 2, entries (o + 64 + 64 * nb) 2 nbar fun e => leAt d e 2, bs⟩

/-! ### Validity -/

/-- Whether a bore record's own fields and declarations are within their ranges (R449 to R452). -/
def recOk (d : List Byte) (r : BoreRec) : Bool :=
  (r.place ≤ 63 || r.place = 0xFF) && 1 ≤ r.nps && r.nps ≤ 8192 && r.entry < r.nps
    && (r.startq < r.queues.length || r.startq = 0xFF)
    && (r.bindh < r.handles.length || r.bindh = 0xFF)
    && (r.bindh = 0xFF || (r.handles.drop r.bindh).head?.any fun h => 4 ≤ h.size)
    && r.handles.all (fun h => maskValid (BitVec.ofNat 64 h.mask) && 1 ≤ h.size && h.size ≤ 131072
        && h.rowoff + (h.size + (setBitsOf h.mask).length - 1) / (setBitsOf h.mask).length ≤ r.nrow)
    && r.queues.all (fun q => 2 ≤ q.depth && q.depth ≤ 9 && q.cres ≤ 2 ^ q.depth)
    && r.inits.all (fun i => i.handle < r.handles.length && i.offset % 64 = 0 && i.src % 64 = 0 && i.len % 64 = 0
        && i.offset + i.len ≤ 256 * (r.handles.getD i.handle ⟨0, false, 0, 0⟩).size && (i.zero || inImage d i.src i.len))

/-- Whether a channel template is valid, for a bore record of a variant (R450; R316 for the checks that its write will
meet). -/
def chanOk (v : Variant) (r : BoreRec) (c : ChanDecl) : Bool :=
  let grant := bits c.a 0 10
  let nack := bit c.a 62
  if !bit c.a 63 then true
  else
    match v.bores[bits c.a 50 6]? with
    | none => false
    | some t =>
      bits c.a 60 2 = 0 && bits c.a 45 5 < t.queues.length
        && (if nack then grant = 0 && bits c.a 40 5 < r.queues.length else 1 ≤ grant && grant ≤ 512)
        && (!bit c.b 63 || bits c.b 56 6 < r.nlctr)
        && (!bit c.b 55 || bits c.b 40 14 < (if bit c.b 54 then 16 * v.pblk else t.nlctr))

/-- How many declared indices a relocation of a kind may name (R451). -/
def relCount (v : Variant) (r : BoreRec) (kind : Nat) : Nat :=
  match kind with
  | 1 => r.nps
  | 2 => r.handles.length
  | 3 => r.queues.length
  | 4 => r.nlctr
  | 5 => r.chans.length
  | 6 => r.nrank
  | 7 => 16 * v.pblk
  | 8 => v.pcount.length
  | 9 => v.bores.length
  | _ => 0

/-- Whether a relocation names a declared index and lies within its word (R452); whether the value that it produces fits WIDTH is
known once its context is placed. -/
def relOk (d : List Byte) (v : Variant) (r : BoreRec) (e : Reloc) : Bool :=
  let size := if e.sect = 0 then 64 else 32
  let off := if e.sect = 0 then r.progoff + 8 * e.index else 4 * e.index
  1 ≤ e.width && e.width ≤ 16 && 1 ≤ e.kind && e.kind ≤ 9 && e.pos + e.width ≤ size
    && (if e.sect = 0 then e.index < 8 * r.nps
        else e.sect = 1 && r.inits.any fun i => !i.zero && i.src ≤ off && off + 4 ≤ i.src + i.len)
    && bits (leAt d off (size / 8)) e.pos e.width < relCount v r e.kind

/-- Whether a variant is valid (R452). -/
def variantOk (d : List Byte) (v : Variant) : Bool :=
  1 ≤ v.bores.length && v.bores.length ≤ 64 && v.pcount.all (fun n => 1 ≤ n && n ≤ 4096)
    && v.bores.all fun r => recOk d r && r.chans.all (chanOk v r) && r.rels.all (relOk d v r)
        && r.queues.all fun q => q.mode || (v.bores[q.srcib]?.any fun t => q.srcch < t.chans.length)

/-- LENGTH of an image, from its header; none when the header is not valid (R448). -/
def imageLength (h : List Byte) : Option Nat :=
  let n := leAt h 8 4
  if h.length = 64 && leAt h 0 4 = 0x4D49474C && leAt h 4 2 = 1 && 64 ≤ n && n % 64 = 0 then some n else none

/-- The variants of an image; none when it is not valid (R452 phase 1). -/
def parseImage (d : List Byte) : Option (List Variant) :=
  let nvar := leAt d 6 1
  if nvar < 1 || 4 < nvar || crc32 (d.drop 16) ≠ leAt d 12 4 then none
  else
    match (List.range nvar).mapM fun k => variantAt d (leAt d (16 + 4 * k) 4) with
    | none => none
    | some l => if l.all (variantOk d) then some l else none

/-! ### Relocation -/

/-- The physical number of declared index `k` in a map. -/
def phys (l : List Nat) (k : Nat) : Nat := l.getD k 0

/-- The value that a relocation leaves in its field (R451). -/
def relValue (x : Ctx) (i : BoreBind) (kind v : Nat) : Nat :=
  match kind with
  | 1 => (i.psBase + v) % 8192
  | 2 => phys i.handles v
  | 3 => phys i.queues v
  | 4 => phys i.lctrs v
  | 5 => phys i.chans v
  | 6 => i.rBase + v
  | 7 => 16 * phys x.blocks (v / 16) + v % 16
  | 8 => phys x.bars v
  | _ => (x.binds.find? fun j => j.ib = v).elim 0 (·.bore)

/-- A list with bytes written from place `off` on. -/
def patch (d : List Byte) (off : Nat) (l : List Byte) : List Byte := d.take off ++ l ++ d.drop (off + l.length)

/-- An image with one relocation of a bore record applied; bits outside the field are left (R451). -/
def reloc1 (x : Ctx) (i : BoreBind) (r : BoreRec) (d : List Byte) (e : Reloc) : List Byte :=
  let n := if e.sect = 0 then 8 else 4
  let off := if e.sect = 0 then r.progoff + 8 * e.index else 4 * e.index
  let w := leAt d off n
  patch d off (leBytes n (setBits w e.pos e.width (relValue x i e.kind (bits w e.pos e.width))))

/-- Whether the value of one relocation fits its WIDTH (R452). -/
def relFits (x : Ctx) (i : BoreBind) (r : BoreRec) (d : List Byte) (e : Reloc) : Bool :=
  let n := if e.sect = 0 then 8 else 4
  let off := if e.sect = 0 then r.progoff + 8 * e.index else 4 * e.index
  relValue x i e.kind (bits (leAt d off n) e.pos e.width) < 2 ^ e.width

/-- An image with the relocations of a bore record applied in table order. -/
def relocated (x : Ctx) (i : BoreBind) (r : BoreRec) (d : List Byte) : List Byte := r.rels.foldl (reloc1 x i r) d

/-! ### Binding records -/

/-- A map of a binding record: `n` places of `w` bytes, all ones where unused (R457). -/
def mapBytes (n w : Nat) (l : List Nat) : List Byte :=
  (List.range n).flatMap fun k => leBytes w (l.getD k (2 ^ (8 * w) - 1))

/-- The binding record of one bore (R457). -/
def bindRecord (c : Nat) (x : Ctx) (i : BoreBind) : List Byte :=
  leBytes 2 c ++ leBytes 1 i.ib ++ leBytes 1 i.bore ++ leBytes 2 i.psBase ++ leBytes 1 i.rBase ++ leBytes 1 i.nrank
    ++ leBytes 2 i.rowBase ++ List.replicate 6 0 ++ mapBytes 64 1 i.handles ++ mapBytes 32 1 i.queues
    ++ mapBytes 48 1 i.lctrs ++ mapBytes 256 2 i.chans ++ mapBytes 64 2 x.blocks ++ mapBytes 64 2 x.bars
    ++ List.replicate 96 0

end Sys2Proof.Machine
end

