-- ==== Sys2Proof/Machine/Froute.lean ====
section
/-!
DEFINITION. Machine/Froute.lean: the frame routes of the embouchure and the bell (R635, R636, R652, R672), the events of TDM ports
(R649), and the loss of REFCLK_25 as streams and pipes see it (R644, R658).
-/

namespace Sys2Proof.Machine

/-! ### Tables -/

/-- TDM port `p`, stream `n`, pipe `p` and DisplayPort link `d`. -/
def State.tdm (s : State) (p : Nat) : TdmPort := mget TdmPort.reset s.emb.ports p
def State.strm (s : State) (n : Nat) : Stream := mget Stream.reset s.emb.streams n
def State.pipe (s : State) (p : Nat) : Pipe := mget Pipe.reset s.bell.pipes p
def State.dp (s : State) (d : Nat) : DpLink := mget DpLink.reset s.bell.dps d

/-- The state with one of them changed by `f`. -/
def State.upTdm (s : State) (p : Nat) (f : TdmPort → TdmPort) : State :=
  { s with emb := { s.emb with ports := mput TdmPort.reset s.emb.ports p (f (s.tdm p)) } }
def State.upStrm (s : State) (n : Nat) (f : Stream → Stream) : State :=
  { s with emb := { s.emb with streams := mput Stream.reset s.emb.streams n (f (s.strm n)) } }
def State.upPipe (s : State) (p : Nat) (f : Pipe → Pipe) : State :=
  { s with bell := { s.bell with pipes := mput Pipe.reset s.bell.pipes p (f (s.pipe p)) } }
def State.upDp (s : State) (d : Nat) (f : DpLink → DpLink) : State :=
  { s with bell := { s.bell with dps := mput DpLink.reset s.bell.dps d (f (s.dp d)) } }

/-! ### Frame routes -/

/-- A frame route: a route of the embouchure, or the one of a pipe. -/
inductive Froute
  | emb (r : Nat) | bell (p : Nat)
  deriving DecidableEq, Repr

/-- A field of EMB_FROUTE or EMB_FRSTAT, in the registers of the route. -/
def State.frGet (s : State) (x : Froute) (f : Field) : Nat :=
  match x with
  | .emb r => s.fget f 0 r
  | .bell p => s.fget ⟨if f.reg = .EMB_FROUTE then .BEL_FROUTE else .BEL_FRSTAT, f.lo, f.w⟩ p

/-- Such a field set. -/
def State.frPut (s : State) (x : Froute) (f : Field) (v : Nat) : State :=
  match x with
  | .emb r => s.fput f v 0 r
  | .bell p => s.fput ⟨if f.reg = .EMB_FROUTE then .BEL_FROUTE else .BEL_FRSTAT, f.lo, f.w⟩ v p

/-- A message on a frame route (R635, R636, R671, R672): one whose route holds no credit is not sent, and counts. -/
def State.frSend (s : State) (x : Froute) (words : List Nat) : State :=
  let cred := s.frGet x Fld.EMB_FRSTAT_CRED
  if s.frGet x Fld.EMB_FROUTE_VALID = 0 || cred = 0 then
    s.frPut x Fld.EMB_FRSTAT_NOCRED (min (s.frGet x Fld.EMB_FRSTAT_NOCRED + 1) 0xFFFF)
  else
    let (src, o) : Endpoint × Origin := match x with
      | .emb r => (.unit .emb, .here (.emb r))
      | .bell p => (.unit .bell, .here (.bell p))
    let m : Message := ⟨words.map (BitVec.ofNat 32), s.frGet x Fld.EMB_FROUTE_TAG, 0, o, 4, false, 0, none,
      s.frGet x Fld.EMB_FROUTE_CTX⟩
    let s := s.frPut x Fld.EMB_FRSTAT_CRED (cred - 1)
    let q := s.frGet x Fld.EMB_FROUTE_DQ
    if s.frGet x Fld.EMB_FROUTE_DEST = 1 then s.send .posted src (.unit .hostMsg) (.message 0 q m)
    else s.send .posted src (.unit .resmgr) (.message (s.frGet x Fld.EMB_FROUTE_IBORE) q m)

/-- EMB_CFGST (R650). -/
def State.embCfg (s : State) (st : Nat) : State := s.fput Fld.EMB_CFGST_STATUS st

/-- The report of a write of a frame route: EMB_CFGST for the embouchure's; the bell has no such register. -/
def State.frSt (s : State) (x : Froute) (st : Nat) : State :=
  match x with
  | .emb _ => s.embCfg st
  | .bell _ => s

/-- The bits of a frame route that a write sets (R652). -/
def frouteBits : Word64 := 0xCFFFFFFF800003FF

/-- A write of EMB_FROUTE or BEL_FROUTE (R652, R672). -/
def State.writeFroute (s : State) (x : Froute) (val : Word64) : State :=
  let grant := bits val.toNat 0 10
  if s.frGet x Fld.EMB_FROUTE_VALID = 1 && s.frGet x Fld.EMB_FRSTAT_CRED ≠ s.frGet x Fld.EMB_FROUTE_GRANT then s.frSt x 2
  else if grant = 0 || 512 < grant then s.frSt x 3
  else
    let s := match x with
      | .emb r => s.rput .EMB_FROUTE (val &&& frouteBits) 0 r
      | .bell p => s.rput .BEL_FROUTE (val &&& frouteBits) p
    let s := if bit val.toNat 63 then
        (((s.frPut x Fld.EMB_FRSTAT_CRED grant).frPut x Fld.EMB_FRSTAT_ORPHAN 0).frPut x Fld.EMB_FRSTAT_ORPHANS 0).frPut x
          Fld.EMB_FRSTAT_NOCRED 0
      else s
    s.frSt x 1

/-- FROUTE_WRITE (R652, R672): `r` is a route of the embouchure, or a pipe. -/
def execFrouteWrite (who : Requester) (bell : Bool) (r : Nat) (val : Word64) (s : State) : Host.Outcome State Fault Refusal :=
  ok (s.hubReg (mayPf who) (s.writeFroute (if bell then .bell r else .emb r) val))

/-! ### Port events -/

/-- An event bit of EMB_PSTAT becomes set (R649): an interrupt, and a message where EVEN is 1. -/
def State.portEvent (s : State) (p n : Nat) : State :=
  let f : Field := ⟨.EMB_PSTAT, n, 1⟩
  if s.flag f 0 p then s
  else
    let s := (s.fput f 1 0 p).irq (0x80 + p)
    if s.flag Fld.EMB_PCFG_EVEN 0 p then
      s.frSend (.emb (s.fget Fld.EMB_PCFG_EVROUTE 0 p))
        [2 * 2 ^ 14 + p, s.fget Fld.EMB_PFRAME_FRAME 0 p, 2 ^ n, (s.rget .DRN_TIME).toNat % 2 ^ 32]
    else s

/-- The event bits of a port. -/
def evGlitch : Nat := 2
def evHold : Nat := 3
def evLock : Nat := 4
def evRatechg : Nat := 5
def evRatebad : Nat := 6
def evRefdrift : Nat := 7

/-- The states of a port (R651). -/
def epOff : Nat := 0
def epAcquire : Nat := 1
def epLocked : Nat := 2
def epHoldover : Nat := 3
def epRatewait : Nat := 4

/-- The state of TDM port `p`. -/
def State.ep (s : State) (p : Nat) : Nat := s.fget Fld.EMB_PSTAT_STATE 0 p

/-- REFCLK_25 is lost: every frame in progress carries DRIFT, and so do the ports that run (R644, R658). -/
def State.driftAll (s : State) : State :=
  let s := s.each (s.emb.streams.map (·.1)) fun s n => s.upStrm n fun x => { x with drift := true }
  let s := s.each (s.bell.pipes.map (·.1)) fun s p => s.upPipe p fun x => { x with drift := true }
  s.each (List.range 16) fun s p => if s.ep p = epOff then s else s.portEvent p evRefdrift

end Sys2Proof.Machine
end

