-- ==== Sys2Proof/Machine/Speech.lean ====
section
/-!
DEFINITION. Machine/Speech.lean: the sample path of the embouchure: slot formats (R616), stream frames (R619, R620), gains and
statistics (R621, R626, R634) and the accesses of a stream to its buffers (R618, R648).  The G.711 laws are those of the ITU
Recommendation that R616 names (PRESUMED, log 27).
-/

namespace Sys2Proof.Machine

/-! ### Slot formats -/

/-- The 16-bit linear value of a µ-law octet.
(PRESUMED, log 27.) -/
def ulawDec (c : Nat) : Int :=
  let m := 255 - c % 256
  let e := m / 16 % 8
  let v : Int := ((33 + 2 * (m % 16)) * 2 ^ e - 33 : Int) * 4
  if c % 256 < 128 then -v else v

/-- The 16-bit linear value of an A-law octet.
(PRESUMED, log 27.) -/
def alawDec (c : Nat) : Int :=
  let x := (c % 256) ^^^ 0x55
  let e := x / 16 % 8
  let m := x % 16
  let v : Int := (if e = 0 then 2 * m + 1 else (2 * m + 33) * 2 ^ (e - 1) : Nat) * 8
  if 128 ≤ x then v else -v

/-- The magnitude that a law quantises: that of the value, or of its one's complement where it is negative. -/
def lawMag (v : Int) (sh : Nat) : Nat := (if v < 0 then -v - 1 else v).toNat / 2 ^ sh

/-- The µ-law octet of a 16-bit value. -/
def ulawEnc (v : Int) : Nat :=
  let a := min (lawMag v 2 + 33) 0x1FFF
  let e := Nat.log2 a - 5
  let m := a / 2 ^ (e + 1) % 16
  let y := (7 - e) * 16 + (15 - m)
  if 0 ≤ v then y + 128 else y

/-- The A-law octet of a 16-bit value. -/
def alawEnc (v : Int) : Nat :=
  let a := lawMag v 4
  let e := if a < 16 then 0 else Nat.log2 a - 3
  let m := if a < 16 then a else a / 2 ^ (e - 1) % 16
  let y := e * 16 + m
  (if 0 ≤ v then y + 128 else y) ^^^ 0x55

/-- A value held to 16 bits. -/
def clamp16 (v : Int) : Int := clampInt (-32768) 32767 v

/-- A value held to 24 bits. -/
def clamp24 (v : Int) : Int := clampInt (-8388608) 8388607 v

/-- The 16-bit value of an internal sample (R616, R621 step 6). -/
def round16 (x : Int) : Int := clamp16 ((x + 128) / 256)

/-- A slot turned into an internal sample (R616): `w` is the SLOTW code. -/
def slotDec (w : Nat) (law : Bool) (slot : Word32) : Int :=
  let v := slot.toNat
  if w = 0 then (if law then alawDec v else ulawDec v) * 256
  else if w = 1 then sext 16 v * 256
  else sext 24 (v / 256)

/-- An internal sample turned into a slot (R616). -/
def slotEnc (w : Nat) (law : Bool) (x : Int) : Word32 :=
  if w = 0 then BitVec.ofNat 32 (if law then alawEnc (round16 x) else ulawEnc (round16 x))
  else if w = 1 then BitVec.ofNat 32 (uint 16 (round16 x))
  else BitVec.ofNat 32 (256 * uint 24 x)

/-- A silent slot (R617). -/
def slotSilence (w : Nat) (law : Bool) : Word32 := if w = 0 then (if law then 0xD5 else 0xFF) else 0

/-! ### Stream entries -/

/-- A field of a stream entry: `n` bytes from byte `k` (R619). -/
def Stream.ent (x : Stream) (k n : Nat) : Nat := leNat ((x.entry.drop k).take n)

/-- The fields of R619. -/
def Stream.ctx (x : Stream) : Nat := x.ent 0 2 % 1024
def Stream.kind (x : Stream) : Nat := x.ent 2 1 % 4
def Stream.fp32 (x : Stream) : Bool := bit (x.ent 2 1) 2
def Stream.law (x : Stream) : Bool := bit (x.ent 2 1) 3
def Stream.srate (x : Stream) : Nat := x.ent 3 1
def Stream.port (x : Stream) : Nat := x.ent 4 1
def Stream.slotNo (x : Stream) : Nat := x.ent 5 1
def Stream.nfr (x : Stream) : Nat := x.ent 6 2
def Stream.buf (x : Stream) : Nat := x.ent 8 8
def Stream.hbuf (x : Stream) : Nat := x.ent 16 8
def Stream.nhfr (x : Stream) : Nat := x.ent 24 2
def Stream.route (x : Stream) : Nat := x.ent 26 2
def Stream.vthr (x : Stream) : Nat := x.ent 28 2
def Stream.vhang (x : Stream) : Nat := x.ent 30 1

/-- The kinds of a stream (R619). -/
def kdCapture : Nat := 0
def kdPlayback : Nat := 1
def kdIngress : Nat := 2
def kdEgress : Nat := 3

/-- Whether a stream belongs to a TDM port. -/
def Stream.isTdm (x : Stream) : Bool := x.kind < 2

/-- A gain set from the 16 bytes of a shadow set (R619, R630). -/
def gainOf (l : List Byte) : GainSet :=
  let f (k n : Nat) : Nat := leNat ((l.drop k).take n)
  ⟨f 0 2, f 2 2, bit (f 4 1) 0, f 5 1, f 6 1, f 8 2, f 10 2, f 12 2, f 14 2⟩

/-- Samples of 10 ms at a rate code: 8, 16, 24, 32 and 48 kHz (R620, R651). -/
def rateN (c : Nat) : Nat := [80, 160, 240, 320, 480].getD c 80

/-- The size of a frame slot (R620). -/
def Stream.fslot (x : Stream) : Nat :=
  64 + 64 * ((rateN x.srate * (if x.fp32 then 4 else 2) + 63) / 64)

/-- The slots of frame `k`, in BUF and in the host ring (R620). -/
def Stream.bufSlot (x : Stream) (k : Nat) : Nat := x.buf + k % x.nfr * x.fslot
def Stream.ringSlot (x : Stream) (k : Nat) : Nat := x.hbuf + k % x.nfr % x.nhfr * x.fslot

/-- A stored sample turned into an internal one (R621). -/
def sampleIn (fp : Bool) (v : Nat) : Int :=
  if fp then
    match f32 v with
    | .nan => 0
    | .inf neg => if neg then -8388608 else 8388607
    | .fin neg m e =>
      let k : Int := roundMag rne m (e + 23) 0
      clamp24 (if neg then -k else k)
  else sext 16 v * 256

/-- An internal sample as it is stored (R621). -/
def sampleOut (fp : Bool) (v : Int) : List Byte :=
  if fp then leBytes 4 (to32 (ofInt v (-23) false)) else leBytes 2 (uint 16 (round16 v))

/-- The samples of a slot. -/
def samplesIn (fp : Bool) : Nat → List Byte → List Int
  | 0, _ => []
  | n + 1, l =>
    let w := if fp then 4 else 2
    sampleIn fp (leNat (l.take w)) :: samplesIn fp n (l.drop w)

/-! ### Gain and statistics -/

/-- A sample after the gain, before it is clamped (R621 step 3). -/
def gained (g : Nat) (x : Int) : Int := (x * g + 2048) / 4096

/-- A sample after the gain step. -/
def applyGain (g : Nat) (x : Int) : Int := clamp24 (gained g x)

/-- PEAK, CLIPS and S of a frame (R621). -/
def peakOf (xs : List Int) : Nat := xs.foldl (fun m x => max m x.natAbs) 0
def clipsOf (g : Nat) (xs : List Int) : Nat := (xs.filter fun x => gained g x ≠ applyGain g x).length
def energyOf (g : Nat) (xs : List Int) : Nat := xs.foldl (fun t x => t + (applyGain g x).natAbs ^ 2) 0

/-- RMS as FP32: sqrt(S / n) / 2^23 (R626); the square root is taken of S × n, so that it is exact, and then divided by n. -/
def rmsOf (t n : Nat) : Nat := to32 (fscale (fdiv (fsqrt (.fin false (2 ^ 256 * (t * n)) (-256))) (.fin false n 0)) (-23))

/-- The bits of a record's FLAGS (R626). -/
def flDone : Nat := 2 ^ 14
def flVad : Nat := 2 ^ 13
def flMissing : Nat := 2 ^ 12
def flGlitch : Nat := 2 ^ 11
def flResync : Nat := 2 ^ 10
def flRatechg : Nat := 2 ^ 9
def flUnderrun : Nat := 2 ^ 8
def flOverrun : Nat := 2 ^ 7
def flDrift : Nat := 2 ^ 6
def flPoison : Nat := 2 ^ 5

/-- The energy flag of a frame (R634). -/
def Stream.energy (x : Stream) (t n : Nat) : Bool := 2 ^ 30 * (n * x.vthr) ≤ t

/-- VAD of a frame, and how many frames it still hangs over (R634). -/
def Stream.vad (x : Stream) (t n : Nat) : Bool × Nat :=
  if x.energy t n then (true, x.vhang) else (0 < x.hang, x.hang - 1)

/-- The 64 bytes of a statistics record (R626). -/
def recordBytes (num gsid flags peak rms clips sn nsamp : Nat) (t : Word64) (cin cout cdrop cins : Nat) : List Byte :=
  leBytes 4 num ++ leBytes 2 gsid ++ leBytes 2 flags ++ leBytes 4 peak ++ leBytes 4 rms ++ leBytes 2 clips ++ leBytes 2 sn
    ++ leBytes 2 nsamp ++ leBytes 2 0 ++ leBytes 8 t.toNat ++ leBytes 4 cin ++ leBytes 4 cout ++ leBytes 4 cdrop
    ++ leBytes 4 cins ++ leBytes 16 0

/-! ### States of a stream -/

/-- The STATE codes of EMB_SINFO (R650). -/
def smOff : Nat := 0
def smWait : Nat := 1
def smRun : Nat := 2
def smPaused : Nat := 3
def smFaulted : Nat := 4
def smStopped : Nat := 5

/-- The CAUSE codes. -/
def scHost : Nat := 1
def scAddr : Nat := 2
def scCtx : Nat := 3

/-- A stream ends: FAULTED and STOPPED raise an interrupt (R649).  A DISABLE that waits is over. -/
def State.strmEnd (s : State) (n st cause : Nat) : State :=
  let s := s.upStrm n fun x =>
    { x with state := st, cause := cause, cur := none, ended := [], fetched := none, slot := none, agc := none, stopAt := false }
  let s := if s.emb.cmd = some (2, n) then
      ({ s with emb := { s.emb with cmd := none } }.fput Fld.EMB_SCMDST_STATUS 1).fput Fld.EMB_SCMDST_PENDING 0
    else s
  if st = smFaulted || st = smStopped then s.irq 0x90 else s

/-- A failed access of a stream as the trouble log has it (R696, R709): the instance has 12 bits, and holds the low ones of the
stream number.
(DESIGN CHOICE, log 84.) -/
def State.strmNote (s : State) (n : Nat) (ctx : Option Nat) (a : Nat) (st : AccStatus) : State :=
  s.unitFault (srcEmb (n % 4096)) ctx a (faultCode st)

/-- An access that meets an unbacked or dark address, at device address `a` (R648, R696). -/
def State.strmFault (s : State) (n a : Nat) (st : AccStatus) : State :=
  ((s.strmNote n (ctxOpt (s.strm n).ctx) a st).upStrm n fun x => { x with out := [] }).strmEnd n smFaulted scAddr

/-- A write of `k` bytes of a stream's context from address `a` that could not be made (R648). -/
def State.strmNoWrite (s : State) (n a k : Nat) (st : AccStatus) : State :=
  let sp := Space.context (s.strm n).ctx
  s.strmFault n (s.deviceAt sp true (s.stopLine sp a k)) st

/-- Whether a context is neither FREE nor ENDED (R618). -/
def State.ctxLives (s : State) (c : Nat) : Bool :=
  s.fget Fld.CTX_STATE_STATE 0 c ≠ 0 && s.fget Fld.CTX_STATE_STATE 0 c ≠ 6

/-- What a slot that was handed to the embouchure gives (R620, R628, R648). -/
inductive SlotRead
  | fault (at_ : Nat) (st : AccStatus)   -- the device address that could not be read
  | absent
  | poisoned
  | samples (l : List Int)
  deriving DecidableEq, Repr

/-- The slot at context address `a` read and checked for frame `k` (R620, R628). -/
def State.readSlot (s : State) (x : Stream) (a k : Nat) : SlotRead × State :=
  let (st, l, s) := s.spaceRead (.context x.ctx) a x.fslot
  if st.bad then (.fault (s.deviceAt (.context x.ctx) false (a + l.length)) st, s)
  else
    let b := plain l
    if leNat (b.take 4) = k && bit (leNat ((b.drop 6).take 2)) 15 then
      (if st = .poison then .poisoned else .samples (samplesIn x.fp32 (rateN x.srate) (b.drop 64)), s)
    else if st = .poison then (.poisoned, s)
    else (.absent, s)

/-- `n` outputs of the resampler: 24-bit values that the spec bounds and does not give (R622). -/
def State.resampled (s : State) : Nat → List Int × State
  | 0 => ([], s)
  | n + 1 =>
    let (v, s) := s.free 24
    let (l, s) := s.resampled n
    (v.toInt :: l, s)

/-- The resampler: every sample unchanged where the rates are equal (R622). -/
def State.resample (s : State) (src dst : Nat) (xs : List Int) : List Int × State :=
  if src = dst then (xs, s) else s.resampled (rateN dst)

end Sys2Proof.Machine
end

