-- ==== Sys2Proof/Machine/Compose.lean ====
section
/-!
DEFINITION. Machine/Compose.lean: how a bell pipe composes a frame (R655 to R670): register sets and their validity, surfaces, the
scaler, the colour matrix, blending, skipped fetches and the flatten cache.
-/

namespace Sys2Proof.Machine

/-! ### Register sets -/

/-- The registers of the timing set and of the composition set (R657), with how many elements each has. -/
def timingRegs : List (Reg × Nat) := [(.BEL_HTIM, 1), (.BEL_VTIM, 1), (.BEL_PCLK, 1), (.BEL_DPCFG, 1)]
def layerRegs : List (Reg × Nat) :=
  [(.BEL_VADDR, 4), (.BEL_VCADDR, 4), (.BEL_VSRC, 4), (.BEL_VDST, 4), (.BEL_VCTL, 4), (.BEL_VM0, 4), (.BEL_VM1, 4),
    (.BEL_VM2, 4), (.BEL_GADDR, 8), (.BEL_GGEOM, 8), (.BEL_GCTL, 8), (.BEL_CADDR, 1), (.BEL_CPOS, 1)]
def compositionRegs : List (Reg × Nat) :=
  [(.BEL_BG, 1), (.BEL_WBBASE, 1), (.BEL_WBCFG, 1), (.BEL_FCBASE, 1)] ++ layerRegs
    ++ [(.BEL_RRECT, 16), (.BEL_REXP, 16), (.BEL_HTAP, 64), (.BEL_VTAP, 64)]

/-- A set as the shadow registers of pipe `p` hold it. -/
def State.shadowSet (s : State) (p : Nat) (l : List (Reg × Nat)) : Map Word64 :=
  l.foldl (fun m x => (List.range x.2).foldl (fun m j => mput 0 m (regKey x.1 0 j) (s.rget x.1 p j)) m) []

/-- A field of a register in a set. -/
def setGet (m : Map Word64) (f : Field) (j : Nat := 0) : Nat := bits (mget 0 m (regKey f.reg 0 j)).toNat f.lo f.w

/-- Such a field set. -/
def setPut (m : Map Word64) (f : Field) (v : Nat) (j : Nat := 0) : Map Word64 :=
  let k := regKey f.reg 0 j
  mput 0 m k (BitVec.ofNat 64 (setBits (mget 0 m k).toNat f.lo f.w v))

/-- Active width and height of a timing set. -/
def hact (t : Map Word64) : Nat := setGet t Fld.BEL_HTIM_HACTIVE
def vact (t : Map Word64) : Nat := setGet t Fld.BEL_VTIM_VACTIVE

/-- Whether a number lies in a range. -/
def within (lo hi n : Nat) : Bool := lo ≤ n && n ≤ hi

/-- A lane rate in kb/s (R687). -/
def dpRate (c : Nat) : Nat := [1620000, 2700000, 5400000, 8100000].getD c 0

/-- The limits of R659 that apply to every timing set. -/
def timingFits (t : Map Word64) : Bool :=
  let g := setGet t
  within 64 3840 (hact t) && hact t % 8 = 0 && within 64 2160 (vact t)
    && within 8 4095 (g Fld.BEL_HTIM_HFP) && within 8 4095 (g Fld.BEL_HTIM_HSYNC) && within 8 4095 (g Fld.BEL_HTIM_HBP)
    && within 1 4095 (g Fld.BEL_VTIM_VFP) && within 1 4095 (g Fld.BEL_VTIM_VSYNC) && within 1 4095 (g Fld.BEL_VTIM_VBP)
    && within 25000 600000 (g Fld.BEL_PCLK_KHZ)

/-- The limits of R659 marked DP. -/
def linkFits (t : Map Word64) : Bool :=
  let lanes := setGet t Fld.BEL_DPCFG_LANES
  let ssc := if setGet t Fld.BEL_DPCFG_SSC = 1 then 995 else 1000
  lanes ≠ 3 && 10000 * (24 * setGet t Fld.BEL_PCLK_KHZ) ≤ 8 * 2 ^ lanes * dpRate (setGet t Fld.BEL_DPCFG_RATE) * ssc

/-- Whether a timing set is valid (R659). -/
def timingOk (t : Map Word64) (dp : Bool) : Bool := timingFits t && (!dp || linkFits t)

/-! ### Layers -/

/-- A layer: a video layer, a graphic layer, the flatten group, or the cursor (R655, R667). -/
inductive Layer
  | video (v : Nat) | graphic (g : Nat) | group | cursor
  deriving DecidableEq, Repr

/-- Whether a video or graphic layer is enabled, and its Z. -/
def Layer.on (m : Map Word64) : Layer → Bool
  | .video v => setGet m Fld.BEL_VCTL_EN v = 1
  | .graphic g => setGet m Fld.BEL_GCTL_EN g = 1
  | .cursor => setGet m Fld.BEL_CPOS_EN = 1
  | .group => true

def Layer.z (m : Map Word64) : Layer → Nat
  | .video v => setGet m Fld.BEL_VCTL_Z v
  | .graphic g => setGet m Fld.BEL_GCTL_Z g
  | _ => 16

/-- The video and graphic layers. -/
def planes : List Layer := (List.range 4).map .video ++ (List.range 8).map .graphic

/-- Those of the flatten group (R667). -/
def Layer.isStatic (m : Map Word64) : Layer → Bool
  | .graphic g => setGet m Fld.BEL_GCTL_STATIC g = 1
  | _ => false

/-- The enabled layers in ascending Z. -/
def byZ (m : Map Word64) (l : List Layer) : List Layer :=
  (List.range 16).flatMap fun z => l.filter fun x => x.on m && x.z m = z

/-- The members of the flatten group, in ascending Z. -/
def groupOf (m : Map Word64) : List Layer := (byZ m planes).filter (Layer.isStatic m)

/-- The layers as they are composed: the group in the place of its members, the cursor last (R662, R667). -/
def stackLayers (m : Map Word64) : List Layer :=
  let first := (groupOf m).head?
  (byZ m planes).flatMap (fun x => if x.isStatic m then (if some x = first then [.group] else []) else [x])
    ++ (if Layer.on m .cursor then [.cursor] else [])

/-- Whether the scale limits hold in one direction (R663). -/
def scaleOk (src dst top : Nat) : Bool := src ≤ top && (src + 3) / 4 ≤ dst && dst ≤ 8 * src

/-- Whether a video layer is valid (R661). -/
def videoOk (m t : Map Word64) (v : Nat) : Bool :=
  let g (f : Field) : Nat := setGet m f v
  g Fld.BEL_VDST_X + g Fld.BEL_VDST_DW ≤ hact t && g Fld.BEL_VDST_Y + g Fld.BEL_VDST_DH ≤ vact t
    && scaleOk (g Fld.BEL_VSRC_SW) (g Fld.BEL_VDST_DW) 4096 && scaleOk (g Fld.BEL_VSRC_SH) (g Fld.BEL_VDST_DH) 2304
    && g Fld.BEL_VCTL_FMT ≤ 2

/-- Whether a graphic layer's format is one of its kind (R656). -/
def graphicOk (m : Map Word64) (g : Nat) : Bool :=
  let f := setGet m Fld.BEL_GCTL_FMT g
  f = 0 || (3 ≤ f && f ≤ 5)

/-- Whether a guarded region is enabled: CHECK or LEARN. -/
def regionOn (m : Map Word64) (r : Nat) : Bool :=
  let k := setGet m Fld.BEL_REXP_MODE r
  k = 1 || k = 2

/-- Whether a guarded region lies in the active area. -/
def regionOk (m t : Map Word64) (r : Nat) : Bool :=
  let g (f : Field) : Nat := setGet m f r
  g Fld.BEL_RRECT_X + g Fld.BEL_RRECT_W ≤ hact t && g Fld.BEL_RRECT_Y + g Fld.BEL_RRECT_H ≤ vact t

/-- Whether the flatten group's Z values follow each other (R667): with distinct Z values, nothing then lies between them. -/
def groupOk (m : Map Word64) : Bool :=
  match (groupOf m).map (Layer.z m) with
  | [] => true
  | z :: l => l.getLastD z + 1 = z + (z :: l).length

/-- Whether enabled layers carry distinct Z values. -/
def zOk (m : Map Word64) : Bool :=
  (List.range 16).all fun z => ((planes.filter fun x => x.on m && x.z m = z).length ≤ 1 : Bool)

/-- Whether a composition set is valid against a timing set (R661). -/
def compositionOk (m t : Map Word64) : Bool :=
  zOk m && groupOk m
    && (List.range 4).all (fun v => !Layer.on m (.video v) || videoOk m t v)
    && (List.range 8).all (fun g => !Layer.on m (.graphic g) || graphicOk m g)
    && (List.range 16).all fun r => !regionOn m r || regionOk m t r

/-! ### Arithmetic -/

/-- A pixel: alpha and three components of 8 bits. -/
structure Px where
  a  : Nat
  c0 : Nat
  c1 : Nat
  c2 : Nat
  deriving DecidableEq, Repr

/-- x / 255 to nearest (R662). -/
def div255 (x : Nat) : Nat := (x + 128 + (x + 128) / 256) / 256

/-- A source pixel over a destination (R662). -/
def Px.above (p d : Px) : Px :=
  let f (s d : Nat) : Nat := min 255 (s + div255 (d * (255 - p.a)))
  ⟨f p.a d.a, f p.c0 d.c0, f p.c1 d.c1, f p.c2 d.c2⟩

/-- A pixel from an ARGB8888 word. -/
def Px.ofWord (w : Nat) : Px := ⟨bits w 24 8, bits w 16 8, bits w 8 8, bits w 0 8⟩

/-- A pixel as an ARGB8888 word. -/
def Px.word (p : Px) : Nat := 2 ^ 24 * p.a + 2 ^ 16 * p.c0 + 2 ^ 8 * p.c1 + p.c2

/-- Colours multiplied by an alpha (R663, R665). -/
def Px.premul (p : Px) : Px := ⟨p.a, div255 (p.c0 * p.a), div255 (p.c1 * p.a), div255 (p.c2 * p.a)⟩

/-- A pixel scaled by a plane alpha (R665). -/
def Px.fade (p : Px) (pa : Nat) : Px := ⟨div255 (p.a * pa), div255 (p.c0 * pa), div255 (p.c1 * pa), div255 (p.c2 * pa)⟩

/-- A value held to 8 bits. -/
def clamp8 (v : Int) : Nat := (clampInt 0 255 v).toNat

/-- One row of the colour matrix (R664). -/
def matrixRow (m : Map Word64) (c0 c1 c2 off : Field) (v : Nat) (p : Px) : Nat :=
  let g (f : Field) : Int := sext 16 (setGet m f v)
  clamp8 ((g c0 * p.c0 + g c1 * p.c1 + g c2 * p.c2 + 64 * g off + 2048) / 4096)

/-- The colour matrix of a video layer (R664). -/
def matrixOf (m : Map Word64) (v : Nat) (p : Px) : Px :=
  ⟨p.a, matrixRow m Fld.BEL_VM0_C0 Fld.BEL_VM0_C1 Fld.BEL_VM0_C2 Fld.BEL_VM0_OFF v p,
    matrixRow m Fld.BEL_VM1_C0 Fld.BEL_VM1_C1 Fld.BEL_VM1_C2 Fld.BEL_VM1_OFF v p,
    matrixRow m Fld.BEL_VM2_C0 Fld.BEL_VM2_C1 Fld.BEL_VM2_C2 Fld.BEL_VM2_OFF v p⟩

/-- Where destination index `x` falls in the source: the sample before it and the phase (R663). -/
def scalePos (src dst x : Nat) : Int × Nat :=
  let step := 65536 * src / dst
  let p : Int := x * step + step / 2 - 32768
  (p / 65536, (p / 2048 % 32).toNat)

/-- Tap `k` of phase `ph`, bilinear or from a loaded table (R663, R692). -/
def tapOf (m : Map Word64) (table : Reg) (loaded : Bool) (ph k : Nat) : Int :=
  if loaded then sext 12 (setGet m ⟨table, 16 * (k % 4), 12⟩ (2 * ph + k / 4))
  else if k = 3 then 32 * (32 - ph)
  else if k = 4 then 32 * ph
  else 0

/-- The taps of destination index `x` that are not 0: the source index of each, and its weight. -/
def tapsAt (m : Map Word64) (table : Reg) (loaded : Bool) (src dst x : Nat) : List (Nat × Int) :=
  let (i, ph) := scalePos src dst x
  (List.range 8).filterMap fun k =>
    let w := tapOf m table loaded ph k
    if w = 0 then none else some ((clampInt 0 (src - 1 : Nat) (i + k - 3)).toNat, w)

/-- The scaler's sum over weighted samples (R663). -/
def filterPx (l : List (Px × Int)) : Px :=
  let f (g : Px → Nat) : Nat := clamp8 ((l.foldl (fun t x => t + x.2 * (g x.1 : Int)) 512) / 1024)
  ⟨f (·.a), f (·.c0), f (·.c1), f (·.c2)⟩

/-! ### Fetching -/

/-- A frame being composed: the device, the layers that have met a fault, and what the frame has met. -/
structure Scan where
  s     : State
  pipe  : Nat
  ctx   : Nat
  dead  : List Layer
  fault : Bool
  pois  : Bool

/-- A fetch of bytes for a layer (R654, R680, R696): none for a transparent pixel. -/
def Scan.read (c : Scan) (x : Layer) (a n : Nat) : Option (List Byte) × Scan :=
  if x ∈ c.dead then (none, c)
  else
    let (st, l, s) := c.s.spaceRead (.context c.ctx) a n
    if st.bad then
      (none, { c with s := s.contextFault (srcBell c.pipe) c.ctx false (a + l.length) st, dead := x :: c.dead, fault := true })
    else if st = .poison then (none, { c with s := s, pois := true })
    else (some (plain l), { c with s := s })

/-- The alpha of an A4 pixel from the four planes of its group (R57, R656). -/
def Scan.a4 (c : Scan) (x : Layer) (row px : Nat) : Option Nat × Scan :=
  let j := px % 128
  (List.range 4).foldl (fun (v, c) k =>
    match v with
    | none => (none, c)
    | some n =>
      match c.read x (row + 64 * (px / 128) + 16 * k + j / 8) 1 with
      | (some l, c) => (some (n + b2n (bit (leNat l) (j % 8)) * 2 ^ k), c)
      | (none, c) => (none, c)) (some 0, c)

/-- Pixel (`px`, `py`) of a surface (R656): stored components, before any alpha is applied; a colour for A8 and A4. -/
def Scan.pixel (c : Scan) (x : Layer) (fmt addr caddr pitch colour px py : Nat) : Option Px × Scan :=
  let row := addr + 64 * pitch * py
  let col := Px.ofWord colour
  let word (r : Option (List Byte) × Scan) (f : Nat → Px) : Option Px × Scan := (r.1.map fun l => f (leNat l), r.2)
  if fmt = 0 then word (c.read x (row + 4 * px) 4) Px.ofWord
  else if fmt = 1 then
    match c.read x (row + px) 1 with
    | (none, c) => (none, c)
    | (some y, c) =>
      word (c.read x (caddr + 64 * pitch * (py / 2) + 2 * (px / 2)) 2) fun v => ⟨255, leNat y, v % 256, v / 256⟩
  else if fmt = 2 then
    word (c.read x (row + 4 * (px / 2)) 4) fun v => ⟨255, bits v (16 * (px % 2)) 8, bits v 8 8, bits v 24 8⟩
  else if fmt = 3 then
    word (c.read x (row + 2 * px) 2) fun v => ⟨17 * bits v 12 4, 17 * bits v 8 4, 17 * bits v 4 4, 17 * bits v 0 4⟩
  else if fmt = 4 then word (c.read x (row + px) 1) fun v => { col with a := v }
  else
    match c.a4 x row px with
    | (none, c) => (none, c)
    | (some a, c) => (some { col with a := 17 * a }, c)

/-- A list of weighted source pixels fetched: none where one of them is transparent. -/
def Scan.gatherPx (c : Scan) (f : Scan → Nat → Option Px × Scan) : List (Nat × Int) → Option (List (Px × Int)) × Scan
  | [] => (some [], c)
  | (i, w) :: l =>
    match f c i with
    | (none, c) => (none, c)
    | (some p, c) =>
      match c.gatherPx f l with
      | (none, c) => (none, c)
      | (some r, c) => (some ((p, w) :: r), c)

/-- A pixel of a video layer's destination rectangle (R663).
(DEDUCED, log 59.) -/
def Scan.videoPx (c : Scan) (m : Map Word64) (v dx dy : Nat) : Option Px × Scan :=
  let g (f : Field) : Nat := setGet m f v
  let fmt := g Fld.BEL_VCTL_FMT
  let loaded := g Fld.BEL_VCTL_FILT = 1
  let keep := fmt = 0 && g Fld.BEL_VCTL_PIXALPHA = 1
  let sw := g Fld.BEL_VSRC_SW
  let hs := tapsAt m .BEL_HTAP loaded sw (g Fld.BEL_VDST_DW) dx
  let vs := tapsAt m .BEL_VTAP loaded (g Fld.BEL_VSRC_SH) (g Fld.BEL_VDST_DH) dy
  let src (c : Scan) (sy sx : Nat) : Option Px × Scan :=
    let r := c.pixel (.video v) fmt (64 * g Fld.BEL_VADDR_ADDR) (64 * g Fld.BEL_VCADDR_CADDR) (g Fld.BEL_VSRC_PITCH) 0 sx sy
    (r.1.map fun p => if keep then p else { p with a := 255 }, r.2)
  let line (c : Scan) (sy : Nat) : Option Px × Scan :=
    let r := c.gatherPx (fun c sx => src c sy sx) hs
    (r.1.map filterPx, r.2)
  let r := c.gatherPx line vs
  (r.1.map fun l =>
    let p := matrixOf m v (filterPx l)
    ({ p with a := div255 ((if keep then p.a else 255) * g Fld.BEL_VCTL_PALPHA) } : Px).premul, r.2)

/-- A pixel of a graphic layer's rectangle (R665). -/
def Scan.graphicPx (c : Scan) (m : Map Word64) (i gx gy : Nat) : Option Px × Scan :=
  let g (f : Field) : Nat := setGet m f i
  let fmt := g Fld.BEL_GCTL_FMT
  let r := c.pixel (.graphic i) fmt (64 * g Fld.BEL_GADDR_ADDR) 0 (g Fld.BEL_GGEOM_PITCH) (g Fld.BEL_GCTL_COLOUR) gx gy
  (r.1.map fun p =>
    (if (fmt = 0 || fmt = 3) && g Fld.BEL_GCTL_PREMUL = 1 then p else p.premul).fade (g Fld.BEL_GCTL_PALPHA), r.2)

/-- What a frame is composed with: the sets, whether the cache holds F, and whether this frame fills it. -/
structure Job where
  comp  : Map Word64
  tim   : Map Word64
  cache : Bool
  fill  : Bool

/-- The row pitch of the flatten cache and of a written frame, in bytes (R668, R670). -/
def framePitch (t : Map Word64) : Nat := 64 * ((hact t * 4 + 63) / 64)

/-- A pixel of the cursor (R655): its surface has no PITCH field, so its rows are 64 × 4 bytes (DEDUCED, log 28). -/
def Scan.cursorPx (c : Scan) (m : Map Word64) (x y : Nat) : Option Px × Scan :=
  let dx : Int := x - sext 13 (setGet m Fld.BEL_CPOS_X)
  let dy : Int := y - sext 13 (setGet m Fld.BEL_CPOS_Y)
  if 0 ≤ dx && dx < 64 && 0 ≤ dy && dy < 64 then
    c.pixel .cursor 0 (64 * setGet m Fld.BEL_CADDR_ADDR) 0 4 0 dx.toNat dy.toNat
  else (none, c)

/-- Whether (`x`, `y`) falls in a rectangle. -/
def inRect (x y rx ry w h : Nat) : Bool := rx ≤ x && x < rx + w && ry ≤ y && y < ry + h

/-- A layer's pixel at (`x`, `y`) of the frame, for a layer that has sources of its own. -/
def Scan.planePx (c : Scan) (m : Map Word64) (l : Layer) (x y : Nat) : Option Px × Scan :=
  match l with
  | .video v =>
    let g (f : Field) : Nat := setGet m f v
    let (rx, ry) := (g Fld.BEL_VDST_X, g Fld.BEL_VDST_Y)
    if inRect x y rx ry (g Fld.BEL_VDST_DW) (g Fld.BEL_VDST_DH) then c.videoPx m v (x - rx) (y - ry) else (none, c)
  | .graphic i =>
    let g (f : Field) : Nat := setGet m f i
    let (rx, ry) := (g Fld.BEL_GGEOM_X, g Fld.BEL_GCTL_Y)
    if inRect x y rx ry (g Fld.BEL_GGEOM_W) (g Fld.BEL_GGEOM_H) then c.graphicPx m i (x - rx) (y - ry) else (none, c)
  | .cursor => c.cursorPx m x y
  | .group => (none, c)

/-- Pixel F of the flatten group from its sources, over transparent black (R667). -/
def Scan.groupSrc (c : Scan) (m : Map Word64) (x y : Nat) : Px × Scan :=
  (groupOf m).foldl (fun (d, c) l =>
    match c.planePx m l x y with
    | (some p, c) => (p.above d, c)
    | (none, c) => (d, c)) (⟨0, 0, 0, 0⟩, c)

/-- A layer's pixel at (`x`, `y`), F from the cache where it is valid, and as `f` where this frame has composed it (R668). -/
def Scan.layerPx (c : Scan) (j : Job) (f : Option Px) (l : Layer) (x y : Nat) : Option Px × Scan :=
  match l with
  | .group =>
    if j.cache then
      c.pixel .group 0 (64 * setGet j.comp Fld.BEL_FCBASE_BASE) 0 ((hact j.tim * 4 + 63) / 64) 0 x y
    else
      match f with
      | some p => (some p, c)
      | none => let (p, c) := c.groupSrc j.comp x y; (some p, c)
  | _ => c.planePx j.comp l x y

/-- Whether a layer is an opaque video layer that covers (`x`, `y`) (R666). -/
def opaqueAt (m : Map Word64) (l : Layer) (x y : Nat) : Bool :=
  match l with
  | .video v =>
    let g (f : Field) : Nat := setGet m f v
    g Fld.BEL_VCTL_PALPHA = 255 && !(g Fld.BEL_VCTL_FMT = 0 && g Fld.BEL_VCTL_PIXALPHA = 1)
      && inRect x y (g Fld.BEL_VDST_X) (g Fld.BEL_VDST_Y) (g Fld.BEL_VDST_DW) (g Fld.BEL_VDST_DH)
  | _ => false

/-- Layers composed from the topmost down, given in descending Z: below an opaque video layer nothing is fetched, unless that
layer's own pixel is transparent because of a fault or poison (R662, R666, R680). -/
def Scan.blend (c : Scan) (j : Job) (f : Option Px) (d : Px) (x y : Nat) : List Layer → Px × Scan
  | [] => (d, c)
  | l :: below =>
    match c.layerPx j f l x y with
    | (some p, c) =>
      if opaqueAt j.comp l x y then (p, c)
      else
        let (q, c) := c.blend j f d x y below
        (p.above q, c)
    | (none, c) => c.blend j f d x y below

/-- One output pixel, and F where this frame fills the cache: F is then composed at every pixel (R668).
(DEDUCED, log 59.) -/
def Scan.outPx (c : Scan) (j : Job) (layers : List Layer) (x y : Nat) : (Px × Px) × Scan :=
  let (f, c) := if j.fill then (let (p, c) := c.groupSrc j.comp x y; (some p, c)) else (none, c)
  let bg := { Px.ofWord (setGet j.comp Fld.BEL_BG_BGCOL) with a := 255 }
  let (p, c) := c.blend j f bg x y layers.reverse
  ((p, f.getD ⟨0, 0, 0, 0⟩), c)

/-- One row of the frame: output pixels and F pixels. -/
def Scan.outRow (c : Scan) (j : Job) (layers : List Layer) (y : Nat) : (List Px × List Px) × Scan :=
  let r := (List.range (hact j.tim)).foldl (fun (a, c) x =>
    let ((p, f), c) := Scan.outPx c j layers x y
    ((p :: a.1, f :: a.2), c)) (([], []), c)
  ((r.1.1.reverse, r.1.2.reverse), r.2)

/-- The frame row by row. -/
def Scan.frame (c : Scan) (j : Job) (layers : List Layer) : List (List Px × List Px) × Scan :=
  let r := (List.range (vact j.tim)).foldl (fun (a, c) y =>
    let (row, c) := Scan.outRow c j layers y
    (row :: a, c)) ([], c)
  (r.1.reverse, r.2)

/-- The bytes of a row of pixels as ARGB8888. -/
def rowBytes (l : List Px) : List Byte := l.flatMap fun p => leBytes 4 p.word

/-- Rows written to a buffer of pipe `p`'s context: whether every one was (R668, R670, R680, R696). -/
def State.putRows (s : State) (p ctx base pitch : Nat) : Nat → List (List Px) → Bool × State
  | _, [] => (true, s)
  | y, r :: l =>
    let a := base + y * pitch
    let d := rowBytes r
    let (st, s) := s.hubWrite (.context ctx) a d
    if st.bad then (false, s.contextFault (srcBell p) ctx true (s.stopLine (.context ctx) a d.length) st)
    else s.putRows p ctx base pitch (y + 1) l

end Sys2Proof.Machine
end

