-- ==== Sys2Proof/Machine/Residency.lean ====
section
/-!
DEFINITION. Machine/Residency.lean: the residency manager (chapter Partitions, contexts and model residency): loads, the
fit check, binding, evictions, endings, starts, arrivals for contexts, and the invalidation of translations.  Partition
rebuilds are in Machine/Recovery.lean.
-/

namespace Sys2Proof.Machine

/-! ### Contexts -/

/-- The codes of PRT_PSTAT.STATE (R473). -/
def ptDown : Nat := 0
def ptRebuilding : Nat := 1
def ptUp : Nat := 2

/-- Whether a partition is UP and the effective leader of its group (R439, R465). -/
def State.homeUp (s : State) (p : Nat) : Bool := s.leader p = p && s.fget Fld.PRT_PSTAT_STATE 0 p = ptUp

/-- Contexts homed on a partition that are not FREE (R473). -/
def State.homedOn (s : State) (p : Nat) : List Nat :=
  (List.range 1024).filter fun c => s.cxState c ≠ cxFree && s.homeOfCtx c = p

/-- PRT_PSTAT.NCTX of every partition brought up to date. -/
def State.putNctx (s : State) : State :=
  s.each (List.range 16) fun s p => s.fput Fld.PRT_PSTAT_NCTX (s.homedOn p).length 0 p

/-- The event of a context that has entered RESIDENT, ENDED or IDLE (R528). -/
def State.ctxEvent (s : State) (c : Nat) : State :=
  if s.flag Fld.HIF_CTXH_EVEN 0 c then s.msix (s.ctxFn c) (s.fget Fld.HIF_CTXH_EVEC 0 c) else s

/-- The bore mask of a context (R477). -/
def State.putMask (s : State) (c : Nat) : State :=
  s.rput .CTX_BORES (BitVec.ofNat 64 ((s.ctx c).binds.foldl (fun m i => setBits m i.bore 1 1) 0)) 0 c

/-- Bores asked to wake for the residency manager, but for those that a trigger is on its way to (R558). -/
def State.wakeAll (s : State) (l : List Nat) : State :=
  s.each l fun s b =>
    if s.pstate b = psActive || (b, wakeResidency) ∈ s.drone.wakeq then s else s.wake b wakeResidency

/-- Whether every bore of a list is ACTIVE. -/
def State.allActive (s : State) (l : List Nat) : Bool := l.all fun b => s.pstate b = psActive

/-- The bores that a context is bound to. -/
def State.boundBores (s : State) (c : Nat) : List Nat := (s.ctx c).binds.map (·.bore)

/-! ### Operations in order (R465) -/

/-- The operation of context `c` is over. -/
def State.dropOp (s : State) (c : Nat) : State :=
  { s with cmds := s.cmds.filter fun x => !(x.target = c && x.kind ≠ .rebuild) }

/-! ### What the bores have left (R453) -/

/-- The first place of a run of `need` free places among `n`.
(DESIGN CHOICE, log 36.) -/
def firstRun (used : Nat → Bool) (n need : Nat) : Option Nat :=
  (List.range (n + 1)).find? fun a => a + need ≤ n && (List.range need).all fun k => !used (a + k)

/-- The longest run of free places among `n`.
(DESIGN CHOICE, log 36.) -/
def longestRun (used : Nat → Bool) (n : Nat) : Nat :=
  ((List.range n).foldl (fun (best, cur) k => if used k then (best, 0) else (max best (cur + 1), cur + 1)) (0, 0)).1

/-- What contexts hold on bore `b`. -/
def State.holdings (s : State) (b : Nat) : List BoreBind :=
  s.ctxs.flatMap fun x => x.2.binds.filter fun i => i.bore = b

/-- Whether a bundle of bore `b` is held. -/
def usedBundle (l : List BoreBind) (k : Nat) : Bool := l.any fun i => i.psBase ≤ k && k < i.psBase + i.nps

/-- Whether a rank of bore `b` is held. -/
def usedRank (l : List BoreBind) (k : Nat) : Bool := l.any fun i => i.rBase ≤ k && k < i.rBase + i.nrank

/-- The rows that allocated handles cover: first row and count. -/
def State.handleRows (s : State) (b : Nat) : List (Nat × Nat) :=
  ((List.range 64).filter fun h => s.hState b h ≠ hFree).map fun h =>
    let n := (setBitsOf (s.rget .LIG_HMASK b h).toNat).length
    (s.fget Fld.LIG_HDESC_BASE_ROW b h, (s.fget Fld.LIG_HDESC_SIZE b h + n - 1) / n)

/-- Whether an allocated handle's mapping covers a row (R453). -/
def usedRow (hs : List (Nat × Nat)) (k : Nat) : Bool := hs.any fun h => h.1 ≤ k && k < h.1 + h.2

/-- Free handles of bore `b`. -/
def State.freeHandles (s : State) (b : Nat) : List Nat := (List.range 64).filter fun h => s.hState b h = hFree

/-- Queues of bore `b` that are not configured. -/
def State.freeQueues (s : State) (b : Nat) : List Nat := (List.range 32).filter fun q => s.depth b q = 0

/-- Route entries of bore `b` that are available (R453, R471). -/
def State.freeChans (s : State) (b : Nat) : List Nat :=
  (List.range 256).filter fun ch =>
    s.rt (.bore b ch) Fld.QUE_ROUTEA_VALID = 0 && ch ∉ (s.bore b).vest.stuck && !(s.holdings b).any fun i => ch ∈ i.chans

/-- Local counters of bore `b` that no context holds. -/
def State.freeLctrs (s : State) (b : Nat) : List Nat :=
  (List.range 48).filter fun n => !(s.holdings b).any fun i => n ∈ i.lctrs

/-- Whether bore `b` may be given a program at all (R437, R453, R570). -/
def State.candidate (s : State) (b : Nat) (excl : Bool) : Bool :=
  let p := (s.bore b).power
  s.flag Fld.BORE_CAP_VALID b && s.fget Fld.PRT_PSTAT_STATE 0 (partOf b) = ptUp && s.pstate b ≠ psOff && !p.retReq && p.retire = .none
    && !s.ctxs.any fun x => x.2.binds.any (fun i => i.bore = b) && (excl || s.flag Fld.CTX_STATE_EXCL 0 x.1)

/-- The first of resources 1 to 9 that bore `b` lacks for a bore record: its order and the deficit (R453). -/
def State.lacks (s : State) (b : Nat) (r : BoreRec) : Option (Nat × Nat) :=
  let l := s.holdings b
  let checks : List (Nat × Nat × Nat) := [
    (1, r.minw, s.fget Fld.BORE_CAP_MXA_WIDTH b),
    (2, r.nps, longestRun (usedBundle l) 8192),
    (3, r.nrank, longestRun (usedRank l) 80),
    (4, r.nrow, longestRun (usedRow (s.handleRows b)) 2048),
    (5, r.handles.length, s.fget Fld.LIG_COUNT_FREE b),
    (6, r.queues.length, (s.freeQueues b).length),
    (7, (r.queues.map fun q => 2 ^ q.depth).foldl (· + ·) 0, 2048 - s.fget Fld.QUE_STATUS_POOLUSED b),
    (8, r.chans.length, (s.freeChans b).length),
    (9, r.nlctr, (s.freeLctrs b).length)]
  (checks.find? fun x => x.2.2 < x.2.1).map fun x => (x.1, x.2.1 - x.2.2)

/-- The result of the fit check of one variant: the bores of its image bores, or its first failure: order, status, image
bore, physical bore and deficit (R453, R454). -/
inductive Fit
  | fits (bores : List Nat)
  | lacks (order status ib pb deficit : Nat)
  deriving DecidableEq, Repr

/-- NOBORE and the first status of the table of R453. -/
def stNobore : Nat := 0x1B
def stNarrowed : Nat := 0x10

/-- The candidate bores of a variant that no image bore has taken. -/
def State.cands (s : State) (grp taken : List Nat) (excl : Bool) : List Nat :=
  grp.filter fun b => s.candidate b excl && b ∉ taken

/-- The bore that a fixed PLACE names, if it is a candidate that is not taken. -/
def State.placeFixed (s : State) (grp taken : List Nat) (excl : Bool) (r : BoreRec) : Option Nat :=
  (grp[r.place]?).bind fun b => if s.candidate b excl && b ∉ taken then some b else none

/-- The bores of the image bores with a fixed PLACE: image bore and bore, none where there is no candidate. -/
def State.placeAll (s : State) (grp : List Nat) (v : Variant) : List (Nat × Option Nat) :=
  (v.bores.zipIdx.filter fun x => x.1.place ≠ 0xFF).foldl (fun l x =>
    l ++ [(x.2, s.placeFixed grp (l.filterMap (·.2)) v.excl x.1)]) []

/-- How an ANY image bore fares: a bore that fits; no candidate; or, of the candidates, the one whose first failure comes
latest, with its order and deficit (R453, R454). -/
def State.placeAny (s : State) (grp taken : List Nat) (excl : Bool) (r : BoreRec) : Option Nat × Option (Nat × Nat × Nat) :=
  let l := s.cands grp taken excl
  match l.find? fun b => (s.lacks b r).isNone with
  | some b => (some b, none)
  | none =>
    (none, l.foldl (fun best b =>
      match s.lacks b r, best with
      | some (o, d), none => some (b, o, d)
      | some (o, d), some (b', o', d') => if o' < o then some (b, o, d) else some (b', o', d')
      | none, _ => best) none)

/-- The placement of every image bore: its number, its bore, and the failure of one that found candidates and none that
fits. -/
def State.placement (s : State) (grp : List Nat) (v : Variant) : List (Nat × Option Nat × Option (Nat × Nat × Nat)) :=
  let fixed := s.placeAll grp v
  (v.bores.zipIdx).foldl (fun l x =>
    if x.1.place ≠ 0xFF then l ++ [(x.2, ((fixed.find? fun y => y.1 = x.2).bind (·.2)), none)]
    else
      let taken := fixed.filterMap (·.2) ++ (l.filter fun y => (v.bores[y.1]?.any fun r => r.place = 0xFF)).filterMap (·.2.1)
      let (b, f) := s.placeAny grp taken v.excl x.1
      l ++ [(x.2, b, f)]) []

/-- The failures of the placed image bores, and of those that no candidate fits: image bore, bore, order, deficit. -/
def State.boreFails (s : State) (v : Variant) (pl : List (Nat × Option Nat × Option (Nat × Nat × Nat))) :
    List (Nat × Nat × Nat × Nat) :=
  pl.filterMap fun (ib, b, f) =>
    match b, f with
    | some b, _ => (v.bores[ib]?).bind fun r => (s.lacks b r).map fun x => (ib, b, x.1, x.2)
    | none, some (b, o, d) => some (ib, b, o, d)
    | none, none => none

/-- The first of resources 10 and 11 that a context lacks for a variant (R453). -/
def State.ctxLacks (s : State) (c : Nat) (v : Variant) : Option (Nat × Nat) :=
  let pb := min (s.fget Fld.SYN_PCOUNT_FREE / 16) (quota (s.fget Fld.CTX_QUOTA_PBLK 0 c) - (s.blocksOf c).length)
  let freeBars := ((List.range 4096).filter fun k => !s.flag Fld.SYN_BCFG_VALID 0 k).length
  let nb := min freeBars (quota (s.fget Fld.CTX_QUOTA_BARS 0 c) - (s.barsOf c).length)
  if pb < v.pblk then some (10, v.pblk - pb)
  else if nb < v.pcount.length then some (11, v.pcount.length - nb)
  else none

/-- The fit check of one variant for context `c` (R453, R454). -/
def State.fit (s : State) (c : Nat) (v : Variant) : Fit :=
  let grp := s.groupBores (s.homeOfCtx c)
  let pl := s.placement grp v
  let none' := pl.filter fun x => x.2.1.isNone && x.2.2.isNone
  match none' with
  | x :: _ => .lacks 0 stNobore x.1 0 none'.length
  | [] =>
    match (s.boreFails v pl) with
    | [] =>
      match s.ctxLacks c v with
      | some (o, d) => .lacks o (stNarrowed + o - 1) 0 ((pl.head?.bind (·.2.1)).getD 0) d
      | none => .fits (pl.filterMap (·.2.1))
    | y :: l =>
      let z := l.foldl (fun a x => if x.2.2.1 < a.2.2.1 then x else a) y
      .lacks z.2.2.1 (stNarrowed + z.2.2.1 - 1) z.1 z.2.1 z.2.2.2

/-! ### Loads -/

/-- The statuses of CTX_LDRES (R477). -/
def ldOk : Nat := 1
def ldBadimage : Nat := 2
def ldAddrfault : Nat := 3
def ldPoison : Nat := 4

/-- The result of a load (R477). -/
def State.ldres (s : State) (c st v ib pb deficit : Nat) : State :=
  s.rput .CTX_LDRES (BitVec.ofNat 64 (2 ^ 56 * st + 2 ^ 54 * v + 2 ^ 48 * ib + 2 ^ 42 * pb + deficit)) 0 c

/-- The status of a read of the residency manager that failed (R470). -/
def readFault (st : AccStatus) : Option Nat :=
  match st with
  | .ok => none
  | .poison => some ldPoison
  | _ => some ldAddrfault

/-- Bytes read by device address for context `c`: a failure's status, which the log has too (R696), or the bytes. -/
def State.rmRead (s : State) (c a n : Nat) : Option Nat × List Byte × State :=
  let (st, l, s) := s.spaceRead .device a n
  (readFault st, plain l, if st.bad then s.unitFault srcResmgr (ctxOpt c) (a + l.length) (faultCode st) else s)

/-- What a context took on one bore is released: its handles by `op`, its queues disabled, its routes invalid; a route that is
not idle stays, and counts as unavailable (R460, R462, R471).  True when one stayed. -/
def State.unbind1 (s : State) (op : Nat) (i : BoreBind) : Bool × State :=
  let s := s.each i.handles fun s h => s.ligRm i.bore op h 0 0
  let s := s.each i.queues fun s q =>
    let (t, st) := s.writeQcfg i.bore q 0
    t.cfgst i.bore 1 q st
  i.chans.foldl (fun (stuck, s) ch =>
    let l := RouteLoc.bore i.bore ch
    if s.rt l Fld.QUE_ROUTEA_VALID = 0 then (stuck, s)
    else
      let (t, st) := s.writeRoute l false (BitVec.ofNat 64 (setBits (s.rget .QUE_ROUTEA i.bore ch).toNat 63 1 0))
      let t := t.cfgst i.bore 0 ch st
      if st = 1 then (stuck, t) else (true, t.upVest i.bore fun v => { v with stuck := sinsert ch v.stuck }))
    (false, s)

/-- Everything that a context holds is released (R460 step 4, R462 step 4). -/
def State.unbind (s : State) (c op : Nat) : State :=
  let (stuck, s) := (s.ctx c).binds.foldl (fun (k, s) i =>
    let (k', s) := s.unbind1 op i
    (k || k', s)) (false, s)
  let s := s.each (s.barsOf c) fun s k => (s.abortBarrier k).fput Fld.SYN_BCFG_VALID 0 0 k
  let s := s.releaseBlocks c
  let s := s.upCtx c fun x => { x with binds := [], image := [], blocks := [], bars := [] }
  (s.fput Fld.CTX_STATE_STUCKRT (b2n stuck) 0 c).putMask c

/-- A load fails: the context is IDLE and the messages held for it are refused (R452, R458).
(DEDUCED, log 38.) -/
def State.failLoad (s : State) (c : Nat) : State :=
  (((s.unbind c 3).dropOp c).putCx c cxIdle).refuseHeld c |>.ctxEvent c

/-- The bore record of an image bore. -/
def recOf (v : Variant) (ib : Nat) : BoreRec :=
  v.bores.getD ib ⟨0, 0, 0, 0, 0, 0, 0, 0, 0, 0, [], [], [], [], []⟩

/-- What an image bore takes on its bore: the lowest free run or number of each resource (R456 step 2). -/
def State.takeBore (s : State) (r : BoreRec) (ib b : Nat) : BoreBind :=
  let l := s.holdings b
  let hs := (s.freeHandles b).take r.handles.length
  let qs := (s.freeQueues b).take r.queues.length
  { bore := b, ib := ib,
    psBase := (firstRun (usedBundle l) 8192 r.nps).getD 0, nps := r.nps,
    rBase := (firstRun (usedRank l) 80 r.nrank).getD 0, nrank := r.nrank,
    rowBase := (firstRun (usedRow (s.handleRows b)) 2048 r.nrow).getD 0, nrow := r.nrow,
    entry := r.entry, handles := hs,
    saves := (r.handles.zipIdx.filter fun x => x.1.save).map fun x => phys hs x.2,
    queues := qs, lctrs := (s.freeLctrs b).take r.nlctr, chans := (s.freeChans b).take r.chans.length,
    startq := if r.startq = 0xFF then none else some (phys qs r.startq), epochs := [] }

/-- The configuration of a declared queue (R450, R456): the source of a SINGLE queue is named by its physical numbers. -/
def queueWord (x : Ctx) (q : QueueDecl) : Word64 :=
  let src := x.binds.find? fun i => i.ib = q.srcib
  BitVec.ofNat 64 (2 ^ 62 * b2n q.mode + 2 ^ 61 * b2n q.wakes + 2 ^ 56 * q.depth + 2 ^ 46 * q.cres
    + (if q.mode then 0 else 2 ^ 32 * src.elim 0 (·.bore) + 2 ^ 24 * src.elim 0 (fun i => phys i.chans q.srcch)))

/-- The handles of an image bore allocated and its queues configured, CLOSED (R456 step 2). -/
def State.setUpBore (s : State) (x : Ctx) (r : BoreRec) (i : BoreBind) : State :=
  let s := r.handles.zipIdx.foldl (fun s (h, k) =>
    s.ligRm i.bore 2 (phys i.handles k) (BitVec.ofNat 64 (h.size + 2 ^ 32 * (i.rowBase + h.rowoff)))
      (BitVec.ofNat 64 h.mask)) s
  r.queues.zipIdx.foldl (fun s (q, k) =>
    let n := phys i.queues k
    let (t, st) := s.writeQcfg i.bore n (queueWord x q)
    (t.cfgst i.bore 1 n st).qClose i.bore n) s

/-- Steps 1 and 2 of binding (R456), for variant `k` on `bores`.
(DESIGN CHOICE, log 37.) -/
def State.beginBind (s : State) (c k : Nat) (v : Variant) (bores : List Nat) : State :=
  let blks := ((List.range 1024).filter fun n => !s.flag Fld.SYN_PBLK_VALID 0 n).take v.pblk
  let s := s.each blks fun s n =>
    (s.rput .SYN_PBLK (BitVec.ofNat 64 (2 ^ 31 + c)) 0 n).grantBlock n
  let bars := ((List.range 4096).filter fun n => !s.flag Fld.SYN_BCFG_VALID 0 n).take v.pcount.length
  let s := (bars.zip v.pcount).foldl (fun s (n, pc) =>
    (s.rput .SYN_BCFG (BitVec.ofNat 64 (2 ^ 63 + 2 ^ 48 * c + 2 ^ 32 * pc)) 0 n).fput Fld.SYN_BSTAT_PHASE 0 0 n) s
  let bound := bores.zipIdx.map fun (b, ib) => s.takeBore (recOf v ib) ib b
  let s := s.upCtx c fun x => { x with variant := k, blocks := blks, bars := bars, binds := bound }
  let s := (s.ctx c).binds.foldl (fun s i => s.setUpBore (s.ctx c) (recOf v i.ib) i) s
  (s.putMask c).wakeAll bores

/-- The resident contexts that may be evicted to make room for a load of `c`, the one least recently started first (R460). -/
def State.victim (s : State) (c : Nat) : Option Nat :=
  let l := (List.range 1024).filter fun e => e ≠ c && s.cxState e = cxResident && s.homeOfCtx e = s.homeOfCtx c
    && s.flag Fld.CTX_CFG_EVICTABLE 0 e && (s.currentOn e).isEmpty && !s.starts.any fun x => x.2 = e
  match l with
  | [] => none
  | e :: l => some (l.foldl (fun a x => if (s.ctx x).started < (s.ctx a).started then x else a) e)

/-- An eviction whose turn has come begins (R460 step 1, R465). -/
def State.beginEvict (s : State) (c : Nat) : State :=
  (((s.setOp c .evictRun).closeQueues c).dropTlb c).wakeAll (s.boundBores c)

/-- The variant whose first failure comes latest, and the lowest among equals (R454): it and its failure. -/
def worstFit (l : List (Nat × Fit)) : Option (Nat × Fit) :=
  let ord (f : Fit) : Nat := match f with | .lacks o _ _ _ _ => o | .fits _ => 100
  l.foldl (fun a x => match a with
    | none => some x
    | some y => if ord y.2 < ord x.2 then some x else some y) none

/-- Whether every relocation of a context's bound variant produces a value that fits its WIDTH (R452). -/
def relsFit (x : Ctx) (v : Variant) : Bool :=
  x.binds.all fun i =>
    let r := recOf v i.ib
    (r.rels.foldl (fun (k, d) e => (k && relFits x i r d e, reloc1 x i r d e)) (true, x.image)).1

/-- The checks of a load whose turn has come (R452 to R455, R460, R470): its steps 1 and 2 of binding, a failure, or an eviction
that makes room.
(DESIGN CHOICE, log 37.) -/
def State.checkLoad (s : State) (x : RmCmd) : State :=
  let c := x.target
  if !s.homeUp (s.homeOfCtx c) then s.failLoad c
  else
    let a := s.fget Fld.CTX_CFG_IMAGE 0 c * 64
    match s.rmRead c a 64 with
    | (some e, _, s) => (s.ldres c e 0 0 0 0).failLoad c
    | (none, h, s) =>
      match imageLength h with
      | none => (s.ldres c ldBadimage 0 0 0 0).failLoad c
      | some n =>
        match s.rmRead c a n with
        | (some e, _, s) => (s.ldres c e 0 0 0 0).failLoad c
        | (none, d, s) =>
          match parseImage d with
          | none => (s.ldres c ldBadimage 0 0 0 0).failLoad c
          | some vs =>
            let fits := vs.zipIdx.map fun (v, k) => (k, s.fit c v)
            match vs.zipIdx.find? fun (_, k) => fits.any fun y => y.1 = k && (match y.2 with | .fits _ => true | _ => false) with
            | some (v, k) =>
              match s.fit c v with
              | .fits bores =>
                let s := s.upCtx c fun y => { y with image := d }
                let t := ({ s with cmds := s.cmds.map fun y => if y = x then { y with kind := .bind } else y }).beginBind
                  c k v bores
                if relsFit (t.ctx c) v then t else (s.ldres c ldBadimage 0 0 0 0).failLoad c
              | .lacks _ _ _ _ _ => s
            | none =>
              match (if x.demand && s.flag Fld.PRT_PCFG_AUTOEVICT 0 (s.homeOfCtx c) then s.victim c else none) with
              | some e =>
                let (l, r) := s.cmds.span fun y => y ≠ x
                (({ s with cmds := l ++ (⟨.evict, e, true⟩ : RmCmd) :: r }).putCx e cxEvicting).beginEvict e
              | none =>
                match worstFit fits with
                | some (k, .lacks _ st ib pb d) => (s.ldres c st k ib pb d).failLoad c
                | _ => s.failLoad c

/-- The partitions that a rebuild of `p` takes in (R463, R697): `p` and those whose pending LEADER is `p`, or, for one that a
PARTITION error asked for, the group that `p` leads. -/
def State.rebuildSet (s : State) (p : Nat) (auto : Bool) : List Nat :=
  if auto then s.groupParts p else (List.range 16).filter fun q => q = p || s.fget Fld.PRT_PCFG_LEADER 0 q = p

/-- The bores of a list of partitions. -/
def boresOf (l : List Nat) : List Nat := l.flatMap fun p => [4 * p, 4 * p + 1, 4 * p + 2, 4 * p + 3]

/-- A bore is brought toward ACTIVE for a rebuild (R574, R577). -/
def State.rouse (s : State) (b : Nat) : State :=
  if s.pstate b = psOff then
    (s.upPower b fun w => { w with leaving := some (w.leaving.getD wakeReset) }).fput Fld.DRN_BPST_TRANS 1 0 b
  else if s.pstate b = psActive then s else s.wake b wakeReset

/-- A rebuild that is the oldest operation of its partition begins: its partitions are REBUILDING and its bores are brought up
(R463 step 1). -/
def State.beginRebuild (s : State) (p : Nat) : State :=
  match (s.part p).rebuild with
  | some r =>
    if r.begun then s
    else
      let l := s.rebuildSet p r.auto
      let s := s.upPart p fun x => { x with rebuild := some { r with begun := true, parts := l } }
      let s := s.each l fun s q => s.fput Fld.PRT_PSTAT_STATE ptRebuilding 0 q
      s.each (boresOf l) State.rouse
  | none => s

/-- The residency manager takes up the oldest operation of partition `p` (R465); a load that fails lets the next one begin. -/
def State.rmRun (p : Nat) : Nat → State → State
  | 0, s => s
  | n + 1, s =>
    match s.oldestOp p with
    | some x =>
      if x.kind = .load then State.rmRun p n (s.checkLoad x)
      else if x.kind = .rebuild then s.beginRebuild p
      else if x.kind = .evict then s.beginEvict x.target
      else if x.kind = .ending then s.endSteps x.target
      else s
    | none => s

/-- The residency manager goes on with partition `p` (R465). -/
def State.rmGo (s : State) (p : Nat) : State := State.rmRun p (s.cmds.length + 1) s

/-- A load begins: its context is LOADING, and its checks run when its turn comes (R440, R465). -/
def State.beginLoad (s : State) (c : Nat) (demand : Bool) : State :=
  let s := { (s.putCx c cxLoading) with cmds := s.cmds ++ [(⟨.load, c, demand⟩ : RmCmd)] }
  s.rmGo (s.homeOfCtx c)

/-! ### Binding -/

/-- The init data of an image bore copied (R456 step 4): an entry for a SAVE handle is passed over when the save area is to be
restored. -/
def State.initBore (s : State) (r : BoreRec) (i : BoreBind) (d : List Byte) (saved : Bool) : State :=
  r.inits.foldl (fun s e =>
    let h := r.handles.getD e.handle ⟨0, false, 0, 0⟩
    if saved && h.save then s
    else match s.hmap i.bore (phys i.handles e.handle) with
      | some m => s.hWrite i.bore m e.offset
          (if e.zero then List.replicate e.len 0 else (d.drop e.src).take e.len) false
      | none => s) s

/-- The SAVE handles of a bore restored from the save area, from address `a` on: the next address, or the status of a read
that failed (R456 step 4, R470). -/
def State.restoreBore (s : State) (c : Nat) (i : BoreBind) (a : Nat) : Except Nat Nat × State :=
  i.saves.foldl (fun (a, s) h =>
    match a with
    | .error e => (.error e, s)
    | .ok a =>
      let n := 256 * s.fget Fld.LIG_HDESC_SIZE i.bore h
      match s.rmRead c a n with
      | (some e, _, s) => (.error e, s)
      | (none, l, s) =>
        match s.hmap i.bore h with
        | some m => (.ok (a + n), s.hWrite i.bore m 0 l false)
        | none => (.ok (a + n), s)) (.ok a, s)

/-- The route words of a channel declaration (R450, R456 step 5). -/
def State.routeWords (s : State) (x : Ctx) (i : BoreBind) (c : ChanDecl) : Word64 × Word64 :=
  match x.binds.find? fun j => j.ib = bits c.a 50 6 with
  | none => (0, 0)
  | some t =>
    let q := phys t.queues (bits c.a 45 5)
    let a := setBits (setBits (setBits c.a 50 6 t.bore) 45 5 q) 16 16 (s.fget Fld.QUE_QSTAT_EPOCH t.bore q)
    let a := if bit c.a 62 then setBits a 40 5 (phys i.queues (bits c.a 40 5)) else a
    let b := if bit c.b 63 then setBits c.b 56 6 (phys i.lctrs (bits c.b 56 6)) else c.b
    let k := bits c.b 40 14
    let b := if bit c.b 55 then
        setBits b 40 14 (if bit c.b 54 then 16 * phys x.blocks (k / 16) + k % 16 else phys t.lctrs k) else b
    (BitVec.ofNat 64 a, BitVec.ofNat 64 b)

/-- The route entries of an image bore written (R456 step 5); a declared channel with VALID 0 stays invalid. -/
def State.routeBore (s : State) (x : Ctx) (r : BoreRec) (i : BoreBind) : State :=
  r.chans.zipIdx.foldl (fun s (c, k) =>
    if !bit c.a 63 then s
    else
      let ch := phys i.chans k
      let w := s.routeWords x i c
      let (s, st) := s.writeRoute (.bore i.bore ch) true w.2
      let s := s.cfgst i.bore 0 ch st
      let (s, st) := s.writeRoute (.bore i.bore ch) false w.1
      s.cfgst i.bore 0 ch st) s

/-- The program section of an image bore written (R456 step 3). -/
def State.progBore (s : State) (r : BoreRec) (i : BoreBind) (d : List Byte) : State :=
  s.store (psBase i.bore + 64 * i.psBase) ((d.drop r.progoff).take (64 * r.nps)) false

/-- The binding record of an image bore written (R456 step 6). -/
def State.recordBore (s : State) (c : Nat) (x : Ctx) (r : BoreRec) (i : BoreBind) : State :=
  if r.bindh = 0xFF then s
  else match s.hmap i.bore (phys i.handles r.bindh) with
    | some m => s.hWrite i.bore m 0 (bindRecord c x i) false
    | none => s

/-- A message forwarded to the queue that a context declares (R458, R517); none where the loaded variant declares no such
queue. -/
def State.forward (s : State) (c ib dq : Nat) (m : Message) : Option State :=
  match (s.ctx c).binds.find? fun i => i.ib = ib with
  | none => none
  | some i =>
    match i.queues[dq]? with
    | none => none
    | some q =>
      some (s.send .posted (.unit .resmgr) (.bore i.bore) (.message i.bore q { m with stamp := i.epochs.getD dq 0 }))

/-- A message for a RESIDENT context: forwarded, or refused with NOROUTE. -/
def State.deliverTo (s : State) (c ib dq : Nat) (m : Message) : State :=
  (s.forward c ib dq m).getD (s.rmRefuse (s.homeOfCtx c) rNoroute m)

/-- The messages held for a context that is now RESIDENT are delivered in order (R456 step 7, R458). -/
def State.deliverHeld (s : State) (c : Nat) : State :=
  let p := s.homeOfCtx c
  let l := (s.part p).hold.filter fun h => h.ctx = c
  let s := (s.upPart p fun x => { x with hold := x.hold.filter fun h => h.ctx ≠ c }).putHold p
  l.foldl (fun s h => s.deliverTo c h.ib h.dq h.msg) s

/-- Steps 3 and 4 of binding on every bore, and the save area: the status of a read that failed, if any. -/
def State.bindCopy (s : State) (c : Nat) (v : Variant) : Option Nat × State :=
  let x := s.ctx c
  let saved := s.flag Fld.CTX_STATE_SAVED 0 c
  let s := x.binds.foldl (fun s i =>
    let r := recOf v i.ib
    let d := relocated x i r x.image
    (s.progBore r i d).initBore r i d saved) s
  if !saved then (none, s)
  else
    match x.binds.foldl (fun (a, s) i =>
      match a with
      | .error e => (.error e, s)
      | .ok a => s.restoreBore c i a) ((.ok (s.fget Fld.CTX_SAVE_SAVE 0 c * 64) : Except Nat Nat), s) with
    | (.error e, s) => (some e, s)
    | (.ok _, s) => (none, s)

/-- Steps 5 to 7 of binding (R456): the context is RESIDENT. -/
def State.bindEnd (s : State) (c : Nat) (v : Variant) : State :=
  let x := s.ctx c
  let s := x.binds.foldl (fun s i => s.routeBore x (recOf v i.ib) i) s
  let s := x.binds.foldl (fun s i => s.recordBore c x (recOf v i.ib) i) s
  let s := s.upCtx c fun y => { y with image := [], binds := y.binds.map fun i =>
    { i with epochs := i.queues.map fun q => s.fget Fld.QUE_QSTAT_EPOCH i.bore q } }
  let s := x.binds.foldl (fun s i => s.each i.queues fun s q => s.qOpen i.bore q) s
  let s := (s.fput Fld.CTX_STATE_EXCL (b2n v.excl) 0 c).fput Fld.CTX_STATE_VARIANT x.variant 0 c
  let s := ((s.ldres c ldOk x.variant 0 0 0).putCx c cxResident).ctxEvent c
  (s.deliverHeld c).dropOp c

/-- CONTEXT_BINDING (R456): once the bores' chanters are HALTED or FAULTED and the bores ACTIVE. -/
def execContextBinding (c : Nat) (s : State) : Host.Outcome State Fault Refusal :=
  if s.faults.frozen then ok s else
  let bs := s.boundBores c
  let p := s.homeOfCtx c
  if !s.isNext .bind c then ok s
  else if !s.allActive bs then ok (s.wakeAll bs)
  else if bs.any fun b => s.running b then ok s
  else
    match parseImage (s.ctx c).image with
    | none => ok s
    | some vs =>
      let v := vs.getD (s.ctx c).variant ⟨false, 0, [], []⟩
      match s.bindCopy c v with
      | (some e, s) => ok (((s.ldres c e (s.ctx c).variant 0 0 0).failLoad c).rmGo p)
      | (none, s) => ok ((s.bindEnd c v).rmGo p)

/-! ### Commands (R474) -/

/-- The statuses of PRT_CMDST. -/
def rmOk : Nat := 1
def rmBusy : Nat := 2
def rmBadstate : Nat := 3
def rmBadcfg : Nat := 4
def rmNoctx : Nat := 5
def rmNospare : Nat := 6

/-- Whether partition `p` can be the HOME of one more context: it leads its group, and fewer than 64 are homed there (R439). -/
def State.homeFull (s : State) (p : Nat) : Bool := longer 63 (s.homedOn p)

/-- Whether a context may not be evicted: it is current on a bore, or a start of it is pending (R460). -/
def State.cxBusy (s : State) (c : Nat) : Bool := !(s.currentOn c).isEmpty || s.starts.any fun x => x.2 = c

/-- A command of PRT_CMD or HIF_VCMD other than REBUILD, carried out: what it leaves and the status it reports (R440, R465,
R474).
(DEDUCED, log 38.) -/
def State.rmDo (s : State) (op c : Nat) : State × Nat :=
  let st := s.cxState c
  if op = 2 then
    if st ≠ cxFree then (s, rmBadstate)
    else if s.leader (s.homeOfCtx c) ≠ s.homeOfCtx c then (s, rmBadcfg)
    else if s.homeFull (s.homeOfCtx c) then (s, rmNoctx)
    else ((s.putCx c cxIdle).putNctx, rmOk)
  else if op = 3 then
    if st = cxIdle && s.homeUp (s.homeOfCtx c) then (s.beginLoad c false, rmOk) else (s, rmBadstate)
  else if op = 4 then
    if st ≠ cxResident then (s, rmBadstate)
    else if s.cxBusy c then (s, rmBusy)
    else ((({ s with cmds := s.cmds ++ [(⟨.evict, c, false⟩ : RmCmd)] }).putCx c cxEvicting).rmGo (s.homeOfCtx c), rmOk)
  else if op = 5 then
    if st = cxResident then (s.each (s.boundBores c) fun s b => s.addStart b c, rmOk) else (s, rmBadstate)
  else if op = 6 then
    if st = cxLoading || st = cxResident || st = cxEvicting then (s.beginEnding c endHost none, rmOk) else (s, rmBadstate)
  else if op = 7 then
    if st = cxEnded then (s.putCx c cxIdle, rmOk) else (s, rmBadstate)
  else if op = 8 then
    if st = cxIdle || st = cxEnded then ((s.putCx c cxFree).putNctx, rmOk) else (s, rmBadstate)
  else (s, rmBadcfg)

/-- The report of a PRT_CMD write, and its interrupt as it leaves PENDING (R474, R528). -/
def State.prtSt (s : State) (op c st : Nat) : State :=
  ((((s.fput Fld.PRT_CMDST_OP op).fput Fld.PRT_CMDST_CTX c).fput Fld.PRT_CMDST_STATUS st).fput
    Fld.PRT_CMDST_PENDING 0).irq 0x01

/-- A PRT_CMD write of an operation other than REBUILD; one made while PENDING reads 1 is discarded (R465). -/
def State.prtCmd (s : State) (op c : Nat) : State :=
  if s.flag Fld.PRT_CMDST_PENDING then s.fput Fld.PRT_CMDST_DROPPED 1
  else
    let (t, st) := s.rmDo op c
    t.prtSt op c st

/-- A PRT_CMD write by a requester. -/
def prtCmd (who : Requester) (op c : Nat) (s : State) : Host.Outcome State Fault Refusal :=
  ok (s.hubReg (mayPf who) (s.prtCmd op c))

/-- CREATE (R440). -/
def execCreate (who : Requester) (c : Nat) (s : State) : Host.Outcome State Fault Refusal := prtCmd who 2 c s

/-- LOAD (R452). -/
def execLoad (who : Requester) (c : Nat) (s : State) : Host.Outcome State Fault Refusal := prtCmd who 3 c s

/-- EVICT (R460). -/
def execEvict (who : Requester) (c : Nat) (s : State) : Host.Outcome State Fault Refusal := prtCmd who 4 c s

/-- PRT_START (R461). -/
def execPrtStart (who : Requester) (c : Nat) (s : State) : Host.Outcome State Fault Refusal := prtCmd who 5 c s

/-- PRT_END (R462). -/
def execPrtEnd (who : Requester) (c : Nat) (s : State) : Host.Outcome State Fault Refusal := prtCmd who 6 c s

/-- PRT_RESET (R440). -/
def execPrtReset (who : Requester) (c : Nat) (s : State) : Host.Outcome State Fault Refusal := prtCmd who 7 c s

/-- DESTROY (R440). -/
def execDestroy (who : Requester) (c : Nat) (s : State) : Host.Outcome State Fault Refusal := prtCmd who 8 c s

/-! ### Evictions and endings -/

/-- Whether the chanters that ran a context, its ranks, its handles and its queues are at rest (R460 step 2, R462 step 3). -/
def State.quiet (s : State) (c : Nat) : Bool :=
  ((s.currentOn c).all fun b => !s.running b) && (s.ctx c).binds.all fun i =>
    (i.handles.all fun h => s.fget Fld.LIG_HDESC_INFLIGHT i.bore h = 0)
      && ((List.range i.nrank).all fun k => s.rkState i.bore (i.rBase + k) = rkIdle)
      && i.queues.all fun q => s.fget Fld.QUE_QSTAT_OCC i.bore q = 0 && s.fget Fld.QUE_QSTAT_RESV i.bore q = 0

/-- The SAVE handles of a bore copied to the save area, from address `a` on: the next address, none when a write failed
(R460 step 3, R470). -/
def State.saveBore (s : State) (c : Nat) (i : BoreBind) (a : Nat) : Option Nat × State :=
  i.saves.foldl (fun (a, s) h =>
    match a, s.hmap i.bore h with
    | some a, some m =>
      let (_, l, s) := s.spaceRead (.handle i.bore m) 0 (256 * s.fget Fld.LIG_HDESC_SIZE i.bore h)
      let (st, s) := s.spaceWrite .device a l
      if st.bad then (none, s.unitFault srcResmgr (ctxOpt c) (s.stopLine .device a l.length) (faultCode st))
      else (some (a + l.length), s)
    | a, _ => (a, s)) (some a, s)

/-- Steps 3 to 5 of an eviction (R460): SAVED is set whatever handles are saved; a save write that fails turns it into an ending
(R470). -/
def State.evictDone (s : State) (c : Nat) : State :=
  match (s.ctx c).binds.foldl (fun (a, s) i =>
    match a with
    | some a => s.saveBore c i a
    | none => (none, s)) (some (s.fget Fld.CTX_SAVE_SAVE 0 c * 64), s) with
  | (none, s) => (s.fput Fld.CTX_STATE_SAVED 0 0 c).beginEnding c endSaveFail none
  | (some _, s) =>
    let s := s.fput Fld.CTX_STATE_SAVED 1 0 c
    ((((s.unbind c 3).dropTlb c).dropOp c).putCx c cxIdle).ctxEvent c

/-- EVICTION_SAVE (R460). -/
def execEvictionSave (c : Nat) (s : State) : Host.Outcome State Fault Refusal :=
  if s.faults.frozen then ok s else
  let bs := s.boundBores c
  if !(s.isNext .evictRun c && s.cxState c = cxEvicting && s.quiet c) then ok s
  else if !s.allActive bs then ok (s.wakeAll bs)
  else ok ((s.evictDone c).rmGo (s.homeOfCtx c))

/-- The fault of a bore recorded in the context that it ends, and cleared (R462 step 5). -/
def State.copyFault (s : State) (c b : Nat) : State :=
  let s := s.rput .CTX_FAULT (BitVec.ofNat 64 (setBits (s.rget .CHN_FAULT b).toNat 16 6 b)) 0 c
  (s.rput .CTX_FINFO (s.rget .CHN_FAULTINFO b) 0 c).clrFault b

/-- Steps 4 to 6 of an ending (R462).  A load that was abandoned had copied nothing: what it had taken is released, not
scrubbed (R466). -/
def State.endingDone (s : State) (c : Nat) : State :=
  let cur := s.currentOn c
  let s := s.unbind c (if (s.ctx c).image.isEmpty then 4 else 3)
  let s := match (s.ctx c).faulted with
    | some b => s.copyFault c b
    | none => s
  let s := s.each cur fun s b => (s.fput Fld.PRT_BCUR_VALID 0 0 b).fput Fld.PRT_BCUR_CTX 0 0 b
  let s := (s.dropTlb c).fput Fld.CTX_STATE_ENDCAUSE (s.ctx c).cause 0 c
  ((s.dropOp c).putCx c cxEnded).ctxEvent c

/-- ENDING_RELEASE (R462). -/
def execEndingRelease (c : Nat) (s : State) : Host.Outcome State Fault Refusal :=
  if s.faults.frozen then ok s else
  let bs := s.boundBores c
  if !(s.isNext .endRun c && s.cxState c = cxEnding && s.quiet c) then ok s
  else if !s.allActive bs then ok (s.wakeAll bs)
  else ok ((s.endingDone c).rmGo (s.homeOfCtx c))

/-! ### Starts -/

/-- Whether dispatch on bore `b` is held for a binding whose turn has come (R456 step 3). -/
def State.dispatchHeld (s : State) (b : Nat) : Bool :=
  s.cmds.any fun x => x.kind = .bind && s.isNext .bind x.target && b ∈ s.boundBores x.target

/-- A pending start carried out (R461). -/
def State.startOn (s : State) (b c : Nat) : State :=
  match s.boundOn c b with
  | none => s
  | some i =>
    let s := (s.fput Fld.PRT_BCUR_VALID 1 0 b).fput Fld.PRT_BCUR_CTX c 0 b
    let s := s.upCh b fun h => { h with g := mput 0 (mput 0 h.g 1 (BitVec.ofNat 64 c)) 2 (BitVec.ofNat 64 i.ib) }
    let s := s.writePc b (BitVec.ofNat 64 ((i.psBase + i.entry) % 8192))
    let s := { s with seqno := s.seqno + 1 }
    let s := s.upCtx c fun x => { x with started := s.seqno }
    let s := if s.flag Fld.CTX_STATE_EXCL 0 c then
        (s.fput Fld.PRT_PSTAT_SCTXV 1 0 (s.homeOfCtx c)).fput Fld.PRT_PSTAT_SCTX c 0 (s.homeOfCtx c) else s
    s.chnCtrl b 1

/-- CONTEXT_START_DISPATCH (R461): the oldest pending start of a bore, when its chanter is HALTED with HREASON RESET,
HALT_INSN or FAULT_CLEARED. -/
def execContextStartDispatch (b : Nat) (s : State) : Host.Outcome State Fault Refusal :=
  if s.faults.frozen then ok s else
  match s.starts.find? fun x => x.1 = b with
  | none => ok s
  | some x =>
    if s.chState b ≠ csHalted || s.fget Fld.CHN_STATUS_HREASON b ∉ [0, 1, 5] || s.dispatchHeld b then ok s
    else if s.pstate b ≠ psActive then ok (s.wakeAll [b])
    else ok ((({ s with starts := s.starts.erase x }).putNpend b).startOn b x.2)

/-! ### Arrivals -/

/-- A message for a context is held (R458). -/
def State.holdMsg (s : State) (c ib dq : Nat) (m : Message) : State :=
  let p := s.homeOfCtx c
  (s.upPart p fun x => { x with hold := x.hold ++ [⟨c, ib, dq, m⟩] }).putHold p

/-- An arrival for a context (R458). -/
def State.rmArrive (s : State) (c ib dq : Nat) (m : Message) : State :=
  let p := s.homeOfCtx c
  let st := s.cxState c
  let full := 256 ≤ (s.part p).hold.length
  let auto := st = cxIdle && s.flag Fld.CTX_CFG_AUTOLOAD 0 c
  if st = cxResident then s.deliverTo c ib dq m
  else if st = cxFree then s.rmRefuse p rNoroute m
  else if st = cxLoading || auto then
    if full then s.rmRefuse p rFull m
    else if auto then (s.holdMsg c ib dq m).beginLoad c true
    else s.holdMsg c ib dq m
  else s.rmRefuse p rClosed m

/-- RESIDENCY_ARRIVAL (R458): the oldest message from a hub sender to the residency manager. -/
def execResidencyArrival (src : Endpoint) (s : State) : Host.Outcome State Fault Refusal :=
  match s.oldest .posted src (.unit .resmgr) with
  | some (⟨_, _, _, .message ib dq m⟩, t) => ok (t.rmArrive m.ctx ib dq m)
  | _ => ok s

/-! ### Invalidation -/

/-- The accesses on their way that carry context `c`, and the bores' stores of it whose acknowledgement is on its way (R445). -/
def State.onWay (s : State) (c : Nat) : List (Accessor × Nat) := s.net.filterMap fun t =>
  match t.pkt with
  | .write who id k _ _ _ => if k = c then some (who, id) else none
  | .read who id k _ _ => if k = c then some (who, id) else none
  | .writeAck who id k _ _ => if k = c then some (who, id) else none
  | _ => none

/-- A write of CTX_INVAL (R476). -/
def State.ctxInval (s : State) (c : Nat) : State :=
  if s.flag Fld.CTX_INVST_PENDING then s.fput Fld.CTX_INVST_DROPPED 1
  else ({ s with inval := s.onWay c }.fput Fld.CTX_INVST_PENDING 1).fput Fld.CTX_INVST_CTX c

/-- CTX_INVAL (R476). -/
def execCtxInval (who : Requester) (c : Nat) (s : State) : Host.Outcome State Fault Refusal :=
  ok (s.hubReg (mayPf who) (s.ctxInval c))

/-- Whether an access that an invalidation waits for has not reached its home, or is a write not yet acknowledged (R445). -/
def State.accessing (s : State) : Bool := s.net.any fun t =>
  match t.pkt with
  | .write who id _ _ _ _ => (who, id) ∈ s.inval
  | .read who id _ _ _ => (who, id) ∈ s.inval
  | .writeAck who id _ _ _ => (who, id) ∈ s.inval
  | _ => false

/-- INVALIDATION_COMPLETE (R445). -/
def execInvalidationComplete (c : Nat) (s : State) : Host.Outcome State Fault Refusal :=
  if s.faults.frozen then ok s else
  ok (when (s.flag Fld.CTX_INVST_PENDING && s.fget Fld.CTX_INVST_CTX = c && !s.accessing) s
    (({ s with inval := [] }.dropTlb c).fput Fld.CTX_INVST_PENDING 0))

/-! ### Register writes -/

/-- A write of a CTX register that has no row of its own: CTX_CFG only in FREE, IDLE and ENDED (R477).  One that would move a
context that is not FREE to a HOME that cannot take it changes nothing (R439).
(DESIGN CHOICE, log 38.) -/
def State.ctxWrite (s : State) (c : Nat) (r : Reg) (val : Word64) : State :=
  let st := s.cxState c
  let t := s.rput r (r.merge (s.rget r 0 c) val) 0 c
  if r ≠ .CTX_CFG then t
  else if !(st = cxFree || st = cxIdle || st = cxEnded) then s
  else
    let h := t.homeOfCtx c
    if st ≠ cxFree && h ≠ s.homeOfCtx c && (s.leader h ≠ h || s.homeFull h) then s else t.putNctx

end Sys2Proof.Machine
end

