-- ==== Sys2Proof/Machine/Crook.lean ====
section
/-!
DEFINITION. Machine/Crook.lean: the crook ports (chapter Crook links): link states, flits, sequence numbers and replay,
virtual lanes and credits, the transfers that cross a port, and its inbound windows; and the fabric clocks, which a transfer
bound into a stopped quadrant restarts.
-/

namespace Sys2Proof.Machine

/-! ### States -/

/-- The codes of CRK_STATUS.STATE (R506). -/
def ckDisabled : Nat := 0
def ckDown : Nat := 1
def ckTraining : Nat := 2
def ckUp : Nat := 3
def ckRetrain : Nat := 4
def ckFailed : Nat := 5

/-- The state of port `k`. -/
def State.ck (s : State) (k : Nat) : Nat := s.fget Fld.CRK_STATUS_STATE k

/-- The virtual lanes' grants in flits (R493). -/
def vlGrant (vl : Nat) : Nat := if vl = 2 then 512 else 1024

/-- The four virtual lanes. -/
def lanes : List Nat := List.range 4

/-- The credit field of a virtual lane. -/
def vlCred (vl : Nat) : Field :=
  if vl = 0 then Fld.CRK_VLCRED_VL0 else if vl = 1 then Fld.CRK_VLCRED_VL1
  else if vl = 2 then Fld.CRK_VLCRED_VL2 else Fld.CRK_VLCRED_VL3

/-- The value of lane `i` in a list of one number for each lane. -/
def laneAt (l : List Nat) (i : Nat) : Nat := l.getD i 0

/-- The list with lane `i` at `v`. -/
def lanePut (l : List Nat) (i v : Nat) : List Nat := lanes.map fun j => if j = i then v else laneAt l j

/-- A port changes state: logged, and an interrupt (R497, R528, R710). -/
def State.putCk (s : State) (k st : Nat) : State :=
  let old := s.ck k
  if old = st then s
  else
    let s := s.fput Fld.CRK_STATUS_STATE st k
    (s.log (srcCrook k) 0x0040 none 0 (leBytes 1 old ++ leBytes 1 st ++ leBytes 1 (s.fget Fld.CRK_STATUS_LASTFAIL k))).irq
      (0x30 + k)

/-- The buffered flits of a lane that belong to its last transfer. -/
def lastXfer (l : List RxPart) : List RxPart := l.foldl (fun acc x => if x.head.isSome then [x] else acc ++ [x]) []

/-- Data bytes of a transfer that its header announces. -/
def xferLen : XferBody → Nat
  | .put _ _ _ len _ _ => len
  | .red _ _ len _ => len
  | _ => 0

/-- Whether some flits of a lane's last transfer have not arrived. -/
def Port.partial1 (p : Port) (vl : Nat) : Bool :=
  let l := lastXfer (p.rx.filter fun x => x.vl = vl)
  let got := (l.map fun x => x.part.data.length).foldl (· + ·) 0
  let ended := l.any fun x => x.part.ends
  match l with
  | ⟨_, _, some (b, _), _⟩ :: _ => !ended && got < xferLen b
  | _ => (p.cur.any fun c => c.vl = vl && c.got + got < xferLen c.body) && !ended

/-- The flits of a lane without those of a transfer that has not wholly arrived. -/
def Port.keepWhole (p : Port) (vl : Nat) : List RxPart :=
  let l := p.rx.filter fun x => x.vl = vl
  if p.partial1 vl then l.take (l.length - (lastXfer l).length) else l

/-- Every partly received inbound transfer discarded (R700 step 4).
(DEDUCED, log 40.) -/
def Port.dropPartial (p : Port) : Port :=
  { p with
    rx := lanes.flatMap p.keepWhole
    cur := p.cur.filter fun c => !(p.partial1 c.vl && !p.rx.any fun x => x.vl = c.vl && x.head.isSome)
    skip := [] }

/-- DOWN is entered and left for TRAINING at once: sequence numbers, the replay buffer and credits are cleared (R497).  The peer's
credits start anew, so none returns for a flit still buffered.
(DEDUCED, log 40.) -/
def State.ckGoDown (s : State) (k : Nat) : State :=
  let s := s.upPort k fun p =>
    let p := p.dropPartial
    { p with held := [], resend := 0, crtot := [], crsent := [], crseen := [], nak := false, nakSeen := false, replays := 0
             rx := p.rx.map fun x => { x with owed := false } }
  let s := (s.rput .CRK_REPLAY 0 k).rput .CRK_VLCRED 0 k
  let s := (s.rput .CRK_PEER 0 k).fput Fld.CRK_STATUS_LANEOK 0 k
  (s.putCk k ckDown).putCk k ckTraining

/-- A retrain begins on an UP port; in any other state the trigger is absorbed (R499). -/
def State.ckRetrainGo (s : State) (k : Nat) : State :=
  if s.ck k = ckUp then (s.fsat Fld.CRK_STATUS_RETRAINS 1 k).putCk k ckRetrain else s

/-! ### Failure (R700) -/

/-- A route entry marked FAULTED where it leads to port `k` (R502). -/
def State.faultRoute (s : State) (k : Nat) (l : RouteLoc) : State :=
  let t := s.rt l Fld.QUE_ROUTEA_DTYPE
  if (t = 1 && s.rt l Fld.QUE_ROUTEA_DPORT = k) || (t = 2 && s.rt l Fld.QUE_ROUTEA_DID = 48 + k) then
    s.rtPut l Fld.QUE_RSTAT_FAULTED 1
  else s

/-- Every route entry that leads to port `k` is marked: the bores' channels, the dispatch routes and the verdict routes (R502). -/
def State.faultRoutes (s : State) (k : Nat) : State :=
  let s := (List.range 64).foldl (fun s b => s.each (List.range 256) fun s ch => s.faultRoute k (.bore b ch)) s
  (List.range 16).foldl (fun s p => s.each (List.range 64) fun s r => (s.faultRoute k (.stage p r)).faultRoute k (.verdict p r)) s

/-- Whether channel `ch` of bore `b` leads through port `k`. -/
def State.rtVia (s : State) (b ch k : Nat) : Bool :=
  s.rt (.bore b ch) Fld.QUE_ROUTEA_DTYPE = 1 && s.rt (.bore b ch) Fld.QUE_ROUTEA_DPORT = k

/-- Audits of channels through port `k` end FAULTED (R318, R700); no reply to an earlier one comes back through it. -/
def State.faultAudits (s : State) (k : Nat) : State :=
  s.each (List.range 64) fun s b =>
    let s := s.upVest b fun v => { v with orphanAud := v.orphanAud.filter fun ch => !s.rtVia b ch k }
    match (s.bore b).vest.audit with
    | some a => if s.rtVia b a.ch k then s.auditFault b else s
    | none => s

/-- A discarded transfer told to its sender and counted (R700 steps 2 and 5). -/
def State.loseXfer (s : State) (k : Nat) (x : XferBody) : State :=
  match x with
  | .msg _ _ m =>
    match m.origin with
    | .here _ => (s.answer (.crook k) 0 rNoroute m).fsat Fld.LOG_KLOSS_MSGS 1 0 k
    | .far _ _ _ => s
  | .nackm _ _ => s.fsat Fld.LOG_KLOSS_MSGS 1 0 k
  | .inc _ _ i =>
    match i.origin with
    | .here _ => (s.sendReturn (.crook k) i.origin 4).fsat Fld.LOG_KLOSS_MSGS 1 0 k
    | .far _ _ _ => s
  | .put _ _ _ _ _ _ => s
  | .red _ _ _ _ => s
  | _ => s.fsat Fld.LOG_KLOSS_OTHER 1 0 k

/-- The ACK of a PUT or RED, from port `k` (R488). -/
def State.sendAck (s : State) (k : Nat) (good : Bool) (putid reason : Nat) : State :=
  s.crkSend k 2 (.ack good putid reason)

/-- A command is refused: its credit returns with an ORPHAN mark (R502). -/
def State.refuseCmd (s : State) (k b ch : Nat) : State :=
  (s.sendReturn (.crook k) (.here (.bore b ch)) 2).fsat Fld.CRK_ERR_CMDREF 1 k

/-- A PUT or RED that awaited its ACK when the port failed (R700 step 3).  The credit of a command whose last flit had not
been transmitted returns with an ORPHAN mark. -/
def State.losePut (s : State) (k : Nat) (w : PutWait) : State :=
  let s := s.fsat Fld.LOG_KLOSS_PUTS 1 0 k
  match w.fwd with
  | some (k', id) => s.sendAck k' false id 0
  | none =>
    let s := s.fsat Fld.CRK_ERR_REJECT 1 k
    match w.ch with
    | some ch => s.sendReturn (.crook k) (.here (.bore w.bore ch)) 2
    | none => s

/-- The flits that a port discards when it fails: its replay buffer, and what it has not transmitted (R700 step 1). -/
def Port.discards (p : Port) : Nat := p.held.length + (p.txq.map fun x => x.parts.length).foldl (· + ·) 0

/-- A port enters FAILED (R502, R700).  No flit is held then, and NEXTSEQ goes back to ACKSEQ with HELD 0 (R492).
(DESIGN CHOICE, log 87.) -/
def State.ckFail (s : State) (k why : Nat) : State :=
  let s := (s.fput Fld.CRK_STATUS_LASTFAIL why k).putCk k ckFailed
  let p := s.port k
  let s := s.upPort k fun p =>
    { p.dropPartial with held := [], resend := 0, txq := [], waits := [], dq0 := [], dq1 := [], dq2 := [] }
  let s := (s.fput Fld.CRK_REPLAY_HELD 0 k).fput Fld.CRK_REPLAY_NEXTSEQ (s.fget Fld.CRK_REPLAY_ACKSEQ k) k
  let s := s.fsat Fld.LOG_KLOSS_FLITS p.discards 0 k
  let s := (s.faultAudits k).faultRoutes k
  let s := (p.held.filterMap (·.last) ++ p.txq.map (·.body)).foldl (fun s x => s.loseXfer k x) s
  let s := p.waits.foldl (fun s w => s.losePut k w) s
  let s := (p.dq0 ++ p.dq1 ++ p.dq2).foldl (fun s c => s.refuseCmd k c.bore c.ch) s
  s.log (srcCrook k) 0x0041 none 0 (leBytes 8 (s.rget .LOG_KLOSS 0 k).toNat)

/-! ### Control -/

/-- Who may write the CRK block: the host's physical function, and the drone for the tray controller. -/
def mayCrk (who : Requester) : Bool := mayTray who || who = .drone

/-- A write of CRK_CTRL (R497, R499, R504). -/
def State.crkCtrl (s : State) (k v : Nat) : State :=
  let s := s.fput Fld.CRK_CTRL_ENABLE (b2n (bit v 0)) k
  if !bit v 0 then s.putCk k ckDisabled
  else if s.ck k = ckDisabled then s.ckGoDown k
  else if bit v 2 then (if s.ck k = ckFailed then s.ckGoDown k else s)
  else if bit v 1 then s.ckRetrainGo k
  else s

/-- A write of CRK_CTRL by a requester. -/
def crkCtrl (who : Requester) (k v : Nat) (s : State) : Host.Outcome State Fault Refusal :=
  ok (s.hubReg (mayCrk who) (s.crkCtrl k v))

/-- CRK_ENABLE (R497). -/
def execCrkEnable (who : Requester) (k : Nat) (on : Bool) (s : State) : Host.Outcome State Fault Refusal :=
  crkCtrl who k (b2n on) s

/-- CRK_RETRAIN (R499). -/
def execCrkRetrain (who : Requester) (k : Nat) (s : State) : Host.Outcome State Fault Refusal :=
  crkCtrl who k (2 + s.fget Fld.CRK_CTRL_ENABLE k) s

/-- CRK_RESET (R497). -/
def execCrkReset (who : Requester) (k : Nat) (s : State) : Host.Outcome State Fault Refusal :=
  crkCtrl who k (4 + s.fget Fld.CRK_CTRL_ENABLE k) s

/-! ### Training -/

/-- The peer's INIT recorded (R498). -/
def State.putPeer (s : State) (k : Nat) (i : InitFlit) : State :=
  ((s.fput Fld.CRK_PEER_VALID 1 k).fput Fld.CRK_PEER_PORT i.port k).fput Fld.CRK_PEER_ID i.id k

/-- Whether an INIT comes from another peer than the one recorded. -/
def State.peerChanged (s : State) (k : Nat) (i : InitFlit) : Bool :=
  s.flag Fld.CRK_PEER_VALID k && (s.fget Fld.CRK_PEER_ID k ≠ i.id || s.fget Fld.CRK_PEER_PORT k ≠ i.port)

/-- The lanes are locked; whether they are reversed or inverted is the wiring's, a free value.
(DESIGN CHOICE, log 42.) -/
def State.lockLanes (s : State) (k : Nat) : State :=
  let (v, s) := s.free 5
  ((s.fput Fld.CRK_STATUS_LANEOK 15 k).fput Fld.CRK_STATUS_REVERSED (v.toNat / 16) k).fput Fld.CRK_STATUS_POLINV v.toNat k

/-- TRAINING_TIMEOUT (R497). -/
def execTrainingTimeout (k : Nat) (s : State) : Host.Outcome State Fault Refusal :=
  ok (when (s.ck k = ckTraining) s ((s.fput Fld.CRK_STATUS_LASTFAIL 1 k).ckGoDown k))

/-- Held flits that an ACK passes are released (R492): how many, and the state. -/
def State.ackTo (s : State) (k ack : Nat) : Nat × State :=
  let p := s.port k
  let n := (ack + (2 ^ 16 - s.fget Fld.CRK_REPLAY_ACKSEQ k)) % 2 ^ 16
  if p.held.length < n then (0, s)
  else
    let s := s.upPort k fun p => { p with held := p.held.drop n, resend := min p.resend (p.held.length - n),
                                          replays := if n = 0 then p.replays else 0 }
    (n, (s.fput Fld.CRK_REPLAY_ACKSEQ ack k).fput Fld.CRK_REPLAY_HELD (p.held.length - n) k)

/-- Every held flit is to be retransmitted (R492); the sixteenth replay without progress begins a retrain (R499). -/
def State.replay (s : State) (k : Nat) : State :=
  let s := s.upPort k fun p => { p with resend := p.held.length, replays := p.replays + 1 }
  let s := s.fsat Fld.CRK_ERR_REPLAYS 1 k
  if 16 ≤ (s.port k).replays then s.ckRetrainGo k else s

/-- The credits that a received CRTOT reports for lane `vl` (R493, R494). -/
def State.takeCrtot (s : State) (k vl tot : Nat) : State :=
  let n := (tot + (2 ^ 14 - laneAt (s.port k).crseen vl)) % 2 ^ 14
  (s.finc (vlCred vl) n k).upPort k fun p => { p with crseen := lanePut p.crseen vl (tot % 2 ^ 14) }

/-- The ACK and CRTOT of an INIT flit applied (R481, R494). -/
def State.takeInit (s : State) (k : Nat) (i : InitFlit) : State := (s.ackTo k i.ack).2.takeCrtot k i.crvl i.crtot

/-- TRAINING_COMPLETE (R498): credits start at the peer's grants. -/
def execTrainingComplete (k : Nat) (init : InitFlit) (s : State) : Host.Outcome State Fault Refusal :=
  if s.ck k ≠ ckTraining then ok s else
  let s := (s.putPeer k init).lockLanes k
  let s := s.each lanes fun s vl => s.fput (vlCred vl) (laneAt init.grants vl) k
  ok ((s.takeInit k init).putCk k ckUp)

/-- RETRAIN_COMPLETE (R498): credits are kept, and the held flits are replayed from the peer's expected SEQ. -/
def execRetrainComplete (k : Nat) (init : InitFlit) (s : State) : Host.Outcome State Fault Refusal :=
  if s.ck k ≠ ckRetrain then ok s
  else if s.peerChanged k init then ok (s.ckFail k 3)
  else
    let s := (((s.putPeer k init).takeInit k init).ackTo k init.expected).2
    let s := s.upPort k fun p => { p with resend := p.held.length, replays := 0 }
    ok ((s.lockLanes k).putCk k ckUp)

/-- RETRAIN_TIMEOUT (R497). -/
def execRetrainTimeout (k : Nat) (s : State) : Host.Outcome State Fault Refusal :=
  ok (when (s.ck k = ckRetrain) s (s.ckFail k 2))

/-- LANE_LOCK_LOSS (R499); which lanes lost their lock is a free value.
(DESIGN CHOICE, log 42.) -/
def execLaneLockLoss (k : Nat) (s : State) : Host.Outcome State Fault Refusal :=
  if s.ck k ≠ ckUp then ok s else
  let (v, s) := s.free 4
  ok ((s.fput Fld.CRK_STATUS_LANEOK v.toNat k).ckRetrainGo k)

/-- INIT_FLIT_RECEIVED (R498, R499): on an UP port it starts a retrain, and a changed peer fails a port in RETRAIN. -/
def execInitFlitReceived (k : Nat) (init : InitFlit) (s : State) : Host.Outcome State Fault Refusal :=
  if s.ck k = ckTraining then ok ((s.putPeer k init).takeInit k init)
  else if s.ck k ≠ ckUp && s.ck k ≠ ckRetrain then ok s
  else
    let s := (s.takeInit k init).ckRetrainGo k
    ok (when (s.peerChanged k init) s (s.ckFail k 3))

/-! ### Receiving flits -/

/-- A credit of lane `vl` is returned to the peer (R493). -/
def State.returnVl (s : State) (k vl : Nat) : State :=
  s.upPort k fun p => { p with crtot := lanePut p.crtot vl ((laneAt p.crtot vl + 1) % 2 ^ 14) }

/-- The codewords that FEC counted; UCTHR uncorrectable ones within one millisecond, 25,000 ticks, begin a retrain (R499). -/
def State.fecCount (s : State) (k cor uncor : Nat) : State :=
  let s := (s.fsat Fld.CRK_FEC_CORR cor k).fsat Fld.CRK_FEC_UNCORR uncor k
  let now := (s.rget .DRN_TIME).toNat
  let s := s.upPort k fun p => { p with ucs := (p.ucs ++ [(now, uncor)]).filter fun x => x.2 ≠ 0 && now < x.1 + 25000 }
  let thr := s.fget Fld.CRK_CFG_UCTHR k
  if uncor ≠ 0 && thr ≠ 0 && thr ≤ ((s.port k).ucs.map (·.2)).foldl (· + ·) 0 then s.ckRetrainGo k else s

/-- A NAK (R492): flits in a row that carry it with the same ACK are one. -/
def State.takeNak (s : State) (k : Nat) (nak progress : Bool) : State :=
  let seen := (s.port k).nakSeen
  let s := s.upPort k fun p => { p with nakSeen := nak }
  if nak && (!seen || progress) then (s.fsat Fld.CRK_ERR_NAKS 1 k).replay k else s

/-- The fields of window `w`, as the port captures them (R487). -/
def State.captureWin (s : State) (k w : Nat) : WinCap :=
  ⟨s.flag Fld.CRK_IWINA_VALID k w, s.flag Fld.CRK_IWINA_KIND k w, s.fget Fld.CRK_IWINA_CTX k w, s.fget Fld.CRK_IWINA_BASE k w,
    s.fget Fld.CRK_IWINB_NWIN k w, s.fget Fld.CRK_IWINB_NPORT k w, s.fget Fld.CRK_IWINB_SIZE k w⟩

/-- The window that a transfer names, captured; window 0 stands for a transfer that names none. -/
def State.winFor (s : State) (k : Nat) (b : XferBody) : WinCap :=
  match b with
  | .put _ w _ _ _ _ => s.captureWin k w
  | _ => s.captureWin k 0

/-- A flit brought into its lane's buffer. -/
def State.bufferFlit (s : State) (k vl : Nat) (x : Share) (head : Option (XferBody × WinCap)) : State :=
  s.upPort k fun p => { p with rx := p.rx ++ [⟨vl, x, head, true⟩], skip := if head.isSome then p.skip.erase vl else p.skip }

/-- An XFER flit that is accepted (R491): a transfer's first flit captures its window (R487); a transfer of no defined KIND is
dropped whole, and counted once (R483), as is a flit on VL2 that begins none. -/
def State.acceptFlit (s : State) (k vl : Nat) (x : Share) : State :=
  let s := (s.finc Fld.CRK_REPLAY_EXPSEQ 1 k).upPort k fun p => { p with nak := false }
  if x.first then
    match xferOf vl (x.body.take 16) (plain x.data) with
    | some b => s.bufferFlit k vl x (some (b, s.winFor k b))
    | none =>
      ((s.fsat Fld.CRK_ERR_BADFLIT 1 k).upPort k fun p => { p with skip := sinsert vl p.skip }).returnVl k vl
  else if vl ∈ (s.port k).skip then s.returnVl k vl
  else if vl = 2 then (s.fsat Fld.CRK_ERR_BADFLIT 1 k).returnVl k vl
  else s.bufferFlit k vl x none

/-- Whether a flit's CRC is good (R480). -/
def crcGood (l : List Byte) : Bool := crc32 (l.take 12 ++ l.drop 16) = numAt l 12 4

/-- A flit discarded: NAK is set until the expected flit comes (R491). -/
def State.dropFlit (s : State) (k : Nat) : State := s.upPort k fun p => { p with nak := true }

/-- The ACK, CRTOT and NAK of a good flit (R494). -/
def State.takeLink (s : State) (k : Nat) (l : Link) : State :=
  let (n, s) := s.ackTo k l.ack
  (s.takeCrtot k l.crvl l.crtot).takeNak k l.nak (n ≠ 0)

/-- FLIT_RECEIVED (R481, R491, R494): no field is used of a flit with a bad CRC, which may have been an XFER flit, or with a
reserved TYPE; an INIT flit starts a retrain (R499); a frozen device accepts no XFER flit (R715).
(DESIGN CHOICE, log 87.) -/
def State.takeFlit (s : State) (k : Nat) (f : RxFlit) : State :=
  let s := s.fecCount k f.cor f.uncor
  let l := linkOf f.bytes
  if !crcGood f.bytes then (s.fsat Fld.CRK_ERR_CRCERR 1 k).dropFlit k
  else if tyXfer < l.type then s.fsat Fld.CRK_ERR_BADFLIT 1 k
  else
    let s := s.takeLink k l
    if l.type = tyInit then s.ckRetrainGo k
    else if l.type = tyIdle || s.faults.frozen then s
    else if l.seq = s.fget Fld.CRK_REPLAY_EXPSEQ k then s.acceptFlit k l.vl (shareIn f.bytes)
    else s.dropFlit k

/-- FLIT_RECEIVED (R491). -/
def execFlitReceived (k : Nat) (flit : RxFlit) (s : State) : Host.Outcome State Fault Refusal :=
  ok (when (s.ck k = ckUp) s (s.takeFlit k flit))

/-- REPLAY_TIMEOUT (R492). -/
def execReplayTimeout (k : Nat) (s : State) : Host.Outcome State Fault Refusal :=
  if s.faults.frozen then ok s else
  ok (when (s.ck k = ckUp && !(s.port k).held.isEmpty) s (s.replay k))

/-! ### Sending flits -/

/-- The next flit of lane `vl`: its share, its transfer when it is the last flit of it, and the queue after it.  A forwarded PUT
whose next flit has not arrived holds its lane (R482, R489). -/
def txStep (vl : Nat) : List TxXfer → Option (Share × Option XferBody × List TxXfer)
  | [] => none
  | x :: r =>
    if x.vl = vl then
      match x.parts with
      | [] => none
      | p :: ps => if ps.isEmpty && !x.more then some (p, some x.body, r) else some (p, none, { x with parts := ps } :: r)
    else (txStep vl r).map fun y => (y.1, y.2.1, x :: y.2.2)

/-- Whether lane `vl` has a flit and a credit. -/
def State.vlReady (s : State) (k vl : Nat) : Bool := s.fget (vlCred vl) k ≠ 0 && (txStep vl (s.port k).txq).isSome

/-- A weight of the rotation; 0 acts as 1 (R506). -/
def vlWeight (n : Nat) : Nat := max n 1

/-- The weighted rotation of VL0, VL1 and VL3 (R495): one place for each flit time of a turn.
(DESIGN CHOICE, log 41.) -/
def State.rotation (s : State) (k : Nat) : List Nat :=
  List.replicate (vlWeight (s.fget Fld.CRK_CFG_W0 k)) 0 ++ List.replicate (vlWeight (s.fget Fld.CRK_CFG_W1 k)) 1
    ++ List.replicate (vlWeight (s.fget Fld.CRK_CFG_W3 k)) 3

/-- The lane that sends in this flit time, and the place of the rotation after it (R495).
(DESIGN CHOICE, log 41.) -/
def State.pickVl (s : State) (k : Nat) : Option (Nat × Nat) :=
  let rot := (s.port k).rot
  if s.vlReady k 2 then some (2, rot)
  else
    let l := s.rotation k
    ((List.range l.length).map fun i => (rot + i) % l.length).findSome? fun i =>
      let vl := l.getD i 0
      if s.vlReady k vl then some (vl, (i + 1) % l.length) else none

/-- The credit of a command whose last flit has been transmitted returns (R484). -/
def State.creditCmd (s : State) (k putid : Nat) : State :=
  match (s.port k).waits.find? fun w => w.putid = putid with
  | some w =>
    match w.ch with
    | some ch =>
      (s.sendReturn (.crook k) (.here (.bore w.bore ch)) 1).upPort k fun p =>
        { p with waits := p.waits.map fun v => if v.putid = putid then { v with ch := none } else v }
    | none => s
  | none => s

/-- The lane whose returned credits the next flit reports: in rotation, the next with returns that have not been reported, or else
the next lane (R493).
(DESIGN CHOICE, log 87.) -/
def Port.reportVl (p : Port) : Nat :=
  let order := lanes.map fun i => (p.crlast + 1 + i) % 4
  (order.find? fun vl => laneAt p.crtot vl ≠ laneAt p.crsent vl).getD ((p.crlast + 1) % 4)

/-- The lane reported. -/
def State.reported (s : State) (k vl : Nat) : State :=
  s.upPort k fun p => { p with crlast := vl, crsent := lanePut p.crsent vl (laneAt p.crtot vl) }

/-- The bytes of a flit, with its CRC (R480). -/
def flitBytes (l : Link) (x : Share) : List Byte :=
  let h := flitHead l x
  h ++ leBytes 4 (crc32 (h ++ flitBody x)) ++ flitBody x

/-- A flit put on the lanes, with fresh ACK, NAK, CRVL, CRTOT and CRC (R480, R491 to R493). -/
def State.emitFlit (s : State) (k type seq vl : Nat) (x : Share) : State :=
  let p := s.port k
  let r := p.reportVl
  let l : Link := ⟨seq, s.fget Fld.CRK_REPLAY_EXPSEQ k, vl, p.nak, type, r, laneAt p.crtot r⟩
  (s.reported k r).upPort k fun p => { p with out := .flit (flitBytes l x) }

/-- An IDLE flit (R481). -/
def State.emitIdle (s : State) (k : Nat) : State := s.emitFlit k tyIdle 0 0 ⟨false, 0, 0, []⟩

/-- An INIT flit of this port (R498): CRK_LOCALID, its number, its grants and the sequence number it expects. -/
def State.emitInit (s : State) (k : Nat) : State :=
  let p := s.port k
  let r := p.reportVl
  let e := s.fget Fld.CRK_REPLAY_EXPSEQ k
  (s.reported k r).upPort k fun p =>
    { p with out := .init ⟨s.fget Fld.CRK_LOCALID_ID, k, lanes.map vlGrant, e, e, r, laneAt p.crtot r⟩ }

/-- A new XFER flit of lane `vl` is transmitted and held for replay (R492, R493); the place of the rotation moves on. -/
def State.sendFlit (s : State) (k vl rot : Nat) : State :=
  match txStep vl (s.port k).txq with
  | none => s
  | some (x, last, q) =>
    let seq := s.fget Fld.CRK_REPLAY_NEXTSEQ k
    let s := (s.upPort k fun p => { p with txq := q, rot := rot, held := p.held ++ [⟨seq, vl, x, last⟩] }).emitFlit k tyXfer seq vl x
    let s := (s.fput Fld.CRK_REPLAY_NEXTSEQ (seq + 1) k).fput Fld.CRK_REPLAY_HELD (s.port k).held.length k
    let s := s.fput (vlCred vl) (s.fget (vlCred vl) k - 1) k
    match last with
    | some (.put _ _ id _ _ _) => s.creditCmd k id
    | some (.red _ id _ _) => s.creditCmd k id
    | _ => s

/-- The oldest flit still to be retransmitted is sent again (R492). -/
def State.resendFlit (s : State) (k : Nat) : State :=
  let p := s.port k
  match p.held.drop (p.held.length - p.resend) with
  | [] => s
  | f :: _ => (s.upPort k fun p => { p with resend := p.resend - 1 }).emitFlit k tyXfer f.seq f.vl f.part

/-- FLIT_TRANSMIT (R481, R492, R495, R498): in training and retraining an INIT flit; else a flit to be retransmitted, a new flit, or
an IDLE flit. -/
def execFlitTransmit (k : Nat) (s : State) : Host.Outcome State Fault Refusal :=
  if s.faults.frozen then ok s else
  let p := s.port k
  if s.ck k = ckTraining || s.ck k = ckRetrain then ok (s.emitInit k)
  else if s.ck k ≠ ckUp then ok (s.upPort k fun p => { p with out := .quiet })
  else if p.resend ≠ 0 then ok (s.resendFlit k)
  else if 4096 ≤ p.held.length then ok (s.emitIdle k)
  else match s.pickVl k with
    | some (vl, rot) => ok (s.sendFlit k vl rot)
    | none => ok (s.emitIdle k)

/-! ### Commands -/

/-- A command message reaches port `k`, in the DQs that `want` accepts (R484, R502); others are refused with NOROUTE. -/
def crookCommand (src : Endpoint) (k : Nat) (s : State) (want : Nat → Bool) : Host.Outcome State Fault Refusal :=
  match s.oldest .posted src (.crook k) with
  | some (⟨_, _, _, .message _ q m⟩, t) =>
    let bch : Nat × Nat := match m.origin with
      | .here (.bore b ch) => (b, ch)
      | _ => (0, 0)
    if m.nack || 2 < q then ok (t.answer (.crook k) 0 rNoroute m)
    else if !want q then ok s
    else if s.ck k = ckDisabled || s.ck k = ckDown || s.ck k = ckFailed then ok (t.refuseCmd k bch.1 bch.2)
    else
      let c : CrkCmd := ⟨m.words, bch.1, bch.2⟩
      ok (t.upPort k fun p =>
        if q = 0 then { p with dq0 := p.dq0 ++ [c] } else if q = 1 then { p with dq1 := p.dq1 ++ [c] }
        else { p with dq2 := p.dq2 ++ [c] })
  | _ => ok s

/-- PUT_COMMAND (R484). -/
def execPutCommand (src : Endpoint) (k : Nat) (s : State) : Host.Outcome State Fault Refusal :=
  if s.faults.frozen then ok s else
  crookCommand src k s (· ≤ 1)

/-- RED_COMMAND (R484). -/
def execRedCommand (src : Endpoint) (k : Nat) (s : State) : Host.Outcome State Fault Refusal :=
  if s.faults.frozen then ok s else
  crookCommand src k s (· = 2)

/-- The commands of a DQ. -/
def Port.dq (p : Port) (q : Nat) : List CrkCmd := if q = 0 then p.dq0 else if q = 1 then p.dq1 else p.dq2

/-- A PUTID that awaits no ACK. -/
def freshPutid (p : Port) : Nat :=
  ((List.range 2048).map fun i => (p.putid + i) % 2 ^ 16).find? (fun i => !p.waits.any fun w => w.putid = i) |>.getD 0

/-- The source address of a command and its length in bytes (R484). -/
def CrkCmd.src (c : CrkCmd) : Nat := 256 * (c.words.getD 0 0).toNat
def CrkCmd.len (c : CrkCmd) : Nat := bits (c.words.getD 1 0).toNat 0 24 * 64

/-- The transfer that a command asks for under a PUTID (R484). -/
def CrkCmd.body (c : CrkCmd) (q id : Nat) : XferBody :=
  let w (i : Nat) : Nat := (c.words.getD i 0).toNat
  if q = 2 then .red (bits (w 1) 24 6) id c.len (w 2)
  else .put (q = 1) (bits (w 1) 24 3) id c.len (256 * w 2) (bits (w 3) 0 24)

/-- The source of a command read and its transfer accepted; what could be read goes before the final flit of a source that could
not be read to its end (R485). -/
def State.startXfer (s : State) (k q : Nat) (c : CrkCmd) : State :=
  let w3 := (c.words.getD 3 0).toNat
  let ctx := s.sctx (partOf c.bore)
  let (st, l, s) := s.spaceRead (.context ctx) c.src c.len
  let id := freshPutid (s.port k)
  let lcn := if bit w3 31 && !st.bad then some (bits w3 24 6) else none
  let s := s.upPort k fun p =>
    { p with putid := (id + 1) % 2 ^ 16, waits := p.waits ++ [⟨id, lcn, c.bore, some c.ch, none⟩] }
  let s := if st.bad then
      (s.fsat Fld.CRK_ERR_SRCFAULT 1 k).contextFault (srcCrook k) ctx false (c.src + l.length) st
    else s
  let body := c.body q id
  s.upPort k fun p =>
    { p with txq := p.txq ++ [⟨if q = 2 then 3 else q, xferShares body l ++ (if st.bad then [endShare] else []), false, body⟩] }

/-- Whether the source of a command lies where an earlier posted transfer of the port is still on its way (R29). -/
def State.xferBehind (s : State) (k : Nat) (c : CrkCmd) : Bool :=
  (s.net.any fun t => t.src = .crook k) &&
    s.passes (.crook k) ((lineRuns (c.len / 256 + 2) c.src c.len).map fun r =>
      s.deviceAt (.context (s.sctx (partOf c.bore))) false r.1)

/-- TRANSFER_START (R485). -/
def execTransferStart (k dq : Nat) (s : State) : Host.Outcome State Fault Refusal :=
  if s.faults.frozen then ok s else
  match (s.port k).dq dq with
  | [] => ok s
  | c :: rest =>
    if s.ck k ≠ ckUp || 1024 ≤ (s.port k).waits.length || s.xferBehind k c then ok s
    else
      let s := s.upPort k fun p =>
        if dq = 0 then { p with dq0 := rest } else if dq = 1 then { p with dq1 := rest } else { p with dq2 := rest }
      ok (s.startXfer k dq c)

/-! ### Inbound transfers -/

/-- The oldest buffered flit of lane `vl`. -/
def Port.rxHead (p : Port) (vl : Nat) : Option RxPart := p.rx.find? fun x => x.vl = vl

/-- The transfer that is leaving lane `vl`. -/
def Port.curOf (p : Port) (vl : Nat) : Option RxCur := p.cur.find? fun c => c.vl = vl

/-- Whether a PUT is accepted by the window it names (R487). -/
def winAccepts (w : WinCap) (off len : Nat) : Bool := w.valid && off + len ≤ 4096 * w.size

/-- Element index of a RED's next element, past `got` bytes of its data (R490). -/
def State.redIndex (s : State) (slot eidx got : Nat) : Nat := eidx + got / s.celem (slot / 4) (slot % 4)

/-- Where a flit of a transfer is bound, past `got` bytes of its data: `n` bytes of data. -/
def State.bound (s : State) (k : Nat) (b : XferBody) (w : WinCap) (got n : Nat) : List Endpoint :=
  match b with
  | .put _ _ _ len off _ =>
    if !winAccepts w off len then []
    else if w.fwd then [.crook w.nport]
    else
      let a := 4096 * w.base + off + got
      (s.memEnd a).toList ++ (s.memEnd (a + n - 1)).toList
  | .red slot _ _ eidx =>
    let h := slot / 4
    let a := 4096 * s.fget Fld.OVB_BBASE_BASE h (slot % 4) + 4 * s.redIndex slot eidx got
    (s.memEnd (s.deviceAt (.context (s.sctx h)) true a)).toList
  | .msg did _ _ => [.bore did]
  | .nackm did _ => [.bore did]
  | .inc did _ _ => [.bore did]
  | .audit did _ _ _ => [.bore did]
  | .ret _ b _ _ => [.bore b]
  | .ack _ id _ =>
    match (s.port k).waits.find? fun w => w.putid = id with
    | some w => [match w.fwd with | some (n, _) => .crook n | none => .bore w.bore]
    | none => []
  | .tag _ _ => []

/-- Where the oldest flit of a lane is bound. -/
def State.headBound (s : State) (k vl : Nat) : List Endpoint :=
  match (s.port k).rxHead vl with
  | none => []
  | some x =>
    let n := x.part.data.length
    match x.head, (s.port k).curOf vl with
    | some (b, w), _ => s.bound k b w 0 n
    | none, some c => s.bound k c.body c.win c.got n
    | none, none => []

/-- Whether a posted transfer of port `k` is still on its way to an endpoint: what the port does there now would pass it (R28). -/
def State.behind (s : State) (k : Nat) (l : List Endpoint) : Bool :=
  s.net.any fun t => t.cls = .posted && t.src = .crook k && t.dst ∈ l

/-- Whether the oldest flit of a lane may leave its buffer: the fabrics of the port and of the quadrant that it is bound for run,
and the port is not in RETRAIN (R496, R499, R503). -/
def State.mayLeave (s : State) (k vl : Nat) : Bool :=
  s.ck k ≠ ckRetrain && s.fabOk (.crook k) && (s.headBound k vl).all s.fabOk

/-- The oldest flit of a lane has left its buffer, and its credit returns (R493). -/
def State.leave (s : State) (k vl : Nat) : State :=
  match (s.port k).rxHead vl with
  | none => s
  | some x =>
    let s := s.upPort k fun p => { p with rx := p.rx.erase x }
    if x.owed then s.returnVl k vl else s

/-- The oldest transfer of lane `vl` of port `k`, of one flit, when `want` accepts it and it may leave the buffer: it, and the state
in which it has left. -/
def State.rxTake (s : State) (k vl : Nat) (want : XferBody → Bool) : Option (XferBody × State) :=
  if !s.mayLeave k vl then none else
  match (s.port k).rxHead vl with
  | some ⟨_, _, some (b, _), _⟩ => if want b then some (b, s.leave k vl) else none
  | _ => none

/-- The first of lanes 0 and 1 that has such a transfer. -/
def State.rxTake01 (s : State) (k : Nat) (want : XferBody → Bool) : Option (XferBody × State) :=
  match s.rxTake k 0 want with
  | some r => some r
  | none => s.rxTake k 1 want

/-- A PUT refused here (R487, R488).
(DEDUCED, log 40.) -/
def State.rejectPut (s : State) (k putid reason : Nat) : State :=
  (s.fsat Fld.CRK_ERR_WINVIOL 1 k).sendAck k false putid reason

/-- The transfer that is leaving a lane set, or none. -/
def State.putCur (s : State) (k vl : Nat) (c : Option RxCur) : State :=
  s.upPort k fun p => { p with cur := (p.cur.filter fun x => x.vl ≠ vl) ++ c.toList }

/-- What remains of a transfer after a flit of it. -/
def RxCur.after (c : RxCur) (x : Share) : Option RxCur :=
  let got := c.got + x.data.length
  if x.ends || xferLen c.body ≤ got then none else some { c with got := got }

/-- A forwarded PUT accepted by the outgoing port, to be sent flit by flit as it arrives (R489): its PUTID there, and the state. -/
def State.beginForward (s : State) (k n putid : Nat) (back : Bool) (body : Nat → XferBody) : Nat × State :=
  let id := freshPutid (s.port n)
  (id, s.upPort n fun p =>
    { p with putid := (id + 1) % 2 ^ 16, waits := p.waits ++ [⟨id, none, 0, none, some (k, putid)⟩]
             txq := p.txq ++ [⟨b2n back, [], true, body id⟩] })

/-- A PUT's first flit at its window (R487): what becomes of the PUT; none while the outgoing port of a FWD window holds 1,024 PUTIDs
(R485).
(DEDUCED, log 40.) -/
def State.beginPut (s : State) (k vl : Nat) (b : XferBody) (w : WinCap) : Option (RxCur × State) :=
  match b with
  | .put back _ putid len off rinc =>
    let c : RxCur := ⟨vl, b, w, .drop, 0⟩
    if !w.valid then some (c, s.rejectPut k putid 1)
    else if !winAccepts w off len then some (c, s.rejectPut k putid 2)
    else if w.fwd then
      if 1024 ≤ (s.port w.nport).waits.length then none
      else
        let (id, s) := s.beginForward k w.nport putid back fun id => .put back w.nwin id len off rinc
        some ({ c with mode := .forward w.nport id }, s)
    else some ({ c with mode := .write }, s)
  | _ => none

/-- The share of a forwarded flit: in a first flit the header names the next window and the new PUTID (R489). -/
def forwardShare (x : Share) (b : XferBody) : Share := if x.first then { x with body := xferHead b ++ x.body.drop 16 } else x

/-- A flit handed to the outgoing port of a forwarded PUT. -/
def State.forwardFlit (s : State) (n id : Nat) (x : Share) (last : Bool) : State :=
  s.upPort n fun p => { p with txq := p.txq.map fun y =>
    match y.body with
    | .put _ _ i _ _ _ => if i = id && y.more then { y with parts := y.parts ++ [forwardShare x y.body], more := !last } else y
    | _ => y }

/-- One flit of a PUT that is leaving its lane (R487 to R489). -/
def State.putFlit (s : State) (k : Nat) (c : RxCur) (x : Share) : State :=
  let next := c.after x
  match c.body, c.mode with
  | .put back _ putid _ off rinc, .write =>
    if x.ends then (s.putCur k c.vl none).rejectPut k putid 2
    else
      let a := 4096 * c.win.base + off + c.got
      let (st, t) := s.spaceWrite .device a x.data
      if st.bad then
        ((t.unitFault (srcCrook k) none (s.stopLine .device a x.data.length) (faultCode st)).putCur k c.vl
          (next.map fun d => { d with mode := .drop })).rejectPut k putid 3
      else match next with
        | some d => t.putCur k c.vl (some d)
        | none => (t.putCur k c.vl none).upPort k fun p => { p with putsIn := p.putsIn ++ [⟨back, putid, rinc, c.win.wctx⟩] }
  | _, .forward n id => (s.forwardFlit n id x next.isNone).putCur k c.vl next
  | _, _ => s.putCur k c.vl next

/-- The oldest flit of a lane that holds a PUT leaves its buffer; none when there is none that may.  A flit of no transfer is
dropped. -/
def State.putStep (s : State) (k vl : Nat) : Option State :=
  if !s.mayLeave k vl || s.behind k (s.headBound k vl) then none else
  match (s.port k).rxHead vl with
  | none => none
  | some x =>
    match x.head, (s.port k).curOf vl with
    | some (b, w), _ => (s.beginPut k vl b w).map fun r => (r.2.putFlit k r.1 x.part).leave k vl
    | none, some c => some ((s.putFlit k c x.part).leave k vl)
    | none, none => some (s.leave k vl)

/-- Whether a transfer is a PUT. -/
def isPut : XferBody → Bool
  | .put _ _ _ _ _ _ => true
  | _ => false

/-- Whether the oldest flit of a lane begins a transfer. -/
def State.atFirst (s : State) (k vl : Nat) : Bool := ((s.port k).rxHead vl).any fun x => x.head.isSome

/-- The flits of the lane's oldest PUT that have arrived leave their buffer, at most `n`. -/
def State.putRun (k vl : Nat) : Nat → State → State
  | 0, s => s
  | n + 1, s =>
    match s.putStep k vl with
    | some t => if t.atFirst k vl then t else t.putRun k vl n
    | none => s

/-- PUT_ARRIVAL (R487 to R489): the oldest PUT of VL0, or else of VL1, as far as it has arrived. -/
def execPutArrival (k : Nat) (s : State) : Host.Outcome State Fault Refusal :=
  if s.faults.frozen then ok s else
  match s.putStep k 0, s.putStep k 1 with
  | some _, _ => ok (s.putRun k 0 (s.port k).rx.length)
  | none, some _ => ok (s.putRun k 1 (s.port k).rx.length)
  | none, none => ok s

/-- The local counter that a completed PUT increments: its bore and index (R488). -/
def PutIn.local1 (w : PutIn) : Option (Nat × Nat) :=
  if bit w.rinc 23 && !bit w.rinc 22 then some (bits w.rinc 16 6, bits w.rinc 0 14) else none

/-- A local counter of a bore incremented by a port; an index above 47 and a bore that is OFF take none. -/
def State.portInc (s : State) (b i : Nat) : State := if s.pstate b = psOff || 47 < i then s else s.incLocal b i 1

/-- The remote increment of a PUT (R488). -/
def State.putInc (s : State) (k : Nat) (w : PutIn) : State :=
  match w.local1 with
  | some (b, i) => s.portInc b i
  | none => if bit w.rinc 23 then s.sendPool (.crook k) (bits w.rinc 0 14) 1 w.wctx else s

/-- PUT_COMPLETE (R488): a local increment does not pass what the port sent to that bore earlier (R28), and waits in RETRAIN
(R499). -/
def execPutComplete (k : Nat) (s : State) : Host.Outcome State Fault Refusal :=
  if s.faults.frozen || s.ck k = ckRetrain then ok s else
  match (s.port k).putsIn with
  | [] => ok s
  | w :: rest =>
    if s.behind k (w.local1.toList.map fun x => .bore x.1) then ok s
    else ok (((s.upPort k fun p => { p with putsIn := rest }).putInc k w).sendAck k true w.putid 0)

/-- A RED's first flit at its slot (R490): what becomes of the RED. -/
def State.beginRed (s : State) (k : Nat) (b : XferBody) (w : WinCap) : Option (RxCur × State) :=
  match b with
  | .red slot putid _ _ =>
    let c : RxCur := ⟨3, b, w, .add false, 0⟩
    if s.flag Fld.OVB_BCFG_VALID (slot / 4) (slot % 4) then some (c, s)
    else some ({ c with mode := .drop }, (s.noSlot slot).sendAck k false putid 4)
  | _ => none

/-- The 8-byte words of a list of bytes with poison that are poisoned. -/
def poisonWords (l : List (Byte × Bool)) : List Nat :=
  (List.range ((l.length + 7) / 8)).filter fun w => ((l.drop (8 * w)).take 8).any (·.2)

/-- One flit of a RED that is leaving its lane (R415, R417, R490): a poisoned contribution counts once. -/
def State.redFlit (s : State) (k : Nat) (c : RxCur) (x : Share) : State :=
  let next := c.after x
  match c.body, c.mode with
  | .red slot putid _ eidx, .add pois =>
    if x.ends then (s.putCur k 3 none).rejectPut k putid 2
    else
      let pw := poisonWords x.data
      let s := if !pw.isEmpty && !pois then s.poisonedSlot slot else s
      let s := s.addRun (srcCrook k) slot (s.redIndex slot eidx c.got) (plain x.data) pw
      match next with
      | some d => s.putCur k 3 (some { d with mode := .add (pois || !pw.isEmpty) })
      | none => (s.putCur k 3 none).sendAck k true putid 0
  | _, _ => s.putCur k 3 next

/-- The oldest flit of VL3 leaves its buffer once its elements are written (R490). -/
def State.redStep (s : State) (k : Nat) : Option State :=
  if !s.mayLeave k 3 || s.behind k (s.headBound k 3) then none else
  match (s.port k).rxHead 3 with
  | none => none
  | some x =>
    match x.head, (s.port k).curOf 3 with
    | some (b, w), _ => (s.beginRed k b w).map fun r => (r.2.redFlit k r.1 x.part).leave k 3
    | none, some c => some ((s.redFlit k c x.part).leave k 3)
    | none, none => some (s.leave k 3)

/-- The flits of the oldest RED that have arrived leave their buffer, at most `n`. -/
def State.redRun (k : Nat) : Nat → State → State
  | 0, s => s
  | n + 1, s =>
    match s.redStep k with
    | some t => if t.atFirst k 3 then t else t.redRun k n
    | none => s

/-- RED_ARRIVAL (R490): the oldest RED, as far as it has arrived. -/
def execRedArrival (k : Nat) (s : State) : Host.Outcome State Fault Refusal :=
  if s.faults.frozen then ok s else ok (s.redRun k (s.port k).rx.length)

/-- An ACK at the sending port (R488, R489). -/
def State.takePutAck (s : State) (k : Nat) (good : Bool) (putid reason : Nat) : State :=
  match (s.port k).waits.find? fun w => w.putid = putid with
  | none => s
  | some w =>
    let s := s.upPort k fun p => { p with waits := p.waits.filter fun v => v.putid ≠ putid }
    match w.fwd with
    | some (k', id) => s.sendAck k' good id reason
    | none =>
      if !good then s.fsat Fld.CRK_ERR_REJECT 1 k
      else match w.lcn with
        | some n => s.portInc w.bore n
        | none => s

/-- Whether a transfer is an ACK. -/
def isAck : XferBody → Bool
  | .ack _ _ _ => true
  | _ => false

/-- ACK_ARRIVAL (R488): the increment of LCN does not pass what the port sent to that bore earlier (R28). -/
def execAckArrival (k : Nat) (s : State) : Host.Outcome State Fault Refusal :=
  if s.faults.frozen || s.behind k (s.headBound k 2) then ok s else
  match s.rxTake k 2 isAck with
  | some (.ack good putid reason, t) => ok (t.takePutAck k good putid reason)
  | _ => ok s

/-- The origin of what a far bore sends, as this package names it (R486). -/
def farOrigin (k : Nat) : Origin → Origin
  | .here (.bore b ch) => .far k b ch
  | .far _ b ch => .far k b ch
  | o => .far k (srcEp o % 64) (srcCh o)

/-- Whether a transfer is a MSG. -/
def isMsg : XferBody → Bool
  | .msg _ _ _ => true
  | .nackm _ _ => true
  | _ => false

/-- MSG_TRANSFER (R486): the message goes on to its bore, where it is judged.  A crossing carries no context, so that an
attached pool increment is discarded (R334, R446), and no TAG, so that gT[7:0] receives a free value.
(DESIGN CHOICE, log 86.) -/
def execMsgTransfer (k : Nat) (s : State) : Host.Outcome State Fault Refusal :=
  if s.faults.frozen then ok s else
  match s.rxTake k 2 isMsg with
  | some (.msg did q m, t) =>
    let (tag, t) := t.free 8
    ok (t.send .posted (.crook k) (.bore did)
      (.message did q { m with origin := farOrigin k m.origin, srcKind := 3, ctx := 1024, tag := tag.toNat }))
  | some (.nackm did n, t) => ok (t.send .posted (.crook k) (.bore did) (.nackMsg (.here (.bore did n.chan)) n))
  | _ => ok s

/-- Whether a transfer is an INC. -/
def isInc : XferBody → Bool
  | .inc _ _ _ => true
  | _ => false

/-- INC_TRANSFER (R486). -/
def execIncTransfer (k : Nat) (s : State) : Host.Outcome State Fault Refusal :=
  if s.faults.frozen then ok s else
  match s.rxTake k 2 isInc with
  | some (.inc did q i, t) =>
    ok (t.send .posted (.crook k) (.bore did)
      (.chanInc did q { i with origin := farOrigin k i.origin, srcKind := 3, ctx := 1024 }))
  | _ => ok s

/-- What a RET transfer brings to the sending bore (R483); none for another RKIND. -/
def retPacket (rkind b ch oc : Nat) : Option Packet :=
  let o := Origin.here (.bore b ch)
  if rkind = 1 then some (.creditRet o false) else if rkind = 2 then some (.creditRet o true)
  else if rkind = 3 then some (.release o) else if rkind = 4 then some (.orphanMark o)
  else if rkind = 5 then some (.auditReply o oc) else none

/-- Whether a transfer is a RET. -/
def isRet : XferBody → Bool
  | .ret _ _ _ _ => true
  | _ => false

/-- RET_TRANSFER (R486). -/
def execRetTransfer (k : Nat) (s : State) : Host.Outcome State Fault Refusal :=
  if s.faults.frozen then ok s else
  match s.rxTake k 2 isRet with
  | some (.ret rkind b ch oc, t) =>
    match retPacket rkind b ch oc with
    | some p => ok (t.send .posted (.crook k) (.bore b) p)
    | none => ok t
  | _ => ok s

/-- Whether a transfer is a TAG. -/
def isTag : XferBody → Bool
  | .tag _ _ => true
  | _ => false

/-- TAG_TRANSFER (R368): the boundary tag message reaches its scheduler, which judges it in `TAG_MESSAGE_ARRIVAL`. -/
def execTagTransfer (k : Nat) (s : State) : Host.Outcome State Fault Refusal :=
  if s.faults.frozen then ok s else
  match s.rxTake01 k isTag with
  | some (.tag p m, t) => ok (t.upSched p fun d => { d with inbox := d.inbox ++ [m] })
  | _ => ok s

/-- Whether a transfer is an AUDIT. -/
def isAudit : XferBody → Bool
  | .audit _ _ _ _ => true
  | _ => false

/-- AUDIT_TRANSFER (R486). -/
def execAuditTransfer (k : Nat) (s : State) : Host.Outcome State Fault Refusal :=
  if s.faults.frozen then ok s else
  match s.rxTake k 2 isAudit with
  | some (.audit did q b ch, t) => ok (t.send .posted (.crook k) (.bore did) (.auditMarker did q (.far k b ch)))
  | _ => ok s

/-! ### Windows -/

/-- Whether `n` bytes from `a` lie wholly in HBM below the dump window, or wholly in the windchest range (R487). -/
def winRange (small : Bool) (a n : Nat) : Bool :=
  a + n ≤ Config.dumpBase small || (0x008000000000 ≤ a && a + n ≤ 0x008080000000)

/-- A write of a window's word (R487). -/
def State.writeWindow (s : State) (k w : Nat) (second : Bool) (val : Word64) : State :=
  let r : Reg := if second then .CRK_IWINB else .CRK_IWINA
  let t := s.rput r (r.merge (s.rget r k w) val) k w
  if !winRange t.small (4096 * t.fget Fld.CRK_IWINA_BASE k w) (4096 * t.fget Fld.CRK_IWINB_SIZE k w) then
    (s.fput Fld.CRK_IWINA_VALID 0 k w).fput Fld.CRK_STATUS_WINBAD 1 k
  else t

/-- WINDOW_WRITE (R487). -/
def execWindowWrite (who : Requester) (k w : Nat) (second : Bool) (val : Word64) (s : State) :
    Host.Outcome State Fault Refusal :=
  ok (s.hubReg (mayCrk who) (s.writeWindow k w second val))

/-! ### Fabric clocks -/

/-- Whether a transfer stands on or is bound into the fabric of quadrant `q`, or a crook port holds an inbound one that is bound
there (R33, R503). -/
def State.fabHeld (s : State) (q : Nat) : Bool :=
  s.net.any (fun t => epQuad t.src = some q || epQuad t.dst = some q) ||
    ([3 * q, 3 * q + 1, 3 * q + 2].any fun k => !(s.port k).rx.isEmpty) ||
    (List.range 12).any fun k => lanes.any fun vl => (s.headBound k vl).any fun e => epQuad e = some q

/-- The bores of a quadrant. -/
def quadBores (q : Nat) : List Nat := (List.range 16).map (16 * q + ·)

/-- FABRIC_RESTART (R33, R503, R548): for a transfer that is held. -/
def execFabricRestart (q : Nat) (s : State) : Host.Outcome State Fault Refusal :=
  ok (when (!s.fabRun q && s.fabHeld q) s (s.putFab q true))

/-- FABRIC_IDLE_STOP (R548): FABHOLD has passed with the quadrant idle. -/
def execFabricIdleStop (q : Nat) (s : State) : Host.Outcome State Fault Refusal :=
  ok (when (s.fabRun q && !s.fabHeld q &&
      (quadBores q).all fun b => s.pstate b ≠ psActive && s.pstate b ≠ psIdle) s (s.putFab q false))

end Sys2Proof.Machine
end

