-- ==== Sys2Proof/Machine/HostIf.lean ====
section
/-!
DEFINITION. Machine/HostIf.lean: the host interface (chapter Host interface): doorbells, host rings, the commands of virtual
functions, the writes of the HIF registers, BAR4, configuration requests, FLR, and what the host answers to the device's
reads.  A host reset is in Machine/Recovery.lean.
-/

namespace Sys2Proof.Machine

/-! ### Functions and pages -/

/-- Whether a function exists (R510). -/
def State.fnExists (s : State) (fn : Nat) : Bool := fn ≤ s.fget Fld.HIF_LINK_NUMVF

/-- Context number `i` of the range of virtual function `v` (R511, R515). -/
def State.vfCtx (s : State) (v i : Nat) : Option Nat :=
  if i < s.fget Fld.HIF_VFMAP_COUNT 0 v then some (s.fget Fld.HIF_VFMAP_FIRST 0 v + i) else none

/-- The context whose doorbell page holds an offset of a function's BAR2 (R516). -/
def State.pageCtx (s : State) (fn off : Nat) : Option Nat :=
  let i := off / 4096
  if fn = 0 then (if i < 1024 then some i else none)
  else if s.fnExists fn then s.vfCtx fn i else none

/-! ### Doorbells -/

/-- The record of a doorbell that nothing has used. -/
def Doorbell.none : Doorbell := ⟨0, false, 0⟩

/-- Doorbell `r`: 8 × context + doorbell. -/
def State.bell1 (s : State) (r : Nat) : Doorbell := mget Doorbell.none s.hif.bells r

/-- Doorbell `r` changed. -/
def State.upBell (s : State) (r : Nat) (f : Doorbell → Doorbell) : State :=
  { s with hif := { s.hif with bells := mput Doorbell.none s.hif.bells r (f (s.bell1 r)) } }

/-- A doorbell write that is a message (R517 to R519): it takes a credit and waits to be forwarded, or counts a drop. -/
def State.ring (s : State) (fn c d : Nat) (words : List Word32) : State :=
  let r := 8 * c + d
  if s.flag Fld.HIF_DBR_VALID 0 r && 0 < (s.bell1 r).cred then
    let m : Message := ⟨words, s.fget Fld.HIF_DBR_TAG 0 r, 0, .here (.doorbell r), 4, false, 0, none, c⟩
    let s := s.upBell r fun x => { x with cred := x.cred - 1 }
    { s with hif := { s.hif with dbq := s.hif.dbq ++ [⟨fn, c, d, m⟩] } }
  else s.upBell r fun x => { x with drops := min (x.drops + 1) 0xFFFF }

/-! ### Host rings -/

/-- The counts of a ring that nothing has used. -/
def Ring.none : Ring := ⟨0, 0, false, 0⟩

/-- Host ring `r`. -/
def State.hring (s : State) (r : Nat) : Ring := mget Ring.none s.hif.rings r

/-- Host ring `r` changed. -/
def State.upRing (s : State) (r : Nat) (f : Ring → Ring) : State :=
  { s with hif := { s.hif with rings := mput Ring.none s.hif.rings r (f (s.hring r)) } }

/-- Host ring `q` of context `c` (R521). -/
def State.ringOf (s : State) (c q : Nat) : Option Nat :=
  if q < s.fget Fld.HIF_CTXH_RCOUNT 0 c then some (s.fget Fld.HIF_CTXH_RFIRST 0 c + q) else none

/-- A write of HEAD (R523). -/
def State.headWrite (s : State) (r : Nat) (v : Word32) : State :=
  let x := s.hring r
  if (x.tail - x.head).toNat < (v - x.head).toNat then s.fsat Fld.HIF_ERR_HEADBAD
  else s.upRing r fun x => { x with head := v }

/-! ### BAR2 -/

/-- A write to BAR2 (R516): where its offset lies says what it does; a page that belongs to no context of the function, and
an offset that the page does not list, discard it. -/
def State.bar2Write (s : State) (fn off : Nat) (words : List Word32) (full : Bool) : State :=
  match s.pageCtx fn off with
  | none => s
  | some c =>
    let o := off % 4096
    let d := o / 256
    let w := words.getD 0 0
    if s.ctxFn c ∈ s.hif.flr || !s.hubOpen then s
    else if o < 0x800 then
      if o % 256 = 0 && 1 ≤ words.length && words.length ≤ 4 && full then s.ring fn c d words
      else if o % 256 = 8 && words.length = 1 && full then
        (if w.getLsbD 0 then s.upBell (8 * c + d) fun x => { x with orphan := false, drops := 0 } else s)
      else if o % 256 < 16 then s.fsat Fld.HIF_ERR_DBBAD
      else s
    else
      match s.ringOf c (o % 0x800 / 0x40) with
      | none => s
      | some r =>
        if o % 0x40 = 0 then s.headWrite r w
        else if o % 0x40 = 8 then (if w.getLsbD 0 then s.upRing r fun x => { x with arm := true } else s)
        else s

/-- DOORBELL (R518, R519); a poisoned write is discarded, reported and logged (R534, R714). -/
def execDoorbell (fn off : Nat) (words : List Word32) (full poisoned : Bool) (s : State) :
    Host.Outcome State Fault Refusal :=
  ok (if poisoned then s.pcie aerPoisoned fn off none else s.bar2Write fn off words full)

/-- DOORBELL_FORWARD (R520): the oldest doorbell message of a function goes to the residency manager.  Every host write of this
model is acknowledged when it is made. -/
def execDoorbellForward (fn : Nat) (s : State) : Host.Outcome State Fault Refusal :=
  if s.faults.frozen then ok s else
  match s.hif.dbq.find? fun x => x.fn = fn with
  | none => ok s
  | some x =>
    let r := 8 * x.ctx + x.db
    ok (({ s with hif := { s.hif with dbq := s.hif.dbq.erase x } }).send .posted (.unit .doorbells) (.unit .resmgr)
      (.message (s.fget Fld.HIF_DBR_IBORE 0 r) (s.fget Fld.HIF_DBR_DQ 0 r) x.msg))

/-- DOORBELL_STATUS_CLEAR (R516). -/
def execDoorbellStatusClear (fn off : Nat) (val : Word32) (s : State) : Host.Outcome State Fault Refusal :=
  ok (s.bar2Write fn off [val] true)

/-- HEAD_WRITE (R523). -/
def execHeadWrite (fn off : Nat) (val : Word32) (s : State) : Host.Outcome State Fault Refusal :=
  ok (s.bar2Write fn off [val] true)

/-- ARM_WRITE (R524). -/
def execArmWrite (fn off : Nat) (val : Word32) (s : State) : Host.Outcome State Fault Refusal :=
  ok (s.bar2Write fn off [val] true)

/-- The status word of doorbell `r` (R516). -/
def State.bellStatus (s : State) (r : Nat) : Nat :=
  let x := s.bell1 r
  2 ^ 31 * b2n (s.flag Fld.HIF_DBR_VALID 0 r) + 2 ^ 30 * b2n x.orphan + 2 ^ 16 * (x.cred % 1024) + x.drops

/-- A 32-bit read of BAR2 (R516): its value; OVF is cleared by its read. -/
def State.bar2Read (s : State) (fn off : Nat) : Nat × State :=
  match s.pageCtx fn off with
  | none => (0, s)
  | some c =>
    let o := off % 4096
    if o < 0x800 then (if o % 256 = 0 then s.bellStatus (8 * c + o / 256) else 0, s)
    else
      match s.ringOf c (o % 0x800 / 0x40) with
      | none => (0, s)
      | some r =>
        let x := s.hring r
        if o % 0x40 = 0 then (x.head.toNat, s)
        else if o % 0x40 = 4 then (x.tail.toNat, s)
        else if o % 0x40 = 12 then (x.ovf, s.upRing r fun x => { x with ovf := 0 })
        else (0, s)

/-! ### Messages to the host -/

/-- The 32 bytes of ring entry `n` (R522).  Of the flags of R305, NACK, SIG and FIRST are 0: a ring takes no NACK message, holds
no counter that an increment could reach, and has no epoch.
(DESIGN CHOICE, log 79.) -/
def ringEntry (n log2 c q : Nat) (m : Message) : List Byte :=
  leBytes 4 (m.words.getD 0 0).toNat ++ leBytes 4 (m.words.getD 1 0).toNat ++ leBytes 4 (m.words.getD 2 0).toNat
    ++ leBytes 4 (m.words.getD 3 0).toNat
    ++ leBytes 4 (2 ^ 27 * (m.srcKind % 8) + 2 ^ 16 * q + 2 ^ 8 * ((m.words.length - 1) % 4) + m.tag % 256)
    ++ leBytes 4 (2 ^ 16 * (srcCh m.origin % 256) + srcEp m.origin % 4096)
    ++ leBytes 4 c ++ leBytes 4 (2 ^ 31 * ((n / 2 ^ log2 + 1) % 2))

/-- A message that the host message unit refuses (R521). -/
def State.hostRefuse (s : State) (reason : Nat) (m : Message) : State := s.answer (.unit .hostMsg) 0 reason m

/-- One more refusal or discarded entry of a ring; OVF holds at all ones (R516, R533). -/
def State.ringOvf (s : State) (r : Nat) : State :=
  s.upRing r fun x => { x with ovf := min (x.ovf + 1) 0xFFFFFFFF }

/-- An entry written to ring `r` of context `c`, and the interrupt of an armed ring (R522, R524); its credit or reservation
returns (R521).
(DEDUCED, log 43.) -/
def State.ringPut (s : State) (r c q : Nat) (m : Message) : State :=
  let x := s.hring r
  let n := x.tail.toNat
  let log2 := s.fget Fld.HIF_HRING_LOG2SIZE 0 r
  let fn := s.ctxFn c
  let s := if s.hif.linkUp then s else s.ringOvf r
  let s := s.hostSend
    (.write fn (4096 * s.fget Fld.HIF_HRING_BASE 0 r + 32 * (n % 2 ^ log2)) (ringEntry n log2 c q m) false)
  let s := s.upRing r fun x => { x with tail := x.tail + 1, arm := false }
  let s := s.sendReturn (.unit .hostMsg) m.origin (if m.nack then 3 else 1)
  if x.arm then s.msix fn (s.fget Fld.HIF_HRING_VEC 0 r) else s

/-- A message judged by the host message unit (R521). -/
def State.hostJudge (s : State) (q : Nat) (m : Message) : State :=
  if 1024 ≤ m.ctx then s.hostRefuse rNoroute m
  else
    match s.ringOf m.ctx q with
    | none => s.hostRefuse rNoroute m
    | some r =>
      let x := s.hring r
      if !s.flag Fld.HIF_HRING_VALID 0 r || s.ctxFn m.ctx ∈ s.hif.flr then s.hostRefuse rClosed m
      else if (x.tail - x.head).toNat = 2 ^ s.fget Fld.HIF_HRING_LOG2SIZE 0 r then
        (s.ringOvf r).hostRefuse rFull m
      else s.ringPut r m.ctx q m

/-- HOST_MESSAGE_ARRIVAL (R521 to R524). -/
def execHostMessageArrival (src : Endpoint) (s : State) : Host.Outcome State Fault Refusal :=
  match s.oldest .posted src (.unit .hostMsg) with
  | some (⟨_, _, _, .message _ q m⟩, t) => ok (t.hostJudge q m)
  | _ => ok s

/-! ### Commands of virtual functions -/

/-- The report of a HIF_VCMD write (R528, R545). -/
def State.vcmdSt (s : State) (v op c st : Nat) : State :=
  ((((s.fput Fld.HIF_VCMDST_OP op v).fput Fld.HIF_VCMDST_CTX c v).fput Fld.HIF_VCMDST_STATUS st v).fput
    Fld.HIF_VCMDST_PENDING 0 v).irq 0x01

/-- A HIF_VCMD write (R529, R545).
(DEDUCED, log 43.) -/
def State.vcmd (s : State) (v op i : Nat) : State :=
  if v = 0 || !s.fnExists v then s
  else if s.flag Fld.HIF_VCMDST_PENDING v then s.fput Fld.HIF_VCMDST_DROPPED 1 v
  else
    match s.vfCtx v i with
    | none => s.vcmdSt v op (s.fget Fld.HIF_VFMAP_FIRST 0 v + i) rmNoctx
    | some c =>
      if op < 3 || 7 < op then s.vcmdSt v op c rmBadcfg
      else
        let (t, st) := s.rmDo op c
        t.vcmdSt v op c st

/-- VF_LOAD (R529). -/
def execVfLoad (vf i : Nat) (s : State) : Host.Outcome State Fault Refusal :=
  if s.faults.frozen then ok s else
  ok (s.vcmd vf 3 i)

/-- VF_EVICT (R529). -/
def execVfEvict (vf i : Nat) (s : State) : Host.Outcome State Fault Refusal :=
  if s.faults.frozen then ok s else
  ok (s.vcmd vf 4 i)

/-- VF_START (R529). -/
def execVfStart (vf i : Nat) (s : State) : Host.Outcome State Fault Refusal :=
  if s.faults.frozen then ok s else
  ok (s.vcmd vf 5 i)

/-- VF_END (R529). -/
def execVfEnd (vf i : Nat) (s : State) : Host.Outcome State Fault Refusal :=
  if s.faults.frozen then ok s else
  ok (s.vcmd vf 6 i)

/-- VF_RESET (R529). -/
def execVfReset (vf i : Nat) (s : State) : Host.Outcome State Fault Refusal :=
  if s.faults.frozen then ok s else
  ok (s.vcmd vf 7 i)

/-! ### Writes of HIF registers -/

/-- The codes of HIF_CFGST. -/
def hifOk : Nat := 1
def hifBusy : Nat := 2
def hifBadcfg : Nat := 3

/-- The report of a configuration write (R540). -/
def State.hifSt (s : State) (st : Nat) : State := s.fput Fld.HIF_CFGST_STATUS st

/-- Whether a context is LOADING, RESIDENT, EVICTING or ENDING. -/
def State.cxActive (s : State) (c : Nat) : Bool :=
  let st := s.cxState c
  st = cxLoading || st = cxResident || st = cxEvicting || st = cxEnding

/-- FIRST and COUNT of a value of HIF_VFMAP. -/
def vfRange (val : Word64) : Nat × Nat := (bits val.toNat 0 10, bits val.toNat 16 7)

/-- Whether two ranges of contexts overlap. -/
def overlaps (a b : Nat × Nat) : Bool := 0 < a.2 && 0 < b.2 && a.1 < b.1 + b.2 && b.1 < a.1 + a.2

/-- A write of HIF_VFMAP (R537, R542); there is no register of virtual function 0 (R11). -/
def State.writeVfmap (s : State) (v : Nat) (val : Word64) : State :=
  if v = 0 then s else
  let new := vfRange val
  let old := vfRange (s.rget .HIF_VFMAP 0 v)
  let inRange (r : Nat × Nat) : Bool := (List.range r.2).any fun i => s.cxActive (r.1 + i)
  if inRange old || inRange new || v ∈ s.hif.flr then s.hifSt hifBusy
  else if 1024 < new.1 + new.2 || 64 < new.2 ||
      (List.range 256).any (fun u => u ≠ v && u ≠ 0 && overlaps new (vfRange (s.rget .HIF_VFMAP 0 u))) then s.hifSt hifBadcfg
  else (s.rput .HIF_VFMAP (Reg.HIF_VFMAP.merge (s.rget .HIF_VFMAP 0 v) val) 0 v).hifSt hifOk

/-- VFMAP_WRITE (R537). -/
def execVfmapWrite (who : Requester) (vf : Nat) (val : Word64) (s : State) : Host.Outcome State Fault Refusal :=
  ok (s.hubReg (mayPf who) (s.writeVfmap vf val))

/-- A write of HIF_DBR (R537, R544). -/
def State.writeDbr (s : State) (r : Nat) (val : Word64) : State :=
  if s.flag Fld.HIF_DBR_VALID 0 r && (s.bell1 r).cred ≠ s.fget Fld.HIF_DBR_GRANT 0 r then s.hifSt hifBusy
  else
    let s := s.rput .HIF_DBR (Reg.HIF_DBR.merge (s.rget .HIF_DBR 0 r) val) 0 r
    let s := if s.flag Fld.HIF_DBR_VALID 0 r then
        s.upBell r fun _ => ⟨s.fget Fld.HIF_DBR_GRANT 0 r, false, 0⟩ else s
    s.hifSt hifOk

/-- DBR_WRITE (R537). -/
def execDbrWrite (who : Requester) (r : Nat) (val : Word64) (s : State) : Host.Outcome State Fault Refusal :=
  ok (s.hubReg (mayPf who) (s.writeDbr r val))

/-- A write of HIF_HRING (R537, R543). -/
def State.writeHring (s : State) (r : Nat) (val : Word64) : State :=
  let old := s.rget .HIF_HRING 0 r
  let new := Reg.HIF_HRING.merge old val
  let place (v : Word64) : Nat × Nat := (bits v.toNat 12 35, bits v.toNat 59 4)
  let valid := s.flag Fld.HIF_HRING_VALID 0 r
  if valid && place old ≠ place new then s.hifSt hifBusy
  else
    let s := s.rput .HIF_HRING new 0 r
    let s := if !valid && s.flag Fld.HIF_HRING_VALID 0 r then
        s.upRing r fun x => { x with head := 0, tail := 0, arm := false } else s
    s.hifSt hifOk

/-- HRING_WRITE (R537). -/
def execHringWrite (who : Requester) (r : Nat) (val : Word64) (s : State) : Host.Outcome State Fault Refusal :=
  ok (s.hubReg (mayPf who) (s.writeHring r val))

/-- A write of HIF_CTXH (R538). -/
def State.writeCtxh (s : State) (c : Nat) (val : Word64) : State :=
  let st := s.cxState c
  if !(st = cxFree || st = cxIdle || st = cxEnded) then s.hifSt hifBusy
  else if 2048 < bits val.toNat 32 11 + bits val.toNat 16 6 then s.hifSt hifBadcfg
  else (s.rput .HIF_CTXH (Reg.HIF_CTXH.merge (s.rget .HIF_CTXH 0 c) val) 0 c).hifSt hifOk

/-- CTXH_WRITE (R538). -/
def execCtxhWrite (who : Requester) (c : Nat) (val : Word64) (s : State) : Host.Outcome State Fault Refusal :=
  ok (s.hubReg (mayPf who) (s.writeCtxh c val))

/-! ### BAR4 -/

/-- The device address that an offset of BAR4 reaches (R514).
(DEDUCED, log 45.) -/
def State.bar4Addr (s : State) (off : Nat) : Nat :=
  let size := 2 ^ s.hif.b4log
  2 ^ 28 * s.fget Fld.HIF_B4BASE_BASE / size * size + off % size

/-- Bytes read at a device address for the host (R39, R41, R514): whether any is poisoned, and the state after.  In
RECOVERY nothing is reached (R595). -/
def State.hostRead (s : State) (a n : Nat) : List Byte × Bool × State :=
  if !s.powered || s.fget Fld.DRN_BOOT_STAGE = 8 then (List.replicate n 0, false, s) else
  let s := s.crossFab a
  match s.home a with
  | .hbm => s.fetch a n
  | .windchest b _ =>
    if s.faults.frozen then (List.replicate n 0, false, s)
    else if s.pstate b = psDeep || s.pstate b = psOff then (List.replicate n 0, false, s.darkAccess b true)
    else s.fetch a n
  | _ => (List.replicate n 0, false, s)

/-- Bytes written at a device address by the host (R39, R41, R514, R595). -/
def State.hostStore (s : State) (a : Nat) (l : List Byte) (pois : Bool) : State :=
  if !s.powered || s.fget Fld.DRN_BOOT_STAGE = 8 then s else
  let s := s.crossFab a
  match s.home a with
  | .hbm => s.store a l pois
  | .windchest b _ =>
    if s.faults.frozen then s
    else if s.pstate b = psDeep || s.pstate b = psOff then s.darkAccess b true else s.store a l pois
  | _ => s

/-- A read of BAR4, line by line.
(DEDUCED, log 45.) -/
def State.bar4Read (s : State) (a n : Nat) : State :=
  let (l, p, s) := (lineRuns (n / 256 + 2) a n).foldl (fun (l, p, s) r =>
    let (x, q, s) := s.hostRead r.1 r.2
    (l ++ x, p || q, s)) (([] : List Byte), false, s)
  { s with rbytes := l, hif := { s.hif with rpois := p } }

/-- A write of BAR4, line by line. -/
def State.bar4Write (s : State) (a : Nat) (l : List Byte) (pois : Bool) : State :=
  (lineRuns (l.length / 256 + 2) a l.length).foldl (fun s r => s.hostStore r.1 ((l.drop (r.1 - a)).take r.2) pois) s

/-- BAR4_ACCESS (R514, R534): a poisoned write is also reported and logged; an AtomicOp or another unsupported request
completes as Unsupported Request (R714). -/
def execBar4Access (off len : Nat) (acc : HostAccess) (s : State) : Host.Outcome State Fault Refusal :=
  let a := s.bar4Addr off
  match acc with
  | .read => ok (s.bar4Read a len)
  | .write d p =>
    let s := s.bar4Write a d p
    ok (if p then s.pcie aerPoisoned 0 off none else s)
  | .unsupported => ok (s.pcie aerUnsupported 0 off none)

/-! ### Configuration -/

/-- Configuration requests complete normally once the drone has declared the host interface ready, but not while a host reset is
being carried out (R530). -/
def State.cfgReady (s : State) : Bool := s.hif.ready && !s.hif.inReset

/-- The low bits of a 64-bit memory BAR of `2 ^ n` bytes, as a read returns them after ones have been written to it: its size,
and whether it is prefetchable (R509).
(PRESUMED, log 44.) -/
def barMask (n : Nat) (prefetch : Bool) : Word64 := BitVec.ofNat 64 (2 ^ 64 - 2 ^ n + 4 + 8 * b2n prefetch)

/-- A number in a list, or not. -/
def toggle (l : List Nat) (k : Nat) (on : Bool) : List Nat := if on then sinsert k l else l.filter fun x => x ≠ k

/-- The TotalVFs that the SR-IOV capability reports (R508, R595). -/
def State.totalVfs (s : State) : Nat := if s.fget Fld.DRN_BOOT_STAGE = 8 then 0 else 255

/-- A field of the configuration space of function `fn` (R508 to R510, R514, R526, R528); a virtual function reports the fields
of its SR-IOV capability as 0, for it has none. -/
def State.cfgField (s : State) (fn : Nat) (f : CfgField) : Word64 :=
  let pf (v : Nat) : Word64 := if fn = 0 then BitVec.ofNat 64 v else 0
  match f with
  | .vendorId => if fn = 0 then 0x1E5B else 0xFFFF
  | .deviceId => if fn = 0 then 0xA640 else 0xFFFF
  | .classCode => 0x120000
  | .revisionId => 0x20
  | .bar0 => barMask (if fn = 0 then 26 else 16) false
  | .bar2 => barMask (if fn = 0 then 22 else 18) false
  | .bar4 => if fn = 0 then barMask s.hif.b4log true else 0
  | .msixEntries => BitVec.ofNat 64 (msixSize fn)
  | .vfDeviceId => pf 0xA641
  | .firstVfOffset => pf 1
  | .vfStride => pf 1
  | .totalVfs => pf s.totalVfs
  | .numVfs => pf (s.fget Fld.HIF_LINK_NUMVF)
  | .maxPayload => BitVec.ofNat 64 s.hif.cfg.mps
  | .maxReadRequest => BitVec.ofNat 64 s.hif.cfg.mrrs
  | .completionTimeout => BitVec.ofNat 64 s.hif.cfg.cto
  | .aspmL1 => if s.hif.cfg.aspmL1 then 1 else 0
  | .d3hot => if fn ∈ s.hif.cfg.d3hot then 1 else 0
  | .msixEnable => if fn ∈ s.hif.cfg.msixEn then 1 else 0
  | .functionMask => if fn ∈ s.hif.cfg.fmask then 1 else 0
  | .bar4Size => pf s.hif.b4log

/-- Whether a function has an option (R508); SR-IOV with ARI and the resizable BAR are the physical function's. -/
def hasOption (fn : Nat) : PcieOption → Bool
  | .flitMode | .laneReversal | .tag10 | .flr | .rrs | .aer | .aspmL1 | .msix => true
  | .sriov | .ari | .resizableBar => fn = 0
  | .multiFunction | .multicast | .tag14 | .atomicOp | .tph | .ln | .ats | .pri | .pasid | .rtr | .drs | .dpc | .ide | .doe
  | .aspmL0s | .l1pm | .l0p | .pme | .ltr | .ptm | .msi | .intx => false

/-- The pending vectors of a function that may now send are sent, lowest first (R528). -/
def State.sendPending (s : State) (fn : Nat) : State :=
  let due := s.hif.vpend.filter fun k => k / 4096 = fn && s.msixOpen fn (k % 4096)
  let s := { s with hif := { s.hif with vpend := s.hif.vpend.filter fun k => k ∉ due } }
  s.each due fun s k => s.hostSend (s.msixTlp fn (k % 4096))

/-- The PCIe configuration changed. -/
def State.upCfg (s : State) (f : PcieCfg → PcieCfg) : State := { s with hif := { s.hif with cfg := f s.hif.cfg } }

/-- A write of a field of the configuration space of function `fn`; a field that is read-only, and a value that R508 does not
support, leave it as it is.
(DESIGN CHOICE, log 44.) -/
def State.cfgWrite (s : State) (fn : Nat) (f : CfgField) (v : Nat) : State :=
  match f with
  | .numVfs => if fn = 0 && v ≤ s.totalVfs then s.fput Fld.HIF_LINK_NUMVF v else s
  | .bar4Size => if fn = 0 && 28 ≤ v && v ≤ 36 then { s with hif := { s.hif with b4log := v } } else s
  | .maxPayload => if fn = 0 && 7 ≤ v && v ≤ 9 then s.upCfg fun c => { c with mps := v } else s
  | .maxReadRequest => if fn = 0 && 7 ≤ v && v ≤ 12 then s.upCfg fun c => { c with mrrs := v } else s
  | .completionTimeout => if fn = 0 then s.upCfg fun c => { c with cto := v % 16 } else s
  | .aspmL1 => if fn = 0 then s.upCfg fun c => { c with aspmL1 := v % 2 = 1 } else s
  | .d3hot => s.upCfg fun c => { c with d3hot := toggle c.d3hot fn (v % 2 = 1) }
  | .msixEnable => (s.upCfg fun c => { c with msixEn := toggle c.msixEn fn (v % 2 = 1) }).sendPending fn
  | .functionMask => (s.upCfg fun c => { c with fmask := toggle c.fmask fn (v % 2 = 1) }).sendPending fn
  | _ => s

/-- A dword of configuration space: the identity of the function (R509); where PCIe 6.0 puts the rest is not the spec's, so any
other dword is a free value.
(DESIGN CHOICE, log 44.) -/
def State.configDword (s : State) (fn off : Nat) : State :=
  if off / 4 = 0 then { s with rdata := if fn = 0 then 0xA6401E5B else 0xFFFFFFFF }
  else if off / 4 = 2 then { s with rdata := 0x12000020 }
  else
    let (v, s) := s.free 32
    { s with rdata := v.setWidth 64 }

/-- CONFIG_REQUEST (R530): Request Retry Status until the host interface is ready; then a read or a write of the configuration of
a function that exists.  A request to another function is unsupported, and the host reads ones (R510, R534).
(DEDUCED, log 44.) -/
def execConfigRequest (fn : Nat) (op : ConfigOp) (s : State) : Host.Outcome State Fault Refusal :=
  if !s.cfgReady then ok { s with hif := { s.hif with retry := true } }
  else
    let s := { s with hif := { s.hif with retry := false } }
    if !s.fnExists fn then ok { s.pcie aerUnsupported fn 0 none with rdata := 0xFFFFFFFF }
    else match op with
      | .read off => ok (s.configDword fn off)
      | .readField f => ok { s with rdata := s.cfgField fn f }
      | .option o => ok { s with rdata := if hasOption fn o then 1 else 0 }
      | .writeField f v => ok (s.cfgWrite fn f v)

/-- MSIX_VECTOR_UNMASK (R528), and the other accesses to a vector of an MSI-X table or to its pending bit. -/
def execMsixVectorUnmask (fn : Nat) (acc : MsixAccess) (s : State) : Host.Outcome State Fault Refusal :=
  if msixSize fn ≤ acc.vec || !s.fnExists fn then ok s
  else
    let k := 4096 * fn + acc.vec
    match acc.op with
    | .unmask => ok ({ s with hif := { s.hif with unmasked := sinsert k s.hif.unmasked } }.sendPending fn)
    | .mask => ok { s with hif := { s.hif with unmasked := s.hif.unmasked.filter fun x => x ≠ k } }
    | .write a d => ok { s with hif := { s.hif with msixTab := mput ⟨0, 0⟩ s.hif.msixTab k ⟨a, d⟩ } }
    | .readEntry => ok { s with rdata := (s.msixEntry k).addr, rbytes := leBytes 4 (s.msixEntry k).data.toNat }
    | .readPending => ok { s with rdata := if k ∈ s.hif.vpend then 1 else 0 }

/-! ### FLR and the link -/

/-- The contexts that a virtual function owns (R511).
(DEDUCED, log 46.) -/
def State.owned (s : State) (v : Nat) : List Nat := (List.range 1024).filter fun c => s.ctxFn c = v

/-- The requester of an outstanding read gets UNMAPPED, and completions that still arrive for it are discarded (R526, R531). -/
def State.failRead (s : State) (x : HostRead) : State :=
  s.answerRead .host x.who x.id x.addr (List.replicate x.len 0) .unmapped

/-- The outstanding reads that `P` picks fail. -/
def State.failReads (s : State) (P : HostRead → Bool) : State :=
  (s.hif.reads.filter P).foldl State.failRead { s with hif := { s.hif with reads := s.hif.reads.filter fun x => !P x } }

/-- The MSI-X table and the configuration of a function reset (R531 step 4): every vector masked and none pending, MSI-X not
enabled, D0.
(PRESUMED, log 13.) -/
def State.msixReset (s : State) (fn : Nat) : State :=
  { s with hif := { s.hif with
      unmasked := s.hif.unmasked.filter (fun k => k / 4096 ≠ fn), vpend := s.hif.vpend.filter (fun k => k / 4096 ≠ fn),
      msixTab := s.hif.msixTab.filter (fun x => x.1 / 4096 ≠ fn),
      cfg := { s.hif.cfg with
        d3hot := toggle s.hif.cfg.d3hot fn false, msixEn := toggle s.hif.cfg.msixEn fn false,
        fmask := toggle s.hif.cfg.fmask fn false } } }

/-- The rings of a context set to nothing written and nothing read, and its doorbells without marks (R531 step 4).
(DEDUCED, log 46.) -/
def State.flrCtx (s : State) (c : Nat) : State :=
  let first := s.fget Fld.HIF_CTXH_RFIRST 0 c
  let s := s.each (List.range (s.fget Fld.HIF_CTXH_RCOUNT 0 c)) fun s q =>
    s.upRing (first + q) fun x => { x with head := 0, tail := 0, arm := false }
  s.each (List.range 8) fun s d => s.upBell (8 * c + d) fun x => { x with orphan := false, drops := 0 }

/-- FLR of a virtual function (R531). -/
def execFlr (vf : Nat) (s : State) : Host.Outcome State Fault Refusal :=
  if vf = 0 || !s.fnExists vf then ok s
  else
    let l := s.owned vf
    let s := { s with hif := { s.hif with flr := sinsert vf s.hif.flr } }
    let s := s.each l fun s c => s.beginEnding c endHost none
    ok (((s.failReads fun x => x.fn = vf).msixReset vf).each l State.flrCtx)

/-- FLR_COMPLETE (R531). -/
def execFlrComplete (vf : Nat) (s : State) : Host.Outcome State Fault Refusal :=
  ok { s with hif := { s.hif with flr := s.hif.flr.filter (fun v => v ≠ vf) } }

/-- LINK_UP (R533, R540); the hub has no link while its clock is stopped (R764), and a bad board record keeps it from starting
(R590). -/
def execLinkUp (flit : Bool) (speed width : Nat) (s : State) : Host.Outcome State Fault Refusal :=
  if !s.powered || s.fget Fld.DRN_BOOT_STAGE = 9 then ok s else
  let s := ((s.fput Fld.HIF_LINK_UP 1).fput Fld.HIF_LINK_FLIT (b2n flit)).fput Fld.HIF_LINK_SPEED speed
  ok { s.fput Fld.HIF_LINK_WIDTH width with hif := { s.hif with linkUp := true } }

/-- HOST_RESET_COMPLETE (R530, R532): the reset is done; the drone's own declaration of readiness stands as it was. -/
def execHostResetComplete (s : State) : Host.Outcome State Fault Refusal :=
  ok (when s.hif.inReset s { s with hif := { s.hif with inReset := false } })

/-! ### Reads of host memory -/

/-- The oldest read of host memory that `dst` has outstanding, and the others. -/
def firstOut (dst : Endpoint) : List HostRead → Option (HostRead × List HostRead)
  | [] => none
  | x :: l => if accEnd x.who = dst then some (x, l) else (firstOut dst l).map fun y => (y.1, x :: y.2)

/-- The host's answer to the oldest outstanding read of `dst` (R526): the bytes, or an error that returns UNMAPPED, is reported
under AER and is logged.  While the link is down nothing is received. -/
def State.hostAnswer (s : State) (dst : Endpoint) (err : Option Nat) (data : List Byte) : State :=
  match firstOut dst s.hif.reads with
  | none => s
  | some (x, l) =>
    let t := { s with hif := { s.hif with reads := l } }
    match err with
    | none => t.answerRead .host x.who x.id x.addr ((data ++ List.replicate x.len 0).take x.len) .ok
    | some aer => (t.failRead x).pcie aer x.fn x.addr (ctxOpt x.ctx)

/-- HOST_READ_COMPLETION (R526). -/
def execHostReadCompletion (dst : Endpoint) (st : HostCpl) (data : List Byte) (s : State) :
    Host.Outcome State Fault Refusal :=
  match st with
  | .ok => ok (s.hostAnswer dst none data)
  | .ur => ok (s.hostAnswer dst (some aerUnsupported) [])
  | .ca => ok (s.hostAnswer dst (some aerAbort) [])

/-- COMPLETION_TIMEOUT (R526). -/
def execCompletionTimeout (dst : Endpoint) (s : State) : Host.Outcome State Fault Refusal :=
  ok (s.hostAnswer dst (some aerTimeout) [])

end Sys2Proof.Machine
end

