-- ==== Sys2Proof/Machine/Embouchure.lean ====
section
/-!
DEFINITION. Machine/Embouchure.lean: TDM ports and streams (chapter Embouchure: speech in and out): port states and clocks,
frames, gain commits, statistics records and frame-ready messages.
-/

namespace Sys2Proof.Machine

/-! ### Ports -/

/-- The rate code of a port, and the samples of a port frame (R623). -/
def State.epRate (s : State) (p : Nat) : Nat := s.fget Fld.EMB_PSTAT_RATE 0 p
def State.epN (s : State) (p : Nat) : Nat := rateN (s.epRate p)

/-- Slots and slot width of a port (R615, R651). -/
def State.epSlots (s : State) (p : Nat) : Nat := s.fget Fld.EMB_PCFG_NSLOT 0 p + 1
def State.epW (s : State) (p : Nat) : Nat := s.fget Fld.EMB_PCFG_SLOTW 0 p
def slotBits (w : Nat) : Nat := if w = 0 then 8 else if w = 1 then 16 else 32

/-- The streams of a port that are enabled. -/
def State.epStreams (s : State) (p : Nat) : List Nat :=
  (s.emb.streams.map (·.1)).filter fun n =>
    let x := s.strm n
    x.isTdm && x.port = p && (x.state = smWait || x.state = smRun || x.state = smPaused)

/-- The reference period as a fraction of 2.5 ns ticks: the mean of the last 64 GOOD periods, and 1/R until 64 exist (R639). -/
def State.epPeriod (s : State) (p : Nat) : Nat × Nat :=
  let l := (s.tdm p).periods
  if l.length < 64 then (4000000, s.epN p) else (l.foldl (· + ·) 0, 64)

/-- Whether a period lies within 0.5 percent of a reference (R639, R643). -/
def near (t : Nat) (ref : Nat × Nat) : Bool := ((t * ref.2 : Int) - ref.1).natAbs * 200 ≤ ref.1

/-- EMB_PSTAT.PERIOD brought up to date: P in units of 2.5 ns; how a fraction is rounded the spec does not say. -/
def State.putPeriod (s : State) (p : Nat) : State :=
  let (a, d) := s.epPeriod p
  if a % d = 0 then s.fput Fld.EMB_PSTAT_PERIOD (a / d) 0 p
  else
    let (r, s) := s.free 1
    s.fput Fld.EMB_PSTAT_PERIOD (a / d + r.toNat) 0 p

/-- A GOOD period joins the last 64 (R639). -/
def State.goodPeriod (s : State) (p t : Nat) : State :=
  (s.upTdm p fun x => { x with periods := (t :: x.periods).take 64, run := x.run + 1 }).putPeriod p

/-- A port's state. -/
def State.putEp (s : State) (p st : Nat) : State := s.fput Fld.EMB_PSTAT_STATE st 0 p

/-- Flags for the current port frame. -/
def State.epFlag (s : State) (p fl : Nat) : State := s.upTdm p fun x => { x with fflags := x.fflags ||| fl }

/-! ### Frames of a stream -/

/-- A frame of a stream begins: a committed set comes to apply (R630, R631).  A TDM frame carries DRIFT for a loss of the
reference clock while it runs, a ring frame for one since the frame before it (R644). -/
def State.beginFrame (s : State) (n num : Nat) (t : Word64) : State :=
  let lost := s.flag Fld.DRN_CLKST_REFLOST
  s.upStrm n fun x =>
    let (g, id) := match x.gainNx with
      | some g => (g, (x.gsid + 1) % 2 ^ 16)
      | none => (x.gain, x.gsid)
    { x with
      gain := g, gsid := id, gainNx := none, gainAgc := false, cur := some ⟨num, [], 0, 0, 0, 0, t, g, id⟩
      drift := if x.isTdm then lost else x.drift }

/-- A playback frame begins with what was fetched for it (R628). -/
def State.beginPlay (s : State) (n num : Nat) (t : Word64) : State :=
  let x := s.strm n
  let got := match x.fetched with
    | some (k, l, pois) => if k = num then some (l, pois) else none
    | none => none
  if got.isNone && !x.live then s
  else
    (s.beginFrame n num t).upStrm n fun x =>
      let (l, pois) := got.getD (none, false)
      let fl := if pois then flPoison else if l.isNone then flUnderrun else 0
      { x with
        live := true, play := l, pois := pois
        fetched := if got.isSome then none else x.fetched
        cur := x.cur.map fun f => { f with flags := fl } }

/-- A frame of a stream is complete: it waits for its frame end with the port's flags. -/
def State.closeStream (s : State) (p n : Nat) : State :=
  let fl := (s.tdm p).fflags
  s.upStrm n fun x =>
    match x.cur with
    | none => x
    | some f =>
      let fl := if x.kind = kdPlayback then fl &&& (0x7FFF - flMissing) else fl
      let fl := if x.drift then fl ||| flDrift else fl
      { x with cur := none, ended := x.ended ++ [{ f with flags := f.flags ||| fl }], drift := s.flag Fld.DRN_CLKST_REFLOST }

/-- The port's frame is complete. -/
def State.closeFrame (s : State) (p : Nat) : State := s.each (s.epStreams p) fun s n => s.closeStream p n

/-- A port frame starts (R623, R624), with the flags that it carries. -/
def State.openFrame (s : State) (p fl : Nat) : State :=
  let t := s.rget .DRN_TIME
  let x := s.tdm p
  let s := if x.began then s.finc Fld.EMB_PFRAME_FRAME 1 0 p else s.fput Fld.EMB_PFRAME_FRAME 0 0 p
  let num := s.fget Fld.EMB_PFRAME_FRAME 0 p
  let resume := s.ep p = epRatewait && x.acked
  let s := if resume then
      (s.putEp p epLocked).each (s.epStreams p) fun s n => s.upStrm n fun x => { x with state := smRun }
    else s
  let fl := if resume then fl ||| flRatechg else fl
  let s := s.upTdm p fun x =>
    { x with began := true, pos := 0, ftime := t, fflags := fl, acked := false, await := none }
  s.each (s.epStreams p) fun s n =>
    let x := s.strm n
    if x.state ≠ smRun || x.stopAt then s
    else if x.kind = kdCapture then s.beginFrame n num t
    else s.beginPlay n num t

/-! ### Samples -/

/-- How an edge or an NCO instant counts (R640 to R643). -/
inductive Instant
  | edge (slots : List Word32)   -- a sample
  | again                        -- a sample inserted where the clock lost one (t > P)
  | extra                        -- an edge too many (t < P): its capture sample is dropped
  | nco                          -- an instant in HOLDOVER
  | late                         -- an edge in HOLDOVER
  deriving DecidableEq, Repr

/-- The sample counts of a stream's current frame. -/
def Stream.count (x : Stream) (recv ins drop : Nat) (v : Option Int) : Stream :=
  { x with cur := x.cur.map fun f =>
      { f with recv := f.recv + recv, ins := f.ins + ins, drop := f.drop + drop, xs := f.xs ++ v.toList } }

/-- An instant of a capture stream (R625, R640 to R642). -/
def Stream.capture (x : Stream) (w : Nat) (i : Instant) : Stream :=
  match i with
  | .edge slots =>
    let v := slotDec w x.law (slots.getD x.slotNo 0)
    { x.count 1 0 0 (some v) with prev := v }
  | .again => x.count 0 1 0 (some x.prev)
  | .extra => x.count 0 0 1 none
  | .nco => { x.count 0 1 0 (some 0) with prev := 0 }
  | .late => x.count 0 0 1 none

/-- An instant of a playback stream at position `pos` of its frame (R628, R640, R641, R648). -/
def Stream.playback (x : Stream) (w pos : Nat) (i : Instant) : Stream :=
  let v := (x.play.map fun l => l.getD pos 0).getD 0
  let sent : Option Word32 := some (slotEnc w x.law (applyGain ((x.cur.map fun f => f.gain.pgain).getD 0) v))
  match i with
  | .edge _ =>
    if x.pois then { x.count 0 1 1 (some 0) with slot := some (slotSilence w x.law) }
    else if x.play.isSome then { x.count 1 0 0 (some v) with slot := sent }
    else { x.count 0 1 0 (some 0) with slot := some (slotSilence w x.law) }
  | .again => if x.play.isSome || x.pois then x.count 0 0 1 none else x
  | .extra => x.count 0 1 0 none
  | .nco => { (if x.play.isSome || x.pois then x.count 0 0 1 none else x) with slot := none }
  | .late => x

/-- An instant of a paused stream (R643). -/
def Stream.paused (x : Stream) (w : Nat) : Stream :=
  if x.kind = kdCapture then { x with cin := (x.cin + 1) % 2 ^ 32, cdrop := (x.cdrop + 1) % 2 ^ 32 }
  else { x with cout := (x.cout + 1) % 2 ^ 32, cins := (x.cins + 1) % 2 ^ 32, slot := some (slotSilence w x.law) }

/-- Whether an instant moves the port's timeline. -/
def Instant.moves : Instant → Bool
  | .extra => false
  | .late => false
  | _ => true

/-- An instant of a port, for every stream of it; the last sample of a frame completes it. -/
def State.instant (s : State) (p : Nat) (i : Instant) : State :=
  let w := s.epW p
  let pos := (s.tdm p).pos
  let s := s.each (s.epStreams p) fun s n => s.upStrm n fun x =>
    if x.state = smPaused then (match i with | .edge _ => x.paused w | _ => x)
    else if x.state ≠ smRun || x.cur.isNone then { x with slot := none }
    else if x.kind = kdCapture then x.capture w i
    else x.playback w pos i
  if i.moves then
    let s := s.upTdm p fun x => { x with pos := x.pos + 1 }
    if pos + 1 = s.epN p then s.closeFrame p else s
  else s

/-- A sample of the port's timeline: it starts a port frame where the last one is complete. -/
def State.sample (s : State) (p : Nat) (i : Instant) : State :=
  let x := s.tdm p
  let s := if !x.began || s.epN p ≤ x.pos then s.openFrame p 0 else s
  s.instant p i

/-- The port frame that an instant belongs to which is no sample of its own: the next one, where the last is complete. -/
def State.due (s : State) (p : Nat) : State :=
  if (s.tdm p).began && s.epN p ≤ (s.tdm p).pos then s.openFrame p 0 else s

/-- What a slot of a port drives on data-out (R617): none is high-impedance.  A slot that no stream of the port names carries the
silence of the µ-law.
(DESIGN CHOICE, log 57.) -/
def State.slotOut (s : State) (p i : Nat) : Option Word32 :=
  match (s.epStreams p).find? fun n =>
      let x := s.strm n
      x.kind = kdPlayback && x.slotNo = i && x.slot.isSome with
  | some n => (s.strm n).slot
  | none =>
    if s.flag Fld.EMB_PCFG_HIZ 0 p then none
    else
      let law := (s.epStreams p).any fun n => (s.strm n).slotNo = i && (s.strm n).law
      some (slotSilence (s.epW p) law)

/-! ### Clocks -/

/-- HOLDOVER is entered (R641). -/
def State.enterHoldover (s : State) (p : Nat) : State :=
  let held := (s.tdm p).off
  let s := (s.due p).upTdm p fun x => { x with off := none, run := 0, back := false }
  let s := ((s.putEp p epHoldover).portEvent p evHold).fsat Fld.EMB_PCNT_HOLDOVERS 1 0 p
  if held.isSome then s.instant p .late else s

/-- A single OFF period between GOOD ones (R640), of length `t`: at most one sample moves.
(DEDUCED, log 57.) -/
def State.glitch (s : State) (p t : Nat) (slots : List Word32) : State :=
  let (a, d) := s.epPeriod p
  let s := ((s.upTdm p fun x => { x with off := none }).portEvent p evGlitch).fsat Fld.EMB_PCNT_GLITCHES 1 0 p
  let s := (s.due p).epFlag p flGlitch
  if t * d < a then s.instant p .extra
  else if a < t * d then (s.sample p .again).sample p (.edge slots)
  else s.sample p (.edge slots)

/-- A frame sync edge of a LOCKED slave port after a period `t` (R640, R641). -/
def State.lockedEdge (s : State) (p t : Nat) (good : Bool) (slots : List Word32) : State :=
  let (a, d) := s.epPeriod p
  if good then
    let s := match (s.tdm p).off with
      | some (u, held) => s.glitch p u held
      | none => s
    (s.goodPeriod p t).sample p (.edge slots)
  else if (s.tdm p).off.isSome || 3 * a ≤ 2 * t * d then (s.enterHoldover p).instant p .late
  else s.upTdm p fun x => { x with off := some (t, slots), run := 0 }

/-- The other rate whose period an edge matches (R643). -/
def State.otherRate (s : State) (p t : Nat) : Option Nat :=
  (List.range 5).find? fun c => c ≠ s.epRate p && near t (4000000, rateN c)

/-- The run of periods that match another rate. -/
def State.countRate (s : State) (p t : Nat) : State :=
  let m := s.otherRate p t
  s.upTdm p fun x => match m with
    | none => { x with rateN := 0 }
    | some c => { x with rateC := c, rateN := if x.rateC = c then x.rateN + 1 else 1 }

/-- 32 periods in a row match another rate (R643).
(DEDUCED, log 57.) -/
def State.actRate (s : State) (p : Nat) : State :=
  let c := (s.tdm p).rateC
  if (s.tdm p).rateN ≠ 32 then s
  else if bit (s.fget Fld.EMB_PCFG_RATEMASK 0 p) c then
    ((s.fput Fld.EMB_PSTAT_NEWRATE c 0 p).portEvent p evRatechg).upTdm p fun x => { x with newRate := some c }
  else s.portEvent p evRatebad

/-- The first edge at or after the boundary starts the next port frame, with the flags `fl`, and the port is LOCKED (R642, R643). -/
def State.relock (s : State) (p fl : Nat) (slots : List Word32) : State :=
  (((s.putEp p epLocked).openFrame p fl).upTdm p fun x => { x with back := false }).instant p (.edge slots)

/-- A frame sync edge of a slave port in HOLDOVER (R642, R643). -/
def State.holdoverEdge (s : State) (p : Nat) (good : Bool) (slots : List Word32) : State :=
  match (s.tdm p).await with
  | some fl => s.relock p fl slots
  | none =>
    let s := (s.instant p .late).upTdm p fun x => { x with run := if good then x.run + 1 else 0 }
    let s := if (s.tdm p).run = 8 && !(s.tdm p).back then
        (s.portEvent p evLock).upTdm p fun x => { x with back := true }
      else s
    s.actRate p

/-- The port becomes LOCKED for the first time: its streams leave WAIT (R623, R646). -/
def State.firstLock (s : State) (p : Nat) : State :=
  (s.putEp p epLocked).each (s.epStreams p) fun s n =>
    s.upStrm n fun x => if x.state = smWait then { x with state := smRun } else x

/-- FRAME_SYNC (R639 to R644): an edge that ends a period of `period` ticks with `clocks` bit clocks; `slots` are the slots that
follow it. -/
def State.frameSync (s : State) (p period clocks : Nat) (slots : List Word32) : State :=
  let st := s.ep p
  if st = epOff then s
  else if s.flag Fld.EMB_PCFG_MASTER 0 p then s.sample p (.edge slots)
  else if s.flag Fld.DRN_CLKST_REFLOST then
    let s := s.portEvent p evRefdrift
    if st = epLocked || st = epRatewait then s.sample p (.edge slots)
    else if st = epHoldover then
      match (s.tdm p).await with
      | some fl => s.relock p fl slots
      | none => s.instant p .late
    else s
  else
    let good := near period (s.epPeriod p) && s.epSlots p * slotBits (s.epW p) ≤ clocks
    let s := s.countRate p period
    if st = epAcquire then
      let s := if good then s.goodPeriod p period else s.upTdm p fun x => { x with run := 0 }
      if 8 ≤ (s.tdm p).run then s.firstLock p else s
    else if st = epLocked then s.lockedEdge p period good slots
    else if st = epRatewait then (if good then s.goodPeriod p period else s).sample p (.edge slots)
    else s.holdoverEdge p good slots

/-- FRAME_SYNC (R639). -/
def execFrameSync (p period clocks : Nat) (slots : List Word32) (s : State) : Host.Outcome State Fault Refusal :=
  if s.faults.frozen then ok s else
  ok (s.frameSync p period clocks slots)

/-- HOLDOVER_ENTRY (R641): no edge has arrived for 1.5 × P. -/
def execHoldoverEntry (p : Nat) (s : State) : Host.Outcome State Fault Refusal :=
  if s.faults.frozen then ok s else
  ok (when (s.ep p = epLocked && !s.flag Fld.EMB_PCFG_MASTER 0 p) s (s.enterHoldover p))

/-- The rest of the port frame passes in HOLDOVER (R641). -/
def State.holdOut (s : State) (p : Nat) : State :=
  let x := s.tdm p
  let n := s.epN p - x.pos
  if n = 0 then s else (s.epFlag p flMissing).each (List.range n) fun s _ => s.instant p .nco

/-- A rate taken at a 10 ms boundary (R643). -/
def State.takeRate (s : State) (p c : Nat) : State :=
  let s := s.upTdm p fun x => { x with newRate := none, periods := [], run := 0, rateN := 0, back := false }
  let s := ((s.fput Fld.EMB_PSTAT_RATE c 0 p).putPeriod p).fsat Fld.EMB_PCNT_RATECHGS 1 0 p
  if s.flag Fld.EMB_PCFG_AUTOFOLLOW 0 p then s.upTdm p fun x => { x with await := some flRatechg }
  else
    let s := (s.putEp p epRatewait).each (s.epStreams p) fun s n =>
      s.upStrm n fun x => if x.state = smRun then { x with state := smPaused } else x
    s.openFrame p 0

/-- PORT_FRAME_START (R623, R642, R643): a 10 ms boundary. -/
def State.boundary (s : State) (p : Nat) : State :=
  let x := s.tdm p
  if s.ep p = epLocked || s.ep p = epRatewait then
    (if !x.began || s.epN p ≤ x.pos then s.openFrame p 0 else s)
  else if s.ep p = epHoldover && x.await.isNone then
    let s := if x.began then s.holdOut p else s
    match x.newRate with
    | some c => s.takeRate p c
    | none =>
      if x.back then s.upTdm p fun x => { x with await := some (if x.began then flResync else 0) }
      else if x.began then s.openFrame p 0
      else s
  else s

/-- PORT_FRAME_START (R623). -/
def execPortFrameStart (p : Nat) (s : State) : Host.Outcome State Fault Refusal :=
  if s.faults.frozen then ok s else
  ok (s.boundary p)

/-! ### Port commands -/

/-- PORT_ENABLE carried out (R623, R647). -/
def State.portEnable (s : State) (p : Nat) : State :=
  if s.ep p ≠ epOff then s
  else
    let s := s.upTdm p fun _ => TdmPort.reset
    let s := (s.fput Fld.EMB_PSTAT_RATE (s.fget Fld.EMB_PCFG_RATE 0 p) 0 p).rput .EMB_PFRAME 0 0 p
    if s.flag Fld.EMB_PCFG_MASTER 0 p then s.firstLock p else (s.putEp p epAcquire).putPeriod p

/-- What a disabled port leaves of a stream's frames (R647). -/
def Stream.abandon (x : Stream) (n pos : Nat) : Stream :=
  let fs := x.ended ++ x.cur.toList
  let total (f : Frame → Nat) : Nat := (fs.map f).foldl (· + ·) 0
  let recv := total (·.recv)
  let ins := total (·.ins)
  let drop := total (·.drop)
  let y := { x with cur := none, ended := [], fetched := none, slot := none, live := false, play := none, agc := none }
  if x.kind = kdCapture then
    { y with cin := (x.cin + recv + drop) % 2 ^ 32, cdrop := (x.cdrop + recv + drop) % 2 ^ 32 }
  else
    let rest := if x.cur.isSome && (x.play.isSome || x.pois) then n - pos else 0
    let ahead := match x.fetched with
      | some (_, l, pois) => if l.isSome || pois then n else 0
      | none => 0
    { y with
      cin := (x.cin + recv + drop + rest + ahead) % 2 ^ 32, cout := (x.cout + recv + ins) % 2 ^ 32
      cdrop := (x.cdrop + drop + rest + ahead) % 2 ^ 32, cins := (x.cins + ins) % 2 ^ 32 }

/-- PORT_DISABLE carried out (R647). -/
def State.portDisable (s : State) (p : Nat) : State :=
  if s.ep p = epOff then s
  else
    let n := s.epN p
    let pos := (s.tdm p).pos
    let s := s.each (s.epStreams p) fun s k =>
      let s := s.upStrm k fun x => { x.abandon n pos with state := smWait }
      if (s.strm k).stopAt then s.strmEnd k smOff scHost else s
    (s.upTdm p fun _ => TdmPort.reset).putEp p epOff

/-- RATE_ACK carried out (R643). -/
def State.rateAck (s : State) (p : Nat) : State :=
  if s.ep p = epRatewait then s.upTdm p fun x => { x with acked := true } else s

/-- A write of EMB_PCTL (R651).
(DESIGN CHOICE, log 58.) -/
def State.writePctl (s : State) (p v : Nat) : State :=
  let s := if bit v 1 then s.portDisable p else s
  let s := if bit v 0 then s.portEnable p else s
  if bit v 2 then s.rateAck p else s

/-- PORT_ENABLE (R623). -/
def execPortEnable (who : Requester) (p : Nat) (s : State) : Host.Outcome State Fault Refusal :=
  ok (s.hubReg (mayPf who) (s.portEnable p))

/-- PORT_DISABLE (R647). -/
def execPortDisable (who : Requester) (p : Nat) (s : State) : Host.Outcome State Fault Refusal :=
  ok (s.hubReg (mayPf who) (s.portDisable p))

/-- RATE_ACK (R643). -/
def execRateAck (who : Requester) (p : Nat) (s : State) : Host.Outcome State Fault Refusal :=
  ok (s.hubReg (mayPf who) (s.rateAck p))

/-- Whether a value of EMB_PCFG breaks R615 or R651. -/
def pcfgBad (v : Nat) : Bool :=
  let rate := bits v 27 3
  let w := bits v 32 2
  4 < rate || w = 3 || !bit (bits v 22 5) rate || 66000000 < (bits v 0 8 + 1) * slotBits w * (100 * rateN rate)

/-- A write of EMB_PCFG (R651). -/
def State.writePcfg (s : State) (p : Nat) (val : Word64) : State :=
  if s.ep p ≠ epOff then s.embCfg 2
  else if pcfgBad val.toNat then s.embCfg 3
  else (s.rput .EMB_PCFG (val &&& Reg.EMB_PCFG.info.rws) 0 p).embCfg 1

/-- A write of EMB_STBASE (R650): only while every stream is OFF. -/
def State.writeStbase (s : State) (val : Word64) : State :=
  if s.emb.streams.any fun x => x.2.state ≠ smOff then s.embCfg 2
  else (s.rput .EMB_STBASE (val &&& Reg.EMB_STBASE.info.rws)).embCfg 1

/-! ### Stream commands -/

/-- The statuses of EMB_SCMDST (R650). -/
def esOk : Nat := 1
def esBadstate : Nat := 3
def esBadcfg : Nat := 4
def esAddr : Nat := 5

/-- The outcome of a stream command (R646, R650). -/
def State.scmdSt (s : State) (st : Nat) : State :=
  ({ s with emb := { s.emb with cmd := none } }.fput Fld.EMB_SCMDST_STATUS st).fput Fld.EMB_SCMDST_PENDING 0

/-- A stream command that goes on after its write. -/
def State.scmdPend (s : State) (op n : Nat) : State :=
  { s with emb := { s.emb with cmd := some (op, n) } }.fput Fld.EMB_SCMDST_PENDING 1

/-- The device address of a stream's entry (R619). -/
def State.entryAddr (s : State) (n : Nat) : Nat := 2 ^ 20 * s.fget Fld.EMB_STBASE_BASE + 64 * n

/-- Whether a stream entry reports BADCFG (R646). -/
def State.entryBad (s : State) (n : Nat) (x : Stream) : Bool :=
  !s.ctxLives x.ctx || 4 < x.srate || x.nfr < 2 || 1024 < x.nfr || x.buf % 64 ≠ 0
    || (255 < x.route && x.route ≠ 0xFFFF)
    || (if x.isTdm then
          15 < x.port || s.epSlots x.port ≤ x.slotNo
            || (x.kind = kdPlayback && (s.epStreams x.port).any fun m =>
                  m ≠ n && (s.strm m).kind = kdPlayback && (s.strm m).slotNo = x.slotNo)
        else x.nhfr < 2 || 1024 < x.nhfr)

/-- ENABLE (R646): the entry is read, and the stream starts. -/
def State.strmEnable (s : State) (n : Nat) : State :=
  let st := (s.strm n).state
  if st = smWait || st = smRun || st = smPaused then s.scmdSt esBadstate
  else
    let (rs, l, s) := s.devRead 1024 (s.entryAddr n) 64
    if rs ≠ .ok then
      (if rs.bad then s.strmNote n none (s.entryAddr n) rs else s).scmdSt esAddr
    else
      let x : Stream := { Stream.reset with entry := l, gain := gainOf ((l.drop 32).take 16), out := (s.strm n).out }
      if s.entryBad n x then s.scmdSt esBadcfg
      else
        let ps := s.ep x.port
        let run := !x.isTdm || ps = epLocked || ps = epHoldover
        let st := if run then smRun else if ps = epRatewait then smPaused else smWait
        (s.upStrm n fun _ => { x with state := st, t0 := s.rget .DRN_TIME, drift := s.flag Fld.DRN_CLKST_REFLOST }).scmdSt esOk

/-- DISABLE (R646): at the end of the current frame, which is completed; at once where there is none. -/
def State.strmDisable (s : State) (n : Nat) : State :=
  let x := s.strm n
  if x.state = smOff then s.scmdSt esBadstate
  else if (x.state = smRun && !x.isTdm) || x.cur.isSome || !x.ended.isEmpty then
    (s.scmdPend 2 n).upStrm n fun x => { x with stopAt := true }
  else (s.strmEnd n smOff scHost).scmdSt esOk

/-- GAINCOMMIT (R630, R646): GAIN_SET_READ carries it out. -/
def State.strmGaincommit (s : State) (n : Nat) : State :=
  let st := (s.strm n).state
  if st = smWait || st = smRun || st = smPaused then s.scmdPend 3 n else s.scmdSt esBadstate

/-- QUERY (R650). -/
def State.strmQuery (s : State) (n : Nat) : State :=
  let x := s.strm n
  let s := ((s.fput Fld.EMB_SINFO_STATE x.state).fput Fld.EMB_SINFO_CAUSE x.cause).fput Fld.EMB_SINFO_GSID x.gsid
  (s.fput Fld.EMB_SINFO_FRAME x.last).scmdSt esOk

/-- A write of EMB_SCMD (R646, R650). -/
def State.scmd (s : State) (op n : Nat) : State :=
  if s.flag Fld.EMB_SCMDST_PENDING then s.fput Fld.EMB_SCMDST_DROPPED 1
  else
    let s := (s.fput Fld.EMB_SCMDST_OP op).fput Fld.EMB_SCMDST_STREAM n
    if op = 1 then s.strmEnable n
    else if op = 2 then s.strmDisable n
    else if op = 3 then s.strmGaincommit n
    else if op = 4 then s.strmQuery n
    else s.scmdSt esBadcfg

/-- EMB_ENABLE (R646). -/
def execEmbEnable (who : Requester) (n : Nat) (s : State) : Host.Outcome State Fault Refusal :=
  ok (s.hubReg (mayPf who) (s.scmd 1 n))

/-- EMB_DISABLE (R646). -/
def execEmbDisable (who : Requester) (n : Nat) (s : State) : Host.Outcome State Fault Refusal :=
  ok (s.hubReg (mayPf who) (s.scmd 2 n))

/-- EMB_GAINCOMMIT (R630, R646). -/
def execEmbGaincommit (who : Requester) (n : Nat) (s : State) : Host.Outcome State Fault Refusal :=
  ok (s.hubReg (mayPf who) (s.scmd 3 n))

/-- QUERY (R650). -/
def execQuery (who : Requester) (n : Nat) (s : State) : Host.Outcome State Fault Refusal :=
  ok (s.hubReg (mayPf who) (s.scmd 4 n))

/-! ### Gain commits -/

/-- The shadow gain set read and committed (R619, R630, R633): whether it was read, and the state after. -/
def State.readShadow (s : State) (n : Nat) : Bool × State :=
  let (rs, l, s) := s.devRead 1024 (s.entryAddr n + 32) 16
  if rs.bad then (false, s.strmFault n (s.entryAddr n + 32) rs)
  else if rs = .poison then (false, s)
  else (true, s.upStrm n fun x => { x with gainNx := some (gainOf l), gainAgc := false })

/-- GAIN_SET_READ (R630): for the host's command first, then for a bore's. -/
def execGainSetRead (n : Nat) (s : State) : Host.Outcome State Fault Refusal :=
  if s.faults.frozen then ok s else
  if s.emb.cmd = some (3, n) then
    let (good, s) := s.readShadow n
    ok (s.scmdSt (if good then esOk else esAddr))
  else if n ∈ s.emb.boreGc then
    ok ({ s with emb := { s.emb with boreGc := s.emb.boreGc.erase n } }.readShadow n).2
  else ok s

/-- The bore of this package that sent a message. -/
def senderBore (m : Message) : Option Nat :=
  match m.origin with
  | .here (.bore b _) => some b
  | _ => none

/-- The credit or release of a message that a hub receiver takes (R637, R678). -/
def State.hubTaken (s : State) (src : Endpoint) (m : Message) : State := s.sendReturn src m.origin (if m.nack then 3 else 1)

/-- BORE_GAINCOMMIT (R637). -/
def execBoreGaincommit (src : Endpoint) (s : State) : Host.Outcome State Fault Refusal :=
  match s.oldest .posted src (.unit .emb) with
  | some (⟨_, _, _, .message _ q m⟩, t) =>
    let t := t.hubTaken (.unit .emb) m
    let n := (m.words.getD 1 0).toNat % 2 ^ 14
    let st := (t.strm n).state
    let mine := match senderBore m with
      | some b => t.boreCtx b = (t.strm n).ctx
      | none => false
    if q = 0 && 2 ≤ m.words.length && (m.words.getD 0 0).toNat % 256 = 1 && mine
        && (st = smWait || st = smRun || st = smPaused) then
      ok { t with emb := { t.emb with boreGc := t.emb.boreGc ++ [n] } }
    else ok (t.fsat Fld.EMB_ERR_BADCMD)
  | _ => ok s

/-- The number of the frame that a stream is in. -/
def State.strmNow (s : State) (x : Stream) : Nat :=
  if x.isTdm then s.fget Fld.EMB_PFRAME_FRAME 0 x.port else x.next

/-- The AGC's new CGAIN (R632). -/
def agcGain (g : GainSet) (t n : Nat) : Nat :=
  if 2 ^ 30 * (n * g.thi) < t then max g.gmin (g.cgain - g.cgain * g.stepDn / 256)
  else if t < 2 ^ 30 * (n * g.tlo) then min g.gmax (g.cgain + g.cgain * g.stepUp / 256)
  else g.cgain

/-- AGC_COMMIT (R631 to R633): once the frame after the measured one has begun. -/
def execAgcCommit (n : Nat) (s : State) : Host.Outcome State Fault Refusal :=
  if s.faults.frozen then ok s else
  let x := s.strm n
  match x.agc with
  | none => ok s
  | some (k, t, m) =>
    if s.strmNow x = k || (!x.isTdm && x.next = k + 1) then ok s
    else
      let s := s.upStrm n fun x => { x with agc := none }
      let g := agcGain x.gain t m
      if (x.gainNx.isSome && !x.gainAgc) || g = x.gain.cgain then ok s
      else ok (s.upStrm n fun x => { x with gainNx := some { x.gain with cgain := g }, gainAgc := true })

/-! ### Frame ends -/

/-- The counts of a frame join those of its stream (R645). -/
def Stream.total (x : Stream) (f : Frame) : Stream :=
  { x with
    cin := (x.cin + f.recv + f.drop) % 2 ^ 32, cout := (x.cout + f.recv + f.ins) % 2 ^ 32
    cdrop := (x.cdrop + f.drop) % 2 ^ 32, cins := (x.cins + f.ins) % 2 ^ 32 }

/-- The counts of a frame that is dropped (R627). -/
def Stream.totalDropped (x : Stream) (f : Frame) : Stream :=
  { x with cin := (x.cin + f.recv + f.drop) % 2 ^ 32, cdrop := (x.cdrop + f.recv + f.drop) % 2 ^ 32 }

/-- Frames whose record is not yet written (R627). -/
def Stream.held (x : Stream) : Nat := (x.out.filter fun f => !f.written).length

/-- The frame that has ended as it is written: `g` is the gain of its direction and `n` its samples (R626). -/
def Stream.outFrame (x : Stream) (sn g n addr kind : Nat) (f : Frame) (vad : Bool) : FrameOut :=
  let fl := flDone ||| f.flags ||| (if vad then flVad else 0) ||| (if x.overrun then flOverrun else 0)
  let t := energyOf g f.xs
  ⟨f.num, addr, recordBytes f.num f.gsid fl (peakOf f.xs) (rmsOf t n) (clipsOf g f.xs) sn (rateN x.srate) f.tstart
    x.cin x.cout x.cdrop x.cins, false, fl, f.gsid, f.tstart, kind, x.ctx, x.route⟩

/-- DISABLE takes effect, once the frame it waited for is complete (R646). -/
def State.strmStop (s : State) (n : Nat) : State :=
  let x := s.strm n
  if x.stopAt && x.cur.isNone && x.ended.isEmpty then s.strmEnd n smOff scHost else s

/-- A capture frame written (R621, R625, R627): `vs` are its samples at SRATE. -/
def State.capturePut (s : State) (sn n : Nat) (f : Frame) (vs : List Int) : State :=
  let x := s.strm sn
  let t := energyOf f.gain.cgain f.xs
  let (vad, hang) := x.vad t n
  let s := s.upStrm sn fun x =>
    { x with hang := hang, agc := if vad && f.gain.agcen then some (f.num, t, n) else x.agc }
  if 4 ≤ x.held then s.upStrm sn fun x => { x.totalDropped f with overrun := true }
  else
    let s := s.upStrm sn fun x => x.total f
    let x := s.strm sn
    let d := vs.flatMap (sampleOut x.fp32)
    let (st, s) := s.hubWrite (.context x.ctx) (x.bufSlot f.num + 64) d
    if st.bad then s.strmNoWrite sn (x.bufSlot f.num + 64) d.length st
    else
      let o := x.outFrame sn f.gain.cgain n (x.bufSlot f.num) 0 f vad
      s.upStrm sn fun x => { x with out := x.out ++ [o], overrun := false }

/-- CAPTURE_FRAME_END (R625, R627, R648). -/
def State.captureEnd (s : State) (sn : Nat) : State :=
  let x := s.strm sn
  match x.ended with
  | [] => s
  | f :: l =>
    if x.kind ≠ kdCapture then s
    else if !s.ctxLives x.ctx then s.strmEnd sn smStopped scCtx
    else
      let s := s.upStrm sn fun x => { x with ended := l }
      let (vs, s) := s.resample (s.epRate x.port) x.srate (f.xs.map (applyGain f.gain.cgain))
      (s.capturePut sn f.xs.length f vs).strmStop sn

/-- CAPTURE_FRAME_END (R625). -/
def execCaptureFrameEnd (sn : Nat) (s : State) : Host.Outcome State Fault Refusal :=
  if s.faults.frozen then ok s else
  ok (s.captureEnd sn)

/-- A record written over the header of its slot (R625). -/
def State.putRecord (s : State) (sn : Nat) (o : FrameOut) : State :=
  if !s.ctxLives o.ctx then s.upStrm sn fun x => { x with out := x.out.erase o }
  else
    let (st, s) := s.hubWrite (.context o.ctx) o.addr o.record
    if st.bad then s.strmNoWrite sn o.addr 64 st
    else s.upStrm sn fun x =>
      { x with last := o.num, out := x.out.map fun y => if y = o then { o with written := true } else y }

/-- STATISTICS_RECORD_WRITE (R625): the oldest frame whose record is not yet written. -/
def execStatisticsRecordWrite (sn : Nat) (s : State) : Host.Outcome State Fault Refusal :=
  if s.faults.frozen then ok s else
  match (s.strm sn).out.find? fun o => !o.written with
  | some o => ok (s.putRecord sn o)
  | none => ok s

/-- FRAME_READY_MESSAGE (R625, R635, R636). -/
def execFrameReadyMessage (sn : Nat) (s : State) : Host.Outcome State Fault Refusal :=
  if s.faults.frozen then ok s else
  match (s.strm sn).out with
  | o :: l =>
    if !o.written then ok s
    else
      let s := s.upStrm sn fun x => { x with out := l }
      if 255 < o.route then ok s
      else ok (s.frSend (.emb o.route)
        [2 ^ 16 * o.flags + 2 ^ 14 * o.kind + sn % 2 ^ 14, o.num, o.gsid, o.tstart.toNat % 2 ^ 32])
  | [] => ok s

/-- PLAYBACK_FETCH (R628, R621): 2 ms before a frame starts; a context that is gone is not accessed (R618), and its stream stops
at the frame end (R648). -/
def State.playFetch (s : State) (sn : Nat) : State :=
  let x := s.strm sn
  let p := x.port
  let ready := s.ep p = epLocked || s.ep p = epHoldover
  if x.kind ≠ kdPlayback || x.state ≠ smRun || x.stopAt || !ready then s
  else
    let k := if (s.tdm p).began then (s.fget Fld.EMB_PFRAME_FRAME 0 p + 1) % 2 ^ 32 else 0
    if !s.ctxLives x.ctx then s.upStrm sn fun x => { x with fetched := some (k, none, false) } else
    match s.readSlot x (x.bufSlot k) k with
    | (.fault d st, s) => s.strmFault sn d st
    | (.absent, s) => s.upStrm sn fun x => { x with fetched := some (k, none, false) }
    | (.poisoned, s) => s.upStrm sn fun x => { x with fetched := some (k, none, true) }
    | (.samples l, s) =>
      let (l, s) := s.resample x.srate (s.epRate p) l
      s.upStrm sn fun x => { x with fetched := some (k, some l, false) }

/-- PLAYBACK_FETCH (R628). -/
def execPlaybackFetch (sn : Nat) (s : State) : Host.Outcome State Fault Refusal :=
  if s.faults.frozen then ok s else
  ok (s.playFetch sn)

/-- PLAYBACK_FRAME_END (R628, R648). -/
def State.playEnd (s : State) (sn : Nat) : State :=
  let x := s.strm sn
  match x.ended with
  | [] => s
  | f :: l =>
    if x.kind ≠ kdPlayback then s
    else if !s.ctxLives x.ctx then s.strmEnd sn smStopped scCtx
    else
      let n := s.epN x.port
      let (vad, hang) := x.vad (energyOf f.gain.pgain f.xs) n
      let s := s.upStrm sn fun x => { x.total f with ended := l, hang := hang }
      let x := s.strm sn
      let o := x.outFrame sn f.gain.pgain n (x.bufSlot f.num) 1 f vad
      let s := s.upStrm sn fun x => { x with out := x.out ++ [o] }
      (s.putRecord sn o).strmStop sn

/-- PLAYBACK_FRAME_END (R628). -/
def execPlaybackFrameEnd (sn : Nat) (s : State) : Host.Outcome State Fault Refusal :=
  if s.faults.frozen then ok s else
  ok (s.playEnd sn)

/-! ### Host stream rings -/

/-- A ring frame from what its slot gave: its samples and its counts (R629, R648). -/
def ringFrame (f : Frame) (n miss : Nat) : SlotRead → Frame
  | .samples l => { f with xs := l, recv := n }
  | .poisoned => { f with xs := List.replicate n 0, ins := n, drop := n, flags := f.flags ||| flPoison }
  | _ => { f with xs := List.replicate n 0, ins := n, flags := f.flags ||| miss }

/-- A frame of ring egress written to the host ring (R629). -/
def State.egressPut (s : State) (sn n : Nat) (f : Frame) : State :=
  let x := s.strm sn
  let (vad, hang) := x.vad (energyOf f.gain.pgain f.xs) n
  let s := s.upStrm sn fun x => { x.total f with hang := hang }
  let x := s.strm sn
  let a := x.ringSlot f.num
  let d := f.xs.flatMap fun v => sampleOut x.fp32 (applyGain f.gain.pgain v)
  let (st, s) := s.hubWrite (.context x.ctx) (a + 64) d
  if st.bad then s.strmNoWrite sn (a + 64) d.length st
  else s.upStrm sn fun y => { y with out := y.out ++ [x.outFrame sn f.gain.pgain n a 1 f vad] }

/-- The drone ticks of a frame of a ring stream: frame `k` ends at T0 + (k + 1) × 250,000 (R629). -/
def ringTicks : Nat := 250000

/-- RING_FRAME_END (R629, R648): every sample of the frame has the frame-end instant. -/
def State.ringEnd (s : State) (sn : Nat) : State :=
  let x := s.strm sn
  if x.isTdm || x.state ≠ smRun then s
  else if !s.ctxLives x.ctx then s.strmEnd sn smStopped scCtx
  else
    let k := x.next
    let n := rateN x.srate
    let ingress := x.kind = kdIngress
    let (r, s) := s.readSlot x (if ingress then x.ringSlot k else x.bufSlot k) k
    match r with
    | .fault d st => s.strmFault sn d st
    | _ =>
      let s := s.beginFrame sn k (x.t0 + BitVec.ofNat 64 (ringTicks * (k + 1)))
      let x := s.strm sn
      let s := s.upStrm sn fun x =>
        { x with cur := none, next := (k + 1) % 2 ^ 32, drift := s.flag Fld.DRN_CLKST_REFLOST }
      match x.cur with
      | none => s
      | some f =>
        let f := ringFrame { f with flags := if x.drift then flDrift else 0 } n (if ingress then flMissing else flUnderrun) r
        let s := if ingress then s.capturePut sn n f (f.xs.map (applyGain f.gain.cgain)) else s.egressPut sn n f
        if (s.strm sn).stopAt then s.strmEnd sn smOff scHost else s

/-- RING_FRAME_END (R629). -/
def execRingFrameEnd (sn : Nat) (s : State) : Host.Outcome State Fault Refusal :=
  if s.faults.frozen then ok s else
  ok (s.ringEnd sn)

end Sys2Proof.Machine
end

