-- ==== Sys2Proof/Machine/Bell.lean ====
section
/-!
DEFINITION. Machine/Bell.lean: the pipes of the bell (chapter Bell: caption composition): commits and latches, frames, writeback,
guarded regions, frame-done messages, and the DisplayPort links.
-/

namespace Sys2Proof.Machine

/-! ### States and events -/

/-- Whether a pipe runs, and whether it drives a DisplayPort output (R653, R686). -/
def State.bpRun (s : State) (p : Nat) : Bool := s.flag Fld.BEL_PSTAT_STATE p
def State.dpen (s : State) (p : Nat) : Bool := p < 2 && s.flag Fld.BEL_PCFG_DPEN p

/-- The states of a link (R675, R686). -/
def lkOff : Nat := 0
def lkDown : Nat := 1
def lkTraining : Nat := 2
def lkIdlepat : Nat := 3
def lkUp : Nat := 4
def lkFail : Nat := 5

/-- The state of the link that pipe `p` drives. -/
def State.link (s : State) (p : Nat) : Nat := s.fget Fld.BEL_PSTAT_LINK p
def State.putLink (s : State) (p v : Nat) : State := s.fput Fld.BEL_PSTAT_LINK v p

/-- COMMITST and TIMST. -/
def State.commitSt (s : State) (p v : Nat) : State := s.fput Fld.BEL_PSTAT_COMMITST v p
def State.timSt (s : State) (p v : Nat) : State := s.fput Fld.BEL_PSTAT_TIMST v p

/-- An event bit of BEL_PEVT becomes set (R683). -/
def State.pipeEvent (s : State) (p : Nat) (f : Field) : State :=
  if s.flag f p then s else (s.fput f 1 p).irq (0xA0 + p)

/-- An event bit of BEL_DPSTAT becomes set (R683). -/
def State.dpEvent (s : State) (d : Nat) (f : Field) : State :=
  if s.flag f d then s else (s.fput f 1 d).irq (0xA8 + d)

/-- The owning context of a pipe (R654). -/
def State.pipeCtx (s : State) (p : Nat) : Nat := s.fget Fld.BEL_PCFG_CTX p

/-! ### Commands -/

/-- A frame starts (R658). -/
def State.startFrame (s : State) (p : Nat) : State :=
  let s := s.finc Fld.BEL_FCOUNT_FRAME 1 p
  let k := s.link p
  let x := s.pipe p
  let s := if k = lkIdlepat && x.idle = 0 then s.putLink p lkUp else s
  s.upPipe p fun x =>
    { x with
      framing := true, startT := s.rget .DRN_TIME, idle := x.idle - 1, video := s.link p = lkUp
      drift := s.flag Fld.DRN_CLKST_REFLOST }

/-- ENABLE (R682): the shadow sets become the first active sets, and a frame starts at once. -/
def State.pipeEnable (s : State) (p : Nat) : State :=
  let t := s.shadowSet p timingRegs
  let m := s.shadowSet p compositionRegs
  let dp := s.dpen p
  if s.bpRun p || !s.ctxLives (s.pipeCtx p) then s.commitSt p 3
  else if !timingOk t dp || !compositionOk m t then
    let s := if timingOk t dp then s else s.timSt p 2
    if compositionOk m t then s else (s.commitSt p 2).pipeEvent p Fld.BEL_PEVT_COMMITBAD
  else
    let done := (s.pipe p).done
    let s := s.upPipe p fun _ => { Pipe.reset with active := m, timing := t, done := done }
    let s := ((s.fput Fld.BEL_PSTAT_STATE 1 p).fput Fld.BEL_PSTAT_CTXGONE 0 p).fput Fld.BEL_PSTAT_FCVALID 0 p
    (((s.commitSt p 1).timSt p 1).putLink p (if dp then lkDown else lkOff)).startFrame p

/-- PIPE_ENABLE (R682). -/
def execPipeEnable (who : Requester) (p : Nat) (s : State) : Host.Outcome State Fault Refusal :=
  ok (s.hubReg (mayPf who) (s.pipeEnable p))

/-- DISABLE (R682): at the next frame end. -/
def State.pipeDisable (s : State) (p : Nat) : State :=
  if s.bpRun p then s.upPipe p fun x => { x with stopAt := true } else s

/-- PIPE_DISABLE (R682). -/
def execPipeDisable (who : Requester) (p : Nat) (s : State) : Host.Outcome State Fault Refusal :=
  ok (s.hubReg (mayPf who) (s.pipeDisable p))

/-- COMMIT (R657, R660). -/
def State.pipeCommit (s : State) (p : Nat) : State :=
  if s.bpRun p then
    (s.upPipe p fun x => { x with pend := some (s.shadowSet p compositionRegs) }).fput Fld.BEL_PSTAT_CPEND 1 p
  else s.commitSt p 3

/-- COMMIT (R657). -/
def execCommit (who : Requester) (p : Nat) (s : State) : Host.Outcome State Fault Refusal :=
  ok (s.hubReg (mayPf who) (s.pipeCommit p))

/-- FLUSH (R668). -/
def State.pipeFlush (s : State) (p : Nat) : State :=
  if s.bpRun p then s.upPipe p fun x => { x with flushed := true } else s

/-- FLUSH (R668). -/
def execFlush (who : Requester) (p : Nat) (s : State) : Host.Outcome State Fault Refusal :=
  ok (s.hubReg (mayPf who) (s.pipeFlush p))

/-- TIMING_COMMIT (R679). -/
def State.timingCommit (s : State) (p : Nat) : State :=
  let t := s.shadowSet p timingRegs
  if !s.bpRun p then s.timSt p 3
  else if !timingOk t (s.dpen p) then s.timSt p 2
  else ((s.upPipe p fun x => { x with tpend := some t }).timSt p 1).fput Fld.BEL_PSTAT_TPEND 1 p

/-- TIMING_COMMIT (R679). -/
def execTimingCommit (who : Requester) (p : Nat) (s : State) : Host.Outcome State Fault Refusal :=
  ok (s.hubReg (mayPf who) (s.timingCommit p))

/-- A write of BEL_PCTL (R686).
(DESIGN CHOICE, log 60.) -/
def State.writeBelPctl (s : State) (p v : Nat) : State :=
  let s := if bit v 5 then s.timingCommit p else s
  let s := if bit v 4 then s.pipeFlush p else s
  let s := if bit v 3 then s.pipeCommit p else s
  let s := if bit v 1 then s.pipeDisable p else s
  if bit v 0 then s.pipeEnable p else s

/-- A write of BEL_PCFG (R686): only while the pipe is OFF; pipes 2 and 3 have no DPEN. -/
def State.writeBelPcfg (s : State) (p : Nat) (val : Word64) : State :=
  if s.bpRun p then s
  else s.rput .BEL_PCFG (val &&& Reg.BEL_PCFG.info.rws &&& (if p < 2 then BitVec.allOnes 64 else 0xFFC0000000000000)) p

/-- A row of the colour matrix as a register holds it. -/
def rowWord (c0 c1 c2 off : Int) : Word64 :=
  BitVec.ofNat 64 (2 ^ 48 * uint 16 c0 + 2 ^ 32 * uint 16 c1 + 2 ^ 16 * uint 16 c2 + uint 16 off)

/-- The coefficients of a YCbCr preset: CY, R_Cr, G_Cb, G_Cr, B_Cb and the three offsets (R664). -/
def presetOf (n : Nat) : List Int :=
  if n = 1 then [4769, 6537, 1605, 3330, 8263, -14266, 8678, -17718]
  else if n = 2 then [4769, 7343, 873, 2183, 8652, -15878, 4920, -18496]
  else [4769, 6876, 767, 2664, 8773, -14944, 5670, -18738]

/-- A write of BEL_MLOAD (R664, R688). -/
def State.loadMatrix (s : State) (p v n : Nat) : State :=
  if 3 < n then s
  else if n = 0 then
    ((s.rput .BEL_VM0 (rowWord 4096 0 0 0) p v).rput .BEL_VM1 (rowWord 0 4096 0 0) p v).rput .BEL_VM2 (rowWord 0 0 4096 0) p v
  else
    let k (i : Nat) : Int := (presetOf n).getD i 0
    ((s.rput .BEL_VM0 (rowWord (k 0) 0 (k 1) (k 5)) p v).rput .BEL_VM1 (rowWord (k 0) (-k 2) (-k 3) (k 6)) p v).rput
      .BEL_VM2 (rowWord (k 0) (k 4) 0 (k 7)) p v

/-- MATRIX_PRESET_LOAD (R664). -/
def execMatrixPresetLoad (who : Requester) (p : Nat) (val : Word64) (s : State) : Host.Outcome State Fault Refusal :=
  ok (s.hubReg (mayPf who) (s.loadMatrix p (bits val.toNat 8 2) (bits val.toNat 0 3)))

/-! ### Messages from bores -/

/-- The command of a message to the bell: COMMIT or FLUSH sent to DQ 0, or neither (R678). -/
def bellCmd (q : Nat) (m : Message) : Nat :=
  let k := (m.words.getD 0 0).toNat % 256
  if q = 0 && 2 ≤ m.words.length && (k = 1 || k = 2) then k else 0

/-- A message that the bell takes (R678). -/
def State.bellTake (s : State) (q : Nat) (m : Message) : State :=
  let s := s.hubTaken (.unit .bell) m
  let k := bellCmd q m
  let p := (m.words.getD 1 0).toNat % 4
  let mine := match senderBore m with
    | some b => s.boreCtx b = s.pipeCtx p
    | none => false
  if k ≠ 0 && !s.bpRun p then s.fsat Fld.BEL_PCNT_DISC 1 p
  else if k = 0 || !mine then s.fsat Fld.BEL_ERR_BADCMD
  else if k = 1 then s.pipeCommit p
  else s.pipeFlush p

/-- BORE_COMMIT_MESSAGE (R678): a message that is no FLUSH. -/
def execBoreCommitMessage (src : Endpoint) (s : State) : Host.Outcome State Fault Refusal :=
  match s.oldest .posted src (.unit .bell) with
  | some (⟨_, _, _, .message _ q m⟩, t) => ok (if bellCmd q m = 2 then s else t.bellTake q m)
  | _ => ok s

/-- BORE_FLUSH_MESSAGE (R678). -/
def execBoreFlushMessage (src : Endpoint) (s : State) : Host.Outcome State Fault Refusal :=
  match s.oldest .posted src (.unit .bell) with
  | some (⟨_, _, _, .message _ q m⟩, t) => ok (if bellCmd q m = 2 then t.bellTake q m else s)
  | _ => ok s

/-! ### Frames -/

/-- FRAME_START (R658). -/
def execFrameStart (p : Nat) (s : State) : Host.Outcome State Fault Refusal :=
  if s.faults.frozen then ok s else
  ok (when (s.bpRun p && !(s.pipe p).framing) s (s.startFrame p))

/-- What is composed in the current frame: nothing but the background once the context has gone (R681). -/
def State.pipeLayers (s : State) (p : Nat) : List Layer :=
  if s.flag Fld.BEL_PSTAT_CTXGONE p then [] else stackLayers (s.pipe p).active

/-- Output pixels with those that were not ready sent as BGCOL (R669). -/
def lateRows (bg : Px) (w : Nat) (late : List Nat) (rows : List (List Px)) : List (List Px) :=
  if late.isEmpty then rows
  else rows.zipIdx.map fun r => r.1.zipIdx.map fun x => if r.2 * w + x.2 ∈ late then bg else x.1

/-- The bytes of a region in raster order (R673). -/
def regionBytes (rows : List (List Px)) (x y w h : Nat) : List Byte :=
  ((rows.drop y).take h).flatMap fun r => ((r.drop x).take w).flatMap fun p =>
    [BitVec.ofNat 8 p.c0, BitVec.ofNat 8 p.c1, BitVec.ofNat 8 p.c2]

/-- Guarded region `r` of frame `n` signed (R673): whether it mismatched, and the state after. -/
def State.signRegion (s : State) (p n r : Nat) (rows : List (List Px)) : Bool × State :=
  let m := (s.pipe p).active
  let g (f : Field) : Nat := setGet m f r
  if !regionOn m r then (false, s)
  else
    let sig := crc32 (regionBytes rows (g Fld.BEL_RRECT_X) (g Fld.BEL_RRECT_Y) (g Fld.BEL_RRECT_W) (g Fld.BEL_RRECT_H))
    let s := s.fput Fld.BEL_RCRC_LASTCRC sig p r
    if g Fld.BEL_REXP_MODE = 2 then
      (false, s.upPipe p fun x =>
        { x with active := setPut (setPut x.active Fld.BEL_REXP_EXP sig r) Fld.BEL_REXP_MODE 1 r })
    else if sig = g Fld.BEL_REXP_EXP then (false, s)
    else (true, ((s.fput Fld.BEL_RCRC_MISMATCH 1 p r).fsat Fld.BEL_RCRC_FAILS 1 p r).fput Fld.BEL_RFAIL_LASTFRAME n p r)

/-- Every guarded region of frame `n` signed: the set of those that mismatched (R671, R673). -/
def State.signAll (s : State) (p n : Nat) (rows : List (List Px)) : Nat × State :=
  (List.range 16).foldl (fun (miss, s) r =>
    let (bad, s) := s.signRegion p n r rows
    (if bad then miss + 2 ^ r else miss, s)) (0, s)

/-- Whether the current frame fills the flatten cache: the first one after it has become invalid (R668). -/
def State.fills (s : State) (p : Nat) : Bool :=
  let x := s.pipe p
  !(s.flag Fld.BEL_PSTAT_FCVALID p || x.filling || s.flag Fld.BEL_PSTAT_CTXGONE p || (groupOf x.active).isEmpty)

/-- The flatten cache filled with F (R668, R680): whether a write met an unbacked or dark address. -/
def State.fillCache (s : State) (p : Nat) (rows : List (List Px)) : Bool × State :=
  let x := s.pipe p
  if !s.fills p then (false, s)
  else
    let (good, s) := s.putRows p (s.pipeCtx p) (64 * setGet x.active Fld.BEL_FCBASE_BASE) (framePitch x.timing) 0 rows
    if good then (false, s.upPipe p fun x => { x with filling := true }) else (true, s)

/-- The frame written back (R670, R680): whether it was written, and whether a write met an unbacked or dark address. -/
def State.writeBack (s : State) (p n : Nat) (rows : List (List Px)) : (Bool × Bool) × State :=
  let x := s.pipe p
  let g := setGet x.active
  if g Fld.BEL_WBCFG_WBEN = 0 || s.flag Fld.BEL_PSTAT_CTXGONE p then ((false, false), s)
  else
    let a := 64 * g Fld.BEL_WBBASE_BASE + n % (g Fld.BEL_WBCFG_NWB + 1) * (64 * g Fld.BEL_WBCFG_STRIDE)
    let (good, s) := s.putRows p (s.pipeCtx p) a (framePitch x.timing) 0 rows
    ((good, !good), s)

/-- The counts and events of a frame that has ended (R669, R673, R680). -/
def State.frameCounts (s : State) (p : Nat) (under fault bad : Bool) : State :=
  let s := if under then (s.fsat Fld.BEL_PCNT_UNDERRUNS 1 p).pipeEvent p Fld.BEL_PEVT_UNDERRUN else s
  let s := if fault then (s.fsat Fld.BEL_PCNT_FAULTS 1 p).pipeEvent p Fld.BEL_PEVT_FAULT else s
  if bad then (s.fsat Fld.BEL_PCNT_CRCFAILS 1 p).pipeEvent p Fld.BEL_PEVT_CRCFAIL else s

/-- The frame that ends: composed, written back and signed, with its frame-done message to come (R662 to R673). -/
def State.endFrame (s : State) (p : Nat) (late : List Nat) : State :=
  let x := s.pipe p
  let n := s.fget Fld.BEL_FCOUNT_FRAME p
  let w := hact x.timing
  let cached := s.flag Fld.BEL_PSTAT_FCVALID p
  let (rows, c) := Scan.frame ⟨s, p, s.pipeCtx p, [], false, false⟩ ⟨x.active, x.timing, cached, s.fills p⟩ (s.pipeLayers p)
  let late := if s.dpen p then late.filter fun i => i < w * vact x.timing else []
  let bg := { Px.ofWord (setGet x.active Fld.BEL_BG_BGCOL) with a := 255 }
  let sent := (lateRows bg w late (rows.map (·.1))).map fun r => r.map fun q => { q with a := 255 }
  let (fillBad, s) := c.s.fillCache p (rows.map (·.2))
  let ((wb, wbBad), s) := s.writeBack p n sent
  let susp := 0 < x.fresh
  let (miss, s) := if susp then (0, s) else s.signAll p n sent
  let fault := c.fault || fillBad || wbBad
  let s := s.frameCounts p (!late.isEmpty) fault (miss ≠ 0)
  let flags := 2 ^ 15 * b2n (!late.isEmpty) + 2 ^ 14 * b2n fault + 2 ^ 13 * b2n c.pois + 2 ^ 12 * b2n (miss ≠ 0)
    + 2 ^ 11 * b2n susp + 2 ^ 10 * b2n wb + 2 ^ 9 * b2n x.video + 2 ^ 8 * b2n x.drift
    + 2 ^ 7 * b2n (s.flag Fld.BEL_PSTAT_CTXGONE p)
  s.upPipe p fun y =>
    { y with
      framing := false, fresh := y.fresh - 1
      pixels := sent.flatMap fun r => r.map fun q => BitVec.ofNat 32 q.word
      done := y.done ++ [⟨n, flags, miss, x.startT.setWidth 32⟩] }

/-! ### The latch -/

/-- The flatten cache becomes invalid (R668). -/
def State.dropCache (s : State) (p : Nat) : State :=
  (s.fput Fld.BEL_PSTAT_FCVALID 0 p).upPipe p fun x => { x with filling := false }

/-- A pending timing set applies (R679). -/
def State.latchTiming (s : State) (p : Nat) : State :=
  match (s.pipe p).tpend with
  | none => s
  | some t =>
    let old := (s.pipe p).timing
    let same := setGet old Fld.BEL_DPCFG_LANES = setGet t Fld.BEL_DPCFG_LANES
      && setGet old Fld.BEL_DPCFG_RATE = setGet t Fld.BEL_DPCFG_RATE
    let k := s.link p
    let s := (s.upPipe p fun x => { x with timing := t, tpend := none, fresh := 2 }).fput Fld.BEL_PSTAT_TPEND 0 p
    let s := if !s.dpen p || (k ≠ lkUp && k ≠ lkIdlepat && k ≠ lkTraining) then s
      else if !same then s.putLink p lkTraining
      else if k = lkTraining then s
      else (s.putLink p lkIdlepat).upPipe p fun x => { x with idle := 2 }
    s.dropCache p

/-- The registers of a set's flatten group (R668). -/
def groupRegs (m : Map Word64) : List (Layer × List Word64) :=
  (groupOf m).map fun l => match l with
    | .graphic g => (l, [Reg.BEL_GADDR, .BEL_GGEOM, .BEL_GCTL].map fun r => mget 0 m (regKey r 0 g))
    | _ => (l, [])

/-- A pending composition set is validated and applies, or is discarded (R660, R661, R668). -/
def State.latchComposition (s : State) (p : Nat) : State :=
  match (s.pipe p).pend with
  | none => s
  | some m =>
    let x := s.pipe p
    let s := (s.upPipe p fun x => { x with pend := none }).fput Fld.BEL_PSTAT_CPEND 0 p
    if !compositionOk m x.timing then (s.commitSt p 2).pipeEvent p Fld.BEL_PEVT_COMMITBAD
    else
      let s := (s.upPipe p fun x => { x with active := m }).commitSt p 1
      if groupRegs m = groupRegs x.active then s else s.dropCache p

/-- The pipe stops (R682). -/
def State.pipeStop (s : State) (p : Nat) : State :=
  let x := s.pipe p
  let s := s.upPipe p fun _ => { Pipe.reset with pixels := x.pixels, done := x.done }
  let s := ((s.fput Fld.BEL_PSTAT_STATE 0 p).fput Fld.BEL_PSTAT_CPEND 0 p).fput Fld.BEL_PSTAT_TPEND 0 p
  ((s.fput Fld.BEL_PSTAT_CTXGONE 0 p).fput Fld.BEL_PSTAT_FCVALID 0 p).putLink p lkOff

/-- The latch (R660, R668, R681, R682). -/
def State.doLatch (s : State) (p : Nat) : State :=
  if (s.pipe p).stopAt then s.pipeStop p
  else
    let s := (s.latchTiming p).latchComposition p
    let s := if (s.pipe p).flushed then (s.dropCache p).upPipe p fun x => { x with flushed := false } else s
    if s.ctxLives (s.pipeCtx p) then s else (s.fput Fld.BEL_PSTAT_CTXGONE 1 p).dropCache p

/-- LATCH (R660): the frame ends, and the latch follows; `late` are the pixels that were not ready when they had to be sent. -/
def execLatch (p : Nat) (late : List Nat) (s : State) : Host.Outcome State Fault Refusal :=
  if s.faults.frozen then ok s else
  ok (when (s.bpRun p && (s.pipe p).framing) s ((s.endFrame p late).doLatch p))

/-- FLATTEN_CACHE_FILL_COMPLETE (R668). -/
def execFlattenCacheFillComplete (p : Nat) (s : State) : Host.Outcome State Fault Refusal :=
  if s.faults.frozen then ok s else
  ok (when (s.pipe p).filling s
    ((s.upPipe p fun x => { x with filling := false }).fput Fld.BEL_PSTAT_FCVALID 1 p))

/-- FRAME_DONE_MESSAGE (R671). -/
def execFrameDoneMessage (p : Nat) (s : State) : Host.Outcome State Fault Refusal :=
  if s.faults.frozen then ok s else
  match (s.pipe p).done with
  | [] => ok s
  | f :: l =>
    let s := s.upPipe p fun x => { x with done := l }
    if s.flag Fld.BEL_FROUTE_VALID p then ok (s.frSend (.bell p) [2 ^ 16 * f.flags + p, f.num, f.miss, f.time.toNat])
    else ok s

/-! ### DisplayPort -/

/-- A TRAIN (R675). -/
def State.train (s : State) (d : Nat) : State := if s.bpRun d && s.dpen d then s.putLink d lkTraining else s

/-- DP_TRAIN (R675). -/
def execDpTrain (who : Requester) (d : Nat) (s : State) : Host.Outcome State Fault Refusal :=
  ok (s.hubReg (mayPf who) (s.train d))

/-- LINK_TRAINING_DONE (R675, R679): training reaches UP at the active lanes and rate, or ends in FAIL. -/
def execLinkTrainingDone (d : Nat) (up : Bool) (s : State) : Host.Outcome State Fault Refusal :=
  if s.faults.frozen then ok s else
  let t := (s.pipe d).timing
  if s.link d ≠ lkTraining then ok s
  else if up then
    let s := s.fput Fld.BEL_DPSTAT_TRATE (setGet t Fld.BEL_DPCFG_RATE) d
    ok (((s.fput Fld.BEL_DPSTAT_TLANES (setGet t Fld.BEL_DPCFG_LANES) d).putLink d lkUp).pipeEvent d Fld.BEL_PEVT_LINKUP)
  else ok ((s.putLink d lkFail).pipeEvent d Fld.BEL_PEVT_LINKFAIL)

/-- HPD_DEASSERT (R677). -/
def execHpdDeassert (d : Nat) (s : State) : Host.Outcome State Fault Refusal :=
  if s.faults.frozen || !s.powered then ok s else
  let s := ((s.fput Fld.BEL_DPSTAT_HPD 0 d).upDp d fun x => { x with unplugged := true }).dpEvent d Fld.BEL_DPSTAT_UNPLUG
  ok (if s.link d = lkOff then s else s.putLink d lkDown)

/-- IRQ_HPD (R677). -/
def execIrqHpd (d : Nat) (s : State) : Host.Outcome State Fault Refusal :=
  if s.faults.frozen || !s.powered then ok s else
  ok (s.dpEvent d Fld.BEL_DPSTAT_IRQHPD)

/-- HPD_ASSERT (R677). -/
def execHpdAssert (d : Nat) (s : State) : Host.Outcome State Fault Refusal :=
  if s.faults.frozen || !s.powered then ok s else
  let s := s.fput Fld.BEL_DPSTAT_HPD 1 d
  ok (if (s.dp d).unplugged then
      (s.upDp d fun x => { x with unplugged := false }).dpEvent d Fld.BEL_DPSTAT_PLUG
    else s)

/-- The report of an AUX transaction (R676, R693). -/
def State.auxSt (s : State) (d pend reply : Nat) : State :=
  (s.fput Fld.BEL_AUXST_PENDING pend d).fput Fld.BEL_AUXST_REPLY reply d

/-- A write of BEL_AUXCMD (R676). -/
def State.auxCmd (s : State) (d v : Nat) : State :=
  if s.flag Fld.BEL_AUXST_PENDING d then s
  else if s.link d = lkTraining then s.auxSt d 0 5
  else (s.auxSt d 1 0).upDp d fun x => { x with aux := some v }

/-- AUX_TRANSACTION (R676). -/
def execAuxTransaction (who : Requester) (d : Nat) (val : Word64) (s : State) : Host.Outcome State Fault Refusal :=
  ok (s.hubReg (mayPf who) (s.auxCmd d val.toNat))

/-- Bytes put into BEL_AUXDATA, byte 0 first (R693). -/
def State.putAux (s : State) (d : Nat) (l : List Byte) : State :=
  s.each (List.range 4) fun s k =>
    let x := (l.drop (4 * k)).take 4
    s.each (List.range x.length) fun s i => s.fput ⟨.BEL_AUXDATA, 8 * i, 8⟩ (leNat ((x.drop i).take 1)) d k

/-- AUX_REPLY (R676): `code` is 1 for ACK, 2 for NACK and 3 for DEFER; an ACK may bring data. -/
def execAuxReply (d code : Nat) (data : List Byte) (s : State) : Host.Outcome State Fault Refusal :=
  if s.faults.frozen then ok s else
  match (s.dp d).aux with
  | none => ok s
  | some v =>
    let s := if code = 1 then s.putAux d (data.take (bits v 0 4 + 1)) else s
    ok ((s.auxSt d 0 (if code = 1 then 1 else if code = 2 then 2 else 3)).upDp d fun x => { x with aux := none })

/-- AUX_TIMEOUT (R676). -/
def execAuxTimeout (d : Nat) (s : State) : Host.Outcome State Fault Refusal :=
  if s.faults.frozen then ok s else
  ok (when (s.dp d).aux.isSome s ((s.auxSt d 0 4).upDp d fun x => { x with aux := none }))

end Sys2Proof.Machine
end

