-- ==== Sys2Proof/Machine/Resetting.lean ====
section
/-!
DEFINITION. Machine/Resetting.lean: what a reset does to a bore (R16, R117, R171, R199, R240, R274, R315, R354), what is lost when
a bore loses power (R88, R250), where a bore's bypass map is kept (R189, R190), and how PACKAGE and PARTITION errors begin
(R697, R698, R715).
-/

namespace Sys2Proof.Machine

/-! ### Registers by block -/

/-- The register and instance that a key of the register map names. -/
def keyReg (k : Nat) : Reg := Reg.ofNat (k / 2 ^ 24)
def keyInst (k : Nat) : Nat := k / 2 ^ 16 % 2 ^ 8
def keyIdx (k : Nat) : Nat := k % 2 ^ 16

/-- The register map with every listed register rewritten: `f` gives the new value from the register, its instance, its element
and its value. -/
def State.mapRegs (s : State) (f : Reg → Nat → Nat → Word64 → Word64) : State :=
  { s with regs := s.regs.filterMap fun x =>
      let v := f (keyReg x.1) (keyInst x.1) (keyIdx x.1) x.2
      if v = (keyReg x.1).resetVal (keyIdx x.1) then none else some (x.1, v) }

/-- The register blocks of a bore (R46). -/
def boreBlocks : List Block := [.BORE, .CHN, .MXA, .REED, .WCH, .LIG, .QUE, .SYNB]

/-- What R12 holds for the registers of a bore is discarded. -/
def State.dropHalves (s : State) (b : Nat) : State := s.dropShadows fun h => h.blk ∈ boreBlocks && h.inst = b

/-! ### Bypass maps -/

/-- The byte of the keep flash at an address: erased bytes read 0xFF.
(DESIGN CHOICE, log 8.) -/
def State.flashByte (s : State) (a : Nat) : Byte := mget 0xFF s.flash a

/-- Bytes of the keep flash. -/
def State.flashBytes (s : State) (a n : Nat) : List Byte := (List.range n).map fun k => s.flashByte (a + k)

/-- Bytes put into the keep flash. -/
def State.flashPut (s : State) (a : Nat) (l : List Byte) : State :=
  { s with flash := l.zipIdx.foldl (fun m x => mput 0xFF m (a + x.2) x.1) s.flash }

/-- A sector erased (R721). -/
def State.flashErase (s : State) (a n : Nat) : State :=
  { s with flash := s.flash.filter fun x => !(a ≤ x.1 && x.1 < a + n) }

/-- A CRC-32 as four bytes. -/
def crcBytes (l : List Byte) : List Byte := leBytes 4 (crc32 l)

/-- Whether a record of the keep flash holds together (R588): its length, and the CRC-32 of its bytes from 12 on. -/
def State.recordOk (s : State) (a : Nat) : Bool :=
  let n := leNat (s.flashBytes (a + 4) 4)
  12 ≤ n && n ≤ 0x10000 && s.flashBytes (a + 8) 4 = crcBytes (s.flashBytes (a + 12) (n - 12))

/-- The first address of the repair record, and where the mask of a physical site lies in it (R588; byte 16 is DEDUCED from the
board record, log 25). -/
def repairBase : Nat := 0x20000
def siteMaskAt (site : Nat) : Nat := repairBase + 16 + 16 * site

/-- The masks of the repair record: all empty where it is damaged (R597).
(DEDUCED, log 25.) -/
def State.recordMasks (s : State) : Map Nat :=
  if s.recordOk repairBase then
    (List.range 68).foldl (fun m k => mput 0 m k (leNat (s.flashBytes (siteMaskAt k) 16))) []
  else []

/-- A bore's own physical site: site 17q + s for quadrant q, site s (R588). -/
def ownSite (b : Nat) : Nat := 17 * (b / 16) + b % 16

/-- The site that stands for a bore: its own, or the spare that was substituted for it (R24, R464). -/
def State.siteOf (s : State) (b : Nat) : Nat := mget (ownSite b) s.sites b

/-- The persisted bypass map of a bore: the mask that the keep flash holds of the site that stands for it (R189, R190, R588). -/
def State.persisted (s : State) (b : Nat) : Nat := mget 0 s.recordMasks (s.siteOf b)

/-- The bypass map that the next publication applies (R189): the persisted one, with the columns of a self-test whose rewrite was
refused (R191). -/
def State.nextMap (s : State) (b : Nat) : Nat := mget 0 s.boot.masks (s.siteOf b)

/-! ### Resets of a bore -/

/-- Registers that a warm reset of a bore leaves to their own rules. -/
def warmOwn (r : Reg) : Bool := r = .QUE_RSTAT || r = .MXA_BYPPEND || r = .MXA_BYPCMD

/-- A warm reset of bore `b` (R117, R171, R199, R240, R274, R315, R354): the chanter, the array, the reeds, the handles, the
counters and the waits; every queue takes a new epoch, and routes, credits and queue configurations stay. -/
def State.boreReset (s : State) (b : Nat) : State :=
  let s := (s.dropHalves b).chanterReset b
  let s := (((s.arrReset b).reedReset b false).ligReset b)
  let s := s.each (List.range 32) fun s q => s.qEpoch b q
  let s := s.upVest b fun v =>
    { v with slots := [], arrs := [], audit := none, orphanAud := v.orphanAud ++ (v.audit.map (·.ch)).toList }
  let s := s.mapRegs fun r i j v =>
    if i ≠ b || r.info.blk ∉ boreBlocks || warmOwn r then v
    else if r = .SYN_LCVAL || r = .SYN_LCARM || r = .SYN_ASLOT || r = .SYN_WSTAT || r = .QUE_AUDRES then 0
    else (v &&& ~~~r.warmMask) ||| (r.resetVal j &&& r.warmMask)
  s.putMaskPair .MXA_BYPPEND b (s.persisted b)

/-- A range of memory zeroed, with valid ECC and clear poison flags (R250).
(DEDUCED, log 56.) -/
def State.zeroRange (s : State) (a n : Nat) : State :=
  let out (x : Nat) : Bool := !(a ≤ x && x < a + n)
  { s with
    mem := s.mem.filter fun x => out x.1,
    poison := s.poison.filter out,
    single := s.single.filter out,
    double := s.double.filter out }

/-- The windchest of a bore zeroed (R250). -/
def State.zeroWindchest (s : State) (b : Nat) : State := s.zeroRange (wchBase b) 0x02000000

/-- The errors of a bore's kernel stores and cell memories, which lose their contents. -/
def State.dropReedErrors (s : State) (b : Nat) : State :=
  let out (x : Nat) : Bool :=
    !(ksKey b 0 0 ≤ x && x < ksKey (b + 1) 0 0) && !(cmKey b 0 0 0 ≤ x && x < cmKey (b + 1) 0 0 0)
  { s with single := s.single.filter out, double := s.double.filter out }

/-- What a bore loses with its power (R88, R250, R550): everything but the applied bypass map, which the drone keeps (R189), and
the queue epochs, which the stub keeps (R573). -/
def State.loseBore (s : State) (b : Nat) : State :=
  let s := if (s.ch b).watch.isSome then s.cancelWatch b else s
  let eps : Map Nat := (List.range 32).foldl (fun m q => mput 0 m q (s.fget Fld.QUE_QSTAT_EPOCH b q)) []
  let s := s.upBore b fun B =>
    { Bore.reset with
      ch := { Chanter.reset with nextId := B.ch.nextId },
      power := { B.power with epochs := eps }, arr := { MatArray.reset with applied := B.arr.applied } }
  let s := (s.dropHalves b).mapRegs fun r i j v => if i = b && r.info.blk ∈ boreBlocks then r.resetVal j else v
  ((s.zeroWindchest b).zeroRange (psBase b) 0x80000).dropReedErrors b

/-! ### PACKAGE errors -/

/-- The PACKAGE causes (R698). -/
def pkHubUe : Nat := 1
def pkHbmFatal : Nat := 2
def pkTherm : Nat := 3
def pkWindway : Nat := 4
def pkForce : Nat := 5

/-- DMP_STATUS.STATE (R732). -/
def dsNone : Nat := 0
def dsWriting : Nat := 1
def dsComplete : Nat := 2
def dsTruncated : Nat := 3
def dsNoWindow : Nat := 4
def dsNoDump : Nat := 5

/-- The FATAL entry of a PACKAGE error (R710). -/
def State.logFatal (s : State) (cause src : Nat) : State := s.log src 0x00F0 none 4 (leBytes 2 cause ++ leBytes 2 src)

/-- The drone stops with the failure status of its stage (R589, R725). -/
def State.bootHalt (s : State) : State :=
  let st := s.fget Fld.DRN_BOOT_STAGE
  let s := if st ≤ 2 then s.fput Fld.DRN_BOOT_STATUS (if st = 0 then 1 else if st = 1 then 2 else 4) else s
  s.fput Fld.DRN_BOOT_STAGE 9

/-- Whether the dump window cannot be written: HBM has not trained, or Q3's region is unbacked, or the failing stack is H6 or H7
(R725). -/
def State.noWindow (s : State) (cause src : Nat) : Bool :=
  s.fget Fld.DRN_BOOT_STAGE ≤ 4 || s.hbmDead 3 || (cause = pkHbmFatal && (src = srcHbm 6 || src = srcHbm 7))

/-- The record of a PACKAGE error in DMP_STATUS (R715 step 1). -/
def State.dumpRecord (s : State) (state cause src : Nat) : State :=
  let s := ((s.fput Fld.DMP_STATUS_STATE state).fput Fld.DMP_STATUS_CAUSE cause).fput Fld.DMP_STATUS_SOURCE src
  ((s.fput Fld.DMP_STATUS_SUMST 0).fput Fld.DMP_STATUS_MULTI 0).rput .DMP_TIME (s.rget .DRN_TIME)

/-- Steps 1 and 2 of R715: the record, the FATAL entry, and the freeze.
(DEDUCED, log 50.) -/
def State.freeze (s : State) (state cause src : Nat) : State :=
  let s := (s.dumpRecord state cause src).logFatal cause src
  { s with faults := { s.faults with
      frozen := true, dumpHead := BitVec.ofNat 32 (s.fget Fld.LOG_HEAD_COUNT), dumpBoot := s.rget .DRN_BOOT,
      truncate := s.faults.pwrFail } }

/-- A PACKAGE error with its cause and the SOURCE of the failing unit (R715, R725, R727, R728).
(DEDUCED, log 50.) -/
def State.packageError (s : State) (cause src : Nat) : State :=
  let stage := s.fget Fld.DRN_BOOT_STAGE
  if s.fget Fld.DMP_STATUS_STATE ≠ dsNone then (s.fput Fld.DMP_STATUS_MULTI 1).logFatal cause src
  else if cause = pkTherm then (s.dumpRecord dsNoDump cause src).logFatal cause src
  else if stage ≤ 2 || 8 ≤ stage then s.bootHalt
  else s.freeze (if s.noWindow cause src then dsNoWindow else dsWriting) cause src

/-! ### PARTITION errors -/

/-- The PARTITION causes (R697). -/
def ptVestUe : Nat := 1
def ptWakeFail : Nat := 2
def ptUnitUe : Nat := 3
def ptMeshErr : Nat := 4

/-- The contexts bound to the bores of a group or homed on its partitions. -/
def State.groupCtxs (s : State) (parts : List Nat) : List Nat :=
  (List.range 1024).filter fun c => s.cxState c ≠ cxFree &&
    (s.homeOfCtx c ∈ parts || (s.boundBores c).any fun b => partOf b ∈ parts)

/-- Whether an operation on the group that `l` leads must end before a PARTITION error acts (R728). -/
def State.groupWorks (s : State) (l : Nat) : Bool := (s.part l).rebuild.isSome || s.faults.restart = some l

/-- A PARTITION error acted on (R697): the group's contexts end, and the group is then rebuilt. -/
def State.partAct (s : State) (l : Nat) : State :=
  let s := s.each (s.groupCtxs (s.groupParts l)) fun s c => s.beginEnding c endFault none
  let s := s.upPart l fun x => { x with rebuild := some ⟨none, true, false, []⟩ }
  ({ s with cmds := s.cmds ++ [(⟨.rebuild, l, false⟩ : RmCmd)] }).rmGo l

/-- A PARTITION error in partition `p`, at bore `bore` where it has one (R697, R728). -/
def State.partError (s : State) (p cause bore : Nat) : State :=
  let s := s.log (srcPart p) 0x0030 none 3 (leBytes 1 cause ++ leBytes 1 bore)
  let l := s.leader p
  if s.fget Fld.DMP_STATUS_STATE ≠ dsNone then s
  else if s.groupWorks l then { s with faults := { s.faults with parts := s.faults.parts ++ [(l, cause)] } }
  else s.partAct l

/-- PARTITION errors that waited for an operation on the group that `l` leads (R728). -/
def State.partWaiting (s : State) (l : Nat) : State :=
  if s.faults.parts.any fun x => x.1 = l then
    ({ s with faults := { s.faults with parts := s.faults.parts.filter fun x => x.1 ≠ l } }).partAct l
  else s

end Sys2Proof.Machine
end

