-- ==== Sys2Proof/Machine/Drone.lean ====
section
/-!
DEFINITION. Machine/Drone.lean: the drone and the bellows (chapter Drone, bellows and waking): power states, wakes, tokens, limits,
retirement and the endpoint stub.
-/

namespace Sys2Proof.Machine

/-! ### Tokens -/

/-- The cost of clock step `n`, and the floor (R550, R554). -/
def State.cost (s : State) (n : Nat) : Nat := s.fget Fld.BLW_FTAB_TOKENS 0 n
def State.floor (s : State) : Nat := s.cost 0

/-- FMAX of a bore; values above 24 act as 24 (R584). -/
def State.fmax (s : State) (b : Nat) : Nat := min (s.fget Fld.BLW_BORE_FMAX 0 b) 24

/-- Tokens that a bore holds. -/
def State.holding (s : State) (b : Nat) : Nat := s.fget Fld.BLW_BORE_HOLD 0 b

/-- Tokens in the pool. -/
def State.pool (s : State) : Nat := s.fget Fld.BLW_POOL_POOL

/-- Whether a bore's retirement has been accepted (R570). -/
def State.retiring (s : State) (b : Nat) : Bool :=
  (s.bore b).power.retReq || (s.bore b).power.retire ≠ .none

/-- A bore's demand (R553); while it enters a state it is still in the state that it leaves (R767). -/
def State.demand (s : State) (b : Nat) : Nat :=
  let p := (s.bore b).power
  if s.pstate b = psOff then 0
  else if s.retiring b then s.floor
  else if s.pstate b = psActive || p.waking then s.cost (s.fmax b)
  else s.floor

/-- BLW_BORE.DEMAND brought up to date. -/
def State.putDemand (s : State) (b : Nat) : State := s.fput Fld.BLW_BORE_DEMAND (s.demand b) 0 b

/-- The highest step whose cost a holding covers, no higher than FMAX (R553). -/
def State.stepFor (s : State) (b : Nat) : Nat :=
  (List.range (s.fmax b + 1)).foldl (fun best n => if s.cost n ≤ s.holding b then n else best) 0

/-- Tokens debited from a bore, whose clock has fallen first (R549, R552). -/
def State.debit (s : State) (b n : Nat) : State :=
  let s := (s.fput Fld.BLW_BORE_HOLD (s.holding b - n) 0 b).fput Fld.BLW_POOL_HELD (s.fget Fld.BLW_POOL_HELD - n)
  s.fput Fld.BLW_BORE_STEP (min (s.fget Fld.BLW_BORE_STEP 0 b) (s.stepFor b)) 0 b

/-- Tokens debited and not yet credited (R552). -/
def State.moving (s : State) (n : Nat) (dst : Option Nat) : State :=
  if n = 0 then s
  else ({ s with drone := { s.drone with moves := s.drone.moves ++ [(⟨n, dst⟩ : TokenMove)] } }).finc Fld.BLW_POOL_INFLIGHT n

/-- Tokens on their way from a bore to the pool. -/
def State.giveUp (s : State) (b n : Nat) : State := (s.debit b n).moving n none

/-- A bore gives up all but `n` of its tokens, and those on their way to it go to the pool (R550, R552). -/
def State.shed (s : State) (b n : Nat) : State :=
  let turn (m : TokenMove) : TokenMove := if m.dst = some b then { m with dst := none } else m
  { s with drone := { s.drone with moves := s.drone.moves.map turn } }.giveUp b (s.holding b - n)

/-- FMAX written: a clock above it falls at once (R549, R553). -/
def State.capStepTo (s : State) (b : Nat) : State :=
  s.fput Fld.BLW_BORE_STEP (min (s.fget Fld.BLW_BORE_STEP 0 b) (s.stepFor b)) 0 b

/-- Tokens on their way from the pool to a bore. -/
def State.lend (s : State) (b n : Nat) : State := (s.fput Fld.BLW_POOL_POOL (s.pool - n)).moving n (some b)

/-- The credit of a movement (R552). -/
def State.credit (s : State) (m : TokenMove) : State :=
  let s := s.fput Fld.BLW_POOL_INFLIGHT (s.fget Fld.BLW_POOL_INFLIGHT - m.amt)
  match m.dst with
  | some b => (s.fput Fld.BLW_BORE_HOLD (s.holding b + m.amt) 0 b).finc Fld.BLW_POOL_HELD m.amt
  | none => s.finc Fld.BLW_POOL_POOL m.amt

/-- TOKEN_CREDIT (R552): the oldest movement is credited. -/
def execTokenCredit (s : State) : Host.Outcome State Fault Refusal :=
  if s.faults.frozen then ok s else
  match s.drone.moves with
  | [] => ok s
  | m :: l => ok (({ s with drone := { s.drone with moves := l } }).credit m)

/-- Every movement credited: each completes within its period (R561). -/
def State.creditAll (s : State) : State :=
  s.drone.moves.foldl State.credit { s with drone := { s.drone with moves := [] } }

/-- FLL_RETARGET_COMPLETE (R549). -/
def execFllRetargetComplete (b : Nat) (s : State) : Host.Outcome State Fault Refusal :=
  if s.faults.frozen then ok s else
  ok (when (s.pstate b ≠ psOff) s (s.fput Fld.BLW_BORE_STEP (s.stepFor b) 0 b))

/-! ### Going down -/

/-- Whether a rank lets its bore be quiet (R555): IDLE, or every live reed held in RBAR or RGBAR. -/
def State.rankQuiet (s : State) (b r : Nat) : Bool :=
  s.rkState b r = rkIdle || (s.rkState b r = rkRunning && 0 < s.live b r &&
    (List.range 64).all fun l => (s.reed b r l).mode ≠ .running)

/-- Whether a bore is quiet (R555). -/
def State.boreQuiet (s : State) (b : Nat) : Bool :=
  s.chState b ≠ csRunning && s.fget Fld.CHN_UNITS_MQ b = 0 && s.fget Fld.CHN_UNITS_DMAQ b = 0
    && (List.range 80).all (s.rankQuiet b)

/-- Whether a bore is entering a state, waking, leaving OFF or retiring. -/
def State.inTransit (s : State) (b : Nat) : Bool :=
  let p := (s.bore b).power
  p.entering.isSome || p.waking || p.leaving.isSome || s.retiring b

/-- A bore begins to enter a state (R551, R767). -/
def State.enter (s : State) (b p : Nat) : State :=
  ((s.upPower b fun w => { w with entering := some p }).fput Fld.DRN_BPST_TRANS 1 0 b).putDemand b

/-- A bore begins to leave ACTIVE for IDLE; with a WAITING chanter a long wait begins (R346, R555).
(DEDUCED, log 48.) -/
def State.goIdle (s : State) (b : Nat) : State :=
  let s := s.enter b psIdle
  if s.chState b = csWaiting then (s.fput Fld.SYN_WSTAT_LONG 1 b).finc Fld.SYN_LWAIT_ENTRIES 1 b else s

/-- QUIET_TIMEOUT (R555): the bore has been quiet for LENDTHR.
(DESIGN CHOICE, log 3.) -/
def execQuietTimeout (b : Nat) (s : State) : Host.Outcome State Fault Refusal :=
  if s.faults.frozen then ok s else
  ok (when (s.pstate b = psActive && !s.inTransit b && s.boreQuiet b) s (s.goIdle b))

/-- IDLE_TIMEOUT (R556). -/
def execIdleTimeout (b : Nat) (s : State) : Host.Outcome State Fault Refusal :=
  if s.faults.frozen then ok s else
  ok (when (s.pstate b = psIdle && !s.inTransit b && s.fget Fld.DRN_BPCFG_SLEEPT 0 b ≠ 0) s (s.enter b psSleep))

/-- SLEEP_TIMEOUT (R556). -/
def execSleepTimeout (b : Nat) (s : State) : Host.Outcome State Fault Refusal :=
  if s.faults.frozen then ok s else
  ok (when (s.pstate b = psSleep && !s.inTransit b && s.fget Fld.DRN_BPCFG_DEEPT 0 b ≠ 0) s (s.enter b psDeep))

/-! ### Waking -/

/-- A wake begins (R551, R558, R560): a stopped fabric restarts in parallel with a wake from SLEEP or deeper. -/
def State.beginWake (s : State) (b code : Nat) : State :=
  let s := if psSleep ≤ s.pstate b then s.openFab (quadOf b) else s
  let s := s.upPower b fun w => { w with waking := true, held := none }
  let s := ((s.fput Fld.DRN_BPST_TRANS 1 0 b).fput Fld.DRN_BPST_LASTWAKE code 0 b).putDemand b
  s.lend b (min s.pool (s.demand b - s.holding b))

/-- A trigger at a bore (R558, R559, R575): it wakes the bore, is held through an entry, and does nothing to a bore that is
ACTIVE, OFF or retiring.
(DESIGN CHOICE, log 47.) -/
def State.trigger (s : State) (b code : Nat) : State :=
  let p := (s.bore b).power
  if s.retiring b || s.pstate b = psOff then s
  else if p.entering.isSome then s.upPower b fun w => { w with held := some code }
  else if p.waking then s.fput Fld.DRN_BPST_LASTWAKE code 0 b
  else if s.pstate b = psActive then s
  else s.beginWake b code

/-- The oldest trigger on its way to a bore, and the others.
(DESIGN CHOICE, log 47.) -/
def takeTrigger (b : Nat) : List (Nat × Nat) → Option (Nat × List (Nat × Nat))
  | [] => none
  | x :: l => if x.1 = b then some (x.2, l) else (takeTrigger b l).map fun y => (y.1, x :: y.2)

/-- WAKE_TRIGGER (R558): the oldest trigger sent for a bore reaches it. -/
def execWakeTrigger (b : Nat) (s : State) : Host.Outcome State Fault Refusal :=
  if s.faults.frozen then ok s else
  match takeTrigger b s.drone.wakeq with
  | none => ok s
  | some (code, l) => ok (({ s with drone := { s.drone with wakeq := l } }).trigger b code)

/-- The outcome of a DRN_BPCMD (R581). -/
def State.bpSt (s : State) (b st : Nat) : State :=
  ((s.fput Fld.DRN_BPCMDST_BORE b).fput Fld.DRN_BPCMDST_STATUS st).fput Fld.DRN_BPCMDST_PENDING 0

/-- The statuses of DRN_BPCMDST. -/
def bpOk : Nat := 1
def bpBusy : Nat := 2
def bpBound : Nat := 3
def bpBadstate : Nat := 4
def bpBadop : Nat := 5
def bpAbandoned : Nat := 6

/-- A command on a bore that drives it to state `p` finishes when the bore is there. -/
def State.goalMet (s : State) (b p : Nat) : State :=
  if (s.bore b).power.goal = some p then (s.upPower b fun w => { w with goal := none }).bpSt b bpOk else s

/-- Step 1 of a retirement (R571): the chanter is halted and every rank stopped. -/
def State.retireStart (s : State) (b : Nat) : State :=
  let s := s.haltChanter b
  let s := s.each (List.range 80) fun s r => s.vstop b r
  s.upPower b fun w => { w with retire := .waitWork, retReq := false }

/-- A retirement that waited for an entry or a wake goes on (R571). -/
def State.retireGo (s : State) (b : Nat) : State := if (s.bore b).power.retReq then s.retireStart b else s

/-- A bore has entered a state: in IDLE and below it holds its floor and no more (R550, R560). -/
def State.entered (s : State) (b p : Nat) : State :=
  let s := (s.upPower b fun w => { w with entering := none }).fput Fld.DRN_BPST_STATE p 0 b
  ((s.fput Fld.DRN_BPST_TRANS 0 0 b).shed b s.floor).putDemand b

/-- POWER_STATE_ENTRY_COMPLETE (R551, R557, R559, R767). -/
def execPowerStateEntryComplete (b : Nat) (s : State) : Host.Outcome State Fault Refusal :=
  if s.faults.frozen then ok s else
  let w := (s.bore b).power
  match w.entering with
  | none => ok s
  | some p =>
    let s := (s.entered b p).goalMet b p
    if w.retReq then ok ((s.upPower b fun w => { w with held := none }).retireStart b)
    else
      match w.goal, w.held with
      | some g, h =>
        if p < g then ok (s.enter b (p + 1))
        else match h with
          | some code => ok (s.beginWake b code)
          | none => ok s
      | none, some code => ok (s.beginWake b code)
      | none, none => ok s

/-- A bore is ACTIVE: after a wake, or after leaving OFF (R551, R574, R583). -/
def State.nowActive (s : State) (b : Nat) : State :=
  let s := (s.fput Fld.DRN_BPST_STATE psActive 0 b).fput Fld.DRN_BPST_TRANS 0 0 b
  (s.fsat Fld.DRN_BPST_WAKES 1 0 b).putDemand b

/-- WAKE_COMPLETE (R551): a long wait ends with it (R346). -/
def execWakeComplete (b : Nat) (s : State) : Host.Outcome State Fault Refusal :=
  if s.faults.frozen then ok s else
  if !(s.bore b).power.waking then ok s
  else
    let s := (s.upPower b fun w => { w with waking := false }).nowActive b
    ok (((s.fput Fld.SYN_WSTAT_LONG 0 b).goalMet b psActive).retireGo b)

/-! ### Commands -/

/-- A write of DRN_BPCMD (R575, R603): one at a time, and none before READY. -/
def State.bpCmd (s : State) (b : Nat) (act : State → State) : State :=
  if s.flag Fld.DRN_BPCMDST_PENDING then s.fput Fld.DRN_BPCMDST_DROPPED 1
  else if s.fget Fld.DRN_BOOT_STAGE ≠ 7 then s.bpSt b bpBusy
  else act s

/-- A command that has not finished. -/
def State.bpPend (s : State) (b : Nat) : State :=
  ((s.fput Fld.DRN_BPCMDST_BORE b).fput Fld.DRN_BPCMDST_STATUS 0).fput Fld.DRN_BPCMDST_PENDING 1

/-- WAKE (R558, R575). -/
def State.bpWake (s : State) (b : Nat) : State :=
  if s.pstate b = psOff then s.bpSt b bpBadstate
  else if s.pstate b = psActive && (s.bore b).power.entering.isNone then s.bpSt b bpOk
  else ((s.bpPend b).upPower b fun w => { w with goal := some psActive }).trigger b wakeCommand

/-- SLEEP and DEEP (R557). -/
def State.bpDown (s : State) (b p : Nat) : State :=
  if s.pstate b = psOff then s.bpSt b bpBadstate
  else if s.inTransit b || !s.boreQuiet b then s.bpSt b bpBusy
  else if p ≤ s.pstate b then s.bpSt b bpOk
  else
    let s := (s.bpPend b).upPower b fun w => { w with goal := some p }
    if s.pstate b = psActive then s.goIdle b else s.enter b (s.pstate b + 1)

/-- OFF (R570, R571). -/
def State.bpOff (s : State) (b : Nat) : State :=
  if s.pstate b = psOff then s.bpSt b bpBadstate
  else if s.ctxs.any fun x => s.cxActive x.1 && (s.boundOn x.1 b).isSome then s.bpSt b bpBound
  else
    let wait := (s.bore b).power.entering.isSome || (s.bore b).power.waking
    let s := ((s.bpPend b).upPower b fun w => { w with retReq := true }).fput Fld.DRN_BPST_RETIRING 1 0 b
    let s := s.putDemand b
    if wait then s else s.retireStart b

/-- ON (R574, R575, R767): the bore leaves OFF, and TRANS reads 1.
(DEDUCED, log 48.) -/
def State.bpOn (s : State) (b : Nat) : State :=
  if s.pstate b ≠ psOff then s.bpSt b bpBadstate
  else if (s.bore b).power.leaving.isSome then s.bpSt b bpOk
  else ((s.bpPend b).upPower b fun w => { w with leaving := some wakeCommand }).fput Fld.DRN_BPST_TRANS 1 0 b

/-- BPCMD_WAKE (R575). -/
def execBpcmdWake (who : Requester) (b : Nat) (s : State) : Host.Outcome State Fault Refusal :=
  ok (s.drnReg (mayTray who) (s.bpCmd b fun s => s.bpWake b))

/-- BPCMD_SLEEP (R557). -/
def execBpcmdSleep (who : Requester) (b : Nat) (s : State) : Host.Outcome State Fault Refusal :=
  ok (s.drnReg (mayTray who) (s.bpCmd b fun s => s.bpDown b psSleep))

/-- BPCMD_DEEP (R557). -/
def execBpcmdDeep (who : Requester) (b : Nat) (s : State) : Host.Outcome State Fault Refusal :=
  ok (s.drnReg (mayTray who) (s.bpCmd b fun s => s.bpDown b psDeep))

/-- BPCMD_OFF (R570). -/
def execBpcmdOff (who : Requester) (b : Nat) (s : State) : Host.Outcome State Fault Refusal :=
  ok (s.drnReg (mayTray who) (s.bpCmd b fun s => s.bpOff b))

/-- BPCMD_ON (R574). -/
def execBpcmdOn (who : Requester) (b : Nat) (s : State) : Host.Outcome State Fault Refusal :=
  ok (s.drnReg (mayTray who) (s.bpCmd b fun s => s.bpOn b))

/-! ### Retirement -/

/-- Whether a retiring bore's work is done (R571 step 2). -/
def State.workDone (s : State) (b : Nat) : Bool :=
  s.fget Fld.CHN_UNITS_MQ b = 0 && s.fget Fld.CHN_UNITS_DMAQ b = 0 && (List.range 80).all fun r => s.rkState b r = rkIdle

/-- Steps 3 and 4 of a retirement (R571): the tokens above the floor return and every queue is CLOSED. -/
def State.retireDrain (s : State) (b : Nat) : State :=
  let s := s.shed b s.floor
  let s := s.each (List.range 32) fun s q => s.qClose b q
  s.upPower b fun w => { w with retire := .drain }

/-- RETIREMENT_DRAINED (R571). -/
def execRetirementDrained (b : Nat) (s : State) : Host.Outcome State Fault Refusal :=
  if s.faults.frozen then ok s else
  ok (when ((s.bore b).power.retire = .waitWork && s.workDone b) s (s.retireDrain b))

/-- The INFLIGHT of every handle brought to the loads and stores that the chanter has left: what is abandoned stops counting
(R264). -/
def State.recountHandles (s : State) (b : Nat) : State :=
  let held (h : Nat) (x : ChLoad) : Bool := match x.tgt with
    | .handle m _ => m.h = h
    | _ => false
  s.each (List.range 64) fun s h => s.fput Fld.LIG_HDESC_INFLIGHT
    (((s.ch b).loads.filter (held h)).length + ((s.ch b).stores.filter fun w => w.h = some h).length) b h

/-- Work abandoned as a reset abandons it (R171, R240, R264, R571). -/
def State.abandon (s : State) (b : Nat) : State :=
  let s := s.upCh b fun c => { c with dma := [], feeds := [], arrq := [], drains := [] }
  let s := ((s.rput .CHN_UNITS 0 b).reedReset b false).recountHandles b
  s.upPower b fun w => { w with abandoned := true }

/-- RETIREMENT_ABANDON (R571): 1 ms has passed with work still running. -/
def execRetirementAbandon (b : Nat) (s : State) : Host.Outcome State Fault Refusal :=
  if s.faults.frozen then ok s else
  ok (when ((s.bore b).power.retire = .waitWork && !s.workDone b) s ((s.abandon b).retireDrain b))

/-- A bore's power is removed: it is OFF, and its holding returns to the pool (R571 step 6, R566). -/
def State.powerOff (s : State) (b : Nat) : State :=
  let s := (s.shed b 0).loseBore b
  let s := s.upPower b fun w => { Power.reset with epochs := w.epochs }
  let s := ((s.fput Fld.DRN_BPST_STATE psOff 0 b).fput Fld.DRN_BPST_TRANS 0 0 b).fput Fld.DRN_BPST_RETIRING 0 0 b
  (s.putDemand b).fput Fld.BLW_BORE_STEP 0 0 b

/-- DRAIN_INTERVAL_END (R571). -/
def execDrainIntervalEnd (b : Nat) (s : State) : Host.Outcome State Fault Refusal :=
  if s.faults.frozen then ok s else
  let w := (s.bore b).power
  ok (when (w.retire = .drain) s ((s.powerOff b).bpSt b (if w.abandoned then bpAbandoned else bpOk)))

/-! ### The stub -/

/-- What the stub does with a transfer for an OFF bore (R572): what it answers, and the DRN_STUB field that counts it; none for
what it does not answer. -/
def State.stub (s : State) (b : Nat) (p : Packet) : Option (State × Field) :=
  match p with
  | .message _ _ m =>
    if m.nack then some (s.sendNack (.bore b) 0 rRetired m, Fld.DRN_STUB_NACKED)
    else some (s.sendReturn (.bore b) m.origin 2, Fld.DRN_STUB_CREDDISC)
  | .chanInc _ _ i => some (s.sendReturn (.bore b) i.origin 4, Fld.DRN_STUB_INCS)
  | .auditMarker _ _ o => some (s.auditReplyTo (.bore b) o 0, Fld.DRN_STUB_OTHER)
  | .creditRet _ _ | .release _ | .orphanMark _ | .nackMsg _ _ | .auditReply _ _ | .barDone _ _ _ _ | .watchAns _ _ =>
    some (s, Fld.DRN_STUB_OTHER)
  | _ => none

/-- STUB_ANSWER (R572): the oldest arrival at an OFF bore from `src`. -/
def execStubAnswer (src : Endpoint) (b : Nat) (s : State) : Host.Outcome State Fault Refusal :=
  if s.pstate b ≠ psOff then ok s
  else
    match s.oldest .posted src (.bore b) with
    | none => ok s
    | some (x, t) =>
      match t.stub b x.pkt with
      | some (u, f) => ok (u.fsat f 1 0 b)
      | none => ok s

/-! ### Leaving OFF -/

/-- Steps 2 to 5 of R574: the vestibule comes up with every queue CLOSED and in a new epoch, the bypass registers and the
capability word return, and the bore is ACTIVE, with its fabric running (R548, R551). -/
def State.powerOn (s : State) (b code : Nat) : State :=
  let eps := (s.bore b).power.epochs
  let s := s.each (List.range 32) fun s q =>
    (s.fput Fld.QUE_QSTAT_READER 1 b q).fput Fld.QUE_QSTAT_EPOCH (mget 0 eps q + 1) b q
  let s := s.putMaskPair .MXA_BYPACT b (s.bore b).arr.applied.toNat
  let s := s.putMaskPair .MXA_BYPPEND b (s.persisted b)
  let s := s.rput .BORE_CAP (s.rget .DRN_BCAP 0 b) b
  let s := (s.openFab (quadOf b)).upPower b fun w => { w with leaving := none, powered := false, epochs := [] }
  let s := (s.nowActive b).fput Fld.DRN_BPST_LASTWAKE code 0 b
  s.fput Fld.BLW_BORE_STEP (s.stepFor b) 0 b

/-- LEAVE_OFF_COMPLETE (R574): the bore has its floor. -/
def execLeaveOffComplete (b : Nat) (s : State) : Host.Outcome State Fault Refusal :=
  if s.faults.frozen then ok s else
  let w := (s.bore b).power
  match w.leaving with
  | none => ok s
  | some code =>
    if !w.powered || s.drone.moves.any (fun m => m.dst = some b) then ok s
    else
      let s := s.powerOn b code
      ok (if code = wakeCommand then s.bpSt b bpOk else s)

/-- WAKEFAIL (R697): a bore that has not reached ACTIVE within ten times its wake time. -/
def execWakefail (b : Nat) (s : State) : Host.Outcome State Fault Refusal :=
  if s.faults.frozen then ok s else
  ok (when ((s.bore b).power.waking || (s.bore b).power.leaving.isSome) s (s.partError (partOf b) ptWakeFail b))

/-! ### The bellows -/

/-- Bores that hold more than the floor, highest holding first. -/
def State.richest (s : State) : Option Nat :=
  (List.range 64).foldl (fun best b =>
    if s.floor < s.holding b && best.all (fun a => s.holding a < s.holding b) then some b else best) none

/-- Tokens taken from bores above their floors, highest holding first, at most `n`; what could not be found, and the state
(R561 steps 1 and 2). -/
def State.recall : Nat → State → Nat → Nat × State
  | 0, s, n => (n, s)
  | k + 1, s, n =>
    if n = 0 then (0, s)
    else
      match s.richest with
      | none => (n, s)
      | some b =>
        let x := min n (s.holding b - s.floor)
        State.recall k (s.debit b x) (n - x)

/-- Step 1 of the period (R561): a bore that waits to leave OFF takes its floor, from the pool or from the bores that hold most.
(DEDUCED, log 48.) -/
def State.giveFloor (s : State) (b : Nat) : State :=
  let w := (s.bore b).power
  if w.leaving.isNone || w.powered then s
  else
    let fromPool := min s.pool s.floor
    let (short, t) := State.recall 64 (s.fput Fld.BLW_POOL_POOL (s.pool - fromPool)) (s.floor - fromPool)
    if short ≠ 0 then s
    else (t.moving s.floor (some b)).upPower b fun w => { w with powered := true }

/-- The effective limit (R552). -/
def State.effective (s : State) : Nat := min (s.fget Fld.BLW_LIMIT_LIMIT) (min s.drone.thermCap s.drone.powerCap)

/-- Tokens in the books: the holdings, the pool and what is in flight. -/
def State.booked (s : State) : Nat := s.fget Fld.BLW_POOL_HELD + s.pool + s.fget Fld.BLW_POOL_INFLIGHT

/-- The lowest that the caps fall to (R564). -/
def State.minBudget (s : State) : Nat := s.fget Fld.BLW_RESERVE_RESERVE + 64 * s.floor

/-- Step 2 of the period (R561): the books follow the effective limit. -/
def State.followLimit (s : State) : State :=
  let lim := s.fget Fld.BLW_LIMIT_LIMIT
  let s := if s.drone.limPend then
      { s with drone := { s.drone with limPend := false, thermCap := lim, powerCap := lim } } else s
  let budget := s.effective - s.fget Fld.BLW_RESERVE_RESERVE
  let s := if s.booked ≤ budget then s.fput Fld.BLW_POOL_POOL (s.pool + (budget - s.booked))
    else
      let need := s.booked - budget
      let fromPool := min s.pool need
      (State.recall 64 (s.fput Fld.BLW_POOL_POOL (s.pool - fromPool)) (need - fromPool)).2
  s.fput Fld.BLW_LIMIT_EFFECTIVE (s.booked + s.fget Fld.BLW_RESERVE_RESERVE)

/-- SHARE and GRANTMAX in effect (R562, R584). -/
def State.share (s : State) : Nat :=
  let n := s.fget Fld.BLW_CFG_SHARE
  if n = 0 then s.booked / 64 else n
def State.grantMax (s : State) : Nat := max 1 (s.fget Fld.BLW_CFG_GRANTMAX)

/-- Whether a bore is given tokens by steps 3 and 4: ACTIVE, or waking, and not retiring (R553). -/
def State.served (s : State) (b : Nat) : Bool :=
  (s.pstate b = psActive || (s.bore b).power.waking) && !s.retiring b

/-- Step 3 of the period (R561): while the pool is empty, bores above SHARE give some up for ACTIVE bores below it. -/
def State.recallShare (s : State) : State :=
  let share := s.share
  let want := (List.range 64).any fun b =>
    s.pstate b = psActive && s.holding b < share && s.holding b < s.demand b
  if s.pool = 0 && want then
    s.each (List.range 64) fun s b =>
      if share < s.holding b then
        let n := min s.grantMax (s.holding b - share)
        (s.debit b n).finc Fld.BLW_POOL_POOL n
      else s
  else s

/-- Bore numbers in rotation, from the one above `last`. -/
def rotate (last : Nat) : List Nat := (List.range 64).map fun k => (last + 1 + k) % 64

/-- A grant to each bore of a list that is below its demand, while the pool lasts: the last bore served. -/
def State.grantTo (s : State) (l : List Nat) (last : Nat) : Nat × State :=
  l.foldl (fun (last, s) b =>
    let n := min (min s.grantMax (s.demand b - s.holding b)) s.pool
    if n = 0 then (last, s) else (b, s.lend b n)) (last, s)

/-- Step 4 of the period (R561): bores below SHARE first, then the others, each group in rotation. -/
def State.grant (s : State) : State :=
  let share := s.share
  let ask (b : Nat) : Bool := s.served b && s.holding b < s.demand b
  let low := (rotate s.drone.rotLow).filter fun b => ask b && s.holding b < share
  let high := (rotate s.drone.rotHigh).filter fun b => ask b && share ≤ s.holding b
  let (a, s) := s.grantTo low s.drone.rotLow
  let (c, s) := s.grantTo high s.drone.rotHigh
  { s with drone := { s.drone with rotLow := a, rotHigh := c } }

/-- BELLOWS_PERIOD (R561). -/
def execBellowsPeriod (s : State) : Host.Outcome State Fault Refusal :=
  if s.faults.frozen then ok s else
  let s := s.creditAll
  let s := s.each (List.range 64) State.giveFloor
  ok (s.followLimit.recallShare.grant)

/-- A write of BLW_LIMIT (R578). -/
def State.writeLimit (s : State) (val : Word64) : State :=
  let n := bits val.toNat 0 16
  if n < 1400 || 6000 < n || n < s.minBudget then s.fput Fld.BLW_CFGST_STATUS 3
  else
    let s := (s.fput Fld.BLW_LIMIT_LIMIT n).fput Fld.BLW_CFGST_STATUS 1
    { s with drone := { s.drone with limPend := true } }

/-- BLW_LIMIT_WRITE (R578). -/
def execBlwLimitWrite (who : Requester) (val : Word64) (s : State) : Host.Outcome State Fault Refusal :=
  ok (s.hubReg (mayTray who) (s.writeLimit val))

/-- A write of BLW_RESERVE (R578). -/
def State.writeReserve (s : State) (val : Word64) : State :=
  let n := bits val.toNat 0 16
  if s.fget Fld.BLW_LIMIT_LIMIT < n + 64 * s.floor then s.fput Fld.BLW_CFGST_STATUS 3
  else (s.fput Fld.BLW_RESERVE_RESERVE n).fput Fld.BLW_CFGST_STATUS 1

/-! ### Temperature, power and fans -/

/-- A field that acts as 1 when 0. -/
def orOne (n : Nat) : Nat := if n = 0 then 1 else n

/-- One diode's reading (R563). -/
def State.putDiode (s : State) (n : Nat) (t : Option Int) : State :=
  match t with
  | none => ((s.fput Fld.DRN_THERM_VALID 1 0 n).fput Fld.DRN_THERM_FAULT 1 0 n).fput Fld.DRN_ALERT_DIODEFLT 1
  | some v =>
    ((s.fput Fld.DRN_THERM_VALID 1 0 n).fput Fld.DRN_THERM_FAULT 0 0 n).fput Fld.DRN_THERM_TEMP (uint 12 v) 0 n

/-- The hottest valid diode and its reading. -/
def hottest (temps : List (Option Int)) : Option (Nat × Int) :=
  temps.zipIdx.foldl (fun best x =>
    match x.1 with
    | none => best
    | some v => if best.all (fun y => y.2 < v) then some (x.2, v) else best) none

/-- A cap after one millisecond (R564, R565): lowered, or raised once the condition has held for 10 ms; the cap and the
milliseconds that the condition has held. -/
def State.capStep (s : State) (cap ms : Nat) (high cool : Bool) : Nat × Nat :=
  let lo := s.minBudget
  let lim := s.fget Fld.BLW_LIMIT_LIMIT
  if high then (max lo (cap - orOne (s.fget Fld.DRN_TCFG_STEPDN)), 0)
  else if cool then
    (if ms + 1 = 10 then (min lim (cap + orOne (s.fget Fld.DRN_TCFG_STEPUP)), 0) else (cap, ms + 1))
  else (cap, 0)

/-- The duty of a fan in AUTO at a temperature in quarter degrees (R568); MINDUTY is 30 percent.  How a fraction of a percent is
rounded the spec does not say. -/
def State.fanDuty (s : State) (tlo thi : Nat) (t : Int) : Nat × State :=
  let lo : Int := 4 * tlo
  let hi : Int := 4 * thi
  if t ≤ lo then (30, s)
  else if hi ≤ t then (100, s)
  else
    let n := (70 * (t - lo)).toNat
    let d := (hi - lo).toNat
    if n % d = 0 then (30 + n / d, s)
    else
      let (r, s) := s.free 1
      (30 + n / d + r.toNat, s)

/-- Whether the firmware runs: from FUSES to READY (R589, R594). -/
def State.fwRuns (s : State) : Bool := 3 ≤ s.fget Fld.DRN_BOOT_STAGE && s.fget Fld.DRN_BOOT_STAGE ≤ 7

/-- What drives a fan, after a reading or a write (R568, R582, R590): a failed fan runs at 100 percent, and every fan does until
the firmware runs. -/
def State.driveFan (s : State) (hot : Option Int) (f : Nat) : State :=
  let auto := s.flag Fld.DRN_FAN_MODE 0 f
  let full := s.flag Fld.DRN_FAN_FAIL 0 f || !s.fwRuns
  let s := if auto && full then s.fput Fld.DRN_FAN_DUTY 100 0 f
    else match hot with
      | some t =>
        if auto then
          let (d, s) := s.fanDuty (s.fget Fld.DRN_FAN_TLO 0 f) (s.fget Fld.DRN_FAN_THI 0 f) t
          s.fput Fld.DRN_FAN_DUTY d 0 f
        else s
      | none => s
  let d := if full then 100 else s.fget Fld.DRN_FAN_DUTY 0 f
  { s with drone := { s.drone with fanDuty := mput 100 s.drone.fanDuty f d } }

/-- The hottest reading that the diodes' registers hold. -/
def State.hotTemp (s : State) : Option Int :=
  (List.range 16).foldl (fun best n =>
    if !s.flag Fld.DRN_THERM_VALID 0 n || s.flag Fld.DRN_THERM_FAULT 0 n then best
    else
      let v := (BitVec.ofNat 12 (s.fget Fld.DRN_THERM_TEMP 0 n)).toInt
      some (best.elim v fun w => max w v)) none

/-- THERMTRIP (R566, R727): power is removed from every bore, THERMTRIP_N is asserted, and the error is of class PACKAGE. -/
def State.thermtrip (s : State) : State :=
  let s := s.each (List.range 64) fun s b => if s.pstate b = psOff then s else s.powerOff b
  ({ s with drone := { s.drone with trip := true } }).packageError pkTherm srcDrone

/-- THERMAL_READING (R563, R564, R566, R568).
(DEDUCED, log 49.) -/
def execThermalReading (temps : List (Option Int)) (s : State) : Host.Outcome State Fault Refusal :=
  if !s.droneOn then ok s else
  let temps := temps.take 16
  let s := temps.zipIdx.foldl (fun s x => s.putDiode x.2 x.1) s
  let hot := hottest temps
  let above (c : Int) : Bool := hot.any fun x => 4 * c < x.2
  let high := above (s.fget Fld.DRN_TCFG_TTHROT)
  let cool := hot.all fun x => x.2 < 4 * ((s.fget Fld.DRN_TCFG_TTHROT : Int) - s.fget Fld.DRN_TCFG_THYST)
  let old := s.drone.thermCap
  let (cap, ms) := s.capStep old s.drone.coolMs high cool
  let s := { s with drone := { s.drone with thermCap := cap, coolMs := ms } }
  let s := if cap < old then
      (s.fput Fld.DRN_ALERT_THROT 1).log srcDrone 0x0070 none 0
        (leBytes 2 (hot.elim 0 (·.1)) ++ leBytes 2 (hot.elim 0 fun x => uint 16 x.2) ++ leBytes 2 cap) else s
  let s := s.each (List.range 4) (State.driveFan · (hot.map (·.2)))
  ok (if hot.any (fun x => 4 * (s.fget Fld.DRN_TCFG_TSHUT : Int) ≤ x.2) && !s.drone.trip then s.thermtrip else s)

/-- The sum of READ_POUT of the metered regulators, in units of 0.125 W (R565). -/
def State.powerDrawn (s : State) : Nat :=
  (List.range 16).foldl (fun n r =>
    if s.flag Fld.DRN_PMB_VALID 0 r && s.flag Fld.DRN_PMB_METER 0 r then n + s.fget Fld.DRN_PMB_POUT 0 r else n) 0

/-- POWER_SUM (R565): a token is 0.25 W, two units of READ_POUT. -/
def execPowerSum (s : State) : Host.Outcome State Fault Refusal :=
  if !s.droneOn then ok s else
  let sum := s.powerDrawn
  let lim := 2 * s.fget Fld.BLW_LIMIT_LIMIT
  let overs := if lim < sum then s.drone.overs + 1 else 0
  let old := s.drone.powerCap
  let (cap, ms) := s.capStep old s.drone.lowMs (overs = 5) (sum < lim)
  let s := { s with drone := { s.drone with powerCap := cap, lowMs := ms, overs := if overs = 5 then 0 else overs } }
  ok (if cap < old then s.fput Fld.DRN_ALERT_PCLAMP 1 else s)

/-- One regulator polled (R567): `power` says that READ_POUT was read too.
(DEDUCED, log 49.) -/
def State.poll (s : State) (reads : List PmbRead) (power : Bool) (r : Nat) : State :=
  if !s.flag Fld.DRN_PMB_VALID 0 r then s
  else
    let x := reads.find? fun x => x.slot = r && x.answer
    let s := match x with
      | some x =>
        let s := s.fput Fld.DRN_PMB_STATUS x.status.toNat 0 r
        if power then s.fput Fld.DRN_PMB_POUT x.pout 0 r else s
      | none => s
    if x.all fun x => x.status ≠ 0 then
      ((s.fput Fld.DRN_PMB_FAULT 1 0 r).fput Fld.DRN_ALERT_PMBFLT 1).log srcDrone 0x0072 none 0
        (leBytes 2 r ++ leBytes 2 (x.elim 0 fun x => x.status.toNat))
    else s

/-- PMBUS_POLL (R567). -/
def execPmbusPoll (reads : List PmbRead) (s : State) : Host.Outcome State Fault Refusal :=
  ok (when s.droneOn s (s.each (List.range 16) (State.poll · reads true)))

/-- PMB_ALERT (R748). -/
def execPmbAlert (reads : List PmbRead) (s : State) : Host.Outcome State Fault Refusal :=
  ok (when s.droneOn s (s.each (List.range 16) (State.poll · reads false)))

/-- FAN_FAIL (R568): a fan has read below MINRPM for 2 s. -/
def execFanFail (f rpm : Nat) (s : State) : Host.Outcome State Fault Refusal :=
  if !s.droneOn || 4 ≤ f || s.fget Fld.DRN_FAN_MINRPM 0 f ≤ rpm then ok s
  else
    let s := ((s.fput Fld.DRN_FAN_RPM rpm 0 f).fput Fld.DRN_FAN_FAIL 1 0 f).fput Fld.DRN_ALERT_FANFAIL 1
    ok (s.driveFan none f)

/-! ### Clocks -/

/-- REFCLK_LOSS (R579, R644, R658). -/
def execRefclkLoss (s : State) : Host.Outcome State Fault Refusal :=
  if !s.droneOn then ok s else
  let s := ((s.fput Fld.DRN_CLKST_REFLOST 1).fput Fld.DRN_CLKST_DRIFTED 1).fsat Fld.DRN_CLKST_LOSSES
  ok ((s.log srcDrone 0x0071 none 0 []).fput Fld.DRN_ALERT_CLKLOSS 1).driftAll

/-- REFCLK_RESTORE (R579). -/
def execRefclkRestore (s : State) : Host.Outcome State Fault Refusal :=
  ok (when s.droneOn s (s.fput Fld.DRN_CLKST_REFLOST 0))

/-- DRONE_TICK (R547): drone time adds 1, and the long waits that run count a tick (R346).
(DESIGN CHOICE, log 74.) -/
def execDroneTick (s : State) : Host.Outcome State Fault Refusal :=
  let t := s.rput .DRN_TIME (s.rget .DRN_TIME + 1)
  ok (when s.droneOn s (t.each (List.range 64) fun s b =>
    if s.flag Fld.SYN_WSTAT_LONG b then s.finc Fld.SYN_LWAIT_TICKS 1 b else s))

end Sys2Proof.Machine
end

