-- ==== Sys2Proof/Machine/Recovery.lean ====
section
/-!
DEFINITION. Machine/Recovery.lean: partition rebuilds (R463, R464), host resets (R532), partition restarts (R703, R704), warm resets
(R16, R577, R586) and PARTITION errors (R697).
-/

namespace Sys2Proof.Machine

/-! ### Capability words and bypass maps -/

/-- The substitution field of DRN_QSPARE for quadrant `q`: its STATE and its LBORE (R47). -/
def spareField (q : Nat) : Field := ⟨.DRN_QSPARE, 8 * q + 6, 2⟩
def lboreField (q : Nat) : Field := ⟨.DRN_QSPARE, 8 * q, 4⟩

/-- The states of a spare (R47). -/
def spAvailable : Nat := 0
def spInUse : Nat := 1
def spNone : Nat := 2

/-- Whether a bore runs on its quadrant's spare site (R24). -/
def State.standIn (s : State) (b : Nat) : Bool :=
  s.fget (spareField (quadOf b)) = spInUse && s.fget (lboreField (quadOf b)) = b % 16

/-- The capability word of a bore (R118 to R120): `failed` says that its site failed self-test or did not come up; a bore whose map
has more than 8 columns cannot be published otherwise (R191). -/
def State.capWord (s : State) (b : Nat) (failed : Bool) : Word64 :=
  let n := maskCount (s.nextMap b)
  let health := if failed then 2 else if n = 0 then 0 else 1
  BitVec.ofNat 64 (2 ^ 56 + 2 ^ 55 * b2n (!failed) + 2 ^ 54 * b2n (s.standIn b) + 2 ^ 52 * health + 2 ^ 40 * (128 - n)
    + 2 ^ 36 * n + 80 * 2 ^ 24 + 64 * 2 ^ 16 + 8192)

/-- A bore's bypass map applied and its capability word published (R118, R189, R602). -/
def State.publishCap (s : State) (b : Nat) (failed : Bool) : State :=
  let failed := failed || s.siteOf b ∈ s.boot.sites
  let s := s.upArr b fun A => { A with applied := BitVec.ofNat 128 (s.nextMap b) }
  s.rput .DRN_BCAP (s.capWord b failed) 0 b

/-- The published word and the applied map in the registers of a bore that has power (R189). -/
def State.showCap (s : State) (b : Nat) : State :=
  (s.putMaskPair .MXA_BYPACT b (s.bore b).arr.applied.toNat).rput .BORE_CAP (s.rget .DRN_BCAP 0 b) b

/-! ### Rebuilds -/

/-- The LEADER that partition `q` would have after a rebuild of `l` (R463). -/
def State.leaderAfter (s : State) (l : List Nat) (q : Nat) : Nat :=
  if q ∈ l then s.fget Fld.PRT_PCFG_LEADER 0 q else s.leader q

/-- Whether a rebuild of `p` is refused with BADCFG (R463). -/
def State.rebuildBad (s : State) (p : Nat) : Bool :=
  let l := s.rebuildSet p false
  s.fget Fld.PRT_PCFG_LEADER 0 p ≠ p || l.any (fun q => q < s.fget Fld.PRT_PCFG_LEADER 0 q)
    || (List.range 16).any fun q => s.leaderAfter l (s.leaderAfter l q) ≠ s.leaderAfter l q

/-- Whether a rebuild of some partitions is refused with BUSY: a context is active there (R463), or an operation on one of them is
running.
(DEDUCED, log 39.) -/
def State.rebuildBusy (s : State) (l : List Nat) : Bool :=
  (s.groupCtxs l).any s.cxActive || l.any fun q =>
    (s.part q).rebuild.isSome || s.fget Fld.PRT_PSTAT_STATE 0 q = ptRebuilding
      || s.faults.restart.any fun r => s.leader q = r

/-- Whether a substitution is refused with NOSPARE (R464). -/
def State.noSpare (s : State) (l : List Nat) (subst : Option Nat) : Bool :=
  match subst with
  | none => false
  | some b => !(b ∈ boresOf l) || s.fget (spareField (quadOf b)) ≠ spAvailable || s.standIn b

/-- A REBUILD command (R463, R464, R598, R603).
(DEDUCED, log 39.) -/
def State.rebuildCmd (s : State) (p : Nat) (subst : Option Nat) : State :=
  let l := s.rebuildSet p false
  if s.flag Fld.PRT_CMDST_PENDING then s.fput Fld.PRT_CMDST_DROPPED 1
  else if s.fget Fld.DRN_BOOT_STAGE ≠ 7 then s.prtSt 1 0 rmBusy
  else if l.any fun q => s.hbmDead (q / 4) then s.prtSt 1 0 rmBadstate
  else if s.rebuildBad p then s.prtSt 1 0 rmBadcfg
  else if s.rebuildBusy l then s.prtSt 1 0 rmBusy
  else if s.noSpare l subst then s.prtSt 1 0 rmNospare
  else
    let s := ((s.fput Fld.PRT_CMDST_OP 1).fput Fld.PRT_CMDST_CTX 0).fput Fld.PRT_CMDST_STATUS 0
    let s := (s.fput Fld.PRT_CMDST_PENDING 1).upPart p fun x => { x with rebuild := some ⟨subst, false, false, []⟩ }
    ({ s with cmds := s.cmds ++ [(⟨.rebuild, p, false⟩ : RmCmd)] }).rmGo p

/-- REBUILD (R463). -/
def execRebuild (who : Requester) (p : Nat) (subst : Option Nat) (s : State) : Host.Outcome State Fault Refusal :=
  ok (s.hubReg (mayPf who) (s.rebuildCmd p subst))

/-- The spare of a bore's quadrant stands in for it (R464): the site is another one, so what the bore's stores held is gone. -/
def State.substitute (s : State) (b : Nat) : State :=
  let q := quadOf b
  let s := { s with sites := mput (ownSite b) s.sites b (17 * q + 16) }
  let s := (s.fput (spareField q) spInUse).fput (lboreField q) (b % 16)
  let s := s.upBore b fun B => { B with kstore := [] }
  (s.zeroRange (psBase b) 0x80000).dropReedErrors b

/-- Steps 3 and 4 of a rebuild for a bore (R463): a warm reset, a zeroed windchest, every route invalid, and every queue without
depth and CLOSED; QUE_RSTAT stays (R325). -/
def State.rebuildBore (s : State) (b : Nat) : State :=
  let s := (s.boreReset b).zeroWindchest b
  let s := s.mapRegs fun r i _ v =>
    if i ≠ b then v
    else if r = .QUE_ROUTEA then v &&& ~~~(0x8000000000000000 : Word64)
    else if r = .QUE_QCFG then 0
    else v
  let s := s.each (List.range 32) fun s q => s.fput Fld.QUE_QSTAT_READER 1 b q
  let s := (s.fput Fld.QUE_STATUS_POOLUSED 0 b).upVest b fun v => { v with stuck := [] }
  let s := { s with starts := s.starts.filter fun x => x.1 ≠ b }
  s.rput .PRT_BCUR 0 0 b

/-- A bore that did not come up during a rebuild: it is published FAILED, and its power is removed (R697 step 3). -/
def State.rebuildFail (s : State) (b : Nat) : State :=
  let s := if s.pstate b = psOff then s.upPower b fun w => { Power.reset with epochs := w.epochs } else s.powerOff b
  s.publishCap b true

/-- Whether a bypass commit of a bore of the list is still to be carried out (R201). -/
def State.bypassWaits (s : State) (l : List Nat) : Bool :=
  s.faults.flash.any fun x => match x with
    | .bypass b _ => b ∈ l
    | _ => false

/-- The effective LEADERs after a rebuild, each the pending value as it now stands, and the partitions UP (R438, R463 step 6); the
schedulers of partitions that follow another are COUPLED (R360). -/
def State.rebuildUp (s : State) (r : Rebuild) : State :=
  let s := s.each r.parts fun s q =>
    let s := if r.auto then s else s.fput Fld.PRT_PSTAT_LEADER (s.fget Fld.PRT_PCFG_LEADER 0 q) 0 q
    s.fput Fld.PRT_PSTAT_STATE ptUp 0 q
  s.each r.parts fun s q => (s.schedReset q).ovbReset q

/-- The end of the operation: a command reports, and what waited goes on. -/
def State.rebuildOver (s : State) (p : Nat) (r : Rebuild) : State :=
  let s := s.upPart p fun x => { x with rebuild := none }
  let s := { s with cmds := s.cmds.filter fun x => x.kind ≠ RmKind.rebuild || x.target ≠ p }
  let s := if r.auto then s else s.prtSt 1 0 rmOk
  (s.partWaiting p).rmGo p

/-- REBUILD_COMPLETE (R463, R697): every bore of the rebuild is ACTIVE but for those in `fails`, which did not come up. -/
def execRebuildComplete (p : Nat) (fails : List Nat) (s : State) : Host.Outcome State Fault Refusal :=
  if s.faults.frozen then ok s else
  match (s.part p).rebuild with
  | none => ok s
  | some r =>
    let bs := boresOf r.parts
    let good := bs.filter fun b => !(b ∈ fails)
    if !r.begun || s.bypassWaits bs || good.any (fun b => s.pstate b ≠ psActive || s.inTransit b) then ok s
    else
      let s := match r.subst with
        | some b => s.substitute b
        | none => s
      let s := s.each good fun s b => ((s.rebuildBore b).publishCap b false).showCap b
      let s := s.each (bs.filter fun b => b ∈ fails) State.rebuildFail
      ok ((s.rebuildUp r).rebuildOver p r)

/-! ### Warm resets -/

/-- A SLEEP or DEEP bore woken by a reset before it is applied (R577), and an entry or a wake under way ended. -/
def State.resetWake (s : State) (b : Nat) : State :=
  let w := (s.bore b).power
  let s := s.upPower b fun w => { w with entering := none, waking := false, held := none }
  if w.waking || s.pstate b = psSleep || s.pstate b = psDeep then
    let s := ((s.openFab (quadOf b)).nowActive b).fput Fld.DRN_BPST_LASTWAKE wakeReset 0 b
    let s := s.lend b (min s.pool (s.demand b - s.holding b))
    (s.fput Fld.SYN_WSTAT_LONG 0 b).goalMet b psActive
  else (s.fput Fld.DRN_BPST_TRANS 0 0 b).putDemand b

/-- A warm reset of bore `b`; an OFF bore stays OFF (R577). -/
def State.warmBore (s : State) (b : Nat) : State :=
  if s.pstate b = psOff then s else (s.resetWake b).boreReset b

/-- A warm reset of partition `p`: its bores, its scheduler and its health set (R393, R430). -/
def State.warmPart (s : State) (p : Nat) : State :=
  let s := s.each (boresOf [p]) State.warmBore
  (s.schedReset p).ovbReset p

/-! ### Host reset -/

/-- The HIF registers and the state behind them after a host reset (R532): fields marked RWS stay, and so does what HIF_LINK says
of a link that is up.  The PCIe configuration is reset with it, and outstanding reads fail.
(PRESUMED, log 13.) -/
def State.resetHif (s : State) (linkDown : Bool) : State :=
  let link := s.rget .HIF_LINK
  let s := s.mapRegs fun r _ j v =>
    if r.info.blk = .HIF || r.info.blk = .VFR then (v &&& r.info.rws) ||| (r.resetVal j &&& ~~~r.info.rws) else v
  let s := if linkDown then s else (s.rput .HIF_LINK link).fput Fld.HIF_LINK_NUMVF 0
  let s := (s.failReads fun _ => true).dropShadows fun h => h.blk = .HIF || h.blk = .VFR
  { s with
    hif := { HostIf.reset with
      linkUp := s.hif.linkUp && !linkDown, ready := s.hif.ready, inReset := true, sent := s.hif.sent, aer := s.hif.aer } }

/-- Every context FREE and every partition DOWN with itself as leader (R532): the registers of the residency manager and of the
sync pool hold no RWS field, and return to their Reset values (R17). -/
def State.resetContexts (s : State) : State :=
  let held := s.parts.flatMap fun x => x.2.hold
  let s := held.foldl (fun s h => s.answer (.unit .resmgr) 0 rClosed h.msg) s
  let s := s.mapRegs fun r _ j v =>
    if r.info.blk = .PRT || r.info.blk = .CTX || r.info.blk = .SYN then r.resetVal j else v
  let s := s.dropShadows fun h => h.blk = .PRT || h.blk = .CTX || h.blk = .SYN
  { s with ctxs := [], parts := [], starts := [], cmds := [], tlb := [], inval := [], watches := [], bars := [] }

/-- A host reset (R532). -/
def State.hostReset (s : State) (linkDown : Bool) : State :=
  ((s.resetHif linkDown).resetContexts).each (List.range 16) State.warmPart

/-- HOST_RESET (R532): an FLR of the physical function, a Hot Reset, or a link-down. -/
def execHostReset (linkDown : Bool) (s : State) : Host.Outcome State Fault Refusal := ok (s.hostReset linkDown)

/-! ### Partition restarts -/

/-- The report of a partition restart (R732). -/
def State.prstSt (s : State) (p st : Nat) : State :=
  ((s.fput Fld.DMP_PRSTST_PART p).fput Fld.DMP_PRSTST_STATUS st).fput Fld.DMP_PRSTST_PENDING 0

/-- Whether a scheduler lets its group restart (R703): OFF or STOPPED, or COUPLED to the leader's. -/
def State.schedQuiet (s : State) (p : Nat) : Bool :=
  s.stg p = sgOff || s.stg p = sgStopped || s.stg p = sgCoupled

/-- A write of DMP_PRST with OP RESTART (R703): the group's SLEEP and DEEP bores wake first (R577). -/
def State.restartCmd (s : State) (p : Nat) : State :=
  let parts := s.groupParts p
  if s.flag Fld.DMP_PRSTST_PENDING then s.fput Fld.DMP_PRSTST_DROPPED 1
  else if !s.homeUp p then s.prstSt p 3
  else if !parts.all s.schedQuiet || (s.groupCtxs parts).any s.cxActive || s.groupWorks p then s.prstSt p 2
  else
    let s := (s.prstSt p 0).fput Fld.DMP_PRSTST_PENDING 1
    let s := { s with faults := { s.faults with restart := some p } }
    s.each (boresOf parts) fun s b => if s.pstate b = psOff || s.pstate b = psActive then s else s.wake b wakeReset

/-- RESTART (R703). -/
def execRestart (who : Requester) (p : Nat) (s : State) : Host.Outcome State Fault Refusal :=
  ok (s.hubReg (mayPf who) (s.restartCmd p))

/-- PARTITION_RESTART_COMPLETE (R704). -/
def execPartitionRestartComplete (p : Nat) (s : State) : Host.Outcome State Fault Refusal :=
  if s.faults.frozen then ok s else
  let parts := s.groupParts p
  let up (b : Nat) : Bool := s.pstate b = psOff || (s.pstate b = psActive && !s.inTransit b)
  if s.faults.restart ≠ some p || !(boresOf parts).all up then ok s
  else
    let s := (s.each parts State.warmPart).prstSt p 1
    ok (({ s with faults := { s.faults with restart := none } }).partWaiting p)

/-! ### PARTITION errors -/

/-- PARTITION_ERROR (R697): `code` is the cause and `bore` the bore it names, 0xFF for none. -/
def execPartitionError (p code bore : Nat) (s : State) : Host.Outcome State Fault Refusal := ok (s.partError p code bore)

end Sys2Proof.Machine
end

