-- ==== Sys2Proof/Machine/Keep.lean ====
section
/-!
DEFINITION. Machine/Keep.lean: the keep flash: the hold-up check (R723), the operations in order of arrival (R721, R730), bypass-map
commits (R190, R202), and the log tail (R722, R724).
-/

namespace Sys2Proof.Machine

/-! ### The hold-up check -/

/-- The first address of the board record (R588). -/
def boardBase : Nat := 0x10000

/-- The hold-up capacitance in µF and Vmin in mV, as the board record declares them (R590); a damaged record declares no bank. -/
def State.holdupBank (s : State) : Nat × Nat :=
  if s.recordOk boardBase then
    (leNat (s.flashBytes (boardBase + 144) 4), leNat (s.flashBytes (boardBase + 148) 2))
  else (0, 0)

/-- The energy in the bank, in µJ rounded down, from the ADC code: V is CODE × 20 / 4,096 volts (R723). -/
def holdupEnergy (c vmin code : Nat) : Nat :=
  c * (1000000 * (400 * (code * code)) - 16777216 * (vmin * vmin)) / (2 * 16777216 * 1000000)

/-- The energy that the operation of a row needs, in µJ (R723). -/
def holdupNeed (row : Nat) : Nat :=
  if row = 1 then 3200 else if row = 2 then 2650000 else if row = 3 then 2666000 else if row = 4 then 814000 else 63000

/-- The check before the operation of a row: whether it may start, and the state after (R723). -/
def State.holdup (s : State) (row code : Nat) : Bool × State :=
  let (c, vmin) := s.holdupBank
  if c = 0 then (true, s)
  else
    let e := holdupEnergy c vmin (code % 4096)
    let s := (s.fput Fld.KEEP_HOLDUP_EUJ (min e 0xFFFFFFFF)).fput Fld.KEEP_HOLDUP_CODE code
    if e < holdupNeed row then
      (false, s.log srcKeep 0x0080 none 0 ([BitVec.ofNat 8 row, 0, 0, 0] ++ leBytes 4 e ++ leBytes 4 (holdupNeed row)))
    else (true, s)

/-! ### Operations -/

/-- The statuses of KEEP_ST (R733). -/
def keOk : Nat := 1
def keHoldup : Nat := 3
def keFlashErr : Nat := 4
def keProtect : Nat := 5
def keBadaddr : Nat := 6
def kePowerFail : Nat := 7

/-- The outcome of a host command (R733). -/
def State.keepSt (s : State) (st : Nat) : State := (s.fput Fld.KEEP_ST_STATUS st).fput Fld.KEEP_ST_PENDING 0

/-- The row of R723 that an operation is checked against; a read is not checked. -/
def opRow : FlashOp → Option Nat
  | .read _ => none
  | .program _ _ => some 1
  | .erase _ => some 2
  | .bypass _ _ => some 3

/-- MXA_BYPCMD.CMD_STATUS of a bore that has power. -/
def State.bypSt (s : State) (b st : Nat) : State :=
  let s := s.upArr b fun A => { A with committing := false }
  if s.pstate b = psOff then s else s.fput Fld.MXA_BYPCMD_CMD_STATUS st b

/-- Whether an operation erases a sector, which the drone does not start while PWR_FAIL_N is asserted (R724). -/
def opErases : FlashOp → Bool
  | .erase _ => true
  | .bypass _ _ => true
  | _ => false

/-- An operation that the hold-up check refuses (R202, R721), or that PWR_FAIL_N keeps from starting (R724).
(DEDUCED, log 51.) -/
def State.refuseOp (s : State) (x : FlashOp) (power : Bool) : State :=
  match x with
  | .bypass b _ => s.bypSt b bypHoldup
  | _ => s.keepSt (if power then kePowerFail else keHoldup)

/-- The first operation of the queue starts, unless the check or PWR_FAIL_N refuses it: then the next one does. -/
def State.startOp (code : Nat) : Nat → State → State
  | 0, s => s
  | n + 1, s =>
    match s.faults.flash with
    | [] => s
    | x :: l =>
      match opRow x with
      | none => s
      | some row =>
        if s.faults.pwrFail && opErases x then
          State.startOp code n (({ s with faults := { s.faults with flash := l } }).refuseOp x true)
        else
          let (may, s) := s.holdup row code
          if may then s
          else State.startOp code n (({ s with faults := { s.faults with flash := l } }).refuseOp x false)

/-- An operation joins the queue, and starts where nothing is under way (R721). -/
def State.queueOp (s : State) (x : FlashOp) (code : Nat) : State :=
  let idle := s.faults.flash.isEmpty
  let s := { s with faults := { s.faults with flash := s.faults.flash ++ [x] } }
  if idle then State.startOp code 1 s else s

/-- The operation under way is over, and the next one starts. -/
def State.opOver (s : State) (code : Nat) : State :=
  let l := s.faults.flash.drop 1
  State.startOp code (l.length + 1) { s with faults := { s.faults with flash := l } }

/-- Where the host may program or erase (R721). -/
def keepOpen (a : Nat) : Bool := (0x10000 ≤ a && a < 0x20000) || (0x100000 ≤ a && a < 0x500000)

/-- The bytes of KEEP_BUF. -/
def State.keepBuf (s : State) : List Byte :=
  (List.range 64).flatMap fun k => leBytes 4 (s.rget .KEEP_BUF 0 k).toNat

/-- A KEEP_CMD write (R721, R724, R730, R733).
(DEDUCED, log 51.) -/
def State.keepCmd (s : State) (op addr code : Nat) : State :=
  if s.flag Fld.KEEP_ST_PENDING then s.fput Fld.KEEP_ST_DROPPED 1
  else if s.faults.pwrFail then s.keepSt kePowerFail
  else if op = 0 || 3 < op || addr % (if op = 3 then 0x10000 else 0x100) ≠ 0 then s.keepSt keBadaddr
  else if op ≠ 1 && !keepOpen addr then s.keepSt keProtect
  else
    let x : FlashOp := if op = 1 then .read addr else if op = 2 then .program addr s.keepBuf else .erase addr
    ((s.keepSt 0).fput Fld.KEEP_ST_PENDING 1).queueOp x code

/-- KEEP_READ (R721). -/
def execKeepRead (who : Requester) (addr : Nat) (s : State) : Host.Outcome State Fault Refusal :=
  ok (s.drnReg (mayPf who) (s.keepCmd 1 addr 0))

/-- KEEP_PROGRAM (R721); `adc` is the code at HOLDUP_SENSE. -/
def execKeepProgram (who : Requester) (addr adc : Nat) (s : State) : Host.Outcome State Fault Refusal :=
  ok (s.drnReg (mayPf who) (s.keepCmd 2 addr adc))

/-- KEEP_ERASE (R721). -/
def execKeepErase (who : Requester) (addr adc : Nat) (s : State) : Host.Outcome State Fault Refusal :=
  ok (s.drnReg (mayPf who) (s.keepCmd 3 addr adc))

/-- Bytes of the keep flash left indeterminate: by an operation that failed, or that lost PORST_N or power (R729).
(DEDUCED, log 51.) -/
def State.flashLost (s : State) (a n : Nat) : State :=
  let (l, s) := s.freeBytes n
  s.flashPut a l

/-- 256 bytes copied into KEEP_BUF. -/
def State.toKeepBuf (s : State) (a : Nat) : State :=
  s.each (List.range 64) fun s k => s.rput .KEEP_BUF (BitVec.ofNat 64 (leNat (s.flashBytes (a + 4 * k) 4))) 0 k

/-- A keep-flash operation that the flash reports as failed (R730). -/
def State.flashErr (s : State) (a : Nat) : State := (s.keepSt keFlashErr).log srcKeep 0x0081 none 0 (leBytes 4 a)

/-- What a host operation leaves when it ends (R721, R730). -/
def State.hostOp (s : State) (x : FlashOp) (good : Bool) : State :=
  match x with
  | .read a => if good then (s.toKeepBuf a).keepSt keOk else s.flashErr a
  | .program a d => if good then (s.flashPut a d).keepSt keOk else (s.flashLost a 256).flashErr a
  | .erase a => if good then (s.flashErase a 0x10000).keepSt keOk else (s.flashLost a 0x10000).flashErr a
  | .bypass _ _ => s

/-- KEEP_OPERATION_COMPLETE (R730): the host operation under way ends; `adc` is the code for the next one. -/
def execKeepOperationComplete (good : Bool) (adc : Nat) (s : State) : Host.Outcome State Fault Refusal :=
  match s.faults.flash with
  | .bypass _ _ :: _ => ok s
  | x :: _ => ok ((s.hostOp x good).opOver adc)
  | [] => ok s

/-! ### Bypass maps -/

/-- The repair record rewritten with the masks `m` (R588, R190): its magic, which the spec does not give, stays. -/
def State.writeRepair (s : State) (m : Map Nat) : State :=
  let body := leBytes 4 0 ++ (List.range 68).flatMap fun k => leBytes 16 (mget 0 m k)
  let n := 12 + body.length
  let magic := s.flashBytes repairBase 4
  (s.flashErase repairBase 0x10000).flashPut repairBase (magic ++ leBytes 4 n ++ crcBytes body ++ body)

/-- A mask of a physical site changed. -/
def State.setMask (s : State) (site mask : Nat) : State :=
  { s with boot := { s.boot with masks := mput 0 s.boot.masks site mask } }

/-- MXA_BYPCMD.COMMIT written (R201, R202). -/
def State.commit (s : State) (b code : Nat) : State :=
  let mask := s.maskPair .MXA_BYPPEND b
  if (s.bore b).arr.testing || (s.bore b).arr.committing then s.fput Fld.MXA_BYPCMD_CMD_STATUS bypBusy b
  else if 8 < maskCount mask then s.fput Fld.MXA_BYPCMD_CMD_STATUS bypTooMany b
  else
    ((s.upArr b fun A => { A with committing := true }).fput Fld.MXA_BYPCMD_CMD_STATUS bypRunning b).queueOp
      (.bypass b mask) code

/-- BYPASS_COMMIT (R202, R203). -/
def execBypassCommit (who : Requester) (b adc : Nat) (s : State) : Host.Outcome State Fault Refusal :=
  ok (s.regAccess who b false (mayPf who) (s.commit b adc))

/-- BYPASS_COMMIT_DONE (R190, R202): the rewrite under way ends, and the record has the one site's map changed; on a flash error the
persisted map is unchanged. -/
def execBypassCommitDone (b : Nat) (good : Bool) (adc : Nat) (s : State) : Host.Outcome State Fault Refusal :=
  match s.faults.flash with
  | .bypass c mask :: _ =>
    if c ≠ b then ok s
    else
      let s := if good then
          (((s.setMask (s.siteOf b) mask).writeRepair (mput 0 s.recordMasks (s.siteOf b) mask)).bypSt b bypDone)
        else (s.bypSt b bypFlashErr).log srcKeep 0x0081 none 0 (leBytes 4 repairBase)
      ok (s.opOver adc)
  | _ => ok s

/-! ### The log tail -/

/-- The first address of the log tail and its length: 928 sectors (R722). -/
def tailBase : Nat := 0x600000
def tailSize : Nat := 928 * 0x10000

/-- The next log-tail address (R731); at reset the ring's first. -/
def State.tailNext (s : State) : Nat :=
  let n := s.fget Fld.LOG_PERS_NEXT
  if n < tailBase then tailBase else n

/-- The address after `n` bytes of the ring. -/
def tailAfter (a n : Nat) : Nat := tailBase + (tailSize - tailBase + a + n) % tailSize

/-- The 256 bytes of a page (R722). -/
def pageBytes (seq : Nat) (l : List (Nat × List Byte)) : List Byte :=
  let d := l.flatMap (·.2)
  let x := d ++ List.replicate (224 - d.length) 0 ++ leBytes 4 0x474F4C54 ++ leBytes 4 seq ++ leBytes 4 l.length
    ++ List.replicate 16 0
  x ++ crcBytes x

/-- The PERSISTED flag of an entry that still stands in its slot (R708). -/
def State.markPersisted (s : State) (n : Nat) : State :=
  if s.fget Fld.LOG_HEAD_COUNT ≤ n + 4096 then
    let k := 8 * (n % 4096) + 3
    s.rput .LOG_ENTRY (s.rget .LOG_ENTRY 0 k ||| 0x01000000) 0 k
  else s

/-- A page put into the ring (R722). -/
def State.putPage (s : State) (page : List (Nat × List Byte)) : State :=
  let a := s.tailNext
  let s := s.flashPut a (pageBytes s.faults.pageSeq page)
  let next := tailAfter a 256
  let s := { s with faults := { s.faults with
    pages := s.faults.pages.drop 1, pageSeq := s.faults.pageSeq + 1,
    erased := s.faults.erased && next % 0x10000 ≠ 0 } }
  let s := (s.fput Fld.LOG_PERS_NEXT next).finc Fld.LOG_PERS_PAGES
  let s := s.fput Fld.LOG_STAT_PENDING s.faults.pages.length
  s.each (page.map (·.1)) State.markPersisted

/-- The sector after the one being filled is erased, if it is not yet (R722); the state, and whether it is erased now. -/
def State.eraseAhead (s : State) (code : Nat) : Bool × State :=
  if s.faults.erased then (true, s)
  else if s.faults.pwrFail then (false, s)
  else
    let a := 0x10000 * (s.tailNext / 0x10000)
    match s.holdup 2 code with
    | (false, s) => (false, s)
    | (true, s) =>
      (true, { s.flashErase (tailAfter a 0x10000) 0x10000 with faults := { s.faults with erased := true } })

/-- The oldest pending page programmed, with the codes that the checks measure: the erase of the sector ahead, then the page
(R722, R723).  True where a page was programmed. -/
def State.programPage (s : State) (erase page : Nat) : Bool × State :=
  match s.faults.pages with
  | [] => (false, s)
  | p :: _ =>
    match s.eraseAhead erase with
    | (false, s) => (false, s)
    | (true, s) =>
      match s.holdup 1 page with
      | (false, s) => (false, s.fsat Fld.LOG_STAT_PFAIL)
      | (true, s) => (true, s.putPage p)

/-- A page that is due joins the pending ones (R722). -/
def State.pageDue (s : State) : State :=
  if s.faults.pages.isEmpty && !s.faults.page.isEmpty then
    ({ s with faults := { s.faults with pages := [s.faults.page], page := [] } }).fput Fld.LOG_STAT_PENDING 1
  else s

/-- The code of measurement `k`: the last one holds. -/
def codeAt (l : List Nat) (k : Nat) : Nat := l.getD k (l.getLastD 0)

/-- A page programmed while no other operation is under way. -/
def State.pageRun (s : State) (adc : List Nat) : State :=
  if s.faults.flash.isEmpty then (s.pageDue.programPage (codeAt adc 0) (codeAt adc 1)).2 else s

/-- LOG_PAGE_PROGRAM (R722). -/
def execLogPageProgram (adc : List Nat) (s : State) : Host.Outcome State Fault Refusal := ok (s.pageRun adc)

/-- LOG_PAGE_RETRY (R722). -/
def execLogPageRetry (adc : List Nat) (s : State) : Host.Outcome State Fault Refusal := ok (s.pageRun adc)

/-- Pending pages programmed one after another, each checked, up to the first refusal (R724). -/
def State.pagesOut (adc : List Nat) : Nat → Nat → State → State
  | 0, _, s => s
  | n + 1, k, s =>
    match s.programPage 0 (codeAt adc k) with
    | (true, s) => State.pagesOut adc n (k + 1) s
    | (false, s) => s

/-- PWR_FAIL (R724, R726, R761): POWERFAIL is logged and pending pages are programmed; while THERMTRIP_N is asserted R727 applies
instead. -/
def execPwrFail (adc : List Nat) (s : State) : Host.Outcome State Fault Refusal :=
  let (c, vmin) := s.holdupBank
  let code := codeAt adc 0
  let s := { s with faults := { s.faults with
    pwrFail := true, truncate := s.faults.truncate || s.fget Fld.DMP_STATUS_STATE = dsWriting } }
  if s.drone.trip then ok s
  else
    let s := s.log srcDrone 0x0090 none 0 (leBytes 4 code ++ leBytes 4 (holdupEnergy c vmin (code % 4096)))
    if s.faults.flash.isEmpty then ok (State.pagesOut adc 64 1 s.pageDue) else ok s

/-- PWR_FAIL_RELEASE (R724). -/
def execPwrFailRelease (s : State) : Host.Outcome State Fault Refusal :=
  ok { s with faults := { s.faults with pwrFail := false } }

end Sys2Proof.Machine
end

