-- ==== Sys2Proof/Machine/Boot.lean ====
section
/-!
DEFINITION. Machine/Boot.lean: resets of the package (R16, R585 to R587, R608, R609), the loss of rails (R547, R764), the boot stages
(R589 to R602), the security-version floor (R596) and the debug unlock (R606, R607).
-/

namespace Sys2Proof.Machine

/-! ### Cold resets and rails -/

/-- The part of the device's memory that HBM holds. -/
def hbmOnly (l : List Nat) : List Nat := l.filter fun a => a < Config.hbmTop

/-- A keep-flash program or erase that the loss of PORST_N or of power interrupts (R729). -/
def State.flashCut (s : State) : State :=
  match s.faults.flash with
  | .program a _ :: _ => s.flashLost a 256
  | .erase a :: _ => s.flashLost a 0x10000
  | .bypass _ _ :: _ => s.flashLost repairBase 0x10000
  | _ => s

/-- The package in a cold reset (R16): every register at its Reset value and everything that runs gone.  What stays is outside the
device's logic: HBM while its rails stay up, the keep flash, the fuses, what has been put on the host link, the level of PWR_FAIL_N,
the scan port, and the log tail's place, which the drone finds in the keep flash (R729). -/
def State.coldBase (s : State) (porst always main : Bool) : State :=
  let s := s.flashCut
  let next := s.fget Fld.LOG_PERS_NEXT
  let t := { State.reset with
    mem := if main then s.mem.filter (fun x => x.1 < Config.hbmTop) else []
    poison := if main then hbmOnly s.poison else []
    single := if main then hbmOnly s.single else []
    double := if main then hbmOnly s.double else []
    flash := s.flash
    hif := { HostIf.reset with sent := s.hif.sent }
    boot := { Boot.reset with
      porst := porst, alwaysOn := always, mainOn := main, fuses := s.boot.fuses }
    faults := { Faults.reset with
      sumSlot := s.faults.sumSlot, pageSeq := s.faults.pageSeq, erased := s.faults.erased, pwrFail := s.faults.pwrFail }
    tap := s.tap
    freeCtr := s.freeCtr
    pending := s.pending }
  (t.fput Fld.LOG_PERS_NEXT next).fput Fld.DRN_DEVID_HBM_CFG s.boot.fuses.hbmCfg

/-- COLD_RESET (R16, R585): PORST_N is released; the SMBus target's address follows SMB_ADDR (R750). -/
def execColdReset (strap : Nat) (s : State) : Host.Outcome State Fault Refusal :=
  ok ((s.coldBase false true s.boot.mainOn).fput Fld.DRN_SMBST_ADDR (0x58 + strap % 8))

/-- PORST_N_ASSERT (R585, R608). -/
def execPorstNAssert (s : State) : Host.Outcome State Fault Refusal :=
  ok (s.coldBase true s.boot.alwaysOn s.boot.mainOn)

/-- The blocks that the drone domain holds (R546). -/
def droneBlocks : List Block := [.DRN, .BLW, .KEEP, .LOG, .DMP]

/-- The main rail off (R546, R764): everything outside the drone domain is lost; a keep-flash operation is the drone's, and goes
on. -/
def State.mainLost (s : State) : State :=
  let s := s.mapRegs fun r _ j v => if r.info.blk ∈ droneBlocks then v else r.resetVal j
  { State.reset with
    regs := s.regs
    capt := s.capt.filter (fun h => h.blk ∈ droneBlocks)
    held := s.held.filter (fun h => h.blk ∈ droneBlocks)
    hif := { HostIf.reset with sent := s.hif.sent }
    drone := s.drone
    boot := { s.boot with mainOn := false, hubOn := false }
    sites := s.sites
    faults := s.faults
    flash := s.flash
    smb := s.smb
    tap := s.tap
    freeCtr := s.freeCtr
    pending := s.pending }

/-- MAIN_RAIL_LOSS (R546, R764). -/
def execMainRailLoss (s : State) : Host.Outcome State Fault Refusal := ok s.mainLost

/-- ALWAYS_ON_RAIL_LOSS (R547, R727): drone time, the trouble log and DMP_STATUS are lost with everything else. -/
def execAlwaysOnRailLoss (s : State) : Host.Outcome State Fault Refusal := ok (s.coldBase true false false)

/-! ### Boot stages -/

/-- The stages of DRN_BOOT.STAGE (R611). -/
def bsRom : Nat := 0
def bsRails : Nat := 1
def bsImage : Nat := 2
def bsFuses : Nat := 3
def bsHbm : Nat := 4
def bsHostready : Nat := 5
def bsSelftest : Nat := 6
def bsReady : Nat := 7
def bsRecovery : Nat := 8
def bsHalted : Nat := 9

/-- The statuses of DRN_BOOT.STATUS (R611). -/
def bsBoardbad : Nat := 1
def bsRailfail : Nat := 2
def bsNoimage : Nat := 4
def bsHbmfail : Nat := 5
def bsCalbad : Nat := 6
def bsRepairbad : Nat := 7

/-- The boot stage. -/
def State.stage (s : State) : Nat := s.fget Fld.DRN_BOOT_STAGE

/-- A boot status (R611). -/
def State.bootStatus (s : State) (v : Nat) : State := s.fput Fld.DRN_BOOT_STATUS v

/-- A stage begins; under PERM bit 2 the drone holds there until the console releases it (R607). -/
def State.enterStage (s : State) (st : Nat) : State :=
  let s := s.fput Fld.DRN_BOOT_STAGE st
  { s with boot := { s.boot with holds := bit (s.fget Fld.DRN_DBG_PERM) 2 } }

/-- Whether the work of a boot stage can go on: PORST_N is released, the always-on rail is up, and no hold is in effect. -/
def State.booting (s : State) : Bool := !s.boot.porst && s.boot.alwaysOn && !s.boot.holds

/-- RAIL_SEQUENCE (R590, R591), whole: the ROM reads the board record, and every listed rail comes into range. -/
def execRailSequence (s : State) : Host.Outcome State Fault Refusal :=
  if !s.booting || bsImage ≤ s.stage then ok s
  else if !s.recordOk boardBase then ok ((s.bootStatus bsBoardbad).fput Fld.DRN_BOOT_STAGE bsHalted)
  else ok ({ s with boot := { s.boot with mainOn := true, hubOn := true } }.enterStage bsImage)

/-- RAIL_SEQUENCE_TIMEOUT (R591, R764): the regulators are turned off. -/
def execRailSequenceTimeout (s : State) : Host.Outcome State Fault Refusal :=
  if !s.booting || bsImage ≤ s.stage then ok s
  else
    ok (((s.fput Fld.DRN_ALERT_PMBFLT 1).bootStatus bsRailfail).fput Fld.DRN_BOOT_STAGE bsHalted).mainLost

/-- The first address of a firmware slot: A or B (R588). -/
def slotBase (b : Bool) : Nat := if b then 0x300000 else 0x100000

/-- The security version of a slot's image (R593). -/
def State.slotSvn (s : State) (b : Bool) : Nat := leNat (s.flashBytes (slotBase b + 4) 4)

/-- Whether a slot's image is accepted (R593, R594). -/
def State.slotOk (s : State) (b : Bool) : Bool :=
  let a := slotBase b
  let len := leNat (s.flashBytes (a + 8) 4)
  let key := s.flashBytes (a + 112) 97
  leNat (s.flashBytes a 4) = 0x4E524444 && len ≤ 2096640 && Config.sha384 key = s.boot.fuses.keyHash
    && Config.ecdsaP384 key (Config.sha384 (s.flashBytes a 256)) (s.flashBytes (a + 256) 96)
    && Config.sha384 (s.flashBytes (a + 512) len) = s.flashBytes (a + 64) 48
    && s.boot.fuses.svnMin ≤ s.slotSvn b

/-- An accepted image starts (R594, R611). -/
def State.startImage (s : State) (b : Bool) : State :=
  let v := s.slotSvn b
  let s := (s.fput Fld.DRN_BOOT_SLOT (b2n b)).fput Fld.DRN_BOOT_SVN (min v 0xFF)
  ({ s with boot := { s.boot with svn := v } }).enterStage bsFuses

/-- FIRMWARE_VERIFY (R594, R595): slot A, then slot B; when both fail, RECOVERY. -/
def execFirmwareVerify (s : State) : Host.Outcome State Fault Refusal :=
  if !s.booting || s.stage ≠ bsImage then ok s
  else if s.slotOk false then ok (s.startImage false)
  else
    let s := s.fput Fld.DRN_BOOT_AFAIL 1
    if s.slotOk true then ok (s.startImage true)
    else ok (((s.fput Fld.DRN_BOOT_BFAIL 1).bootStatus bsNoimage).enterStage bsRecovery)

/-- The sites that stand for bores, as DRN_QSPARE records them (R47, R464). -/
def State.sitesFromSpares (s : State) : State :=
  (List.range 4).foldl (fun s q =>
    if s.fget (spareField q) = spInUse then
      let b := 16 * q + s.fget (lboreField q)
      { s with sites := mput (ownSite b) s.sites b (17 * q + 16) }
    else s) { s with sites := [] }

/-- DRN_PMB entry `i` from the board record (R590, R597). -/
def State.loadPmb (s : State) (i : Nat) : State :=
  let e := (s.flashBytes (boardBase + 16 + 8 * i) 8).map BitVec.toNat
  let s := s.fput Fld.DRN_PMB_VALID (bits (e.getD 2 0) 0 1) 0 i
  let s := s.fput Fld.DRN_PMB_METER (bits (e.getD 2 0) 1 1) 0 i
  (s.fput Fld.DRN_PMB_ADDR (e.getD 0 0) 0 i).fput Fld.DRN_PMB_ROLE (e.getD 1 0) 0 i

/-- The costs of the clock steps that the calibration record gives: the spec does not say where they lie in it (log 26). -/
def State.loadCosts (s : State) : State :=
  s.each (List.range 25) fun s n =>
    let (c, s) := s.free 8
    s.fput Fld.BLW_FTAB_TOKENS c.toNat 0 n

/-- BLW_FTAB from the calibration record, or the defaults (R554, R597).
(DESIGN CHOICE, log 26.) -/
def State.applyCalibration (s : State) : State :=
  if s.recordOk 0 then (s.fput Fld.DRN_BOOT_CALDEF 0).loadCosts
  else
    let s := s.each (List.range 25) fun s n => s.rput .BLW_FTAB (Reg.BLW_FTAB.resetVal n) 0 n
    (s.fput Fld.DRN_BOOT_CALDEF 1).bootStatus bsCalbad

/-- The column masks from the repair record (R597); those that self-test added hold until the next cold reset (R191).
(DEDUCED, log 54.) -/
def State.applyRepair (s : State) : State :=
  if s.recordOk repairBase then
    (if s.boot.cold then { s with boot := { s.boot with masks := s.recordMasks } } else s)
  else ({ s with boot := { s.boot with masks := [] } }).bootStatus bsRepairbad

/-- FUSE_APPLY (R597). -/
def execFuseApply (s : State) : Host.Outcome State Fault Refusal :=
  if s.faults.frozen then ok s else
  if !s.booting || s.stage ≠ bsFuses then ok s
  else
    let s := if s.boot.cold then
        (s.rput .DRN_QSPARE (s.boot.fuses.qspare.setWidth 64)).each (List.range 16) State.loadPmb
      else s
    ok ((s.sitesFromSpares.applyCalibration.applyRepair).enterStage bsHbm)

/-- HBM_TRAINING (R598): `trained` are the stacks that trained; the region of a quadrant with one that did not is lost.  The stacks
of a quadrant whose fabric clock stands still are in self-refresh (R548).
(DEDUCED, log 77.) -/
def execHbmTraining (trained : List Nat) (s : State) : Host.Outcome State Fault Refusal :=
  if s.faults.frozen then ok s else
  if !s.booting || s.stage ≠ bsHbm then ok s
  else
    let ups := (List.range 8).filter fun h => h ∈ trained
    let s := s.fput Fld.DRN_BOOT_HBMOK (ups.foldl (fun n h => n + 2 ^ h) 0)
    let s := if ups.length = 8 then s else s.bootStatus bsHbmfail
    let s := s.each (List.range 4) fun s q => if s.hbmDead q then s.zeroRange (Config.region s.small * q) (Config.region s.small) else s
    let s := s.each (List.range 4) fun s q => if s.fabRun q then s else s.putFab q false
    ok (s.enterStage bsHostready)

/-- HOSTREADY (R599, R595): configuration requests complete normally. -/
def execHostready (s : State) : Host.Outcome State Fault Refusal :=
  ok (when (s.booting && (s.stage = bsHostready || s.stage = bsRecovery)) s { s with hif := { s.hif with ready := true } })

/-- The result of self-test at a site (R191, R601): failing columns join the mask, unless they are too many or another test
failed. -/
def State.siteResult (s : State) (r : SiteTest) : State :=
  let mask := (mget 0 s.boot.masks r.site) ||| r.cols.toNat
  if 68 ≤ r.site then s
  else if r.failed || 8 < maskCount mask then
    let s := { s with boot := { s.boot with sites := sinsert r.site s.boot.sites } }
    let q := r.site / 17
    if r.site % 17 = 16 && s.fget (spareField q) = spAvailable then s.fput (spareField q) spNone else s
  else s.setMask r.site mask

/-- SELF_TEST (R600, R601, R191): the repair record is rewritten where columns were added and the hold-up check lets it be.
(DEDUCED, log 54.) -/
def execSelfTest (results : List SiteTest) (adc : Nat) (s : State) : Host.Outcome State Fault Refusal :=
  if s.faults.frozen then ok s else
  if !s.booting || s.stage ≠ bsHostready || !s.hif.ready then ok s
  else
    let old := s.boot.masks
    let s := results.foldl State.siteResult { s with boot := { s.boot with sites := [] } }
    let s := if s.boot.masks = old then s
      else match s.holdup 3 adc with
        | (true, t) => t.writeRepair t.boot.masks
        | (false, t) => t
    ok (s.enterStage bsSelftest)

/-- CAPABILITY_PUBLISH (R602, R611). -/
def execCapabilityPublish (s : State) : Host.Outcome State Fault Refusal :=
  if s.faults.frozen then ok s else
  if !s.booting || s.stage ≠ bsSelftest then ok s
  else
    let s := s.each (List.range 64) fun s b => s.publishCap b false
    let t := (s.rget .DRN_TIME - s.boot.startT).toNat
    ok ((s.fput Fld.DRN_BOOT_READYT (min t 0xFFFFFFFF)).enterStage bsReady)

/-! ### Package reboot -/

/-- Registers that a package reboot keeps (R587, R607, R761, R763), but for their RC fields (R17): the part, drone time, the
trouble log, the spares, the SMBus address, and the books of the bellows, whose bores end OFF.
(DEDUCED, log 55.) -/
def rebootKeeps (r : Reg) : Bool :=
  r.info.blk = .BLW || r = .LOG_HEAD || r = .LOG_ENTRY || r = .LOG_PERS || r = .LOG_STAT || r = .LOG_CFG || r = .DRN_TIME
    || r = .DRN_DEVID || r = .DRN_QSPARE || r = .DRN_SMBST || r = .DRN_TRAY

/-- The granted permissions in DRN_DBG, with the bit that says there are some: these survive a package reboot (R607, R613). -/
def permMask : Word64 := 0x80000007

/-- Registers that a package reboot keeps whole, their RC fields with the others (R325). -/
def rebootWhole (r : Reg) : Bool := r = .STG_DRSTAT || r = .OVB_VRSTAT

/-- The health sets after a package reboot: HOLDNEXT alone stands (R428). -/
def State.heldNext (s : State) : Map Health :=
  (List.range 16).foldl (fun m h => mput Health.reset m h { Health.reset with holdNext := (s.hset h).holdNext }) []

/-- What the hub and the bores hold beside the registers, after a package reboot.
(DEDUCED, log 55.) -/
def State.rebootUnits (s : State) : State :=
  { s with
    capt := [], held := [], net := [], tlb := [], inval := [], watches := [], bars := [], scheds := [], health := s.heldNext, ctxs := []
    parts := []
    starts := [], cmds := [], emb := .reset
    ports := []
    hif := { HostIf.reset with sent := s.hif.sent, aer := s.hif.aer }
    drone := { s.drone with wakeq := [], limPend := false, trip := false, fanDuty := [] }
    boot := { s.boot with cold := false, startT := s.rget .DRN_TIME, nonceT := none, sites := [] }
    faults := { s.faults with frozen := false, truncate := false, parts := [], restart := none } }

/-- A package reboot (R587, R609, R715).  The bell's pipes, links, timing and counters run on (R684); its RW and W1C fields take
their Reset values (R17). -/
def State.packageReboot (s : State) : State :=
  let s := s.each (List.range 64) fun s b => if s.pstate b = psOff then s else s.powerOff b
  let ports := (List.range 12).filter fun k => s.flag Fld.CRK_CTRL_ENABLE k
  let s := s.creditAll.rebootUnits.mapRegs fun r _ j v =>
    if rebootWhole r then v
    else if r = .DRN_DBG then v &&& permMask
    else if rebootKeeps r then v &&& ~~~r.info.rc
    else if r.info.blk = .BEL then v &&& ~~~(r.info.rw ||| r.info.w1c)
    else (v &&& r.info.rws) ||| (r.resetVal j &&& ~~~r.info.rws)
  let s := s.each ports State.ckGoDown
  s.enterStage bsRom

/-- The REBOOT bit of DRN_BOOTCTL written (R587, R609). -/
def execReboot (who : Requester) (s : State) : Host.Outcome State Fault Refusal :=
  ok (s.drnReg (mayPf who) s.packageReboot)

/-- WARM_RESET (R16, R586, R587). -/
def execWarmReset (scope : ResetScope) (s : State) : Host.Outcome State Fault Refusal :=
  match scope with
  | .bore b => ok (s.warmBore b)
  | .partition p => ok (s.warmPart p)
  | .package => ok s.packageReboot

/-! ### The security-version floor -/

/-- The SVNLOCK bit of DRN_BOOTCTL written (R596): `fused` says that the fuse programmer succeeded.
(DESIGN CHOICE, log 53.) -/
def State.svnLock (s : State) (adc : Nat) (fused : Bool) : State :=
  match s.holdup 5 adc with
  | (false, s) => s.fput Fld.DRN_BOOTCTL_LOCKST 2
  | (true, s) =>
    if !fused then s.fput Fld.DRN_BOOTCTL_LOCKST 3
    else
      let f := { s.boot.fuses with svnMin := max s.boot.fuses.svnMin s.boot.svn }
      ({ s with boot := { s.boot with fuses := f } }).fput Fld.DRN_BOOTCTL_LOCKST 1

/-- SVNLOCK (R596, R723). -/
def execSvnlock (who : Requester) (adc : Nat) (fused : Bool) (s : State) : Host.Outcome State Fault Refusal :=
  ok (s.drnReg (mayPf who) (s.svnLock adc fused))

/-- A write of DRN_BOOTCTL: SVNLOCK first, then REBOOT (R609, R612).  The code that the hold-up check measures and the outcome of
the fuse programmer come from outside the register write.
(DESIGN CHOICE, log 53.) -/
def State.writeBootctl (s : State) (val : Nat) : State :=
  let s := if bit val 1 then
      let (adc, s) := s.free 12
      let (fused, s) := s.free 1
      s.svnLock adc.toNat (fused = 1)
    else s
  if bit val 0 then s.packageReboot else s

/-! ### Debug unlock -/

/-- A fresh nonce (R606): its bytes are free values. -/
def State.challengeCmd (s : State) : State :=
  let s := s.each (List.range 8) fun s k =>
    let (w, s) := s.free 32
    s.rput .DRN_DBGNONCE (w.setWidth 64) 0 k
  { s with boot := { s.boot with nonceT := some (s.rget .DRN_TIME) } }

/-- CHALLENGE (R606). -/
def execChallenge (who : Requester) (s : State) : Host.Outcome State Fault Refusal :=
  ok (s.drnReg (mayPf who) s.challengeCmd)

/-- 60 s in drone ticks (R607). -/
def nonceLife : Nat := 1500000000

/-- The bytes of an array of 32-bit registers. -/
def State.regBytes (s : State) (r : Reg) (n : Nat) : List Byte :=
  (List.range n).flatMap fun k => leBytes 4 (s.rget r 0 k).toNat

/-- Whether a token's signature, device ID and nonce hold (R606). -/
def State.tokenOk (s : State) (tok : List Byte) : Bool :=
  let part (a n : Nat) : List Byte := (tok.drop a).take n
  leNat (part 0 4) = 0x4E4B4244 && part 8 8 = s.boot.fuses.uid && part 16 32 = s.regBytes .DRN_DBGNONCE 8
    && Config.ecdsaP384 (part 144 97) (Config.sha384 (part 0 48)) (part 48 96)

/-- DRN_DBG.STATUS (R613). -/
def State.dbgSt (s : State) (st : Nat) : State := s.fput Fld.DRN_DBG_STATUS st

/-- The permissions (R613). -/
def State.putPerm (s : State) (p : Nat) : State :=
  (s.fput Fld.DRN_DBG_PERM p).fput Fld.DRN_DBG_UNLOCKED (b2n (p % 8 ≠ 0))

/-- The nonce consumed or void. -/
def State.dropNonce (s : State) : State := { s with boot := { s.boot with nonceT := none } }

/-- SUBMIT carried out (R606, R607). -/
def State.submitCmd (s : State) : State :=
  let tok := s.regBytes .DRN_DBGTOKEN 64
  match s.boot.nonceT with
  | none => s.dbgSt 3
  | some t =>
    if nonceLife < (s.rget .DRN_TIME - t).toNat then s.dropNonce.dbgSt 3
    else if Config.sha384 ((tok.drop 144).take 97) ≠ s.boot.fuses.dbgHash then s.dropNonce.dbgSt 4
    else if !s.tokenOk tok then s.dropNonce.dbgSt 2
    else (s.dropNonce.dbgSt 1).putPerm (leNat ((tok.drop 4).take 4))

/-- SUBMIT (R606, R607). -/
def execSubmit (who : Requester) (s : State) : Host.Outcome State Fault Refusal := ok (s.drnReg (mayPf who) s.submitCmd)

/-- RELOCK (R607). -/
def execRelock (who : Requester) (s : State) : Host.Outcome State Fault Refusal := ok (s.drnReg (mayPf who) (s.putPerm 0))

/-- A write of DRN_DBGCMD (R613). -/
def State.writeDbgcmd (s : State) (op : Nat) : State :=
  if op = 1 then s.challengeCmd else if op = 2 then s.submitCmd else if op = 3 then s.putPerm 0 else s

/-- NONCE_EXPIRY (R607). -/
def execNonceExpiry (s : State) : Host.Outcome State Fault Refusal := ok s.dropNonce

/-- CONSOLE_RELEASE (R607). -/
def execConsoleRelease (s : State) : Host.Outcome State Fault Refusal :=
  ok { s with boot := { s.boot with holds := false } }

/-! ### The ALERT_N output -/

/-- Whether ALERT_N is asserted (R569, R590): while any bit of DRN_ALERT is 1, and in HALTED after a bad board record. -/
def State.alertN (s : State) : Bool :=
  (s.rget .DRN_ALERT).toNat ≠ 0 || (s.stage = bsHalted && s.fget Fld.DRN_BOOT_STATUS = bsBoardbad)

end Sys2Proof.Machine
end

