-- ==== Sys2Proof/Machine/Access.lean ====
section
/-!
DEFINITION. Machine/Access.lean: accesses to registers: what an address names (R45, R46, R513, R515), who may write it, how
32-bit and 64-bit accesses act (R10 to R15, R44), and what a write of each register does.
-/

namespace Sys2Proof.Machine

/-! ### What an address names -/

/-- What a 32-bit word of a register address names: a half of a register, a word of a window, an offset of a block of a bore that
no chapter documents (a `hole`), or nothing else that a chapter documents (R11). -/
inductive Place
  | reg (r : Reg) (i j : Nat) (high : Bool)
  | hole (b : Nat) (vestibule : Bool)
  | reedWin (b off : Nat)
  | program (b addr : Nat)
  | bar2 (fn off : Nat)
  | nothing
  deriving DecidableEq, Repr

/-- How many elements a register has: OVB_HIST shows the 64 positions of the selected entry (R436). -/
def Reg.elems (r : Reg) : Nat := if r = .OVB_HIST then 64 else r.info.count

/-- The register of a list whose element holds offset `off` of the block, the element, and whether the offset is its high
word. -/
def regAt (off : Nat) : List Reg → Option (Reg × Nat × Bool)
  | [] => none
  | r :: l =>
    let i := r.info
    let d := off - i.off
    let j := if i.stride = 0 then 0 else d / i.stride
    let w := if i.stride = 0 then d else d % i.stride
    if i.off ≤ off && j < r.elems && w < (if i.wide then 8 else 4) then some (r, j, decide (4 ≤ w)) else regAt off l

/-- The word at an offset of one instance of a block, among the registers that the instance has. -/
def placeIn (l : List Reg) (i off : Nat) : Place :=
  match regAt off l with
  | some (r, j, high) => .reg r i j high
  | none => .nothing

/-- The hub blocks in the order of their addresses (R45). -/
def hubBlocks : List Block :=
  [.DRN, .BLW, .PRT, .CTX, .STG, .STH, .SYN, .OVB, .CRK, .HIF, .EMB, .BEL, .KEEP, .LOG, .DMP]

/-- The registers that exist in pipes 0 and 1 only (R690). -/
def dpRegs : List Reg := [.BEL_DPCTL, .BEL_DPSTAT, .BEL_AUXCMD, .BEL_AUXST, .BEL_AUXDATA]

/-- The word at an offset of a hub block (R45, and where the chapters place the instances of their blocks). -/
def hubPlace (blk : Block) (off : Nat) : Place :=
  let p := off / 0x10000
  let o := off % 0x10000
  match blk with
  | .STG => placeIn Block.STG.regs p o
  | .OVB => placeIn Block.OVB.regs p o
  | .STH => if p = 1 then placeIn Block.STH.regs (o / 0x1000) (o % 0x1000) else .nothing
  | .CRK =>
    if p = 0 then placeIn [.CRK_LOCALID] 0 o
    else if p ≤ 12 then placeIn (Block.CRK.regs.filter fun r => r ≠ .CRK_LOCALID) (p - 1) o else .nothing
  | .BEL =>
    if p = 0 then placeIn [.BEL_ERR] 0 o
    else if p ≤ 4 then placeIn (Block.BEL.regs.filter fun r => r ≠ .BEL_ERR && (p ≤ 2 || r ∉ dpRegs)) (p - 1) o
    else .nothing
  | .HIF => if off / 4 = 0x400 then .nothing else placeIn Block.HIF.regs 0 off   -- HIF_VFMAP begins at v = 1 (R542)
  | b => placeIn b.regs 0 off

/-- The vestibule blocks of a bore (R40). -/
def vestBlock (blk : Block) : Bool := blk = .QUE || blk = .SYNB

/-- The word at an offset of a block of bore `b` (R46, R127, R244). -/
def borePlace (b : Nat) (blk : Block) (off : Nat) : Place :=
  if 0x8000 ≤ off then .hole b (vestBlock blk)
  else if blk = .REED && 0x1000 ≤ off && off < 0x1480 then .reedWin b off
  else match placeIn blk.regs b off with
    | .nothing => .hole b (vestBlock blk)
    | p => p

/-- The word at a device address. -/
def devPlace (a : Nat) : Place :=
  match homeOf false (fun _ => false) a with
  | .hubReg k off => match hubBlocks[k]? with
    | some blk => hubPlace blk off
    | none => .nothing
  | .boreReg b k off => match boreBlocks[k]? with
    | some blk => borePlace b blk off
    | none => .nothing
  | .pstore b _ => .program b a
  | _ => .nothing

/-- The device address that an offset of the physical function's BAR0 reaches (R513). -/
def bar0Addr (o : Nat) : Nat :=
  if o < 0x1000000 then 0x00A000000000 + o
  else if o < 0x2000000 then
    let x := o % 0x1000000
    0x009000000000 + 0x100000 * (x / 0x40000) + 0x10000 * (x % 0x40000 / 0x8000) + x % 0x8000
  else psBase (o % 0x2000000 / 0x80000) + o % 0x80000

/-- The word at an offset of a virtual function's BAR0 (R515). -/
def State.vfPlace (s : State) (v o : Nat) : Place :=
  if !s.fnExists v then .nothing
  else if o < 4 then .reg .DRN_DEVID 0 0 false
  else if 0x100 ≤ o && o < 0x110 then placeIn Block.VFR.regs v o
  else if 0x1000 ≤ o then
    match s.vfCtx v (o / 64 - 64) with
    | none => .nothing
    | some c =>
      let high := decide (o % 8 ≥ 4)
      let k := o % 64 / 8
      if k = 0 then .reg .CTX_STATE 0 c high
      else if k = 1 then .reg .CTX_LDRES 0 c high
      else if k = 2 then .reg .CTX_FAULT 0 c high
      else if k = 3 then .reg .CTX_FINFO 0 c high
      else .nothing
  else .nothing

/-- The word that a requester's address names.  A function's address below 2^26 is an offset of its BAR0, one from there up an
offset of its BAR2 (R512, R516). -/
def State.place (s : State) (who : Requester) (a : Nat) : Place :=
  match who with
  | .fn v =>
    if 0x8000000 ≤ a then .nothing
    else if 0x4000000 ≤ a then .bar2 v (a % 0x4000000)
    else if v = 0 then devPlace (bar0Addr a)
    else s.vfPlace v a
  | _ => devPlace a

/-! ### Whether an access gets through -/

/-- Whether a hub block can be reached (R595, R716); the SMBus target reaches the drone whether or not the main rails are up
(R751). -/
def State.blockOpen (s : State) (who : Requester) (blk : Block) : Bool :=
  match who with
  | .fn (_ + 1) => s.hubOpen
  | _ =>
    if who = .smbus && blk = .DRN then !s.boot.porst
    else if blk = .DRN || blk = .KEEP then s.powered
    else if blk = .LOG || blk = .DMP then s.powered && s.fget Fld.DRN_BOOT_STAGE ≠ 8
    else s.hubOpen

/-- How an access ends before its effect: it goes on, it meets nothing, or it is a dark access to a bore. -/
inductive Meet
  | go | gone | dark (b : Nat)
  deriving DecidableEq, Repr

/-- How an access to bore `b` ends (R40, R41, R572). -/
def State.meetBore (s : State) (b : Nat) (vestibule : Bool) : Meet :=
  if !s.hubOpen then .gone
  else match s.reach b vestibule with
    | .done => .go
    | .wait => .go
    | .dark => .dark b
    | .stub => .dark b

/-- How an access to a place ends. -/
def State.meet (s : State) (who : Requester) : Place → Meet
  | .reg r i _ _ =>
    let blk := r.info.blk
    if blk ∈ boreBlocks then s.meetBore i (vestBlock blk)
    else if s.blockOpen who blk then .go else .gone
  | .hole b v => s.meetBore b v
  | .reedWin b _ => s.meetBore b false
  | .program b _ => s.meetBore b false
  | .bar2 _ _ => if s.hubOpen then .go else .gone
  | .nothing => .gone

/-- Who may write a register (R289, R512, R581, R751 and the openings of the register sections). -/
def mayWrite (who : Requester) (r : Reg) : Bool :=
  match r.info.blk with
  | .DRN =>
    if r = .DRN_TRAY then who = .smbus
    else if r = .DRN_BOOTCTL || r = .DRN_DBGCMD || r = .DRN_DBGTOKEN then mayPf who
    else mayTray who
  | .BLW => mayTray who
  | .CRK => mayCrk who
  | .STG => mayHostRm who
  | .STH => mayHostRm who
  | .SYN => mayHostRm who
  | .OVB => mayHostRm who
  | .VFR => match who with
    | .fn v => v ≠ 0
    | _ => false
  | .MXA => if r = .MXA_BYPPEND || r = .MXA_BYPCMD then mayPf who else mayHostRm who
  | .REED => mayPf who
  | .BORE => mayHostRm who
  | .CHN => mayHostRm who
  | .WCH => mayHostRm who
  | .LIG => mayHostRm who
  | .QUE => mayHostRm who
  | .SYNB => mayHostRm who
  | _ => mayPf who

/-! ### Values -/

/-- The element of a register array that an access names: for OVB_HIST, of the selected entry (R436). -/
def State.elem (s : State) (r : Reg) (i j : Nat) : Nat :=
  if r = .OVB_HIST then 64 * s.fget Fld.OVB_HSEL_ENTRY i + j else j

/-- Whether any route entry of bore `b` has its ORPHAN flag set (R320). -/
def State.anyOrphan (s : State) (b : Nat) : Bool := (List.range 256).any fun k => s.flag Fld.QUE_RSTAT_ORPHAN b k

/-- The registers that show the chanter's own registers (R127). -/
def chnWindow (r : Reg) : Bool := r = .CHN_G || r = .CHN_A || r = .CHN_D || r = .CHN_P

/-- The offset of an element of such a register in the CHN block. -/
def winOff (r : Reg) (j : Nat) : Nat := r.info.off + 8 * j

/-- Whether an access to a register is dropped because it is a window of a chanter that runs (R116). -/
def State.winShut (s : State) (r : Reg) (i : Nat) : Bool := chnWindow r && s.running i

/-- A dropped access to a window of the chanter is marked (R116). -/
def State.winDrop (s : State) (i : Nat) : State := s.fput Fld.CHN_STATUS_REGWIN_DROP 1 i

/-- What a register reads as: WO bits read 0 (R10), and a few fields show what other registers hold (R127, R320, R436).  The
residency manager has its own copy of the staging registers (R272). -/
def State.regValue (s : State) (who : Requester) (r : Reg) (i j : Nat) : Word64 :=
  if r = .OVB_HIST && s.fget Fld.OVB_SENT_HLEN i (s.fget Fld.OVB_HSEL_ENTRY i) < j then 0
  else if chnWindow r then (if s.running i then 0 else BitVec.ofNat 64 ((s.winRead i (winOff r j)).getD 0))
  else if who = .resmgr && r = .LIG_STAGE then (s.bore i).lig.rmStage
  else if who = .resmgr && r = .LIG_STAGEMASK then (s.bore i).lig.rmMask
  else
    let v := s.rget r i (s.elem r i j) &&& ~~~r.info.wo
    if r = .QUE_STATUS && s.anyOrphan i then v ||| 0x10000 else v

/-- The RC fields of a register cleared by their read (R13, R15). -/
def State.clearRc (s : State) (r : Reg) (i j : Nat) : State :=
  if r.info.rc = 0 then s else s.rput r (s.rget r i j &&& ~~~r.info.rc) i j

/-! ### What a write does -/

/-- A field of a value that is being written. -/
def inField (f : Field) (v : Word64) : Nat := bits v.toNat f.lo f.w

/-- DMP_CTRL.FORCE (R698, R728). -/
def State.forceDump (s : State) : State :=
  if s.fget Fld.DMP_STATUS_STATE ≠ dsNone then s else s.packageError pkForce srcHif

/-- DMP_CTRL.CLEAR (R732). -/
def State.clearDump (s : State) : State :=
  if s.fget Fld.DMP_STATUS_STATE = dsWriting then s else s.fput Fld.DMP_STATUS_STATE dsNone

/-- A DRN_BPCMD write (R575, R581). -/
def State.writeBpcmd (s : State) (b op : Nat) : State :=
  s.bpCmd b fun s =>
    if op = 1 then s.bpWake b
    else if op = 2 then s.bpDown b psSleep
    else if op = 3 then s.bpDown b psDeep
    else if op = 4 then s.bpOff b
    else if op = 5 then s.bpOn b
    else s.bpSt b bpBadop

/-- A PRT_CMD write (R465, R473). -/
def State.writePrtCmd (s : State) (v : Word64) : State :=
  if inField Fld.PRT_CMD_OP v = 1 then
    s.rebuildCmd (inField Fld.PRT_CMD_PART v)
      (if inField Fld.PRT_CMD_SUBST v = 1 then some (inField Fld.PRT_CMD_SBORE v) else none)
  else s.prtCmd (inField Fld.PRT_CMD_OP v) (inField Fld.PRT_CMD_CTX v)

/-- A QUE_QCTL write (R323). -/
def State.writeQctl (s : State) (b : Nat) (v : Word64) : State :=
  let q := inField Fld.QUE_QCTL_Q v
  let op := inField Fld.QUE_QCTL_OP v
  if op = 1 then s.qOpen b q else if op = 2 then s.qClose b q else if op = 3 then s.qEpoch b q else s

/-- An MXA_BYPCMD write: when CTEST and COMMIT are both 1, CTEST is refused and the commit proceeds (R201, R203).  The code that
the hold-up check measures is free.
(DESIGN CHOICE, log 71.) -/
def State.writeBypcmd (s : State) (b : Nat) (v : Word64) : State :=
  if bit v.toNat 1 then
    let (adc, s) := s.free 12
    s.commit b adc.toNat
  else if bit v.toNat 0 then s.ctest b
  else s

/-- A KEEP_CMD write (R721, R733); the code that the hold-up check measures is free.
(DESIGN CHOICE, log 71.) -/
def State.writeKeepCmd (s : State) (v : Word64) : State :=
  let (adc, s) := s.free 12
  s.keepCmd (inField Fld.KEEP_CMD_OP v) (inField Fld.KEEP_CMD_ADDR v) adc.toNat

/-- A DMP_CTRL write (R698, R732): CLEAR acts before FORCE.
(DESIGN CHOICE, log 65.) -/
def State.writeDmpCtrl (s : State) (v : Word64) : State :=
  let s := if bit v.toNat 1 then s.clearDump else s
  if bit v.toNat 0 then s.forceDump else s

/-- A route word of bore `b` written, with its report (R316, R321). -/
def State.writeQueRoute (s : State) (b k : Nat) (second : Bool) (v : Word64) : State :=
  let (t, st) := s.writeRoute (.bore b k) second v
  t.cfgst b 0 k st

/-- The write of a register that has no rule of its own (R17). -/
def State.plainWrite (s : State) (r : Reg) (i j : Nat) (v : Word64) : State := s.rput r (r.merge (s.rget r i j) v) i j

/-- A write of a register of a bore. -/
def State.writeBoreReg (s : State) (who : Requester) (r : Reg) (b j : Nat) (v : Word64) : State :=
  match r with
  | .CHN_CTRL => s.chnCtrl b v
  | .CHN_PC => s.writePc b v
  | .CHN_G => s.window b (winOff r j) true (some v)
  | .CHN_A => s.window b (winOff r j) true (some v)
  | .CHN_D => s.window b (winOff r j) true (some v)
  | .CHN_P => s.window b (winOff r j) true (some v)
  | .MXA_BYPCMD => s.writeBypcmd b v
  | .WCH_CCTRL =>
    let t := s.plainWrite r b j v
    if bit v.toNat 1 then t.wchClearAll b else t
  | .LIG_CMD => s.ligWrite who b (inField Fld.LIG_CMD_OP v) (inField Fld.LIG_CMD_HANDLE v)
  | .LIG_STAGE =>
    if who = .resmgr then s.upLig b fun l => { l with rmStage := v &&& r.info.rw } else s.plainWrite r b j v
  | .LIG_STAGEMASK =>
    if who = .resmgr then s.upLig b fun l => { l with rmMask := v &&& r.info.rw } else s.plainWrite r b j v
  | .QUE_QCTL => s.writeQctl b v
  | .QUE_AUDCMD => s.auditStart b (inField Fld.QUE_AUDCMD_CH v)
  | .QUE_QCFG => (s.writeQcfg b j v).1.cfgst b 1 j (s.writeQcfg b j v).2
  | .QUE_ROUTEA => s.writeQueRoute b j false v
  | .QUE_ROUTEB => s.writeQueRoute b j true v
  | .SYN_LCVAL => s.writeCounter (some b) j v
  | .SYN_LCARM => s.writeArm b j v
  | _ => s.plainWrite r b j v

/-- A write of a register of a stage scheduler, a stash, a health set or the sync pool. -/
def State.writeTrainReg (s : State) (r : Reg) (p j : Nat) (v : Word64) : State :=
  match r with
  | .STG_CTRL => s.stgCtrl p v
  | .STG_INJECT => s.inject p v
  | .STG_DROUTEA => s.stgRoute p j false v
  | .STG_DROUTEB => s.stgRoute p j true v
  | .OVB_GCTL => s.gctl p v
  | .OVB_VROUTEA => s.ovbRoute p j false v
  | .OVB_VROUTEB => s.ovbRoute p j true v
  | .SYN_PBLK => s.writeBlock j v
  | .SYN_PVAL => s.writeCounter none j v
  | .SYN_BCFG => s.writeBarrier j v
  | .SYN_BCMD => if inField Fld.SYN_BCMD_OP v = 1 then s.abortBarrier (inField Fld.SYN_BCMD_BID v) else s
  | _ =>
    match r.info.blk with
      | .STG => s.stgWrite p r j v
      | .STH => s.stgWrite p r j v
      | .OVB => if r.writable = 0 && r.info.w1c = 0 then s.plainWrite r p j v else s.ovbWrite p r (s.elem r p j) v
      | _ => s.plainWrite r p j v

/-- A write of a register of the embouchure or the bell. -/
def State.writeMediaReg (s : State) (r : Reg) (i j : Nat) (v : Word64) : State :=
  match r with
  | .EMB_STBASE => s.writeStbase v
  | .EMB_SCMD => s.scmd (inField Fld.EMB_SCMD_OP v) (inField Fld.EMB_SCMD_STREAM v)
  | .EMB_PCFG => s.writePcfg j v
  | .EMB_PCTL => s.writePctl j v.toNat
  | .EMB_FROUTE => s.writeFroute (.emb j) v
  | .BEL_PCTL => s.writeBelPctl i v.toNat
  | .BEL_PCFG => s.writeBelPcfg i v
  | .BEL_MLOAD => s.loadMatrix i (inField Fld.BEL_MLOAD_V v) (inField Fld.BEL_MLOAD_PRESET v)
  | .BEL_FROUTE => s.writeFroute (.bell i) v
  | .BEL_DPCTL => if bit v.toNat 0 then s.train i else s
  | .BEL_AUXCMD => s.auxCmd i v.toNat
  | _ => s.plainWrite r i j v

/-- A write of a register of the drone, the bellows, the partitions, the contexts, the crook, the host interface, the keep
flash, the log or the dump. -/
def State.writeHubReg (s : State) (r : Reg) (i j : Nat) (v : Word64) : State :=
  match r with
  | .DRN_BPCMD => s.writeBpcmd (inField Fld.DRN_BPCMD_BORE v) (inField Fld.DRN_BPCMD_OP v)
  | .DRN_BOOTCTL => s.writeBootctl v.toNat
  | .DRN_DBGCMD => s.writeDbgcmd (inField Fld.DRN_DBGCMD_OP v)
  | .DRN_DBGTOKEN => s.rput r (v &&& r.info.wo) i j
  | .BLW_LIMIT => s.writeLimit v
  | .BLW_RESERVE => s.writeReserve v
  | .DRN_FAN => let t := s.plainWrite r i j v; t.driveFan t.hotTemp j
  | .BLW_BORE => ((s.plainWrite r i j v).capStepTo j).putDemand j
  | .PRT_CMD => s.writePrtCmd v
  | .CTX_INVAL => s.ctxInval (inField Fld.CTX_INVAL_CTX v)
  | .CRK_CTRL => s.crkCtrl i v.toNat
  | .CRK_IWINA => s.writeWindow i j false v
  | .CRK_IWINB => s.writeWindow i j true v
  | .HIF_VFMAP => s.writeVfmap j v
  | .HIF_CTXH => s.writeCtxh j v
  | .HIF_HRING => s.writeHring j v
  | .HIF_DBR => s.writeDbr j v
  | .HIF_VCMD => s.vcmd i (inField Fld.HIF_VCMD_OP v) (inField Fld.HIF_VCMD_I v)
  | .KEEP_CMD => s.writeKeepCmd v
  | .DMP_CTRL => s.writeDmpCtrl v
  | .DMP_PRST => if inField Fld.DMP_PRST_OP v = 1 && !s.faults.frozen then s.restartCmd (inField Fld.DMP_PRST_PART v) else s
  | _ =>
    if r.info.blk = .CTX && r.writable ≠ 0 then s.ctxWrite j r v else s.plainWrite r i j v

/-- A whole write of a register by a requester who may make it. -/
def State.writeReg (s : State) (who : Requester) (r : Reg) (i j : Nat) (v : Word64) : State :=
  if !mayWrite who r then s
  else if r.info.blk ∈ boreBlocks then s.writeBoreReg who r i j v
  else match r.info.blk with
    | .STG => s.writeTrainReg r i j v
    | .STH => s.writeTrainReg r i j v
    | .OVB => s.writeTrainReg r i j v
    | .SYN => s.writeTrainReg r i j v
    | .EMB => s.writeMediaReg r i j v
    | .BEL => s.writeMediaReg r i j v
    | _ => s.writeHubReg r i j v

/-! ### Halves -/

/-- A half of a 64-bit word, and a word from its halves.
(DEDUCED, log 62.) -/
def half (v : Word64) (high : Bool) : Word32 := if high then (v >>> 32).setWidth 32 else v.setWidth 32
def joinHalves (low high : Word32) : Word64 := low.setWidth 64 ||| (high.setWidth 64 <<< 32)

/-- Which shadow of a requester a register's halves use: one for each register block, and the blocks of each bore are their
own (R12). -/
def shadowOf (who : Requester) (r : Reg) (i : Nat) (h : HeldWord) : Bool :=
  h.who = who && h.blk = r.info.blk && h.inst = (if r.info.blk ∈ boreBlocks then i else 0)

/-- The word of a register in a requester's shadow. -/
def heldFor (l : List HeldWord) (who : Requester) (r : Reg) (i j : Nat) : Option Word32 :=
  (l.find? fun h => shadowOf who r i h && h.reg = r && h.idx = 2 ^ 16 * i + j).map (·.word)

/-- A requester's shadow for a block emptied, or holding the word of a register. -/
def loseHalf (l : List HeldWord) (who : Requester) (r : Reg) (i : Nat) : List HeldWord :=
  l.filter fun h => !shadowOf who r i h
def takeHalf (l : List HeldWord) (who : Requester) (r : Reg) (i j : Nat) (x : Word32) : List HeldWord :=
  loseHalf l who r i ++ [⟨who, r.info.blk, if r.info.blk ∈ boreBlocks then i else 0, r, 2 ^ 16 * i + j, x⟩]

/-- A 32-bit read of a half of a register (R12, R13, R15).
(DEDUCED, log 62.) -/
def State.readHalf (s : State) (who : Requester) (r : Reg) (i j : Nat) (high : Bool) : Word32 × State :=
  let v := s.regValue who r i j
  if s.winShut r i then (0, s.winDrop i)
  else if !r.info.wide then (half v false, s.clearRc r i j)
  else if !high then (half v false, { s with capt := takeHalf s.capt who r i j (half v true) }.clearRc r i j)
  else match heldFor s.capt who r i j with
    | some x => (x, { s with capt := loseHalf s.capt who r i })
    | none => (half v true, s)

/-- The value that a high-word write with no pending low word commits: the low half as it stands, with nothing to clear or
trigger in it (R12). -/
def State.highAlone (s : State) (who : Requester) (r : Reg) (i j : Nat) (x : Word32) : Word64 :=
  joinHalves (half (s.regValue who r i j &&& ~~~r.info.w1c) false) x

/-- A 32-bit write of a half of a register (R12).  A dropped write of a window's low word is not held (R116).
(DEDUCED, log 61.) -/
def State.writeHalf (s : State) (who : Requester) (r : Reg) (i j : Nat) (high : Bool) (x : Word32) : State :=
  if s.winShut r i then s.winDrop i
  else if !r.info.wide then s.writeReg who r i j (x.setWidth 64)
  else if !high then { s with held := takeHalf s.held who r i j x }
  else match heldFor s.held who r i j with
    | some low => { s with held := loseHalf s.held who r i }.writeReg who r i j (joinHalves low x)
    | none => s.writeReg who r i j (s.highAlone who r i j x)

/-! ### Accesses -/

/-- Whether a requester may read and write the program-store window (R87). -/
def mayProg (who : Requester) : Bool := mayHostRm who

/-- A 32-bit read of a place that it gets through to. -/
def State.readPlace (s : State) (who : Requester) (p : Place) : Word32 × State :=
  match p with
  | .reg r i j high => s.readHalf who r i j high
  | .hole _ _ => (0, s)
  | .reedWin b off =>
    if mayPf who then
      let t := s.reedWindow b off none
      (half t.rdata false, t)
    else (0, s)
  | .program _ a =>
    if mayProg who then
      let (l, _, t) := s.fetch a 4
      (BitVec.ofNat 32 (leNat l), t)
    else (0, s)
  | .bar2 fn off =>
    let (v, t) := s.bar2Read fn off
    (BitVec.ofNat 32 v, t)
  | .nothing => (0, s)

/-- A 32-bit write of a place that it gets through to. -/
def State.writePlace (s : State) (who : Requester) (p : Place) (x : Word32) : State :=
  match p with
  | .reg r i j high => s.writeHalf who r i j high x
  | .hole _ _ => s
  | .reedWin b off => if mayPf who then s.reedWindow b off (some x) else s
  | .program b a => if mayProg who then s.writeProgram b a (leBytes 4 x.toNat) else s
  | .bar2 fn off => s.bar2Write fn off [x] true
  | .nothing => s

/-- The bore whose control block a place lies in. -/
def Place.bore? : Place → Option Nat
  | .reg r i _ _ => if r.info.blk ∈ boreBlocks then some i else none
  | .hole b _ => some b
  | .reedWin b _ => some b
  | .program b _ => some b
  | _ => none

/-- An access that gets through to a place: one to a bore crosses the fabric of its quadrant (R33), and a program-store access
that its requester may not make is UNMAPPED (R87). -/
def State.through (s : State) (who : Requester) (p : Place) : State :=
  let s := match p.bore? with
    | some b => s.openFab (quadOf b)
    | none => s
  match p with
  | .program _ _ => s.status who (if mayProg who then .ok else .unmapped)
  | _ => s.status who .ok

/-- A 32-bit read (R11, R39, R41, R44). -/
def State.read32 (s : State) (who : Requester) (a : Nat) : Word32 × State :=
  let p := s.place who a
  if a % 4 ≠ 0 then (0, s.status who .unmapped)
  else match s.meet who p with
    | .go => (s.through who p).readPlace who p
    | .gone => (0, s.status who .ok)
    | .dark b => (0, s.darkFor who b)

/-- A 32-bit write. -/
def State.write32 (s : State) (who : Requester) (a : Nat) (x : Word32) : State :=
  let p := s.place who a
  if a % 4 ≠ 0 then s.status who .unmapped
  else match s.meet who p with
    | .go => (s.through who p).writePlace who p x
    | .gone => s.status who .ok
    | .dark b => s.darkFor who b

/-- A 64-bit read: one atomic access of a 64-bit register or of the program store; two 32-bit accesses of anything else, the low
word first (R12, R44). -/
def State.read64 (s : State) (who : Requester) (a : Nat) : Word64 × State :=
  let p := s.place who a
  let two : Word64 × State :=
    let (l, t) := s.read32 who a
    let (h, t) := t.read32 who (a + 4)
    (joinHalves l h, t)
  if a % 8 ≠ 0 then (0, s.status who .unmapped)
  else match s.meet who p, p with
    | .go, .reg r i j _ =>
      if !r.info.wide then two
      else
        let t := s.through who p
        if t.winShut r i then (0, t.winDrop i) else (t.regValue who r i j, t.clearRc r i j)
    | .go, .program _ a =>
      let t := s.through who p
      if mayProg who then
        let (l, _, t) := t.fetch a 8
        (BitVec.ofNat 64 (leNat l), t)
      else (0, t)
    | .dark b, .reg r _ _ _ => if r.info.wide then (0, s.darkFor who b) else two
    | .dark b, .program _ _ => (0, s.darkFor who b)
    | _, _ => two

/-- A 64-bit write; it discards its requester's pending low word of the same register (R12). -/
def State.write64 (s : State) (who : Requester) (a : Nat) (v : Word64) : State :=
  let p := s.place who a
  let two : State := (s.write32 who a (half v false)).write32 who (a + 4) (half v true)
  if a % 8 ≠ 0 then s.status who .unmapped
  else match s.meet who p, p with
    | .go, .reg r i j _ =>
      if r.info.wide then
        let s := s.through who p
        let s := if (heldFor s.held who r i j).isSome then { s with held := loseHalf s.held who r i } else s
        s.writeReg who r i j v
      else two
    | .go, .program b a =>
      let t := s.through who p
      if mayProg who then t.writeProgram b a (leBytes 8 v.toNat) else t
    | .go, .bar2 fn off => s.bar2Write fn off [half v false, half v true] true
    | .dark b, .reg r _ _ _ => if r.info.wide then s.darkFor who b else two
    | .dark b, .program _ _ => s.darkFor who b
    | _, _ => two

/-- Whether an access of `n` bytes that is neither 32-bit nor 64-bit is one that the program store accepts (R44). -/
def bundleSize (n a : Nat) : Bool := n ≠ 4 && n ≠ 8 && progAccess n a

/-- A read of another size: of the program store, where it accepts it, or dropped, returning zeros (R44, R87). -/
def State.readOther (s : State) (who : Requester) (a n : Nat) : State :=
  let p := s.place who a
  let none := fun (t : State) => { t with rdata := 0, rbytes := List.replicate n 0 }
  match s.meet who p, p with
  | .go, .program _ d =>
    if !bundleSize n d then none (s.status who .unmapped)
    else
      let t := s.through who p
      if !mayProg who then none t
      else
        let (l, _, t) := t.fetch d n
        { t with rdata := BitVec.ofNat 64 (leNat (l.take 8)), rbytes := l }
  | .dark b, .program _ d => if bundleSize n d then none (s.darkFor who b) else none (s.status who .unmapped)
  | _, _ => none (s.status who .unmapped)

/-- A write of another size: of the program store, where it accepts it, or dropped (R44, R87). -/
def State.writeOther (s : State) (who : Requester) (a n : Nat) (v : Word64) : State :=
  let p := s.place who a
  match s.meet who p, p with
  | .go, .program b d =>
    if !bundleSize n d then s.status who .unmapped
    else
      let t := s.through who p
      if mayProg who then t.writeProgram b d (leBytes n v.toNat) else t
  | .dark b, .program _ d => if bundleSize n d then s.darkFor who b else s.status who .unmapped
  | _, _ => s.status who .unmapped

/-- A read of `size` bytes at a register address, and what it returned. -/
def State.readAccess (s : State) (who : Requester) (a size : Nat) : State :=
  if size = 8 then
    let (v, t) := s.read64 who a
    { t with rdata := v }
  else if size = 4 then
    let (x, t) := s.read32 who a
    { t with rdata := x.setWidth 64 }
  else s.readOther who a size

/-- A write of `size` bytes at a register address; the bytes above the eighth are 0. -/
def State.writeAccess (s : State) (who : Requester) (a size : Nat) (v : Word64) : State :=
  if size = 8 then s.write64 who a v else if size = 4 then s.write32 who a (half v false) else s.writeOther who a size v

/-- The function that a requester speaks for on the host link. -/
def fnOf : Requester → Nat
  | .fn v => v
  | _ => 0

/-! ### The commands -/

/-- REGISTER_WRITE (R17); every register has its effect, whether or not it also has a row of its own.  A write of the host that
is poisoned is discarded, reported and logged (R534, R714). -/
def execRegisterWrite (who : Requester) (addr : Nat) (how : WriteForm) (val : Word64) (s : State) :
    Host.Outcome State Fault Refusal :=
  ok (if how.poisoned && isHost who then s.pcie aerPoisoned (fnOf who) addr none else s.writeAccess who addr how.size val)

/-- RC_FIELD_READ (R13, R15): the read of any register. -/
def execRcFieldRead (who : Requester) (addr size : Nat) (s : State) : Host.Outcome State Fault Refusal :=
  ok (s.readAccess who addr size)

/-- LOW_WORD_READ (R12). -/
def execLowWordRead (who : Requester) (addr : Nat) (s : State) : Host.Outcome State Fault Refusal :=
  ok (s.readAccess who addr 4)

/-- HIGH_WORD_READ (R12). -/
def execHighWordRead (who : Requester) (addr : Nat) (s : State) : Host.Outcome State Fault Refusal :=
  let (x, t) := s.read32 who addr
  ok { t with rdata := x.setWidth 64 }

/-- LOW_WORD_WRITE (R12). -/
def execLowWordWrite (who : Requester) (addr : Nat) (val : Word32) (s : State) : Host.Outcome State Fault Refusal :=
  ok (s.writeAccess who addr 4 (val.setWidth 64))

/-- HIGH_WORD_WRITE (R12). -/
def execHighWordWrite (who : Requester) (addr : Nat) (val : Word32) (s : State) : Host.Outcome State Fault Refusal :=
  ok (s.write32 who addr val)

/-- UNDOCUMENTED_OFFSET_ACCESS (R11): a read returns 0 and a write is discarded; an offset that a chapter documents acts as it
says. -/
def execUndocumentedOffsetAccess (who : Requester) (addr size : Nat) (wr : Option Word64) (s : State) :
    Host.Outcome State Fault Refusal :=
  match wr with
  | none => ok (s.readAccess who addr size)
  | some v => ok (s.writeAccess who addr size v)

end Sys2Proof.Machine
end

