-- ==== Sys2Proof/Machine/Smbus.lean ====
section
/-!
DEFINITION. Machine/Smbus.lean: the SMBus target for a tray controller (R747, R750, R751) and the boundary-scan port (R749).
-/

namespace Sys2Proof.Machine

/-! ### How an access is judged -/

/-- The statuses of an SMBus access (R750). -/
def sbOk : Nat := 0
def sbNotReady : Nat := 1
def sbDenied : Nat := 2
def sbBadAddr : Nat := 3

/-- The first address of the hub registers (R34). -/
def hubBase : Nat := 0x00A000000000

/-- Whether the block of a pointer is available (R751): the drone outside a reset, the others once the host may come and not in
RECOVERY or HALTED; in a fatal freeze only the drone, the log and the dump.
(DESIGN CHOICE, log 63.) -/
def State.smbAvailable (s : State) (k : Nat) : Bool :=
  let st := s.fget Fld.DRN_BOOT_STAGE
  if k = 0 then !s.boot.porst
  else s.powered && (st = 6 || st = 7 || (st = 5 && s.hif.ready)) && (!s.faults.frozen || k = 13 || k = 14)

/-- Whether a write of `w` bytes at an offset of the drone block touches DRN_BOOTCTL, DRN_DBGCMD or the token window.
(DESIGN CHOICE, log 63.) -/
def drnShut (o w : Nat) : Bool :=
  (o < 0x5C && 0x58 < o + w) || (o < 0x74 && 0x70 < o + w) || (o < 0x600 && 0x500 < o + w)

/-- The status of an access of `w` bytes at the pointer (R751). -/
def State.smbJudge (s : State) (w : Nat) (wr : Bool) : Nat :=
  let a := s.smb.ptr
  let o := a % 0x2000000
  let k := o / 0x100000
  if a < hubBase || hubBase + 0x2000000 ≤ a || a % w ≠ 0 then sbBadAddr
  else if !s.smbAvailable k then sbNotReady
  else if wr && (k ≠ 0 && k ≠ 1 && k ≠ 8 || k = 0 && drnShut o w) then sbDenied
  else sbOk

/-- An access that is turned away is counted (R751): BADADDR in its own field, the others in DENIED. -/
def State.smbCount (s : State) (st : Nat) : State :=
  if st = sbBadAddr then s.fsat Fld.DRN_SMBST_BADADDR else s.fsat Fld.DRN_SMBST_DENIED

/-- The state with the SMBus target changed by `f`. -/
def State.upSmb (s : State) (f : Smbus → Smbus) : State := { s with smb := f s.smb }

/-- A transaction whose error code is wrong: its PEC byte is not acknowledged, and nothing else changes. -/
def State.smbPecErr (s : State) : State := (s.fsat Fld.DRN_SMBST_PECERR).upSmb fun x => { x with nack := true }

/-- Whether the target answers at all: the drone has power (R747). -/
def State.smbUp (s : State) : Bool := s.boot.alwaysOn

/-! ### The commands -/

/-- SETADDR (R750). -/
def execSetaddr (addr : Nat) (pec : Bool) (s : State) : Host.Outcome State Fault Refusal :=
  ok (when s.smbUp s
    (if pec then s.upSmb fun x => { x with ptr := addr % 2 ^ 48, nack := false } else s.smbPecErr))

/-- A read that is turned away: its data bytes are free, for the spec gives them no value.
(DESIGN CHOICE, log 64.) -/
def State.smbNoRead (s : State) (st n : Nat) : State :=
  let (l, s) := (s.smbCount st).freeBytes n
  s.upSmb fun x => { x with status := st, data := l }

/-- A read of `n` bytes that returned `v`; the pointer advances (R750). -/
def State.smbData (s : State) (n v : Nat) : State :=
  s.upSmb fun x => { x with status := sbOk, data := leBytes n v, ptr := (x.ptr + n) % 2 ^ 48 }

/-- READ32 (R750, R751). -/
def execRead32 (s : State) : Host.Outcome State Fault Refusal :=
  let st := s.smbJudge 4 false
  ok (when s.smbUp s
    (if st ≠ sbOk then s.smbNoRead st 4
     else
      let (v, t) := s.read32 .smbus s.smb.ptr
      t.smbData 4 v.toNat))

/-- READ64 (R750, R751). -/
def execRead64 (s : State) : Host.Outcome State Fault Refusal :=
  let st := s.smbJudge 8 false
  ok (when s.smbUp s
    (if st ≠ sbOk then s.smbNoRead st 8
     else
      let (v, t) := s.read64 .smbus s.smb.ptr
      t.smbData 8 v.toNat))

/-- The end of a write with its status (R750). -/
def State.smbWrote (s : State) (st n : Nat) : State :=
  s.upSmb fun x => { x with last := st, nack := false, ptr := if st = sbOk then (x.ptr + n) % 2 ^ 48 else x.ptr }

/-- WRITE32 (R750, R751). -/
def execWrite32 (val : Word32) (pec : Bool) (s : State) : Host.Outcome State Fault Refusal :=
  let st := s.smbJudge 4 true
  ok (when s.smbUp s
    (if !pec then s.smbPecErr
     else if st ≠ sbOk then (s.smbCount st).smbWrote st 4
     else (s.write32 .smbus s.smb.ptr val).smbWrote sbOk 4))

/-- WRITE64 (R750, R751). -/
def execWrite64 (val : Word64) (pec : Bool) (s : State) : Host.Outcome State Fault Refusal :=
  let st := s.smbJudge 8 true
  ok (when s.smbUp s
    (if !pec then s.smbPecErr
     else if st ≠ sbOk then (s.smbCount st).smbWrote st 8
     else (s.write64 .smbus s.smb.ptr val).smbWrote sbOk 8))

/-- LASTST (R750): the one byte is the status of the latest write. -/
def execLastst (s : State) : Host.Outcome State Fault Refusal :=
  ok (when s.smbUp s (s.upSmb fun x => { x with data := leBytes 1 x.last }))

/-- SMBUS_TIMEOUT (R747): the transaction under way is forgotten; nothing that it had not finished has changed. -/
def execSmbusTimeout (s : State) : Host.Outcome State Fault Refusal := ok s

/-! ### Boundary scan -/

/-- What the selected data register captures, lowest bit first: the IDCODE, the balls, or the single 0 of the bypass register
(R749, IEEE 1149.1).
(PRESUMED, log 67.) -/
def tapCapture (i : TapInstr) (balls : List Bool) : List Bool :=
  match i with
  | .idcode => (List.range 32).map (bit 0x2A6400B5)
  | .samplePreload => balls
  | .extest => balls
  | _ => [false]

/-- A shift of the selected data register: the bits that come out at JTAG_TDO, and what the register holds. -/
def tapShift (i : TapInstr) (balls tdi : List Bool) : List Bool × List Bool :=
  let l := tapCapture i balls ++ tdi
  (l.take tdi.length, l.drop tdi.length)

/-- The state with the boundary-scan port changed by `f`. -/
def State.upTap (s : State) (f : Tap → Tap) : State := { s with tap := f s.tap }

/-- Whether the selected register is the boundary register. -/
def tapBoundary (i : TapInstr) : Bool := i = .samplePreload || i = .extest

/-- BOUNDARY_SCAN (R749).  The spec does not say what the private instructions do, so one that DRN_DBG.PERM permits is refused;
one that it does not permit acts as BYPASS does.
(PRESUMED, log 67.) -/
def execBoundaryScan (op : TapOp) (s : State) : Host.Outcome State Fault Refusal :=
  match op with
  | .reset => ok (s.upTap fun x => { x with inst := .idcode })
  | .instruction (.priv _) =>
    if bit (s.fget Fld.DRN_DBG_PERM) 0 then .refused .privateTapInstruction
    else ok (s.upTap fun x => { x with inst := .bypass })
  | .instruction i => ok (s.upTap fun x => { x with inst := i })
  | .shift balls tdi =>
    let (out, l) := tapShift s.tap.inst balls tdi
    ok (s.upTap fun x => { x with chain := l, tdo := out })
  | .update => ok (s.upTap fun x => if tapBoundary x.inst then { x with upd := x.chain } else x)

end Sys2Proof.Machine
end

