-- ==== Sys2Proof/Machine/Dump.lean ====
section
/-!
DEFINITION. Machine/Dump.lean: the PACKAGE error and the fatal dump (R698, R715 to R719, R725 to R728, R732), the summary in keep
flash (R722) and the HBM patrol (R706).
-/

namespace Sys2Proof.Machine

/-! ### What the dump reads -/

/-- Whether the dump writes zeros for a bore (R719). -/
def State.darkBore (s : State) (b : Nat) : Bool := s.pstate b = psDeep || s.pstate b = psOff

/-- A 32-bit word of a register block as a dump read sees it: it changes nothing, RC fields stay, and WO bits read 0 (R719).
(DEDUCED, log 66.) -/
def State.peek (s : State) (a : Nat) : Word32 :=
  match devPlace a with
  | .reg r i j high => half (s.regValue .drone r i j) high
  | .reedWin b off => half (s.reedWindow b off none).rdata false
  | .program _ _ => BitVec.ofNat 32 (leNat (s.bytes a 4))
  | _ => 0

/-- The bytes of `n` words of registers from an address. -/
def State.peeks (s : State) (a n : Nat) : List Byte :=
  (List.range n).flatMap fun k => leBytes 4 (s.peek (a + 4 * k)).toNat

/-- The 32 bytes of a slot of the trouble log. -/
def State.logSlot (s : State) (k : Nat) : List Byte :=
  (List.range 8).flatMap fun w => leBytes 4 (s.rget .LOG_ENTRY 0 (8 * (k % 4096) + w)).toNat

/-- The latest `n` slots of the trouble log, oldest first; slots that no entry has filled follow. -/
def State.logLatest (s : State) (n : Nat) : List Byte :=
  let h := s.fget Fld.LOG_HEAD_COUNT
  (List.range n).flatMap fun k => s.logSlot ((if h < n then 0 else h - n) + k)

/-- Section 3 for bore `b` (R717). -/
def State.boreImage (s : State) (b : Nat) : List Byte :=
  if s.darkBore b then List.replicate 0x40000 0
  else (List.range 8).flatMap fun k => s.peeks (0x009000000000 + 0x100000 * b + 0x10000 * k) 0x2000

/-- Section 4 for bore `b`. -/
def State.storeImage (s : State) (b : Nat) : List Byte :=
  if s.darkBore b then List.replicate 0x80000 0 else s.bytes (psBase b) 0x80000

/-- The bytes of section `id` (R717), for IDs 1 to 4. -/
def State.section (s : State) (id : Nat) : List Byte :=
  if id = 1 then s.logLatest 4096
  else if id = 2 then s.peeks hubBase (15 * 0x40000)
  else if id = 3 then (List.range 64).flatMap s.boreImage
  else (List.range 64).flatMap s.storeImage

/-- Where a section starts in the window (R717). -/
def sectionAt (id : Nat) : Nat :=
  if id = 0 then 0 else if id = 1 then 0x1000 else if id = 2 then 0x100000 else if id = 3 then 0x1000000
  else if id = 4 then 0x2000000 else if id = 5 then 0x4000000 else Config.dumpSize

/-- The byte at a device address as the dump reads it, with its poison; none where nothing backs the address (R719).  The device
makes no request to the host while it is frozen (R716), so what it writes for host memory is free. -/
def State.rangeByte (s : State) (a : Nat) : Option (Byte × Bool) :=
  match s.home a with
  | .hbm => some (s.byteAt a, decide (unitOf a ∈ s.poison))
  | .windchest b _ => some (if s.darkBore b then (0, false) else (s.byteAt a, decide (unitOf a ∈ s.poison)))
  | .pstore b _ => some (if s.darkBore b then 0 else s.byteAt a, false)
  | .boreReg b _ _ => some (if s.darkBore b then 0 else (leBytes 4 (s.peek (a / 4 * 4)).toNat).getD (a % 4) 0, false)
  | .hubReg _ _ => some ((leBytes 4 (s.peek (a / 4 * 4)).toNat).getD (a % 4) 0, false)
  | .host h => some (Config.freeValue 8 (s.freeCtr + h), false)
  | .unbacked => none

/-- The bytes of a range: zeros from the first unbacked address on (R719). -/
def State.rangeBytes (s : State) (a : Nat) : Nat → List (Byte × Bool)
  | 0 => []
  | n + 1 => match s.rangeByte a with
    | some x => x :: s.rangeBytes (a + 1) n
    | none => List.replicate (n + 1) (0, false)

/-- The ranges that are used, in order, with their lengths in bytes cut to the room that is left (R717, R732).
(DEDUCED, log 66.) -/
def State.rangesFrom (s : State) (room : Nat) : List Nat → List (Nat × Nat)
  | [] => []
  | r :: l =>
    if s.flag Fld.DMP_RLEN_EN 0 r then
      let n := min (4096 * s.fget Fld.DMP_RLEN_LEN 0 r) room
      (4096 * s.fget Fld.DMP_RBASE_BASE 0 r, n) :: s.rangesFrom (room - n) l
    else s.rangesFrom room l

/-- The ranges of section 5. -/
def State.ranges (s : State) : List (Nat × Nat) := s.rangesFrom (Config.dumpSize - sectionAt 5) (List.range 16)

/-! ### The header -/

/-- The DARK word of the header (R718). -/
def State.darkMask (s : State) : Nat := (List.range 64).foldl (fun v b => v + 2 ^ b * b2n (s.darkBore b)) 0

/-- The record of a section that was written (R718). -/
def sectionRecord (id len crc : Nat) : List Byte :=
  leBytes 4 (sectionAt id) ++ leBytes 4 len ++ leBytes 4 crc ++ leBytes 4 id

/-- The records of sections 1 to 5: of those written, as written; of the others, which the spec gives no record, free bytes. -/
def State.sectionRecords (s : State) (done : Nat) : List Byte × State :=
  [1, 2, 3, 4, 5].foldl (fun (l, t) id =>
    if done < id then
      let (x, t) := t.freeBytes 16
      (l ++ x, t)
    else
      let d := if id = 5 then (s.ranges.flatMap fun r => s.rangeBytes r.1 r.2).map (·.1) else s.section id
      (l ++ sectionRecord id d.length (crc32 d), t)) ([], s)

/-- The 4 KiB of the header (R718), after `done` of sections 1 to 5, with its STATE byte. -/
def State.dumpHeader (s : State) (done : Nat) (st : Byte) : List Byte × State :=
  let rs := if done = 5 then s.ranges else []
  let (recs, t) := s.sectionRecords done
  let ranges := rs.flatMap fun r => leBytes 8 r.1 ++ leBytes 8 r.2
  let l := leBytes 4 0x504D5544 ++ leBytes 2 1 ++ [st, 0] ++ leBytes 8 (s.rget .DMP_TIME).toNat
    ++ leBytes 4 (s.rget .DRN_DEVID).toNat ++ leBytes 2 (s.fget Fld.DMP_STATUS_CAUSE)
    ++ leBytes 2 (s.fget Fld.DMP_STATUS_SOURCE) ++ leBytes 4 s.faults.dumpHead.toNat ++ leBytes 4 rs.length
    ++ leBytes 8 s.darkMask ++ leBytes 8 s.faults.dumpBoot.toNat ++ List.replicate 16 0
    ++ sectionRecord 0 4096 0 ++ recs ++ List.replicate 32 0 ++ ranges
  (l ++ List.replicate (4096 - l.length) 0, t)

/-! ### Writing it -/

/-- Sections 1 to `done` written into a window that is otherwise 0 (R717): `s0` is the device as the dump reads it. -/
def State.writeSections (s0 : State) (done : Nat) : State :=
  let base := Config.dumpBase s0.small
  let s := s0.zeroRange base (sectionAt (done + 1))
  let s := s.each ([1, 2, 3, 4].filter (· ≤ done)) fun s id => s.setBytes (base + sectionAt id) (s0.section id)
  if done < 5 then s
  else
    let s : State := { s with freeCtr := s.freeCtr + 2 ^ 47 }
    s.storeP (base + sectionAt 5) (s0.ranges.flatMap fun r => s0.rangeBytes r.1 r.2)

/-- The outcome of the summary (R732). -/
def State.sumSt (s : State) (v : Nat) : State := s.fput Fld.DMP_STATUS_SUMST v

/-- The first address of a summary slot (R722). -/
def summaryAt (k : Nat) : Nat := 0x500000 + 0x10000 * (k % 16)

/-- The next slot erased in advance, unless power fails (R722, R724). -/
def State.eraseSlot (s : State) (adc : Nat) : State :=
  if s.faults.pwrFail then s
  else match s.holdup 2 adc with
    | (true, s) => s.flashErase (summaryAt s.faults.sumSlot) 0x10000
    | (false, s) => s

/-- The summary written (R715 step 4, R722, R726).  Whether the flash verifies it is free. -/
def State.summary (s : State) (hdr : List Byte) (adc : Nat) : State :=
  if s.fget Fld.DMP_CFG_SUMMARY = 0 then s.sumSt 4
  else match s.holdup 4 adc with
    | (false, s) => s.sumSt 2
    | (true, s) =>
      let a := summaryAt s.faults.sumSlot
      let (good, s) := s.free 1
      if good = 1 then
        let s := (s.flashErase a 0x10000).flashPut a (hdr ++ s.logLatest 1920)
        (({ s with faults := { s.faults with sumSlot := (s.faults.sumSlot + 1) % 16 } }).sumSt 1).eraseSlot adc
      else ((s.flashLost a 0x10000).sumSt 3).log srcKeep 0x0081 none 0 (leBytes 4 a)

/-- Steps 4 and 5 of R715: the summary, and the reboot where DMP_CFG asks for it. -/
def State.dumpEnd (s : State) (hdr : List Byte) (adc : Nat) : State :=
  let s := s.summary hdr adc
  if s.flag Fld.DMP_CFG_AUTOREBOOT then s.packageReboot else s

/-- The dump written (R715 step 3, R726): whole, or up to a section boundary where power fails, and which one is free. -/
def State.writeDump (s : State) (adc : Nat) : State :=
  let cut := s.faults.truncate
  let (n, s) := if cut then s.free 3 else (5, s)
  let done := if cut then n.toNat % 6 else 5
  let (hdr, t) := s.dumpHeader done (if cut then 2 else 1)
  let t := { s.writeSections done with freeCtr := max t.freeCtr (s.writeSections done).freeCtr }
  let t := (t.setBytes (Config.dumpBase t.small) hdr).fput Fld.DMP_STATUS_STATE (if cut then dsTruncated else dsComplete)
  t.dumpEnd hdr adc

/-- The summary alone, where the dump window cannot be written (R725): no section was written, and the header's STATE is free. -/
def State.writeNoWindow (s : State) (adc : Nat) : State :=
  let (st, s) := s.free 8
  let (hdr, s) := s.dumpHeader 0 st
  s.dumpEnd hdr adc

/-- Whether the summary is still due. -/
def State.sumDue (s : State) : Bool := s.fget Fld.DMP_STATUS_STATE = dsNoWindow && s.fget Fld.DMP_STATUS_SUMST = 0

/-! ### The commands -/

/-- FATAL (R698, R715): a hub error, an HBM stack that stops answering or an error of the hub fabric, with the SOURCE of the
failing unit; the other causes come with THERMTRIP and HOSTFORCE.
(DEDUCED, log 65.) -/
def execFatal (cause src : Nat) (s : State) : Host.Outcome State Fault Refusal :=
  ok (when (cause = pkHubUe || cause = pkHbmFatal || cause = pkWindway) s (s.packageError cause (src % 0x10000)))

/-- DUMP_COMPLETE (R715). -/
def execDumpComplete (adc : Nat) (s : State) : Host.Outcome State Fault Refusal :=
  if !s.faults.frozen then ok s
  else if s.fget Fld.DMP_STATUS_STATE = dsWriting then ok (s.writeDump adc)
  else ok (when s.sumDue s (s.writeNoWindow adc))

/-- Whether the dump's registers can be written. -/
def State.dmpReg (s : State) (who : Requester) : Bool := mayPf who && s.blockOpen who .DMP

/-- HOSTFORCE (R698, R728). -/
def execHostforce (who : Requester) (s : State) : Host.Outcome State Fault Refusal :=
  ok (when (s.dmpReg who) s s.forceDump)

/-- DUMP_CLEAR (R732). -/
def execDumpClear (who : Requester) (s : State) : Host.Outcome State Fault Refusal :=
  ok (when (s.dmpReg who) s s.clearDump)

/-! ### The patrol -/

/-- The address of 32-byte block `k` of stack `h` (R35). -/
def patrolAddr (small : Bool) (h k : Nat) : Nat :=
  Config.region small * (h / 2) + 4096 * ((k / 128 * 2 + h % 2)) + k % 128 * 32

/-- An error that stands in a block when it is next read: one bit, or more than one.
(DESIGN CHOICE, log 24.) -/
def State.strike (s : State) (u : Nat) : Option Bool → State
  | none => s
  | some false => { s with single := sinsert u s.single }
  | some true => { s with double := sinsert u s.double }

/-- HBM_PATROL (R706): the controller of stack `h` reads and checks a block; `event` is an error that it meets there.
(DESIGN CHOICE, log 24.) -/
def execHbmPatrol (h blk : Nat) (event : Option Bool) (s : State) : Host.Outcome State Fault Refusal :=
  let u := patrolAddr s.small h blk
  ok (when (h < 8 && u < Config.hbmEnd s.small && stackOf s.small u = h && s.home u = .hbm && s.hubOpen && s.fabRun (h / 2)) s
    ((s.strike u event).checkUnit u))

end Sys2Proof.Machine
end

