-- ==== Sys2Proof/Machine/Dispatch.lean ====
section
/-!
DEFINITION. Machine/Dispatch.lean: the meaning of each command, one arm per constructor of `Instr`.
-/

namespace Sys2Proof.Machine

/-- A command's effect on everything but the queue of waiting commands. -/
def exec (i : Instr) (s : State) : Host.Outcome State Fault Refusal :=
  match i with
  | .coldReset strap => Sys2Proof.Machine.execColdReset strap s
  | .porstNAssert => Sys2Proof.Machine.execPorstNAssert s
  | .warmReset scope => Sys2Proof.Machine.execWarmReset scope s
  | .registerWrite who addr how val => Sys2Proof.Machine.execRegisterWrite who addr how val s
  | .rcFieldRead who addr size => Sys2Proof.Machine.execRcFieldRead who addr size s
  | .lowWordRead who addr => Sys2Proof.Machine.execLowWordRead who addr s
  | .highWordRead who addr => Sys2Proof.Machine.execHighWordRead who addr s
  | .lowWordWrite who addr val => Sys2Proof.Machine.execLowWordWrite who addr val s
  | .highWordWrite who addr val => Sys2Proof.Machine.execHighWordWrite who addr val s
  | .undocumentedOffsetAccess who addr size wr => Sys2Proof.Machine.execUndocumentedOffsetAccess who addr size wr s
  | .windwayWriteArrival src dst => Sys2Proof.Machine.execWindwayWriteArrival src dst s
  | .windwayReadArrival src dst => Sys2Proof.Machine.execWindwayReadArrival src dst s
  | .readCompletionArrival src dst => Sys2Proof.Machine.execReadCompletionArrival src dst s
  | .writeAcknowledgement src dst => Sys2Proof.Machine.execWriteAcknowledgement src dst s
  | .boreClockStartForAccess b => Sys2Proof.Machine.execBoreClockStartForAccess b s
  | .fabricRestart q => Sys2Proof.Machine.execFabricRestart q s
  | .fabricIdleStop q => Sys2Proof.Machine.execFabricIdleStop q s
  | .translationWalk b => Sys2Proof.Machine.execTranslationWalk b s
  | .programStoreWrite who addr data => Sys2Proof.Machine.execProgramStoreWrite who addr data s
  | .registerWindowAccess who b off wr => Sys2Proof.Machine.execRegisterWindowAccess who b off wr s
  | .chnPcWrite who b val => Sys2Proof.Machine.execChnPcWrite who b val s
  | .go who b => Sys2Proof.Machine.execGo who b s
  | .step who b => Sys2Proof.Machine.execStep who b s
  | .chnCtrlHalt who b => Sys2Proof.Machine.execChnCtrlHalt who b s
  | .clrfault who b => Sys2Proof.Machine.execClrfault who b s
  | .clrcnt who b => Sys2Proof.Machine.execClrcnt who b s
  | .bundleIssue b => Sys2Proof.Machine.execBundleIssue b s
  | .waitTimeout b => Sys2Proof.Machine.execWaitTimeout b s
  | .registerWriteback b k => Sys2Proof.Machine.execRegisterWriteback b k s
  | .loadCompletion b id => Sys2Proof.Machine.execLoadCompletion b id s
  | .impreciseFault b => Sys2Proof.Machine.execImpreciseFault b s
  | .chanterHaltComplete b => Sys2Proof.Machine.execChanterHaltComplete b s
  | .dmaRequestStart b => Sys2Proof.Machine.execDmaRequestStart b s
  | .dmaCompletion b id => Sys2Proof.Machine.execDmaCompletion b id s
  | .feedTileComplete b => Sys2Proof.Machine.execFeedTileComplete b s
  | .arrayInstructionBegin b => Sys2Proof.Machine.execArrayInstructionBegin b s
  | .arrayInstructionFinish o => Sys2Proof.Machine.execArrayInstructionFinish o s
  | .drainCompletion b => Sys2Proof.Machine.execDrainCompletion b s
  | .vkloadComplete b => Sys2Proof.Machine.execVkloadComplete b s
  | .launchStart b r => Sys2Proof.Machine.execLaunchStart b r s
  | .launchFinish b id => Sys2Proof.Machine.execLaunchFinish b id s
  | .rankStopComplete b r => Sys2Proof.Machine.execRankStopComplete b r s
  | .arrivalSend b => Sys2Proof.Machine.execArrivalSend b s
  | .columnTest who b => Sys2Proof.Machine.execColumnTest who b s
  | .columnTestDone b cols rowfail => Sys2Proof.Machine.execColumnTestDone b cols rowfail s
  | .bypassCommit who b adc => Sys2Proof.Machine.execBypassCommit who b adc s
  | .bypassCommitDone b good adc => Sys2Proof.Machine.execBypassCommitDone b good adc s
  | .reedIssue b r lane => Sys2Proof.Machine.execReedIssue b r lane s
  | .reedLoadReturn b r lane => Sys2Proof.Machine.execReedLoadReturn b r lane s
  | .rankBarrierComplete b r scope => Sys2Proof.Machine.execRankBarrierComplete b r scope s
  | .rankArrivalSend b r => Sys2Proof.Machine.execRankArrivalSend b r s
  | .reedDebugWindowAccess who b off wr => Sys2Proof.Machine.execReedDebugWindowAccess who b off wr s
  | .alloc who b h => Sys2Proof.Machine.execAlloc who b h s
  | .allocLock who b h => Sys2Proof.Machine.execAllocLock who b h s
  | .release who b h => Sys2Proof.Machine.execRelease who b h s
  | .releaseScrub who b h => Sys2Proof.Machine.execReleaseScrub who b h s
  | .handleCommandEffect b => Sys2Proof.Machine.execHandleCommandEffect b s
  | .scrubStart b => Sys2Proof.Machine.execScrubStart b s
  | .scrubEnd b => Sys2Proof.Machine.execScrubEnd b s
  | .wchClear who b => Sys2Proof.Machine.execWchClear who b s
  | .wchFreeze who b v => Sys2Proof.Machine.execWchFreeze who b v s
  | .messageArrival src b => Sys2Proof.Machine.execMessageArrival src b s
  | .channelIncrementArrival src b => Sys2Proof.Machine.execChannelIncrementArrival src b s
  | .nackMessageArrival src b => Sys2Proof.Machine.execNackMessageArrival src b s
  | .creditReturn src dst => Sys2Proof.Machine.execCreditReturn src dst s
  | .reservationRelease src dst => Sys2Proof.Machine.execReservationRelease src dst s
  | .orphanMarkArrival src dst => Sys2Proof.Machine.execOrphanMarkArrival src dst s
  | .routeWrite who tbl owner entry second val => Sys2Proof.Machine.execRouteWrite who tbl owner entry second val s
  | .queueConfigWrite who b q val => Sys2Proof.Machine.execQueueConfigWrite who b q val s
  | .qctlOpen who b q => Sys2Proof.Machine.execQctlOpen who b q s
  | .qctlClose who b q => Sys2Proof.Machine.execQctlClose who b q s
  | .newepoch who b q => Sys2Proof.Machine.execNewepoch who b q s
  | .channelAudit who b ch => Sys2Proof.Machine.execChannelAudit who b ch s
  | .auditMarkerArrival src b => Sys2Proof.Machine.execAuditMarkerArrival src b s
  | .auditReplyArrival src b => Sys2Proof.Machine.execAuditReplyArrival src b s
  | .poolIncrementArrival src => Sys2Proof.Machine.execPoolIncrementArrival src s
  | .watchArrival src => Sys2Proof.Machine.execWatchArrival src s
  | .watchAnswerArrival b => Sys2Proof.Machine.execWatchAnswerArrival b s
  | .barrierArrival src => Sys2Proof.Machine.execBarrierArrival src s
  | .barrierCompletionArrival b => Sys2Proof.Machine.execBarrierCompletionArrival b s
  | .abort who bid => Sys2Proof.Machine.execAbort who bid s
  | .poolBlockWrite who blk val => Sys2Proof.Machine.execPoolBlockWrite who blk val s
  | .barrierConfigWrite who bid val => Sys2Proof.Machine.execBarrierConfigWrite who bid val s
  | .counterValueWrite who bore n val => Sys2Proof.Machine.execCounterValueWrite who bore n val s
  | .counterArmWrite who b n val => Sys2Proof.Machine.execCounterArmWrite who b n val s
  | .stgStart who p => Sys2Proof.Machine.execStgStart who p s
  | .stgStop who p => Sys2Proof.Machine.execStgStop who p s
  | .nextstep who p => Sys2Proof.Machine.execNextstep who p s
  | .stgInject who p val => Sys2Proof.Machine.execStgInject who p val s
  | .tagMessageArrival p => Sys2Proof.Machine.execTagMessageArrival p s
  | .doneReport src p => Sys2Proof.Machine.execDoneReport src p s
  | .controlMessage src p => Sys2Proof.Machine.execControlMessage src p s
  | .dispatch p => Sys2Proof.Machine.execDispatch p s
  | .stepend p => Sys2Proof.Machine.execStepend p s
  | .emission p => Sys2Proof.Machine.execEmission p s
  | .stashChunk p out => Sys2Proof.Machine.execStashChunk p out s
  | .stashOutComplete p => Sys2Proof.Machine.execStashOutComplete p s
  | .restoreRequest p => Sys2Proof.Machine.execRestoreRequest p s
  | .restoreComplete p => Sys2Proof.Machine.execRestoreComplete p s
  | .amaxReport src h => Sys2Proof.Machine.execAmaxReport src h s
  | .lossReport src h => Sys2Proof.Machine.execLossReport src h s
  | .gateRequest src h => Sys2Proof.Machine.execGateRequest src h s
  | .gateRelease who h => Sys2Proof.Machine.execGateRelease who h s
  | .gateSkip who h => Sys2Proof.Machine.execGateSkip who h s
  | .holdnext who h => Sys2Proof.Machine.execHoldnext who h s
  | .verdictSend h => Sys2Proof.Machine.execVerdictSend h s
  | .roundCompletion h slot => Sys2Proof.Machine.execRoundCompletion h slot s
  | .rebuild who p subst => Sys2Proof.Machine.execRebuild who p subst s
  | .rebuildComplete p fails => Sys2Proof.Machine.execRebuildComplete p fails s
  | .create who c => Sys2Proof.Machine.execCreate who c s
  | .load who c => Sys2Proof.Machine.execLoad who c s
  | .contextBinding c => Sys2Proof.Machine.execContextBinding c s
  | .evict who c => Sys2Proof.Machine.execEvict who c s
  | .evictionSave c => Sys2Proof.Machine.execEvictionSave c s
  | .prtStart who c => Sys2Proof.Machine.execPrtStart who c s
  | .prtEnd who c => Sys2Proof.Machine.execPrtEnd who c s
  | .endingRelease c => Sys2Proof.Machine.execEndingRelease c s
  | .prtReset who c => Sys2Proof.Machine.execPrtReset who c s
  | .destroy who c => Sys2Proof.Machine.execDestroy who c s
  | .contextStartDispatch b => Sys2Proof.Machine.execContextStartDispatch b s
  | .residencyArrival src => Sys2Proof.Machine.execResidencyArrival src s
  | .ctxInval who c => Sys2Proof.Machine.execCtxInval who c s
  | .invalidationComplete c => Sys2Proof.Machine.execInvalidationComplete c s
  | .crkEnable who k on => Sys2Proof.Machine.execCrkEnable who k on s
  | .crkRetrain who k => Sys2Proof.Machine.execCrkRetrain who k s
  | .crkReset who k => Sys2Proof.Machine.execCrkReset who k s
  | .trainingComplete k init => Sys2Proof.Machine.execTrainingComplete k init s
  | .trainingTimeout k => Sys2Proof.Machine.execTrainingTimeout k s
  | .retrainComplete k init => Sys2Proof.Machine.execRetrainComplete k init s
  | .retrainTimeout k => Sys2Proof.Machine.execRetrainTimeout k s
  | .laneLockLoss k => Sys2Proof.Machine.execLaneLockLoss k s
  | .initFlitReceived k init => Sys2Proof.Machine.execInitFlitReceived k init s
  | .flitReceived k flit => Sys2Proof.Machine.execFlitReceived k flit s
  | .replayTimeout k => Sys2Proof.Machine.execReplayTimeout k s
  | .flitTransmit k => Sys2Proof.Machine.execFlitTransmit k s
  | .putCommand src k => Sys2Proof.Machine.execPutCommand src k s
  | .redCommand src k => Sys2Proof.Machine.execRedCommand src k s
  | .transferStart k dq => Sys2Proof.Machine.execTransferStart k dq s
  | .putArrival k => Sys2Proof.Machine.execPutArrival k s
  | .putComplete k => Sys2Proof.Machine.execPutComplete k s
  | .redArrival k => Sys2Proof.Machine.execRedArrival k s
  | .ackArrival k => Sys2Proof.Machine.execAckArrival k s
  | .msgTransfer k => Sys2Proof.Machine.execMsgTransfer k s
  | .incTransfer k => Sys2Proof.Machine.execIncTransfer k s
  | .retTransfer k => Sys2Proof.Machine.execRetTransfer k s
  | .tagTransfer k => Sys2Proof.Machine.execTagTransfer k s
  | .auditTransfer k => Sys2Proof.Machine.execAuditTransfer k s
  | .windowWrite who k w second val => Sys2Proof.Machine.execWindowWrite who k w second val s
  | .doorbell fn off words full poisoned => Sys2Proof.Machine.execDoorbell fn off words full poisoned s
  | .doorbellForward fn => Sys2Proof.Machine.execDoorbellForward fn s
  | .doorbellStatusClear fn off val => Sys2Proof.Machine.execDoorbellStatusClear fn off val s
  | .headWrite fn off val => Sys2Proof.Machine.execHeadWrite fn off val s
  | .armWrite fn off val => Sys2Proof.Machine.execArmWrite fn off val s
  | .hostMessageArrival src => Sys2Proof.Machine.execHostMessageArrival src s
  | .vfLoad vf n => Sys2Proof.Machine.execVfLoad vf n s
  | .vfEvict vf n => Sys2Proof.Machine.execVfEvict vf n s
  | .vfStart vf n => Sys2Proof.Machine.execVfStart vf n s
  | .vfEnd vf n => Sys2Proof.Machine.execVfEnd vf n s
  | .vfReset vf n => Sys2Proof.Machine.execVfReset vf n s
  | .vfmapWrite who vf val => Sys2Proof.Machine.execVfmapWrite who vf val s
  | .dbrWrite who r val => Sys2Proof.Machine.execDbrWrite who r val s
  | .hringWrite who r val => Sys2Proof.Machine.execHringWrite who r val s
  | .ctxhWrite who c val => Sys2Proof.Machine.execCtxhWrite who c val s
  | .bar4Access off len acc => Sys2Proof.Machine.execBar4Access off len acc s
  | .configRequest fn op => Sys2Proof.Machine.execConfigRequest fn op s
  | .flr vf => Sys2Proof.Machine.execFlr vf s
  | .hostReset linkDown => Sys2Proof.Machine.execHostReset linkDown s
  | .linkUp flit speed width => Sys2Proof.Machine.execLinkUp flit speed width s
  | .hostReadCompletion dst st data => Sys2Proof.Machine.execHostReadCompletion dst st data s
  | .completionTimeout dst => Sys2Proof.Machine.execCompletionTimeout dst s
  | .bpcmdWake who b => Sys2Proof.Machine.execBpcmdWake who b s
  | .bpcmdSleep who b => Sys2Proof.Machine.execBpcmdSleep who b s
  | .bpcmdDeep who b => Sys2Proof.Machine.execBpcmdDeep who b s
  | .bpcmdOff who b => Sys2Proof.Machine.execBpcmdOff who b s
  | .bpcmdOn who b => Sys2Proof.Machine.execBpcmdOn who b s
  | .quietTimeout b => Sys2Proof.Machine.execQuietTimeout b s
  | .idleTimeout b => Sys2Proof.Machine.execIdleTimeout b s
  | .sleepTimeout b => Sys2Proof.Machine.execSleepTimeout b s
  | .powerStateEntryComplete b => Sys2Proof.Machine.execPowerStateEntryComplete b s
  | .wakeTrigger b => Sys2Proof.Machine.execWakeTrigger b s
  | .wakeComplete b => Sys2Proof.Machine.execWakeComplete b s
  | .bellowsPeriod => Sys2Proof.Machine.execBellowsPeriod s
  | .tokenCredit => Sys2Proof.Machine.execTokenCredit s
  | .thermalReading temps => Sys2Proof.Machine.execThermalReading temps s
  | .powerSum => Sys2Proof.Machine.execPowerSum s
  | .pmbusPoll reads => Sys2Proof.Machine.execPmbusPoll reads s
  | .pmbAlert reads => Sys2Proof.Machine.execPmbAlert reads s
  | .fanFail f rpm => Sys2Proof.Machine.execFanFail f rpm s
  | .refclkLoss => Sys2Proof.Machine.execRefclkLoss s
  | .refclkRestore => Sys2Proof.Machine.execRefclkRestore s
  | .blwLimitWrite who val => Sys2Proof.Machine.execBlwLimitWrite who val s
  | .retirementDrained b => Sys2Proof.Machine.execRetirementDrained b s
  | .retirementAbandon b => Sys2Proof.Machine.execRetirementAbandon b s
  | .drainIntervalEnd b => Sys2Proof.Machine.execDrainIntervalEnd b s
  | .stubAnswer src b => Sys2Proof.Machine.execStubAnswer src b s
  | .leaveOffComplete b => Sys2Proof.Machine.execLeaveOffComplete b s
  | .wakefail b => Sys2Proof.Machine.execWakefail b s
  | .railSequence => Sys2Proof.Machine.execRailSequence s
  | .railSequenceTimeout => Sys2Proof.Machine.execRailSequenceTimeout s
  | .firmwareVerify => Sys2Proof.Machine.execFirmwareVerify s
  | .fuseApply => Sys2Proof.Machine.execFuseApply s
  | .hbmTraining trained => Sys2Proof.Machine.execHbmTraining trained s
  | .hostready => Sys2Proof.Machine.execHostready s
  | .selfTest results adc => Sys2Proof.Machine.execSelfTest results adc s
  | .capabilityPublish => Sys2Proof.Machine.execCapabilityPublish s
  | .reboot who => Sys2Proof.Machine.execReboot who s
  | .svnlock who adc fused => Sys2Proof.Machine.execSvnlock who adc fused s
  | .challenge who => Sys2Proof.Machine.execChallenge who s
  | .submit who => Sys2Proof.Machine.execSubmit who s
  | .relock who => Sys2Proof.Machine.execRelock who s
  | .nonceExpiry => Sys2Proof.Machine.execNonceExpiry s
  | .consoleRelease => Sys2Proof.Machine.execConsoleRelease s
  | .embEnable who n => Sys2Proof.Machine.execEmbEnable who n s
  | .embDisable who n => Sys2Proof.Machine.execEmbDisable who n s
  | .embGaincommit who n => Sys2Proof.Machine.execEmbGaincommit who n s
  | .query who n => Sys2Proof.Machine.execQuery who n s
  | .gainSetRead n => Sys2Proof.Machine.execGainSetRead n s
  | .boreGaincommit src => Sys2Proof.Machine.execBoreGaincommit src s
  | .portEnable who p => Sys2Proof.Machine.execPortEnable who p s
  | .portDisable who p => Sys2Proof.Machine.execPortDisable who p s
  | .rateAck who p => Sys2Proof.Machine.execRateAck who p s
  | .frameSync p period clocks slots => Sys2Proof.Machine.execFrameSync p period clocks slots s
  | .holdoverEntry p => Sys2Proof.Machine.execHoldoverEntry p s
  | .portFrameStart p => Sys2Proof.Machine.execPortFrameStart p s
  | .captureFrameEnd n => Sys2Proof.Machine.execCaptureFrameEnd n s
  | .statisticsRecordWrite n => Sys2Proof.Machine.execStatisticsRecordWrite n s
  | .frameReadyMessage n => Sys2Proof.Machine.execFrameReadyMessage n s
  | .playbackFetch n => Sys2Proof.Machine.execPlaybackFetch n s
  | .playbackFrameEnd n => Sys2Proof.Machine.execPlaybackFrameEnd n s
  | .ringFrameEnd n => Sys2Proof.Machine.execRingFrameEnd n s
  | .agcCommit n => Sys2Proof.Machine.execAgcCommit n s
  | .frouteWrite who bell r val => Sys2Proof.Machine.execFrouteWrite who bell r val s
  | .pipeEnable who p => Sys2Proof.Machine.execPipeEnable who p s
  | .pipeDisable who p => Sys2Proof.Machine.execPipeDisable who p s
  | .commit who p => Sys2Proof.Machine.execCommit who p s
  | .flush who p => Sys2Proof.Machine.execFlush who p s
  | .timingCommit who p => Sys2Proof.Machine.execTimingCommit who p s
  | .matrixPresetLoad who p val => Sys2Proof.Machine.execMatrixPresetLoad who p val s
  | .boreCommitMessage src => Sys2Proof.Machine.execBoreCommitMessage src s
  | .boreFlushMessage src => Sys2Proof.Machine.execBoreFlushMessage src s
  | .frameStart p => Sys2Proof.Machine.execFrameStart p s
  | .latch p late => Sys2Proof.Machine.execLatch p late s
  | .flattenCacheFillComplete p => Sys2Proof.Machine.execFlattenCacheFillComplete p s
  | .frameDoneMessage p => Sys2Proof.Machine.execFrameDoneMessage p s
  | .dpTrain who d => Sys2Proof.Machine.execDpTrain who d s
  | .linkTrainingDone d up => Sys2Proof.Machine.execLinkTrainingDone d up s
  | .hpdDeassert d => Sys2Proof.Machine.execHpdDeassert d s
  | .irqHpd d => Sys2Proof.Machine.execIrqHpd d s
  | .hpdAssert d => Sys2Proof.Machine.execHpdAssert d s
  | .auxTransaction who d val => Sys2Proof.Machine.execAuxTransaction who d val s
  | .auxReply d code data => Sys2Proof.Machine.execAuxReply d code data s
  | .auxTimeout d => Sys2Proof.Machine.execAuxTimeout d s
  | .partitionError p code bore => Sys2Proof.Machine.execPartitionError p code bore s
  | .fatal cause src => Sys2Proof.Machine.execFatal cause src s
  | .dumpComplete adc => Sys2Proof.Machine.execDumpComplete adc s
  | .hostforce who => Sys2Proof.Machine.execHostforce who s
  | .dumpClear who => Sys2Proof.Machine.execDumpClear who s
  | .restart who p => Sys2Proof.Machine.execRestart who p s
  | .partitionRestartComplete p => Sys2Proof.Machine.execPartitionRestartComplete p s
  | .keepRead who addr => Sys2Proof.Machine.execKeepRead who addr s
  | .keepProgram who addr adc => Sys2Proof.Machine.execKeepProgram who addr adc s
  | .keepErase who addr adc => Sys2Proof.Machine.execKeepErase who addr adc s
  | .keepOperationComplete good adc => Sys2Proof.Machine.execKeepOperationComplete good adc s
  | .logPageProgram adc => Sys2Proof.Machine.execLogPageProgram adc s
  | .logPageRetry adc => Sys2Proof.Machine.execLogPageRetry adc s
  | .pwrFail adc => Sys2Proof.Machine.execPwrFail adc s
  | .hbmPatrol h blk event => Sys2Proof.Machine.execHbmPatrol h blk event s
  | .setaddr addr pec => Sys2Proof.Machine.execSetaddr addr pec s
  | .read32 => Sys2Proof.Machine.execRead32 s
  | .read64 => Sys2Proof.Machine.execRead64 s
  | .write32 val pec => Sys2Proof.Machine.execWrite32 val pec s
  | .write64 val pec => Sys2Proof.Machine.execWrite64 val pec s
  | .lastst => Sys2Proof.Machine.execLastst s
  | .smbusTimeout => Sys2Proof.Machine.execSmbusTimeout s
  | .mainRailLoss => Sys2Proof.Machine.execMainRailLoss s
  | .alwaysOnRailLoss => Sys2Proof.Machine.execAlwaysOnRailLoss s
  | .pwrFailRelease => Sys2Proof.Machine.execPwrFailRelease s
  | .hostResetComplete => Sys2Proof.Machine.execHostResetComplete s
  | .flrComplete vf => Sys2Proof.Machine.execFlrComplete vf s
  | .fllRetargetComplete b => Sys2Proof.Machine.execFllRetargetComplete b s
  | .droneTick => Sys2Proof.Machine.execDroneTick s
  | .boundaryScan op => Sys2Proof.Machine.execBoundaryScan op s
  | .msixVectorUnmask fn acc => Sys2Proof.Machine.execMsixVectorUnmask fn acc s

end Sys2Proof.Machine
end

