-- ==== Sys2Proof/Safety.lean ====
section
/-!
DEFINITION. Safety.lean: what counts as a safe run, a run in which no step faults or is refused, and the terms in which
statements say that a command has its effect.
-/

namespace Sys2Proof

/-- A step that goes on. -/
def Continues (s : Machine.State) : Prop := ∃ t, Machine.step s = .next t

/-- `n` steps that all go on. -/
def Safe : Nat → Machine.State → Prop
  | 0, _ => True
  | n + 1, s => ∃ t, Machine.step s = .next t ∧ Safe n t

/-- The command completes: it answers a next state, of which `P` holds. -/
def Yields (i : Instr) (s : Machine.State) (P : Machine.State → Prop) : Prop := ∃ t, Machine.exec i s = .next t ∧ P t

/-- Whether a write of a register of bore `b`'s vestibule (its queue block and its SYN block) gets through: the hub can be
reached and the bore is not OFF (R40). -/
abbrev Machine.State.vestibuleOpen (s : Machine.State) (b : Nat) : Prop := s.hubOpen = true ∧ s.pstate b ≠ Machine.psOff

/-- Whether a write of another register of bore `b` gets through: the bore is neither in DEEP nor OFF (R40). -/
abbrev Machine.State.boreOpen (s : Machine.State) (b : Nat) : Prop :=
  s.vestibuleOpen b ∧ s.pstate b ≠ Machine.psDeep

/-- The commands whose effect may store to memory (the bytes the device holds under Host.Cell addresses): those that write a
register or a store that can start one, saves, loads and scrubs of contexts, stores of the engines and reeds, resets, and
the dump. Every other command leaves each byte as it was. -/
def Machine.mayStore : Instr → Bool
  | .coldReset _ | .porstNAssert | .warmReset _ | .registerWrite _ _ _ _ | .lowWordWrite _ _ _ | .highWordWrite _ _ _
  | .undocumentedOffsetAccess _ _ _ _ | .windwayWriteArrival _ _ | .windwayReadArrival _ _
  | .boreClockStartForAccess _ | .programStoreWrite _ _ _ | .bundleIssue _ | .waitTimeout _ | .dmaCompletion _ _
  | .arrayInstructionBegin _ | .reedIssue _ _ _ | .scrubEnd _ | .stgStart _ _ | .stgStop _ _ | .nextstep _ _
  | .stashChunk _ _ | .stashOutComplete _ | .gateRequest _ _ | .gateRelease _ _ | .gateSkip _ _ | .holdnext _ _
  | .rebuildComplete _ _ | .contextBinding _ | .evictionSave _ | .putArrival _ | .redArrival _ | .bar4Access _ _ _
  | .thermalReading _ | .drainIntervalEnd _ | .hbmTraining _ | .reboot _ | .captureFrameEnd _
  | .statisticsRecordWrite _ | .playbackFrameEnd _ | .ringFrameEnd _ | .latch _ _ | .dumpComplete _ | .write32 _ _
  | .write64 _ _ | .mainRailLoss | .alwaysOnRailLoss => true
  | .rcFieldRead _ _ _ | .lowWordRead _ _ | .highWordRead _ _ | .readCompletionArrival _ _ | .writeAcknowledgement _ _
  | .fabricRestart _ | .fabricIdleStop _ | .translationWalk _ | .registerWindowAccess _ _ _ _ | .chnPcWrite _ _ _
  | .go _ _ | .step _ _ | .chnCtrlHalt _ _ | .clrfault _ _ | .clrcnt _ _ | .registerWriteback _ _
  | .loadCompletion _ _ | .impreciseFault _ | .chanterHaltComplete _ | .dmaRequestStart _ | .feedTileComplete _
  | .arrayInstructionFinish _ | .drainCompletion _ | .vkloadComplete _ | .launchStart _ _ | .launchFinish _ _
  | .rankStopComplete _ _ | .arrivalSend _ | .columnTest _ _ | .columnTestDone _ _ _ | .bypassCommit _ _ _
  | .bypassCommitDone _ _ _ | .reedLoadReturn _ _ _ | .rankBarrierComplete _ _ _ | .rankArrivalSend _ _
  | .reedDebugWindowAccess _ _ _ _ | .alloc _ _ _ | .allocLock _ _ _ | .release _ _ _ | .releaseScrub _ _ _
  | .handleCommandEffect _ | .scrubStart _ | .wchClear _ _ | .wchFreeze _ _ _ | .messageArrival _ _
  | .channelIncrementArrival _ _ | .nackMessageArrival _ _ | .creditReturn _ _ | .reservationRelease _ _
  | .orphanMarkArrival _ _ | .routeWrite _ _ _ _ _ _ | .queueConfigWrite _ _ _ _ | .qctlOpen _ _ _ | .qctlClose _ _ _
  | .newepoch _ _ _ | .channelAudit _ _ _ | .auditMarkerArrival _ _ | .auditReplyArrival _ _ | .poolIncrementArrival _
  | .watchArrival _ | .watchAnswerArrival _ | .barrierArrival _ | .barrierCompletionArrival _ | .abort _ _
  | .poolBlockWrite _ _ _ | .barrierConfigWrite _ _ _ | .counterValueWrite _ _ _ _ | .counterArmWrite _ _ _ _
  | .stgInject _ _ _ | .tagMessageArrival _ | .doneReport _ _ | .controlMessage _ _ | .dispatch _ | .stepend _
  | .emission _ | .restoreRequest _ | .restoreComplete _ | .amaxReport _ _ | .lossReport _ _ | .verdictSend _
  | .roundCompletion _ _ | .rebuild _ _ _ | .create _ _ | .load _ _ | .evict _ _ | .prtStart _ _ | .prtEnd _ _
  | .endingRelease _ | .prtReset _ _ | .destroy _ _ | .contextStartDispatch _ | .residencyArrival _ | .ctxInval _ _
  | .invalidationComplete _ | .crkEnable _ _ _ | .crkRetrain _ _ | .crkReset _ _ | .trainingComplete _ _
  | .trainingTimeout _ | .retrainComplete _ _ | .retrainTimeout _ | .laneLockLoss _ | .initFlitReceived _ _
  | .flitReceived _ _ | .replayTimeout _ | .flitTransmit _ | .putCommand _ _ | .redCommand _ _ | .transferStart _ _
  | .putComplete _ | .ackArrival _ | .msgTransfer _ | .incTransfer _ | .retTransfer _ | .tagTransfer _
  | .auditTransfer _ | .windowWrite _ _ _ _ _ | .doorbell _ _ _ _ _ | .doorbellForward _ | .doorbellStatusClear _ _ _
  | .headWrite _ _ _ | .armWrite _ _ _ | .hostMessageArrival _ | .vfLoad _ _ | .vfEvict _ _ | .vfStart _ _
  | .vfEnd _ _ | .vfReset _ _ | .vfmapWrite _ _ _ | .dbrWrite _ _ _ | .hringWrite _ _ _ | .ctxhWrite _ _ _
  | .configRequest _ _ | .flr _ | .hostReset _ | .linkUp _ _ _ | .hostReadCompletion _ _ _ | .completionTimeout _
  | .bpcmdWake _ _ | .bpcmdSleep _ _ | .bpcmdDeep _ _ | .bpcmdOff _ _ | .bpcmdOn _ _ | .quietTimeout _
  | .idleTimeout _ | .sleepTimeout _ | .powerStateEntryComplete _ | .wakeTrigger _ | .wakeComplete _ | .bellowsPeriod
  | .tokenCredit | .powerSum | .pmbusPoll _ | .pmbAlert _ | .fanFail _ _ | .refclkLoss | .refclkRestore
  | .blwLimitWrite _ _ | .retirementDrained _ | .retirementAbandon _ | .stubAnswer _ _ | .leaveOffComplete _
  | .wakefail _ | .railSequence | .railSequenceTimeout | .firmwareVerify | .fuseApply | .hostready | .selfTest _ _
  | .capabilityPublish | .svnlock _ _ _ | .challenge _ | .submit _ | .relock _ | .nonceExpiry | .consoleRelease
  | .embEnable _ _ | .embDisable _ _ | .embGaincommit _ _ | .query _ _ | .gainSetRead _ | .boreGaincommit _
  | .portEnable _ _ | .portDisable _ _ | .rateAck _ _ | .frameSync _ _ _ _ | .holdoverEntry _ | .portFrameStart _
  | .frameReadyMessage _ | .playbackFetch _ | .agcCommit _ | .frouteWrite _ _ _ _ | .pipeEnable _ _ | .pipeDisable _ _
  | .commit _ _ | .flush _ _ | .timingCommit _ _ | .matrixPresetLoad _ _ _ | .boreCommitMessage _
  | .boreFlushMessage _ | .frameStart _ | .flattenCacheFillComplete _ | .frameDoneMessage _ | .dpTrain _ _
  | .linkTrainingDone _ _ | .hpdDeassert _ | .irqHpd _ | .hpdAssert _ | .auxTransaction _ _ _ | .auxReply _ _ _
  | .auxTimeout _ | .partitionError _ _ _ | .fatal _ _ | .hostforce _ | .dumpClear _ | .restart _ _
  | .partitionRestartComplete _ | .keepRead _ _ | .keepProgram _ _ _ | .keepErase _ _ _ | .keepOperationComplete _ _
  | .logPageProgram _ | .logPageRetry _ | .pwrFail _ | .hbmPatrol _ _ _ | .setaddr _ _ | .read32 | .read64 | .lastst
  | .smbusTimeout | .pwrFailRelease | .hostResetComplete | .flrComplete _ | .fllRetargetComplete _ | .droneTick
  | .boundaryScan _ | .msixVectorUnmask _ _ => false

end Sys2Proof
end

