-- ==== Sys2Proof/Certificates/Slice0/Obligations.lean ====
section
/-!
DEFINITION. Certificates/Slice0/Obligations.lean: the statements for the provers.  The first part states what rules of the spec
say; the second, family by family, that each command completes and what state it leaves.
-/

namespace Sys2Proof.Machine

open Sys2Proof

/-- 32-bit registers with writable fields whose writes no rule but R17 governs. -/
def plainNarrow : List Reg := [.DRN_CLKST, .DRN_FABCFG, .DRN_TCFG, .DRN_ALERT, .BLW_CFG, .LOG_CFG, .DMP_CFG]

end Sys2Proof.Machine

open Sys2Proof Sys2Proof.Machine

/-- A step takes the command at the front of the queue and runs `exec` on it with the rest (the queue is the model's,
log 1). -/
def Obligations.StepRunsFrontCommand : Prop :=
  ∀ (c : Instr) (q : List Instr) (s : State), step { s with pending := c :: q } = exec c { s with pending := q }

/-- With no command waiting a step changes nothing: the model's choice (log 1). -/
def Obligations.EmptyQueueIdles : Prop :=
  ∀ s : State, s.pending = [] → step s = .next s

/-- The memory invariant is kept by every step, whatever the command. -/
def Obligations.MemoryStaysCanonical : Prop :=
  ∀ s t : State, Memory.wf s.mem = true → step s = .next t → Memory.wf t.mem = true

/-- The block's only stop: a private TAP instruction whose permission is granted (R749 gives it no effect). -/
def Obligations.OnlyPrivateScanStops : Prop :=
  ∀ (i : Instr) (s : State), (∀ f, exec i s ≠ .fault f) ∧
    ∀ r, exec i s = .refused r ↔
      r = .privateTapInstruction ∧ (∃ n, i = .boundaryScan (.instruction (.priv n))) ∧ bit (s.fget Fld.DRN_DBG_PERM) 0 = true

/-- No command touches the queue of those that wait (the queue is the model's, log 1). -/
def Obligations.StepTakesOneCommand : Prop :=
  ∀ s t : State, step s = .next t → t.pending = s.pending.tail

/-- The memory frame of every command that stores nothing; `mayStore` names those that may. -/
def Obligations.StorelessCommandsKeepMemory : Prop :=
  ∀ (i : Instr) (s t : State), mayStore i = false → exec i s = .next t → ∀ a, t.byteAt a = s.byteAt a

/-- R11: an undocumented offset reads 0, discards writes, and reports nothing: the access itself succeeds, and one to a bore's
block has crossed that bore's fabric (R33; log 78). -/
def Obligations.UndocumentedOffsetReadsZero : Prop :=
  ∀ (who : Requester) (a : Nat) (v : Word64) (s : State), a % 4 = 0 →
    (s.place who a = .nothing →
      exec (.undocumentedOffsetAccess who a 4 none) s = .next { s.status who .ok with rdata := 0 } ∧
      exec (.undocumentedOffsetAccess who a 4 (some v)) s = .next (s.status who .ok) ∧
      (a % 8 = 0 → s.place who (a + 4) = .nothing →
        exec (.undocumentedOffsetAccess who a 8 none) s = .next { s.status who .ok with rdata := 0 } ∧
        exec (.undocumentedOffsetAccess who a 8 (some v)) s = .next (s.status who .ok))) ∧
    ∀ b vestibule, s.place who a = .hole b vestibule → s.meet who (.hole b vestibule) = .go →
      exec (.undocumentedOffsetAccess who a 4 none) s = .next { s.regDone who b with rdata := 0 } ∧
      exec (.undocumentedOffsetAccess who a 4 (some v)) s = .next (s.regDone who b) ∧
      (a % 8 = 0 → b < 64 → s.place who (a + 4) = .hole b vestibule →
        exec (.undocumentedOffsetAccess who a 8 none) s = .next { s.regDone who b with rdata := 0 } ∧
        exec (.undocumentedOffsetAccess who a 8 (some v)) s = .next (s.regDone who b))

/-- R29: a REQUEST is taken only once every earlier POSTED transfer of its path has gone. -/
def Obligations.RequestNeverPassesPosted : Prop :=
  ∀ (s u : State) (src dst : Endpoint) (x : Transfer), s.oldest .request src dst = some (x, u) →
    x.cls = .request ∧ x.src = src ∧ x.dst = dst ∧
    ∃ before after, s.net = before ++ x :: after ∧ u = { s with net := before ++ after } ∧
      ∀ y ∈ before, ¬(y.src = src ∧ y.dst = dst ∧ (y.cls = .posted ∨ y.cls = .request))

/-- R33: a stopped fabric at either end holds the transfer. -/
def Obligations.StoppedFabricHoldsTransfers : Prop :=
  ∀ (s : State) (cls : XClass) (src dst : Endpoint), (s.fabOk src = false ∨ s.fabOk dst = false) →
    s.oldest cls src dst = none ∧
    ∀ b, dst = .bore b → exec (.messageArrival src b) s = .next s ∧ exec (.channelIncrementArrival src b) s = .next s

/-- R41, R48: a dark access reads 0, discards the write, and is counted and recorded in DRN_DARKACC; a requester inside the
device gets the status dark. -/
def Obligations.DarkAccessCountsAndRecords : Prop :=
  ∀ (who : Requester) (a : Nat) (x : Word64) (b : Nat) (s : State), a % 4 = 0 → b < 64 →
    s.meet who (s.place who a) = .dark b →
    let t := s.darkFor who b
    exec (.rcFieldRead who a 4) s = .next { t with rdata := 0 } ∧
    exec (.registerWrite who a ⟨4, false⟩ x) s = .next t ∧
    t.fget Fld.DRN_DARKACC_LAST_BORE = b ∧
    t.fget Fld.DRN_DARKACC_LAST_OFF = b2n (s.pstate b = psOff) ∧
    t.fget Fld.DRN_DARKACC_LAST_HOST = b2n (isHost who) ∧
    t.fget Fld.DRN_DARKACC_COUNT = min (s.fget Fld.DRN_DARKACC_COUNT + 1) 0xFFFF ∧
    (isHost who = false → t.rstat = .dark)

/-- R106: HALT prevails over GO and STEP, GO over STEP, CLRFAULT acts first, and a FAULTED chanter ignores GO and STEP. -/
def Obligations.ChnCtrlBitPriority : Prop :=
  ∀ (b : Nat) (v : Word64) (s : State),
    (v.getLsbD 1 = true → s.chnCtrl b v = s.chnCtrl b (v &&& ~~~0x9)) ∧
    (v.getLsbD 1 = false → v.getLsbD 0 = true → s.chnCtrl b v = s.chnCtrl b (v &&& ~~~0x8)) ∧
    (s.chState b = csFaulted → s.chnCtrl b 0x1 = s ∧ s.chnCtrl b 0x8 = s) ∧
    s.chnCtrl b 0x5 = (s.clrFault b).goStart b false

/-- R87, R108, R116: what a running chanter does not let be written, and the flags that say so (log 78). -/
def Obligations.ChanterStoresShutWhileRunning : Prop :=
  ∀ (who : Requester) (b a o off n : Nat) (data : List Byte) (v : Word64) (s : State), s.boreOpen b → mayHostRm who = true →
    (s.home a = .pstore b o → s.running b = true → progAccess data.length a = true →
      exec (.programStoreWrite who a data) s = .next ((s.fput Fld.CHN_STATUS_PSWR_DROP 1 b).regDone who b)) ∧
    (s.home a = .pstore b o → progAccess data.length a = false →
      exec (.programStoreWrite who a data) s = .next (s.status who .unmapped)) ∧
    (s.chState b ≠ csHalted → exec (.chnPcWrite who b v) s = .next (s.regDone who b)) ∧
    (s.chState b = csHalted → b < 64 → Yields (.chnPcWrite who b v) s fun t =>
      t.fget Fld.CHN_PC_PC b = v.toNat % 2 ^ Fld.CHN_PC_PC.w) ∧
    ((s.winRead b off).isSome = true → s.running b = true →
      exec (.registerWindowAccess who b off none) s =
        .next (({ s with rdata := 0 }.fput Fld.CHN_STATUS_REGWIN_DROP 1 b).regDone who b) ∧
      exec (.registerWindowAccess who b off (some v)) s = .next ((s.fput Fld.CHN_STATUS_REGWIN_DROP 1 b).regDone who b)) ∧
    (s.winRead b off = none → exec (.registerWindowAccess who b off none) s = .next ({ s with rdata := 0 }.regDone who b) ∧
      exec (.registerWindowAccess who b off (some v)) s = .next (s.regDone who b)) ∧
    (s.running b = false → n < 64 →
      exec (.registerWindowAccess who b (0x1000 + 8 * n) (some v)) s = .next ((s.regPut b (.g n) v.toNat).regDone who b))

/-- R373: eligibility under FILL_DRAIN. -/
def Obligations.FillDrainEligibility : Prop :=
  ∀ (p : Nat) (s : State), s.flag Fld.STG_CFG_MODE p = false →
    (∀ t, s.bwdNext p = some t → s.fget Fld.STG_STATUS_FDONE p = s.stgN Fld.STG_CFG_NMB p) ∧
    (∀ t, s.fwdNext p = some t → s.fget Fld.STG_STATUS_FCNT p < s.stgN Fld.STG_CFG_NMB p) ∧
    (s.fget Fld.STG_STATUS_FCNT p < s.stgN Fld.STG_CFG_NMB p → s.windowOk p = true →
      (s.nent p = 0 ∨ s.fget Fld.STG_STATUS_FCNT p < s.stgN Fld.STG_CFG_SBUF p ∨
        s.stashed p (s.fget Fld.STG_STATUS_FCNT p - s.stgN Fld.STG_CFG_SBUF p) = true) →
      s.fwdNext p = (s.sched p).fwdIn.head?)

/-- R412: the loss sum and NLOSS after one report. -/
def Obligations.LossReportsAddInOrder : Prop :=
  ∀ (src : Endpoint) (h : Nat) (c : XClass) (e d : Endpoint) (x q : Nat) (m : Message) (s u v : State), h < 16 →
    s.oldest .posted src (.unit (.health h)) = some (⟨c, e, d, .message x q m⟩, u) → ovbKind q m = 2 →
    v = u.sendReturn (.unit (.health h)) m.origin (if m.nack then 3 else 1) → v.healthOf h = h →
    (m.words.getD 2 0).toNat = v.stgStep h → v.lateNow h = false →
    Yields (.lossReport src h) s fun t =>
      t.fget Fld.OVB_LOSS_SUM h = (fenc fp32 rne false (fadd (f32 (v.fget Fld.OVB_LOSS_SUM h)) (f32 (m.words.getD 1 0).toNat))).code % 2 ^ 32 ∧
      t.fget Fld.OVB_LOSS_NLOSS h = min (v.fget Fld.OVB_LOSS_NLOSS h + 1) (2 ^ Fld.OVB_LOSS_NLOSS.w - 1)

/-- R634: the energy flag, and VAD over a run of frames. -/
def Obligations.VadHangover : Prop :=
  ∀ (x : Stream) (n e : Nat) (es : List Nat), x.hang = 0 →
    (x.energy e n = true ↔ n * x.vthr * 2 ^ 30 ≤ e) ∧
    ((es.foldl (fun y a => { y with hang := (y.vad a n).2 }) x).vad e n).1 =
      (x.energy e n || (es.reverse.take x.vhang).any fun a => x.energy a n)

/-- R636: no credit, no message; NOCRED counts it. -/
def Obligations.UncreditedFrameMessageCounted : Prop :=
  ∀ (n p : Nat) (s : State), s.faults.frozen = false →
    (∀ o rest u, (s.strm n).out = o :: rest → o.written = true → o.route ≤ 255 →
      u = s.upStrm n (fun x => { x with out := rest }) → u.fget Fld.EMB_FRSTAT_CRED 0 o.route = 0 →
      exec (.frameReadyMessage n) s =
        .next (u.fput Fld.EMB_FRSTAT_NOCRED (min (u.fget Fld.EMB_FRSTAT_NOCRED 0 o.route + 1) 0xFFFF) 0 o.route)) ∧
    (∀ f rest u, (s.pipe p).done = f :: rest → u = s.upPipe p (fun x => { x with done := rest }) →
      u.flag Fld.BEL_FROUTE_VALID p = true → u.fget Fld.BEL_FRSTAT_CRED p = 0 →
      exec (.frameDoneMessage p) s =
        .next (u.fput Fld.BEL_FRSTAT_NOCRED (min (u.fget Fld.BEL_FRSTAT_NOCRED p + 1) 0xFFFF) p))

/-- R603: what is refused before READY. -/
def Obligations.CommandsBusyBeforeReady : Prop :=
  ∀ (who : Requester) (b p : Nat) (sub : Option Nat) (s : State), s.fget Fld.DRN_BOOT_STAGE < 7 →
    (s.powered = true → mayTray who = true → s.flag Fld.DRN_BPCMDST_PENDING = false →
      ∀ i ∈ [Instr.bpcmdWake who b, .bpcmdSleep who b, .bpcmdDeep who b, .bpcmdOff who b, .bpcmdOn who b],
        exec i s = .next (((s.fput Fld.DRN_BPCMDST_BORE b).fput Fld.DRN_BPCMDST_STATUS bpBusy).fput Fld.DRN_BPCMDST_PENDING 0)) ∧
    (s.hubOpen = true → mayPf who = true → s.flag Fld.PRT_CMDST_PENDING = false →
      exec (.rebuild who p sub) s = .next (((((s.fput Fld.PRT_CMDST_OP 1).fput Fld.PRT_CMDST_CTX 0).fput
        Fld.PRT_CMDST_STATUS rmBusy).fput Fld.PRT_CMDST_PENDING 0).irq 0x01))

/-- R575: outcomes of the power commands. -/
def Obligations.BpcmdOutcomes : Prop :=
  ∀ (who : Requester) (b : Nat) (s : State), s.powered = true → mayTray who = true →
    (s.flag Fld.DRN_BPCMDST_PENDING = true →
      ∀ i ∈ [Instr.bpcmdWake who b, .bpcmdSleep who b, .bpcmdDeep who b, .bpcmdOff who b, .bpcmdOn who b],
        exec i s = .next (s.fput Fld.DRN_BPCMDST_DROPPED 1)) ∧
    (s.flag Fld.DRN_BPCMDST_PENDING = false → s.fget Fld.DRN_BOOT_STAGE = 7 →
      (s.pstate b = psActive → (s.bore b).power.entering = none → exec (.bpcmdWake who b) s = .next (s.bpSt b bpOk)) ∧
      (s.pstate b = psOff → ∀ i ∈ [Instr.bpcmdWake who b, .bpcmdSleep who b, .bpcmdDeep who b, .bpcmdOff who b],
        exec i s = .next (s.bpSt b bpBadstate)) ∧
      (s.pstate b ≠ psOff → exec (.bpcmdOn who b) s = .next (s.bpSt b bpBadstate)) ∧
      (s.pstate b = psOff → (s.bore b).power.leaving.isSome = true → exec (.bpcmdOn who b) s = .next (s.bpSt b bpOk)))

/-- R578: the bounds of LIMIT. -/
def Obligations.LimitWritesChecked : Prop :=
  ∀ (who : Requester) (v : Word64) (s : State), s.hubOpen = true → mayTray who = true →
    ((bits v.toNat 0 16 < 1400 ∨ 6000 < bits v.toNat 0 16 ∨ bits v.toNat 0 16 < s.minBudget) →
      exec (.blwLimitWrite who v) s = .next (s.fput Fld.BLW_CFGST_STATUS 3)) ∧
    (1400 ≤ bits v.toNat 0 16 → bits v.toNat 0 16 ≤ 6000 → s.minBudget ≤ bits v.toNat 0 16 →
      Yields (.blwLimitWrite who v) s fun t =>
        t.fget Fld.BLW_LIMIT_LIMIT = bits v.toNat 0 16 ∧ t.fget Fld.BLW_CFGST_STATUS = 1)

/-- R716: a frozen device behaves under R11 outside the four blocks. -/
def Obligations.FrozenDeviceReach : Prop :=
  ∀ (v a : Nat) (x : Word64) (s : State), s.faults.frozen = true →
    (∀ r i j high, s.place (.fn v) a = .reg r i j high → (v = 0 → r.info.blk ∉ [Block.DRN, .KEEP, .LOG, .DMP]) →
      exec (.rcFieldRead (.fn v) a 4) s = .next { s with rdata := 0 } ∧ exec (.registerWrite (.fn v) a ⟨4, false⟩ x) s = .next s) ∧
    (∀ f off, s.place (.fn v) a = .bar2 f off → exec (.registerWrite (.fn v) a ⟨4, false⟩ x) s = .next s)

/-- R728: the second PACKAGE error. -/
def Obligations.SecondPackageErrorOnlyLogged : Prop :=
  ∀ (cause src : Nat) (who : Requester) (s : State), s.fget Fld.DMP_STATUS_STATE ≠ dsNone →
    (cause ∈ [pkHubUe, pkHbmFatal, pkWindway] →
      exec (.fatal cause src) s = .next ((s.fput Fld.DMP_STATUS_MULTI 1).log (src % 0x10000) 0x00F0 none 4
        (leBytes 2 cause ++ leBytes 2 (src % 0x10000)))) ∧
    exec (.hostforce who) s = .next s

/-- R395: STG_CTRL with several bits set. -/
def Obligations.StageControlCombinedActsAsStop : Prop :=
  ∀ (a p : Nat) (v : Word64) (s : State), s.hubOpen = true → a % 4 = 0 →
    s.place (.fn 0) a = .reg .STG_CTRL p 0 false → s.stg p ≠ sgCoupled → 1 < b2n (v.getLsbD 0) + b2n (v.getLsbD 1) + b2n (v.getLsbD 2) →
    exec (.registerWrite (.fn 0) a ⟨4, false⟩ v) s = exec (.stgStop (.fn 0) p) s

/-- R440, R465: which commands a context's state admits. -/
def Obligations.ContextCommandsJudged : Prop :=
  ∀ (who : Requester) (c : Nat) (s : State), s.hubOpen = true → mayPf who = true →
    (s.flag Fld.PRT_CMDST_PENDING = true →
      ∀ i ∈ [Instr.create who c, .load who c, .evict who c, .prtStart who c, .prtEnd who c, .prtReset who c, .destroy who c],
        exec i s = .next (s.fput Fld.PRT_CMDST_DROPPED 1)) ∧
    (s.flag Fld.PRT_CMDST_PENDING = false →
      (s.cxState c ≠ cxFree → exec (.create who c) s = .next (s.prtSt 2 c rmBadstate)) ∧
      (s.cxState c ≠ cxIdle → exec (.load who c) s = .next (s.prtSt 3 c rmBadstate)) ∧
      (s.cxState c ≠ cxResident → exec (.evict who c) s = .next (s.prtSt 4 c rmBadstate)) ∧
      (s.cxState c ≠ cxEnded → exec (.prtReset who c) s = .next (s.prtSt 7 c rmBadstate)) ∧
      (s.cxState c ≠ cxIdle → s.cxState c ≠ cxEnded → exec (.destroy who c) s = .next (s.prtSt 8 c rmBadstate)))

/-- R528, R533: what becomes of a message to the host. -/
def Obligations.InterruptAndLinkDownMessages : Prop :=
  ∀ (fn vec r c q addr : Nat) (d : List Byte) (pois : Bool) (m : Message) (s : State),
    (msixSize fn ≤ vec → s.msix fn vec = s.fsat Fld.HIF_ERR_VECBAD) ∧
    (vec < msixSize fn → s.msixOpen fn vec = false →
      s.msix fn vec = { s with hif := { s.hif with vpend := sinsert (4096 * fn + vec) s.hif.vpend } }) ∧
    (vec < msixSize fn → s.msixOpen fn vec = true → s.hif.linkUp = true →
      s.msix fn vec = { s with hif := { s.hif with sent := s.hif.sent ++ [s.msixTlp fn vec] } }) ∧
    (vec < msixSize fn → s.msixOpen fn vec = true → s.hif.linkUp = false → s.msix fn vec = s) ∧
    (s.hif.linkUp = false → s.hostSend (.write fn addr d pois) = s.fsat Fld.HIF_ERR_LINKDROP) ∧
    (s.hif.linkUp = false → ((s.ringPut r c q m).hring r).ovf = min ((s.hring r).ovf + 1) 0xFFFFFFFF)

/-- R682, R657: commands that a pipe refuses. -/
def Obligations.PipeCommandsRefused : Prop :=
  ∀ (who : Requester) (p : Nat) (s : State), s.hubOpen = true → mayPf who = true →
    ((s.bpRun p = true ∨ s.ctxLives (s.pipeCtx p) = false) →
      exec (.pipeEnable who p) s = .next (s.fput Fld.BEL_PSTAT_COMMITST 3 p)) ∧
    (s.bpRun p = false → s.ctxLives (s.pipeCtx p) = true → timingOk (s.shadowSet p timingRegs) (s.dpen p) = true →
      compositionOk (s.shadowSet p compositionRegs) (s.shadowSet p timingRegs) = false →
      exec (.pipeEnable who p) s = .next ((s.fput Fld.BEL_PSTAT_COMMITST 2 p).pipeEvent p Fld.BEL_PEVT_COMMITBAD)) ∧
    (s.bpRun p = false → exec (.commit who p) s = .next (s.fput Fld.BEL_PSTAT_COMMITST 3 p) ∧
      exec (.timingCommit who p) s = .next (s.fput Fld.BEL_PSTAT_TIMST 3 p))

/-- R664: the matrix, and its presets. -/
def Obligations.ColourMatrixAndPresets : Prop :=
  (∀ (m : Map Word64) (v : Nat) (p : Px),
      let row (c0 c1 c2 off : Field) : Nat :=
        (max 0 (min 255 ((sext 16 (setGet m c0 v) * p.c0 + sext 16 (setGet m c1 v) * p.c1 + sext 16 (setGet m c2 v) * p.c2
          + 64 * sext 16 (setGet m off v) + 2048) / 4096))).toNat
      matrixOf m v p = ⟨p.a, row Fld.BEL_VM0_C0 Fld.BEL_VM0_C1 Fld.BEL_VM0_C2 Fld.BEL_VM0_OFF,
        row Fld.BEL_VM1_C0 Fld.BEL_VM1_C1 Fld.BEL_VM1_C2 Fld.BEL_VM1_OFF,
        row Fld.BEL_VM2_C0 Fld.BEL_VM2_C1 Fld.BEL_VM2_C2 Fld.BEL_VM2_OFF⟩) ∧
    ∀ (who : Requester) (p : Nat) (v : Word64) (s : State), s.hubOpen = true → mayPf who = true →
      let w (c0 c1 c2 off : Int) : Word64 := (BitVec.ofInt 16 c0 ++ BitVec.ofInt 16 c1) ++ (BitVec.ofInt 16 c2 ++ BitVec.ofInt 16 off)
      let rows (a b c : Word64) : State := ((s.rput .BEL_VM0 a p (bits v.toNat 8 2)).rput .BEL_VM1 b p (bits v.toNat 8 2)).rput
        .BEL_VM2 c p (bits v.toNat 8 2)
      (bits v.toNat 0 3 = 0 → exec (.matrixPresetLoad who p v) s = .next (rows (w 4096 0 0 0) (w 0 4096 0 0) (w 0 0 4096 0))) ∧
      (bits v.toNat 0 3 = 1 → exec (.matrixPresetLoad who p v) s =
        .next (rows (w 4769 0 6537 (-14266)) (w 4769 (-1605) (-3330) 8678) (w 4769 8263 0 (-17718)))) ∧
      (bits v.toNat 0 3 = 2 → exec (.matrixPresetLoad who p v) s =
        .next (rows (w 4769 0 7343 (-15878)) (w 4769 (-873) (-2183) 4920) (w 4769 8652 0 (-18496)))) ∧
      (bits v.toNat 0 3 = 3 → exec (.matrixPresetLoad who p v) s =
        .next (rows (w 4769 0 6876 (-14944)) (w 4769 (-767) (-2664) 5670) (w 4769 8773 0 (-18738))))

/-- R355: what a cold reset leaves of the synchronisation state. -/
def Obligations.ColdResetClearsSync : Prop :=
  ∀ (strap : Nat) (s : State), Yields (.coldReset strap) s fun t =>
    (∀ b n, b < 64 → n < 48 → t.fget Fld.SYN_LCVAL_VALUE b n = 0) ∧ (∀ n, n < 16384 → t.fget Fld.SYN_PVAL_VALUE 0 n = 0) ∧
    (∀ k, k < 1024 → t.fget Fld.SYN_PBLK_VALID 0 k = 0) ∧
    (∀ k, k < 1024 → t.fget Fld.SYN_BCFG_VALID 0 k = 0 ∧ t.fget Fld.SYN_BSTAT_PHASE 0 k = 0 ∧ t.fget Fld.SYN_BSTAT_ARRIVED 0 k = 0) ∧
    t.fget Fld.SYN_PCOUNT_FREE = 16384

/-- R751: the order in which an SMBus access is judged. -/
def Obligations.SmbusAccessJudged : Prop :=
  ∀ (s : State) (w : Nat) (wr : Bool),
    let a := s.smb.ptr
    let o := a % 0x2000000
    let k := o / 0x100000
    ((a < 0x00A000000000 ∨ 0x00A002000000 ≤ a ∨ a % w ≠ 0) → s.smbJudge w wr = 3) ∧
    (0x00A000000000 ≤ a → a < 0x00A002000000 → a % w = 0 →
      (s.smbAvailable k = false → s.smbJudge w wr = 1) ∧
      (s.smbAvailable k = true →
        (wr = true → (k ∉ [0, 1, 8] ∨ (k = 0 ∧ drnShut o w = true)) → s.smbJudge w wr = 2) ∧
        ((wr = false ∨ k = 1 ∨ k = 8 ∨ (k = 0 ∧ drnShut o w = false)) → s.smbJudge w wr = 0))) ∧
    (s.boot.alwaysOn = true → ∀ (x : Word32) (y : Word64),
      (s.smbJudge 4 true ≠ 0 → exec (.write32 x true) s =
        .next ((s.smbCount (s.smbJudge 4 true)).upSmb fun z => { z with last := s.smbJudge 4 true, nack := false })) ∧
      (s.smbJudge 8 true ≠ 0 → exec (.write64 y true) s =
        .next ((s.smbCount (s.smbJudge 8 true)).upSmb fun z => { z with last := s.smbJudge 8 true, nack := false })))

/-- R749: IDCODE; and the private instructions (without permission the model selects BYPASS: its own choice, log 67). -/
def Obligations.BoundaryScanIdcode : Prop :=
  ∀ (s : State) (balls tdi : List Bool) (n : Nat),
    (s.tap.inst = .idcode → tdi.length = 32 → Yields (.boundaryScan (.shift balls tdi)) s fun t =>
      t.tap.tdo = (List.range 32).map (fun k => (0x2A6400B5#32).getLsbD k)) ∧
    (bit (s.fget Fld.DRN_DBG_PERM) 0 = true →
      exec (.boundaryScan (.instruction (.priv n))) s = .refused .privateTapInstruction) ∧
    (bit (s.fget Fld.DRN_DBG_PERM) 0 = false →
      exec (.boundaryScan (.instruction (.priv n))) s = .next { s with tap := { s.tap with inst := .bypass } })

/-- R569: the alert output. -/
def Obligations.AlertPinFollowsDrnAlert : Prop :=
  ∀ (s : State) (n : Nat), (s.rget .DRN_ALERT).getLsbD n = true → s.alertN = true

/-- R17, R9, R10: the access codes, bit by bit. -/
def Obligations.AccessCodesOfAPlainWrite : Prop :=
  ∀ (r : Reg) (old v : Word64) (n : Nat),
    r.writable &&& r.info.w1c = 0 ∧
    (r.writable.getLsbD n = true → (r.merge old v).getLsbD n = v.getLsbD n) ∧
    (r.info.w1c.getLsbD n = true → (r.merge old v).getLsbD n = (old.getLsbD n && !v.getLsbD n)) ∧
    (r.writable.getLsbD n = false → r.info.w1c.getLsbD n = false → (r.merge old v).getLsbD n = old.getLsbD n) ∧
    ∀ (s : State) (who : Requester) (i j : Nat), r ∉ [Reg.QUE_STATUS, .LIG_STAGE, .LIG_STAGEMASK] → r.info.wo.getLsbD n = true →
      (s.regValue who r i j).getLsbD n = false

/-- R13, R15: a read clears the RC fields that it returns (log 78). -/
def Obligations.RcFieldsClearWhenRead : Prop :=
  ∀ (who : Requester) (a : Nat) (r : Reg) (i j : Nat) (s : State), s.place who a = .reg r i j false →
    s.meet who (.reg r i j false) = .go →
    let t := s.through who (.reg r i j false)
    t.winShut r i = false →
    (a % 4 = 0 → r.info.wide = false → exec (.rcFieldRead who a 4) s =
      .next { t.clearRc r i j with rdata := ((t.regValue who r i j).setWidth 32).setWidth 64 }) ∧
    (a % 8 = 0 → r.info.wide = true → exec (.rcFieldRead who a 8) s =
      .next { t.clearRc r i j with rdata := t.regValue who r i j }) ∧
    (t.clearRc r i j).rget r i j = t.rget r i j &&& ~~~r.info.rc

/-- R12: a register written by halves (log 78). -/
def Obligations.LowThenHighWriteCommitsBoth : Prop :=
  ∀ (who : Requester) (a : Nat) (r : Reg) (i j : Nat) (lo hi : Word32) (s : State), a % 8 = 0 → r.info.wide = true →
    s.place who a = .reg r i j false → s.place who (a + 4) = .reg r i j true → s.meet who (.reg r i j false) = .go →
    let t := s.through who (.reg r i j false)
    t.winShut r i = false →
    exec (.lowWordWrite who a lo) s = .next { t with held := takeHalf t.held who r i j lo } ∧
    exec (.highWordWrite who (a + 4) hi) { t with held := takeHalf t.held who r i j lo } =
      .next (({ t with held := loseHalf t.held who r i }.through who (.reg r i j true)).writeReg who r i j (joinHalves lo hi))

/-- Reset values that the register tables give, and the empty reset state. -/
def Obligations.ResetValues : Prop :=
  let s := State.reset;
    (s.fget Fld.DRN_DEVID_PART = 0xA64 ∧ s.fget Fld.DRN_DEVID_STEP_MAJOR = 2) ∧
    (∀ b, b < 64 → s.fget Fld.BORE_CAP_ISA b = 1 ∧ s.fget Fld.BORE_CAP_RANKS b = 80 ∧ s.fget Fld.BORE_CAP_WCH_BANKS b = 64 ∧
      s.fget Fld.BORE_CAP_PS_BUNDLES b = 8192 ∧ s.fget Fld.LIG_COUNT_FREE b = 64 ∧ s.fget Fld.QUE_ROT_LAST b = 31 ∧
      (∀ q, q < 32 → s.fget Fld.QUE_QSTAT_READER b q = 1)) ∧
    s.fget Fld.SYN_PCOUNT_FREE = 16384 ∧
    (∀ p, p < 16 → s.fget Fld.STG_TAGCNT_FREE p = 256 ∧ s.fget Fld.PRT_PCFG_LEADER 0 p = p ∧ s.fget Fld.PRT_PSTAT_LEADER 0 p = p) ∧
    (∀ k, k < 12 → s.fget Fld.CRK_CFG_W0 k = 1 ∧ s.fget Fld.CRK_CFG_W1 k = 1 ∧ s.fget Fld.CRK_CFG_W3 k = 1) ∧
    (s.fget Fld.HIF_ARB_WSTASH = 4 ∧ s.fget Fld.HIF_ARB_WDMA = 4 ∧ s.fget Fld.HIF_ARB_WBAR = 1) ∧
    (s.fget Fld.DRN_TCFG_TSHUT = 115 ∧ s.fget Fld.DRN_TCFG_TTHROT = 95 ∧ s.fget Fld.DRN_TCFG_THYST = 3 ∧
      s.fget Fld.DRN_TCFG_STEPDN = 40 ∧ s.fget Fld.DRN_TCFG_STEPUP = 8) ∧
    (s.fget Fld.BLW_LIMIT_LIMIT = 4000 ∧ s.fget Fld.BLW_LIMIT_EFFECTIVE = 4000 ∧ s.fget Fld.BLW_RESERVE_RESERVE = 800 ∧
      s.fget Fld.BLW_POOL_POOL = 3200) ∧
    (s.fget Fld.LOG_CFG_IRQMIN = 2 ∧ s.fget Fld.LOG_CFG_PERSISTMIN = 2) ∧
    (s.pending = [] ∧ Memory.wf s.mem = true ∧ s.mem = [] ∧ s.poison = [] ∧ s.net = [] ∧ s.faults.frozen = false)

/-- R364: the five counts stay in balance; R363: one tag moves. -/
def Obligations.TagMoveKeepsCountsBalanced : Prop :=
  ∀ (p t v : Nat) (s : State), p < 16 → t < 256 → v < 5 → s.tag p t < 5 → 0 < s.fget (tagCnt (s.tag p t)) p →
    s.fget Fld.STG_TAGCNT_FREE p + s.fget Fld.STG_TAGCNT_FWDP p + s.fget Fld.STG_TAGCNT_FWDD p +
      s.fget Fld.STG_TAGCNT_BWDP p + s.fget Fld.STG_TAGCNT_RET p = 256 →
    let u := s.putTag p t v
    u.fget Fld.STG_TAGCNT_FREE p + u.fget Fld.STG_TAGCNT_FWDP p + u.fget Fld.STG_TAGCNT_FWDD p +
      u.fget Fld.STG_TAGCNT_BWDP p + u.fget Fld.STG_TAGCNT_RET p = 256 ∧
    u.tag p t = v ∧ ∀ t', t' < 256 → t' ≠ t → u.tag p t' = s.tag p t'

/-- R136, R137: the scalar integer operations against 64-bit words. -/
def Obligations.ScalarIntegersAreBitVectors : Prop :=
  ∀ (a b : Word64) (c : Bool),
    let f (op : Nat) : Word64 := BitVec.ofNat 64 (intOp op a.toNat b.toNat c)
    let g (op : Nat) : Word64 := BitVec.ofNat 64 (mulDiv op a.toNat b.toNat)
    let n := b.toNat % 64
    (f 0x01 = a + b ∧ f 0x02 = a - b ∧ f 0x03 = a &&& b ∧ f 0x04 = a ||| b ∧ f 0x05 = a ^^^ b ∧
      f 0x06 = a <<< n ∧ f 0x07 = a >>> n ∧ f 0x08 = a.sshiftRight n) ∧
    (f 0x09 = (if a.sle b then a else b) ∧ f 0x0A = (if a.sle b then b else a) ∧
      f 0x0B = (if a.ule b then a else b) ∧ f 0x0C = (if a.ule b then b else a) ∧ f 0x0D = (if c then a else b)) ∧
    (f 0x0E = BitVec.ofNat 64 ((List.range 64).takeWhile fun k => !a.getLsbD (63 - k)).length ∧
      f 0x0F = BitVec.ofNat 64 ((List.range 64).countP fun k => a.getLsbD k)) ∧
    (g 0x20 = a * b ∧ g 0x22 = ((a.setWidth 128 * b.setWidth 128) >>> 64).setWidth 64) ∧
    (b = 0 → g 0x24 = BitVec.allOnes 64 ∧ g 0x25 = BitVec.allOnes 64 ∧ g 0x26 = a ∧ g 0x27 = a) ∧
    (b ≠ 0 → g 0x24 = a.sdiv b ∧ g 0x25 = a / b ∧ g 0x26 = a.srem b ∧ g 0x27 = a % b)

/-- Register reads and writes complete, whole and by halves (spec/00_scope.md).  Where the spec leaves a point open the
clauses follow the model's own choices (log entries 1, 3, 61, 62, 71, 72, 78). -/
def Obligations.RegisterAccessesComplete : Prop :=
    -- REGISTER_WRITE (R17, R44, R534)
    (∀ (who : Requester) (addr : Nat) (val : Word64) (r : Reg) (i j : Nat) (s : State), addr % 4 = 0 →
        s.place who addr = .reg r i j false → s.meet who (.reg r i j false) = .go → r ∈ plainNarrow →
        mayWrite who r = true →
        exec (.registerWrite who addr ⟨4, false⟩ val) s = .next ((s.status who .ok).rput r (r.merge (s.rget r i j)
        ((half val false).setWidth 64)) i j)) ∧
    (∀ (who : Requester) (addr : Nat) (val : Word64) (r : Reg) (i j : Nat) (s : State), addr % 8 = 0 →
        s.place who addr = .reg r i j false → s.meet who (.reg r i j false) = .go → r.info.wide = true →
        heldFor s.held who r i j = none →
        exec (.registerWrite who addr ⟨8, false⟩ val) s = .next
        ((s.through who (.reg r i j false)).writeReg who r i j val)) ∧
    (∀ (who : Requester) (addr size : Nat) (val : Word64) (s : State), size ≠ 4 → size ≠ 8 →
        (∀ b d, s.place who addr ≠ .program b d) →
        exec (.registerWrite who addr ⟨size, false⟩ val) s = .next (s.status who .unmapped)) ∧
    (∀ (v addr size : Nat) (val : Word64) (s : State),
        exec (.registerWrite (.fn v) addr ⟨size, true⟩ val) s = .next (s.pcie aerPoisoned v addr none)) ∧
    -- RC_FIELD_READ (R13, R15, R44)
    (∀ (who : Requester) (addr : Nat) (r : Reg) (i j : Nat) (t s : State), addr % 8 = 0 →
        s.place who addr = .reg r i j false → s.meet who (.reg r i j false) = .go → r.info.wide = true →
        t = s.through who (.reg r i j false) → t.winShut r i = false →
        exec (.rcFieldRead who addr 8) s = .next ({ t.clearRc r i j with rdata := t.regValue who r i j })) ∧
    (∀ (who : Requester) (addr : Nat) (r : Reg) (i j : Nat) (t s : State), addr % 4 = 0 →
        s.place who addr = .reg r i j false → s.meet who (.reg r i j false) = .go → r.info.wide = false →
        t = s.through who (.reg r i j false) → t.winShut r i = false →
        exec (.rcFieldRead who addr 4) s = .next
        ({ t.clearRc r i j with rdata := (half (t.regValue who r i j) false).setWidth 64 })) ∧
    (∀ (who : Requester) (addr size : Nat) (s : State), size ≠ 4 → size ≠ 8 →
        (∀ b d, s.place who addr ≠ .program b d) →
        exec (.rcFieldRead who addr size) s = .next
        ({ s.status who .unmapped with rdata := 0, rbytes := List.replicate size 0 })) ∧
    -- LOW_WORD_READ (R12)
    (∀ (who : Requester) (addr : Nat) (r : Reg) (i j : Nat) (t s : State), addr % 4 = 0 →
        s.place who addr = .reg r i j false → s.meet who (.reg r i j false) = .go → r.info.wide = true →
        t = s.through who (.reg r i j false) → t.winShut r i = false →
        exec (.lowWordRead who addr) s = .next
        ({ ({ t with capt := takeHalf t.capt who r i j (half (t.regValue who r i j) true) }).clearRc r i j with rdata := (half (t.regValue who r i j) false).setWidth 64 }))
        ∧
    -- HIGH_WORD_READ (R12)
    (∀ (who : Requester) (addr : Nat) (r : Reg) (i j : Nat) (x : Word32) (t s : State), addr % 4 = 0 →
        s.place who addr = .reg r i j true → s.meet who (.reg r i j true) = .go → r.info.wide = true →
        t = s.through who (.reg r i j true) → t.winShut r i = false → heldFor s.capt who r i j = some x →
        exec (.highWordRead who addr) s = .next ({ t with capt := loseHalf s.capt who r i, rdata := x.setWidth 64 }))
        ∧
    (∀ (who : Requester) (addr : Nat) (r : Reg) (i j : Nat) (t s : State), addr % 4 = 0 →
        s.place who addr = .reg r i j true → s.meet who (.reg r i j true) = .go → r.info.wide = true →
        t = s.through who (.reg r i j true) → t.winShut r i = false → heldFor s.capt who r i j = none →
        exec (.highWordRead who addr) s = .next ({ t with rdata := (half (t.regValue who r i j) true).setWidth 64 }))
        ∧
    -- LOW_WORD_WRITE (R12)
    (∀ (who : Requester) (addr : Nat) (val : Word32) (r : Reg) (i j : Nat) (t s : State), addr % 4 = 0 →
        s.place who addr = .reg r i j false → s.meet who (.reg r i j false) = .go → r.info.wide = true →
        t = s.through who (.reg r i j false) → t.winShut r i = false →
        exec (.lowWordWrite who addr val) s = .next ({ t with held := takeHalf s.held who r i j val })) ∧
    -- HIGH_WORD_WRITE (R12)
    (∀ (who : Requester) (addr : Nat) (val : Word32) (r : Reg) (i j : Nat) (x : Word32) (t s : State), addr % 4 = 0 →
        s.place who addr = .reg r i j true → s.meet who (.reg r i j true) = .go → r.info.wide = true →
        t = s.through who (.reg r i j true) → t.winShut r i = false → heldFor s.held who r i j = some x →
        exec (.highWordWrite who addr val) s = .next (({ t with held := loseHalf s.held who r i }).writeReg who r i j
        (joinHalves x val))) ∧
    (∀ (who : Requester) (addr : Nat) (val : Word32) (r : Reg) (i j : Nat) (t s : State), addr % 4 = 0 →
        s.place who addr = .reg r i j true → s.meet who (.reg r i j true) = .go → r.info.wide = true →
        t = s.through who (.reg r i j true) → t.winShut r i = false → heldFor s.held who r i j = none →
        exec (.highWordWrite who addr val) s = .next (t.writeReg who r i j (t.highAlone who r i j val))) ∧
    -- UNDOCUMENTED_OFFSET_ACCESS (R11)
    (∀ (who : Requester) (addr : Nat) (s : State), addr % 4 = 0 → s.place who addr = .nothing →
        exec (.undocumentedOffsetAccess who addr 4 none) s = .next ({ s.status who .ok with rdata := 0 })) ∧
    (∀ (who : Requester) (addr : Nat) (v : Word64) (s : State), addr % 4 = 0 → s.place who addr = .nothing →
        exec (.undocumentedOffsetAccess who addr 4 (some v)) s = .next (s.status who .ok))

/-- Windway arrivals, acknowledgements, clock starts and walks complete (spec/01_anatomy.md).  Where the spec leaves a
point open the clauses follow the model's own choices (log entries 1, 3, 9, 12). -/
def Obligations.WindwayCommandsComplete : Prop :=
    -- WINDWAY_WRITE_ARRIVAL (R31)
    (∀ (src dst : Endpoint) (c : XClass) (e d : Endpoint) (who : Accessor) (id ctx addr : Nat) (data : List Byte)
        (pois : Bool) (u s : State), s.waits dst = false →
        s.oldest .posted src dst = some (⟨c, e, d, .write who id ctx addr data pois⟩, u) →
        exec (.windwayWriteArrival src dst) s = .next (u.writeHome dst who id ctx addr data pois)) ∧
    -- WINDWAY_READ_ARRIVAL (R29, R31, R525, R526, R533)
    (∀ (src dst : Endpoint) (c : XClass) (e d : Endpoint) (who : Accessor) (id ctx addr len : Nat)
        (u s : State), s.waits dst = false → dst ≠ .host →
        s.oldest .request src dst = some (⟨c, e, d, .read who id ctx addr len⟩, u) →
        exec (.windwayReadArrival src dst) s = .next (u.readHome dst who id ctx addr len)) ∧
    (∀ (src : Endpoint) (c : XClass) (e d : Endpoint) (who : Accessor) (id ctx addr len h k : Nat)
        (u v s : State), s.oldest .request src .host = some (⟨c, e, d, .read who id ctx addr len⟩, u) →
        h = addr % 0x800000000000 → k = (tlps u.hif.cfg.mrrs h len).length → u.hif.linkUp = true →
        u.hostOut + k ≤ 768 → v = u.hostReadReq (u.ctxFn ctx) h len →
        exec (.windwayReadArrival src .host) s = .next
        ({ v with hif := { v.hif with reads := v.hif.reads ++ [⟨who, id, ctx, v.ctxFn ctx, addr, len, k⟩] } })) ∧
    (∀ (src : Endpoint) (c : XClass) (e d : Endpoint) (who : Accessor) (id ctx addr len : Nat)
        (u s : State), s.oldest .request src .host = some (⟨c, e, d, .read who id ctx addr len⟩, u) →
        u.hif.linkUp = false → exec (.windwayReadArrival src .host) s = .next
        (u.answerRead .host who id addr (List.replicate len 0) .unmapped)) ∧
    -- READ_COMPLETION_ARRIVAL (R29)
    (∀ (src dst : Endpoint) (c : XClass) (e d : Endpoint) (b id addr : Nat) (data : List Byte) (st : AccStatus)
        (u s : State), s.oldest .completion src dst = some (⟨c, e, d, .readData (.chanter b) id addr data st⟩, u) →
        exec (.readCompletionArrival src dst) s = .next (u.loadBack b id data st addr)) ∧
    -- WRITE_ACKNOWLEDGEMENT (R30)
    (∀ (src dst : Endpoint) (c : XClass) (e d : Endpoint) (b id ctx addr : Nat) (w : StoreWait)
        (u s : State), s.oldest .completion src dst = some (⟨c, e, d, .writeAck (.chanter b) id ctx addr .ok⟩, u) →
        ((u.ch b).stores.find? (fun w => w.id = id) = some w) →
        exec (.writeAcknowledgement src dst) s = .next (u.storeOver b id)) ∧
    -- BORE_CLOCK_START_FOR_ACCESS (R40)
    (∀ (b : Nat) (c : XClass) (src e d : Endpoint) (who : Accessor) (id ctx addr : Nat) (data : List Byte)
        (pois : Bool) (u s : State), s.faults.frozen = false → s.reach b false = .wait →
        s.firstWaiting b = some (.posted, src) →
        s.oldest .posted src (.bore b) = some (⟨c, e, d, .write who id ctx addr data pois⟩, u) →
        exec (.boreClockStartForAccess b) s = .next (u.writeHome (.bore b) who id ctx addr data pois)) ∧
    (∀ (b : Nat) (c : XClass) (src e d : Endpoint) (who : Accessor) (id ctx addr len : Nat)
        (u s : State), s.faults.frozen = false → s.reach b false = .wait → s.firstWaiting b = some (.request, src) →
        s.oldest .request src (.bore b) = some (⟨c, e, d, .read who id ctx addr len⟩, u) →
        exec (.boreClockStartForAccess b) s = .next (u.readHome (.bore b) who id ctx addr len)) ∧
    -- FABRIC_RESTART (R33, R503, R548)
    (∀ (q : Nat) (s : State), q < 4 → s.fabRun q = false → s.fabHeld q = true →
        Yields (.fabricRestart q) s fun t => t.fabRun q = true ∧ ∀ q', q' < 4 → q' ≠ q → t.fabRun q' = s.fabRun q') ∧
    -- FABRIC_IDLE_STOP (R548)
    (∀ (q : Nat) (s : State), q < 4 → s.fabRun q = true → s.fabHeld q = false →
        ((∀ b ∈ quadBores q, s.pstate b ≠ psActive ∧ s.pstate b ≠ psIdle)) →
        Yields (.fabricIdleStop q) s fun t => t.fabRun q = false ∧ ∀ q', q' < 4 → q' ≠ q →
        t.fabRun q' = s.fabRun q') ∧
    -- TRANSLATION_WALK (R445)
    (∀ (b : Nat) (x : ChXlate) (rest : List ChXlate) (s : State), s.faults.frozen = false →
        (s.ch b).xlate = x :: rest →
        exec (.translationWalk b) s = .next ((s.upCh b fun c => { c with xlate := rest }).translate b x))

/-- GO, STEP, HALT, CLRFAULT, CLRCNT and the program, PC and window accesses complete (spec/03_chanter_model.md). Where the
spec leaves a point open the clauses follow the model's own choices (log entries 1, 3, 18, 22, 61, 78, 81). -/
def Obligations.ChanterControlCompletes : Prop :=
    -- GO (R106)
    (∀ (who : Requester) (b : Nat) (s : State), s.boreOpen b → mayHostRm who = true → b < 64 →
        s.chState b = csHalted → s.flag Fld.REED_FAULT_HELD b = false →
        exec (.go who b) s = .next (((s.putState b csRunning).upCh b fun c => { c with
        step1 := false, stop := none, met := false, judged := false, bubble := 0, tout := [] }).regDone who b)) ∧
    -- STEP (R90)
    (∀ (who : Requester) (b : Nat) (s : State), s.boreOpen b → mayHostRm who = true → b < 64 →
        s.chState b = csHalted → s.flag Fld.REED_FAULT_HELD b = false →
        exec (.step who b) s = .next (((s.putState b csRunning).upCh b fun c => { c with
        step1 := true, stop := none, met := false, judged := false, bubble := 0, tout := [] }).regDone who b)) ∧
    -- CHN_CTRL_HALT (R107)
    (∀ (who : Requester) (b : Nat) (s : State), s.boreOpen b → mayHostRm who = true → s.running b = true →
        (s.ch b).stop = none →
        exec (.chnCtrlHalt who b) s = .next
        ((s.stopIssue b (.halted 3 (s.fget Fld.CHN_PC_PC b))).regDone who b)) ∧
    -- CLRFAULT (R121)
    (∀ (who : Requester) (b : Nat) (s : State), s.boreOpen b → mayHostRm who = true → b < 64 →
        s.chState b = csFaulted → Yields (.clrfault who b) s fun t => t.chState b = csHalted ∧
        t.fget Fld.CHN_PC_PC b = s.fget Fld.CHN_FAULT_HALTPC b ∧ t.rget .CHN_FAULT b = 0 ∧
        t.rget .CHN_FAULTINFO b = 0 ∧ t.rget .REED_FAULT b = 0 ∧ t.fget Fld.CHN_STATUS_HREASON b = 5) ∧
    -- CLRCNT (R121)
    (∀ (who : Requester) (b : Nat) (s : State), s.boreOpen b → mayHostRm who = true →
        exec (.clrcnt who b) s = .next ((((s.rput .CHN_CYCLES 0 b).rput .CHN_BUNDLES 0 b).rput .CHN_STALL 0 b).regDone
        who b)) ∧
    -- CHN_PC_WRITE (R108)
    (∀ (who : Requester) (b : Nat) (val : Word64) (s : State), s.boreOpen b → mayHostRm who = true →
        s.chState b = csHalted →
        exec (.chnPcWrite who b val) s = .next (((s.fput Fld.CHN_PC_PC val.toNat b).upCh b fun c =>
        { c with barSlot := none }).regDone who b)) ∧
    -- PROGRAM_STORE_WRITE (R87)
    (∀ (who : Requester) (addr : Nat) (data : List Byte) (b off : Nat) (s : State), s.home addr = .pstore b off →
        s.boreOpen b → mayHostRm who = true → s.running b = false → progAccess data.length addr = true →
        exec (.programStoreWrite who addr data) s = .next ((s.store addr data false).regDone who b)) ∧
    -- REGISTER_WINDOW_ACCESS (R116)
    (∀ (who : Requester) (b off : Nat) (s : State), s.boreOpen b → s.running b = false →
        exec (.registerWindowAccess who b off none) s = .next
        ({ s with rdata := BitVec.ofNat 64 ((s.winRead b off).getD 0) }.regDone who b)) ∧
    (∀ (who : Requester) (b off : Nat) (v : Word64) (s : State), s.boreOpen b → s.running b = false →
        mayHostRm who = true → (s.winRead b off).isSome = true →
        exec (.registerWindowAccess who b off (some v)) s = .next ((s.winWrite b off v.toNat).regDone who b))

/-- Bundle issue, waits, write-backs, loads, halts and DMA requests complete (spec/04_chanter_bundles.md). Where the spec
leaves a point open the clauses follow the model's own choices (log entries 1, 3, 15 to 18, 20, 21, 80, 81). -/
def Obligations.ChanterRunCompletes : Prop :=
    -- BUNDLE_ISSUE (R92)
    (∀ (b : Nat) (u v : State) (pc : Nat) (ws : List Nat) (s : State), s.faults.frozen = false →
        s.running b = true → s.clocked b = true → u = s.fsat Fld.CHN_CYCLES_CYCLES 1 b → (u.ch b).stop = none →
        (u.ch b).imp = [] → (u.ch b).bubble = 0 → pc = u.fget Fld.CHN_PC_PC b → ws = u.words b pc →
        u.fetchFaults b pc ws = [] → u.needsMet b ws = true → v = u.firstMet b pc ws → v.holds b pc ws 6 = false →
        v.holds b pc ws 7 = false → (v.fetchCorr b pc).gateFaults b ws = [] →
        exec (.bundleIssue b) s = .next ((v.fetchCorr b pc).issueBundle b pc ws)) ∧
    -- WAIT_TIMEOUT (R94, R166, R336, R347)
    (∀ (b k : Nat) (u s : State), s.faults.frozen = false → s.chState b = csWaiting → (s.ch b).stop = none →
        (s.ch b).met = true → ((s.timers b).map (·.2)).min? = some k →
        u = s.expire b (((s.timers b).filter fun x => x.2 = k).map (·.1)) →
        u.clocked b = true → exec (.waitTimeout b) s = .next (u.boreCycle b)) ∧
    (∀ (b k : Nat) (u s : State), s.faults.frozen = false → s.chState b = csWaiting → (s.ch b).stop = none →
        (s.ch b).met = true → ((s.timers b).map (·.2)).min? = some k →
        u = s.expire b (((s.timers b).filter fun x => x.2 = k).map (·.1)) →
        u.clocked b = false → exec (.waitTimeout b) s = .next (u.waitEvent b true)) ∧
    -- REGISTER_WRITEBACK (R93)
    (∀ (b k : Nat) (x : PendWrite) (s : State), s.faults.frozen = false → (s.ch b).pend[k]? = some x →
        exec (.registerWriteback b k) s = .next (((s.upCh b fun c => { c with pend := c.pend.eraseIdx k }).regPut b
        x.dst x.val.toNat).putOut b)) ∧
    -- LOAD_COMPLETION (R146, R100)
    (∀ (b id : Nat) (x : ChLoad) (m : HMap) (off : Nat) (data : List Byte) (u s : State), s.faults.frozen = false →
        ((s.ch b).loads.find? (fun x => x.id = id) = some x) → x.tgt = .handle m off → s.selfStore b = false →
        s.hRead b m off x.len = (data, false, u) →
        exec (.loadCompletion b id) s = .next (((u.unhold b m.h).dropLoad b id).regPut b x.dst (leNat data))) ∧
    (∀ (b id : Nat) (x : ChLoad) (a addr : Nat) (data : List Byte) (s : State), s.faults.frozen = false →
        ((s.ch b).loads.find? (fun x => x.id = id) = some x) → x.tgt = .ctxAddr a → x.back = some (data, .ok, addr) →
        exec (.loadCompletion b id) s = .next ((s.dropLoad b id).regPut b x.dst (leNat data))) ∧
    -- IMPRECISE_FAULT (R110, R236)
    (∀ (b : Nat) (f : ImpFault) (rest : List ImpFault) (s : State), s.faults.frozen = false →
        (s.ch b).imp = f :: rest → s.running b = true → (s.ch b).stop = none →
        exec (.impreciseFault b) s = .next ((s.upCh b fun c => { c with imp := rest }).stopIssue b
        (.faulted f false false (s.fget Fld.CHN_PC_PC b)))) ∧
    -- CHANTER_HALT_COMPLETE (R91)
    (∀ (b r pc : Nat) (s : State), s.faults.frozen = false → s.outstanding b = false → s.running b = true →
        (s.ch b).stop = some (.halted r pc) → (s.ch b).imp = [] →
        exec (.chanterHaltComplete b) s = .next (s.enterHalted b r pc)) ∧
    (∀ (b : Nat) (f : ImpFault) (p m : Bool) (h : Nat) (s : State), s.faults.frozen = false →
        s.outstanding b = false → s.running b = true → (s.ch b).stop = some (.faulted f p m h) →
        exec (.chanterHaltComplete b) s = .next (s.enterFaulted b f p (m || !(s.ch b).imp.isEmpty) h)) ∧
    -- DMA_REQUEST_START (R149, R147)
    (∀ (b : Nat) (r : DmaReq) (s : State), s.faults.frozen = false →
        ((s.ch b).dma.find? (fun r => !r.moving) = some r) →
        (((s.ch b).dma.filter fun r => r.moving && !r.copied).length < 4) → tEmpty r.dd.toNat = false →
        exec (.dmaRequestStart b) s = .next (s.upDma b r.id fun r => { r with moving := true })) ∧
    (∀ (b : Nat) (r : DmaReq) (s : State), s.faults.frozen = false →
        ((s.ch b).dma.find? (fun r => !r.moving) = some r) →
        (((s.ch b).dma.filter fun r => r.moving && !r.copied).length < 4) → tEmpty r.dd.toNat = true →
        exec (.dmaRequestStart b) s = .next ((s.upDma b r.id fun r => { r with moving := true }).dmaDone b
        { r with moving := true })) ∧
    -- DMA_COMPLETION (R134, R297)
    (∀ (b id : Nat) (r : DmaReq) (s : State), s.faults.frozen = false →
        ((s.ch b).dma.find? (fun r => r.id = id && r.moving) = some r) → r.copied = false →
        s.dmaBehind b r = false → (s.dmaMove b r).stop = none →
        exec (.dmaCompletion b id) s = .next ((s.dmaMove b r).s.dmaDone b r)) ∧
    (∀ (b id : Nat) (r : DmaReq) (u s : State), s.faults.frozen = false →
        ((s.ch b).dma.find? (fun r => r.id = id && r.moving) = some r) → r.copied = true → bit r.ck 1 = true →
        s.completionMsg b r.ch r.tag = some u → exec (.dmaCompletion b id) s = .next (u.dropDma b r.id))

/-- Feed, array, drain, column test, bypass and VKLOAD commands complete (spec/05_matrix_array.md). Where the spec leaves a
point open the clauses follow the model's own choices (log entries 1, 3, 10, 15, 31, 82, 83). -/
def Obligations.MatrixArrayCommandsComplete : Prop :=
    -- FEED_TILE_COMPLETE (R259, R164)
    (∀ (b : Nat) (f : FeedReq) (rest : List FeedReq) (u s : State), s.faults.frozen = false →
        (s.ch b).feeds = f :: rest → (s.ch b).arrq.any (·.reads f.fb) = false →
        (u = (s.fillFeed b f).upCh b fun c => { c with feeds := rest }) →
        exec (.feedTileComplete b) s = .next ((u.putFeedOk b f.fb (!(u.ch b).feeding f.fb)).unhold b f.sh.h)) ∧
    -- ARRAY_INSTRUCTION_BEGIN (R184)
    (∀ (b : Nat) (before after : List ArrOp) (o : ArrOp) (s : State), s.faults.frozen = false →
        (s.ch b).arrq = before ++ o :: after → o.phase = .waits → mayBegin before o = true →
        exec (.arrayInstructionBegin b) s = .next ((s.armBegin b o).upCh b fun c =>
        { c with arrq := before ++ { o with phase := .runs } :: after })) ∧
    -- ARRAY_INSTRUCTION_FINISH (R184, R193)
    (∀ (b : Nat) (before after : List ArrOp) (o : ArrOp) (s : State), s.faults.frozen = false →
        (s.ch b).arrq = before ++ o :: after → o.phase = .runs → (opc o.word.toNat = 2 ∨ opc o.word.toNat = 3) →
        exec (.arrayInstructionFinish ⟨b, before.length⟩) s = .next (((s.upCh b fun c =>
        { c with arrq := before ++ { o with phase := .tail } :: after }).startFills b).putMq b)) ∧
    (∀ (b : Nat) (before after : List ArrOp) (o : ArrOp) (s : State), s.faults.frozen = false →
        (s.ch b).arrq = before ++ o :: after →
        ((o.phase = .runs ∧ opc o.word.toNat ≠ 2 ∧ opc o.word.toNat ≠ 3) ∨
          (o.phase = .tail ∧ (before.any fun x => opc x.word.toNat = opc o.word.toNat) = false)) →
        exec (.arrayInstructionFinish ⟨b, before.length⟩) s = .next (((s.upCh b fun c =>
        { c with arrq := before ++ after }).startFills b).putMq b)) ∧
    -- DRAIN_COMPLETION (R153)
    (∀ (b n h : Nat) (rest : List DrainWait) (s : State), s.faults.frozen = false →
        (s.ch b).drains = ⟨some n, h⟩ :: rest →
        exec (.drainCompletion b) s = .next ((((s.upCh b fun c => { c with drains := rest }).unhold b h).upVest b fun
        v => { v with arrs := v.arrs.map fun a => { a with drains := a.drains - 1 } }).incLocal b n 1)) ∧
    (∀ (b h : Nat) (rest : List DrainWait) (s : State), s.faults.frozen = false →
        (s.ch b).drains = ⟨none, h⟩ :: rest →
        exec (.drainCompletion b) s = .next (((s.upCh b fun c => { c with drains := rest }).unhold b h).upVest b fun
        v => { v with arrs := v.arrs.map fun a => { a with drains := a.drains - 1 } })) ∧
    -- COLUMN_TEST (R192, R203)
    (∀ (who : Requester) (b : Nat) (s : State), s.boreOpen b → mayPf who = true → s.mayCtest b = true →
        exec (.columnTest who b) s = .next (((s.upArr b fun A => { A with testing := true }).fput
        Fld.MXA_BYPCMD_CMD_STATUS bypRunning b).regDone who b)) ∧
    -- COLUMN_TEST_DONE (R192)
    (∀ (b : Nat) (cols : BitVec 128) (rowfail : Bool) (s : State), s.faults.frozen = false →
        (s.bore b).arr.testing = true → b < 64 →
        Yields (.columnTestDone b cols rowfail) s fun t => t.rget .MXA_CTRES b 0 = BitVec.ofNat 64 cols.toNat ∧
        t.rget .MXA_CTRES b 1 = BitVec.ofNat 64 (cols.toNat / 2 ^ 64) ∧
        t.fget Fld.MXA_BYPCMD_ROWFAIL b = b2n rowfail ∧ t.fget Fld.MXA_BYPCMD_CMD_STATUS b = bypDone ∧
        (t.bore b).arr.testing = false ∧ (t.bore b).arr.stat = []) ∧
    -- BYPASS_COMMIT (R202, R203)
    (∀ (who : Requester) (b adc : Nat) (s : State), s.boreOpen b → mayPf who = true →
        (s.bore b).arr.testing = false → (s.bore b).arr.committing = false →
        maskCount (s.maskPair .MXA_BYPPEND b) ≤ 8 →
        exec (.bypassCommit who b adc) s = .next ((((s.upArr b fun A => { A with committing := true }).fput
        Fld.MXA_BYPCMD_CMD_STATUS bypRunning b).queueOp (.bypass b (s.maskPair .MXA_BYPPEND b)) adc).regDone who b)) ∧
    -- BYPASS_COMMIT_DONE (R202)
    (∀ (b adc mask : Nat) (rest : List FlashOp) (s : State), s.faults.flash = .bypass b mask :: rest →
        exec (.bypassCommitDone b true adc) s = .next ((((s.setMask (s.siteOf b) mask).writeRepair
        (mput 0 s.recordMasks (s.siteOf b) mask)).bypSt b bypDone).opOver adc)) ∧
    -- VKLOAD_COMPLETE (R216)
    (∀ (b : Nat) (k : KLoad) (rest : List KLoad) (n : Nat) (data : List Byte) (p : Bool)
        (u s : State), s.faults.frozen = false → (s.bore b).kloads = k :: rest → k.cn = some n →
        s.hRead b k.m (k.off / 4 * 4) (4 * k.count) = (data, p, u) →
        exec (.vkloadComplete b) s = .next ((((u.writeKernel b k data).upBore b fun B =>
        { B with kloads := rest }).unhold b k.m.h).incLocal b n 1)) ∧
    (∀ (b : Nat) (k : KLoad) (rest : List KLoad) (data : List Byte) (p : Bool)
        (u s : State), s.faults.frozen = false → (s.bore b).kloads = k :: rest → k.cn = none →
        s.hRead b k.m (k.off / 4 * 4) (4 * k.count) = (data, p, u) →
        exec (.vkloadComplete b) s = .next (((u.writeKernel b k data).upBore b fun B =>
        { B with kloads := rest }).unhold b k.m.h))

/-- Ligature, scrub and windchest commands and arrival sends complete (spec/07_windchest_and_ligatures.md).  Where the
spec leaves a point open the clauses follow the model's own choices (log entries 1, 3, 33, 37). -/
def Obligations.LigatureCommandsComplete : Prop :=
    -- ALLOC (R265)
    (∀ (who : Requester) (b h : Nat) (s : State), s.boreOpen b → mayHostRm who = true → (s.bore b).lig.cmd = none →
        exec (.alloc who b h) s = .next
        (
          let stage := if who = .resmgr then (s.bore b).lig.rmStage else s.rget .LIG_STAGE b
          let mask := if who = .resmgr then (s.bore b).lig.rmMask else s.rget .LIG_STAGEMASK b
          (((s.upLig b fun l => { l with cmd := some ⟨1, h, stage, mask, who ≠ .resmgr⟩ }).fput Fld.LIG_CMDST_PENDING 1 b).fput Fld.LIG_CMDST_HANDLE h b).regDone who b)) ∧
    -- ALLOC_LOCK (R265)
    (∀ (who : Requester) (b h : Nat) (s : State), s.boreOpen b → mayHostRm who = true → (s.bore b).lig.cmd = none →
        exec (.allocLock who b h) s = .next
        (
          let stage := if who = .resmgr then (s.bore b).lig.rmStage else s.rget .LIG_STAGE b
          let mask := if who = .resmgr then (s.bore b).lig.rmMask else s.rget .LIG_STAGEMASK b
          (((s.upLig b fun l => { l with cmd := some ⟨2, h, stage, mask, who ≠ .resmgr⟩ }).fput Fld.LIG_CMDST_PENDING 1 b).fput Fld.LIG_CMDST_HANDLE h b).regDone who b)) ∧
    -- RELEASE (R265)
    (∀ (who : Requester) (b h : Nat) (s : State), s.boreOpen b → mayHostRm who = true → (s.bore b).lig.cmd = none →
        exec (.release who b h) s = .next
        (
          let stage := if who = .resmgr then (s.bore b).lig.rmStage else s.rget .LIG_STAGE b
          let mask := if who = .resmgr then (s.bore b).lig.rmMask else s.rget .LIG_STAGEMASK b
          (((s.upLig b fun l => { l with cmd := some ⟨3, h, stage, mask, who ≠ .resmgr⟩ }).fput Fld.LIG_CMDST_PENDING 1 b).fput Fld.LIG_CMDST_HANDLE h b).regDone who b)) ∧
    -- RELEASE_SCRUB (R265)
    (∀ (who : Requester) (b h : Nat) (s : State), s.boreOpen b → mayHostRm who = true → (s.bore b).lig.cmd = none →
        exec (.releaseScrub who b h) s = .next
        (
          let stage := if who = .resmgr then (s.bore b).lig.rmStage else s.rget .LIG_STAGE b
          let mask := if who = .resmgr then (s.bore b).lig.rmMask else s.rget .LIG_STAGEMASK b
          (((s.upLig b fun l => { l with cmd := some ⟨4, h, stage, mask, who ≠ .resmgr⟩ }).fput Fld.LIG_CMDST_PENDING 1 b).fput Fld.LIG_CMDST_HANDLE h b).regDone who b)) ∧
    -- HANDLE_COMMAND_EFFECT (R266)
    (∀ (b : Nat) (c : LigCmd) (u s : State), s.faults.frozen = false → (s.bore b).lig.cmd = some c →
        s.ligDo b c = (u, ligOk) →
        exec (.handleCommandEffect b) s = .next (((u.upLig b fun l => { l with cmd := none }).fput
        Fld.LIG_CMDST_PENDING 0 b).fput Fld.LIG_CMDST_STATUS ligOk b)) ∧
    -- SCRUB_START (R267)
    (∀ (b h : Nat) (rest : List Nat) (s : State), s.faults.frozen = false → (s.bore b).lig.scrubs = h :: rest →
        (s.bore b).lig.active = false → s.fget Fld.LIG_HDESC_INFLIGHT b h = 0 →
        exec (.scrubStart b) s = .next (s.upLig b fun l => { l with active := true })) ∧
    -- SCRUB_END (R267)
    (∀ (b h : Nat) (rest : List Nat) (s : State), s.faults.frozen = false → (s.bore b).lig.scrubs = h :: rest →
        (s.bore b).lig.active = true →
        exec (.scrubEnd b) s = .next (((s.scrubLines b ⟨h, s.fget Fld.LIG_HDESC_BASE_ROW b h, s.rget .LIG_HMASK b h⟩
        (s.fget Fld.LIG_HDESC_SIZE b h)).upLig b fun l => { l with scrubs := rest, active := false }).hRelease b h)) ∧
    -- WCH_CLEAR (R276)
    (∀ (who : Requester) (b : Nat) (s : State), s.boreOpen b → mayHostRm who = true →
        exec (.wchClear who b) s = .next ((s.each (List.range 64) fun s k =>
        (s.rput .WCH_BCW 0 b k).rput .WCH_BCN 0 b k).regDone who b)) ∧
    -- WCH_FREEZE (R275)
    (∀ (who : Requester) (b : Nat) (v : Bool) (s : State), s.boreOpen b → mayHostRm who = true →
        exec (.wchFreeze who b v) s = .next ((s.fput Fld.WCH_CCTRL_FREEZE (b2n v) b).regDone who b)) ∧
    -- ARRIVAL_SEND (R342)
    (∀ (b : Nat) (a : ArrWait) (rest : List ArrWait) (s : State), s.faults.frozen = false →
        (s.bore b).vest.arrs = a :: rest → (s.ch b).arrReady a = true →
        exec (.arrivalSend b) s = .next ((s.upVest b fun v => { v with arrs := rest }).send .posted (.bore b)
        (.unit .sync) (.barArrive (.chanter b) a.bid a.ctx)))

/-- Launch, rank and reed commands complete (spec/06_reeds_and_ranks.md).  Where the spec leaves a point open the
clauses follow the model's own choices (log entries 1, 3, 11, 32). -/
def Obligations.ReedCommandsComplete : Prop :=
    -- LAUNCH_START (R215)
    (∀ (b r : Nat) (x : Launch) (s : State), s.faults.frozen = false → s.rkState b r = rkIdle →
        (s.rank b r).pendl.bind (s.launch b) = some x →
        exec (.launchStart b r) s = .next (((s.upRank b r fun k => { k with pendl := none }).fput Fld.REED_RSTAT_PEND
        0 b r).startRank b r x)) ∧
    -- LAUNCH_FINISH (R155, R218, R233)
    (∀ (b id : Nat) (x : Launch) (n : Nat) (s : State), s.faults.frozen = false → s.launch b id = some x →
        x.left = [] → x.cn = some n → x.dead = false →
        exec (.launchFinish b id) s = .next ((s.upBore b fun B =>
        { B with launches := B.launches.filter fun y => y.id ≠ id }).incLocal b n 1)) ∧
    (∀ (b id : Nat) (x : Launch) (s : State), s.faults.frozen = false → s.launch b id = some x → x.left = [] →
        ((x.cn = none ∨ x.dead = true)) →
        exec (.launchFinish b id) s = .next (s.upBore b fun B =>
        { B with launches := B.launches.filter fun y => y.id ≠ id })) ∧
    -- RANK_STOP_COMPLETE (R232)
    (∀ (b r : Nat) (s : State), s.faults.frozen = false → (s.rank b r).stopping = true →
        exec (.rankStopComplete b r) s = .next (s.idleRank b r)) ∧
    -- REED_ISSUE (R209, R221)
    (∀ (b r lane w : Nat) (s : State), s.faults.frozen = false → (s.reed b r lane).mode = .running →
        s.clocked b = true → ksKey b r (s.reed b r lane).pc ∉ s.double → ksKey b r (s.reed b r lane).pc ∉ s.single →
        w = s.kinsn b r (s.reed b r lane).pc → reedIllegal w = false → s.reedHeld b r lane w = false →
        s.reedCheck b r lane w = none → exec (.reedIssue b r lane) s = .next (s.reedRun b r lane w)) ∧
    -- REED_LOAD_RETURN (R226)
    (∀ (b r lane : Nat) (x : ReedLoad) (rest : List ReedLoad) (data : List Byte)
        (u s : State), s.faults.frozen = false → (s.reed b r lane).loads = x :: rest →
        s.hRead b x.m x.off (4 * 2 ^ x.sz) = (data, false, u) →
        exec (.reedLoadReturn b r lane) s = .next ((chunks 4 (4 * 2 ^ x.sz) data).zipIdx.foldl (fun v
        (y, k) => v.tput b r lane (x.rt + k) (leNat y)) ((u.unhold b x.m.h).upReed b r lane fun d =>
        { d with loads := rest }))) ∧
    -- RANK_BARRIER_COMPLETE (R230)
    (∀ (b r scope : Nat) (ranks : List Nat) (s : State), s.faults.frozen = false →
        s.rbarRanks b r scope = some ranks → s.rbarMet b scope ranks = true →
        exec (.rankBarrierComplete b r scope) s = .next (s.each ranks fun s r => s.each
        (List.range 64) fun s l => s.upReed b r l fun d => if d.mode = .rbar scope then { d with mode := .running }
        else d)) ∧
    -- RANK_ARRIVAL_SEND (R231)
    (∀ (b r bid : Nat) (s : State), s.faults.frozen = false → s.rankArrival b r = some bid →
        (s.rank b r).gsent = none →
        exec (.rankArrivalSend b r) s = .next ((s.upRank b r fun k => { k with gsent := some bid }).send .posted
        (.bore b) (.unit .sync) (.barArrive (.rank b r ((s.rank b r).cur.getD 0)) bid (s.boreCtx b)))) ∧
    -- REED_DEBUG_WINDOW_ACCESS (R244)
    (∀ (who : Requester) (b off : Nat) (wr : Option Word32) (s : State), s.boreOpen b → mayPf who = true →
        s.fget Fld.REED_DBGSEL_RANK b ≤ 79 → s.rkState b (s.fget Fld.REED_DBGSEL_RANK b) = rkIdle → 0x1400 ≤ off →
        off < 0x1480 → Yields (.reedDebugWindowAccess who b off wr) s fun t => (∀ v, wr = some v →
        t = (s.tput b (s.fget Fld.REED_DBGSEL_RANK b) (s.fget Fld.REED_DBGSEL_LANE b) ((off - 0x1400) / 4)
          v.toNat).regDone who b) ∧
        (wr = none → t = { s with rdata := BitVec.ofNat 64 (s.t b (s.fget Fld.REED_DBGSEL_RANK b) (s.fget Fld.REED_DBGSEL_LANE b) ((off - 0x1400) / 4)) }.regDone who b))

/-- Queue messages, returns, configuration and audits complete (spec/08_queues_and_channels.md). Where the spec leaves a
point open the clauses follow the model's own choices (log entries 1, 3, 7, 76, 86). -/
def Obligations.QueueCommandsComplete : Prop :=
    -- MESSAGE_ARRIVAL (R303)
    (∀ (src : Endpoint) (b : Nat) (c : XClass) (e d : Endpoint) (did q : Nat) (m : Message)
        (u s : State), s.pstate b ≠ psOff → s.oldest .posted src (.bore b) = some (⟨c, e, d, .message did q m⟩, u) →
        u.judge b q m.stamp m.origin m.nack false = none → exec (.messageArrival src b) s = .next (u.land b q m)) ∧
    -- CHANNEL_INCREMENT_ARRIVAL (R300)
    (∀ (src : Endpoint) (b : Nat) (c : XClass) (e d : Endpoint) (did q : Nat) (i : ChanInc)
        (u s : State), s.pstate b ≠ psOff → s.oldest .posted src (.bore b) = some (⟨c, e, d, .chanInc did q i⟩, u) →
        u.judge b q i.stamp i.origin false true = none → i.ctr.pool = false → i.ctr.idx ≤ 47 →
        exec (.channelIncrementArrival src b) s = .next (u.incLocal b i.ctr.idx i.amt)) ∧
    (∀ (src : Endpoint) (b : Nat) (c : XClass) (e d : Endpoint) (did q : Nat) (i : ChanInc)
        (u s : State), s.pstate b ≠ psOff → s.oldest .posted src (.bore b) = some (⟨c, e, d, .chanInc did q i⟩, u) →
        u.judge b q i.stamp i.origin false true = none → i.ctr.pool = true →
        exec (.channelIncrementArrival src b) s = .next (u.sendPool (.bore b) i.ctr.idx i.amt i.ctx)) ∧
    -- NACK_MESSAGE_ARRIVAL (R314)
    (∀ (src : Endpoint) (b : Nat) (c : XClass) (e d : Endpoint) (o : Origin) (n : NackMsg)
        (u s : State), s.pstate b ≠ psOff → s.oldest .posted src (.bore b) = some (⟨c, e, d, .nackMsg o n⟩, u) →
        exec (.nackMessageArrival src b) s = .next (u.deliverNack b n)) ∧
    -- CREDIT_RETURN (R306)
    (∀ (src dst : Endpoint) (c : XClass) (e d : Endpoint) (o : Origin) (orphan : Bool)
        (u s : State), s.atStub dst = false → s.oldest .posted src dst = some (⟨c, e, d, .creditRet o orphan⟩, u) →
        exec (.creditReturn src dst) s = .next (if orphan then
        (((u.addCredit o).auditCount o).countOrphan o).crcn o else ((u.addCredit o).auditCount o).crcn o)) ∧
    -- RESERVATION_RELEASE (R306)
    (∀ (src dst : Endpoint) (c : XClass) (e d : Endpoint) (o : Origin) (u s : State), s.atStub dst = false →
        s.oldest .posted src dst = some (⟨c, e, d, .release o⟩, u) →
        exec (.reservationRelease src dst) s = .next (u.takeRelease o)) ∧
    -- ORPHAN_MARK_ARRIVAL (R312)
    (∀ (src dst : Endpoint) (c : XClass) (e d : Endpoint) (o : Origin) (u s : State), s.atStub dst = false →
        s.oldest .posted src dst = some (⟨c, e, d, .orphanMark o⟩, u) →
        exec (.orphanMarkArrival src dst) s = .next (u.countOrphan o)) ∧
    -- ROUTE_WRITE (R316, R399, R434)
    (∀ (who : Requester) (owner entry : Nat) (second : Bool) (val : Word64) (u s : State), s.vestibuleOpen owner →
        mayHostRm who = true → s.writeRoute (.bore owner entry) second val = (u, 1) →
        exec (.routeWrite who .queue owner entry second val) s = .next ((u.cfgst owner 0 entry 1).regDone who owner)) ∧
    (∀ (who : Requester) (owner entry : Nat) (second : Bool) (val : Word64) (s : State), s.hubOpen = true →
        mayHostRm who = true →
        exec (.routeWrite who .dispatch owner entry second val) s = .next (s.stgRoute owner entry second val)) ∧
    (∀ (who : Requester) (owner entry : Nat) (second : Bool) (val : Word64) (s : State), s.hubOpen = true →
        mayHostRm who = true →
        exec (.routeWrite who .verdict owner entry second val) s = .next (s.ovbRoute owner entry second val)) ∧
    -- QUEUE_CONFIG_WRITE (R317)
    (∀ (who : Requester) (b q : Nat) (val : Word64) (u s : State), s.vestibuleOpen b → mayHostRm who = true →
        s.writeQcfg b q val = (u, 1) →
        exec (.queueConfigWrite who b q val) s = .next ((u.cfgst b 1 q 1).regDone who b)) ∧
    -- QCTL_OPEN (R322)
    (∀ (who : Requester) (b q : Nat) (s : State), s.vestibuleOpen b → mayHostRm who = true →
        exec (.qctlOpen who b q) s = .next ((s.fput Fld.QUE_QSTAT_READER 0 b q).regDone who b)) ∧
    -- QCTL_CLOSE (R313)
    (∀ (who : Requester) (b q : Nat) (s : State), s.vestibuleOpen b → mayHostRm who = true →
        exec (.qctlClose who b q) s = .next (((s.fput Fld.QUE_QSTAT_READER 1 b q).refuseAll b q rClosed).regDone who
        b)) ∧
    -- NEWEPOCH (R294)
    (∀ (who : Requester) (b q : Nat) (s : State), s.vestibuleOpen b → mayHostRm who = true →
        exec (.newepoch who b q) s = .next (((((s.finc Fld.QUE_QSTAT_EPOCH 1 b q).fput Fld.QUE_QSTAT_READER 2 b
        q).upVest b fun v => { v with taken := v.taken.filter (· ≠ q) }).refuseAll b q rEpoch).regDone who b)) ∧
    -- CHANNEL_AUDIT (R311)
    (∀ (who : Requester) (b ch : Nat) (s : State), s.vestibuleOpen b → mayHostRm who = true → b < 64 → ch < 256 →
        (s.bore b).vest.audit = none → s.rtValid (.bore b ch) = true → s.rt (.bore b ch) Fld.QUE_ROUTEA_KIND = 0 →
        s.rt (.bore b ch) Fld.QUE_ROUTEA_DTYPE = 0 →
        Yields (.channelAudit who b ch) s fun t => (t.bore b).vest.audit = some ⟨ch, 0⟩ ∧
        t.flag Fld.QUE_AUDRES_BUSY b = true ∧
        t.net = s.net ++ [⟨.posted, .bore b, .bore (s.rt (.bore b ch) Fld.QUE_ROUTEA_DID), .auditMarker (s.rt (.bore b ch) Fld.QUE_ROUTEA_DID) (s.rt (.bore b ch) Fld.QUE_ROUTEA_DQ) (.here (.bore b ch))⟩])
        ∧
    -- AUDIT_MARKER_ARRIVAL (R311)
    (∀ (src : Endpoint) (b : Nat) (c : XClass) (e d : Endpoint) (did q : Nat) (o : Origin)
        (u s : State), s.pstate b ≠ psOff →
        s.oldest .posted src (.bore b) = some (⟨c, e, d, .auditMarker did q o⟩, u) →
        exec (.auditMarkerArrival src b) s = .next (u.auditReplyTo (.bore b) o (u.occupancy b q o))) ∧
    -- AUDIT_REPLY_ARRIVAL (R311)
    (∀ (src : Endpoint) (b : Nat) (c : XClass) (e d : Endpoint) (oc : Nat) (o : Origin) (a : Audit)
        (u s : State), s.pstate b ≠ psOff → s.oldest .posted src (.bore b) = some (⟨c, e, d, .auditReply o oc⟩, u) →
        (u.bore b).vest.audit = some a → a.ch = srcCh o → a.ch ∉ (u.bore b).vest.orphanAud →
        exec (.auditReplyArrival src b) s = .next (((((u.fput Fld.QUE_AUDRES_OCC oc b).fput Fld.QUE_AUDRES_RET a.rt
        b).fput Fld.QUE_AUDRES_STATUS 1 b).fput Fld.QUE_AUDRES_BUSY 0 b).upVest b fun v => { v with audit := none }))

/-- Counter, watch and barrier commands complete (spec/09_counters_and_barriers.md).  Where the spec leaves a point open
the clauses follow the model's own choices (log entries 1, 3, 23). -/
def Obligations.SynchronisationCommandsComplete : Prop :=
    -- POOL_INCREMENT_ARRIVAL (R334)
    (∀ (src : Endpoint) (c : XClass) (e d : Endpoint) (idx amt ctx : Nat) (u s : State), s.oldest .posted src
        (.unit .sync) = some (⟨c, e, d, .poolInc idx amt ctx⟩, u) → u.poolOwned ctx idx = true →
        exec (.poolIncrementArrival src) s = .next ((u.finc Fld.SYN_PVAL_VALUE amt 0 idx).judgeWatches idx)) ∧
    -- WATCH_ARRIVAL (R336)
    (∀ (src : Endpoint) (c : XClass) (e d : Endpoint) (b idx ctx : Nat) (target : Word32)
        (u s : State), s.oldest .posted src (.unit .sync) = some (⟨c, e, d, .watch b idx target ctx⟩, u) →
        u.poolOwned ctx idx = true →
        exec (.watchArrival src) s = .next (if reached (u.fget Fld.SYN_PVAL_VALUE 0 idx) target.toNat then u.send
        .posted (.unit .sync) (.bore b) (.watchAns b true) else
        { u with watches := u.watches ++ [(b, idx, target)] })) ∧
    -- WATCH_ANSWER_ARRIVAL (R336, R347)
    (∀ (b : Nat) (c : XClass) (e d : Endpoint) (n : Nat) (met : Bool) (u s : State), s.pstate b ≠ psOff →
        s.oldest .posted (.unit .sync) (.bore b) = some (⟨c, e, d, .watchAns n met⟩, u) →
        exec (.watchAnswerArrival b) s = .next ((u.upCh b fun c =>
        { c with watch := c.watch.map fun w => { w with answer := some met } }).waitEvent b true)) ∧
    -- BARRIER_ARRIVAL (R343)
    (∀ (src : Endpoint) (c : XClass) (e d : Endpoint) (p : Participant) (bid ctx : Nat)
        (u v s : State), s.oldest .posted src (.unit .sync) = some (⟨c, e, d, .barArrive p bid ctx⟩, u) →
        u.flag Fld.SYN_BCFG_VALID 0 bid = true → u.fget Fld.SYN_BCFG_CTX 0 bid = ctx →
        v = ({ u with bars := mput [] u.bars bid (mget [] u.bars bid ++ [p]) }).finc Fld.SYN_BSTAT_ARRIVED 1 0 bid →
        exec (.barrierArrival src) s = .next (if v.fget Fld.SYN_BSTAT_ARRIVED 0 bid = v.fget Fld.SYN_BCFG_PCOUNT 0
        bid then v.endPhase bid false else v)) ∧
    -- BARRIER_COMPLETION_ARRIVAL (R344)
    (∀ (b : Nat) (c : XClass) (e d : Endpoint) (p : Participant) (bid : Nat) (phase : Word32) (aborted : Bool)
        (u s : State), s.pstate b ≠ psOff →
        s.oldest .posted (.unit .sync) (.bore b) = some (⟨c, e, d, .barDone p bid phase aborted⟩, u) →
        exec (.barrierCompletionArrival b) s = .next (u.barDoneAt p bid phase aborted)) ∧
    -- ABORT (R350)
    (∀ (who : Requester) (bid : Nat) (s : State), s.hubOpen = true → mayHostRm who = true →
        s.flag Fld.SYN_BCFG_VALID 0 bid = true → exec (.abort who bid) s = .next (s.endPhase bid true)) ∧
    -- POOL_BLOCK_WRITE (R358)
    (∀ (who : Requester) (blk : Nat) (val : Word64) (u s : State), s.hubOpen = true → mayHostRm who = true →
        u = s.rput .SYN_PBLK (Reg.SYN_PBLK.merge (s.rget .SYN_PBLK 0 blk) val) 0 blk →
        s.flag Fld.SYN_PBLK_VALID 0 blk = false → u.flag Fld.SYN_PBLK_VALID 0 blk = true →
        longer (quota (s.fget Fld.CTX_QUOTA_PBLK 0 (u.fget Fld.SYN_PBLK_CTX 0 blk))) (u.blocksOf
        (u.fget Fld.SYN_PBLK_CTX 0 blk)) = false →
        exec (.poolBlockWrite who blk val) s = .next ((u.grantBlock blk).syncSt 0 blk 1)) ∧
    (∀ (who : Requester) (blk : Nat) (val : Word64) (u s : State), s.hubOpen = true → mayHostRm who = true →
        u = s.rput .SYN_PBLK (Reg.SYN_PBLK.merge (s.rget .SYN_PBLK 0 blk) val) 0 blk →
        s.flag Fld.SYN_PBLK_VALID 0 blk = true → u.flag Fld.SYN_PBLK_VALID 0 blk = false →
        exec (.poolBlockWrite who blk val) s = .next ((u.releaseBlock blk).syncSt 0 blk 1)) ∧
    -- BARRIER_CONFIG_WRITE (R359)
    (∀ (who : Requester) (bid : Nat) (val : Word64) (u s : State), s.hubOpen = true → mayHostRm who = true →
        u = s.rput .SYN_BCFG (Reg.SYN_BCFG.merge (s.rget .SYN_BCFG 0 bid) val) 0 bid →
        s.fget Fld.SYN_BSTAT_ARRIVED 0 bid = 0 → u.flag Fld.SYN_BCFG_VALID 0 bid = false →
        exec (.barrierConfigWrite who bid val) s = .next (u.syncSt 1 bid 1)) ∧
    (∀ (who : Requester) (bid : Nat) (val : Word64) (u s : State), s.hubOpen = true → mayHostRm who = true →
        u = s.rput .SYN_BCFG (Reg.SYN_BCFG.merge (s.rget .SYN_BCFG 0 bid) val) 0 bid →
        s.fget Fld.SYN_BSTAT_ARRIVED 0 bid = 0 → s.flag Fld.SYN_BCFG_VALID 0 bid = false →
        u.flag Fld.SYN_BCFG_VALID 0 bid = true → 1 ≤ u.fget Fld.SYN_BCFG_PCOUNT 0 bid →
        u.fget Fld.SYN_BCFG_PCOUNT 0 bid ≤ 4096 →
        longer (quota (s.fget Fld.CTX_QUOTA_BARS 0 (u.fget Fld.SYN_BCFG_CTX 0 bid))) (u.barsOf
        (u.fget Fld.SYN_BCFG_CTX 0 bid)) = false →
        exec (.barrierConfigWrite who bid val) s = .next ((u.fput Fld.SYN_BSTAT_PHASE 0 0 bid).syncSt 1 bid 1)) ∧
    -- COUNTER_VALUE_WRITE (R353)
    (∀ (who : Requester) (n : Nat) (val : Word64) (b : Nat) (s : State), s.vestibuleOpen b → mayHostRm who = true →
        exec (.counterValueWrite who (some b) n val) s = .next
        ((((s.fput Fld.SYN_LCVAL_VALUE val.toNat b n).armCheck b n).waitEvent b
        ((s.fput Fld.SYN_LCVAL_VALUE val.toNat b n).ywaitMet b n)).regDone who b)) ∧
    (∀ (who : Requester) (n : Nat) (val : Word64) (s : State), s.hubOpen = true → mayHostRm who = true →
        exec (.counterValueWrite who none n val) s = .next ((s.fput Fld.SYN_PVAL_VALUE val.toNat 0 n).judgeWatches
        n)) ∧
    -- COUNTER_ARM_WRITE (R348)
    (∀ (who : Requester) (b n : Nat) (val : Word64) (s : State), s.vestibuleOpen b → mayHostRm who = true →
        exec (.counterArmWrite who b n val) s = .next (((s.rput .SYN_LCARM (Reg.SYN_LCARM.merge
        (s.rget .SYN_LCARM b n) val) b n).armCheck b n).regDone who b))

/-- Stage scheduler commands complete (spec/10_stage_scheduler.md).  Where the spec leaves a point open the clauses
follow the model's own choices (log entries 1, 3, 7, 34). -/
def Obligations.StageSchedulerCommandsComplete : Prop :=
    -- STG_START (R369)
    (∀ (who : Requester) (p : Nat) (s : State), s.hubOpen = true → mayHostRm who = true → s.stg p = sgStopped →
        exec (.stgStart who p) s = .next (s.fput Fld.STG_STATUS_STATE (s.sched p).resume p)) ∧
    (∀ (who : Requester) (p : Nat) (s : State), s.hubOpen = true → mayHostRm who = true → s.stg p = sgOff →
        exec (.stgStart who p) s = .next ((((((((s.zeroCounts p).each
        (List.range 256) fun s t => s.freeTag p t).upSched p fun d => { Sched.reset with inbox := d.inbox }).fput
        Fld.STG_STATUS_EARLY 0 p)).fput Fld.STG_STATUS_STATE sgRunning p).autoInject p).clearHeaders p)) ∧
    -- STG_STOP (R389)
    (∀ (who : Requester) (p : Nat) (s : State), s.hubOpen = true → mayHostRm who = true →
        (s.stg p = sgRunning ∨ s.stg p = sgStepEnd) → exec (.stgStop who p) s = .next (s.stgHalt p 0)) ∧
    -- NEXTSTEP (R379)
    (∀ (who : Requester) (p : Nat) (s : State), s.hubOpen = true → mayHostRm who = true → s.stg p ≠ sgCoupled →
        exec (.nextstep who p) s = .next (s.nextStep p)) ∧
    (∀ (who : Requester) (p : Nat) (s : State), s.hubOpen = true → mayHostRm who = true → s.stg p = sgStepEnd →
        Yields (.nextstep who p) s fun t => t.stg p = sgRunning) ∧
    -- STG_INJECT (R369)
    (∀ (who : Requester) (p : Nat) (val : Word64) (s : State), s.hubOpen = true → mayHostRm who = true →
        s.fget Fld.STG_CFG_ROLE p < 2 → s.stg p = sgRunning → s.tag p (val.toNat % 256) = tgFree →
        exec (.stgInject who p val) s = .next (s.acceptFwd p (val.toNat % 256))) ∧
    -- TAG_MESSAGE_ARRIVAL (R370)
    (∀ (p : Nat) (m : TagMsg) (rest : List TagMsg) (s : State), (s.sched p).inbox = m :: rest →
        exec (.tagMessageArrival p) s = .next ((s.upSched p fun d => { d with inbox := rest }).judgeTag p m)) ∧
    -- DONE_REPORT (R375)
    (∀ (src : Endpoint) (p : Nat) (c : XClass) (e d : Endpoint) (x : Nat) (m : Message)
        (u s : State), s.oldest .posted src (.unit (.stage p)) = some (⟨c, e, d, .message x 0 m⟩, u) →
        exec (.doneReport src p) s = .next ((u.sendReturn (.unit (.stage p)) m.origin
        (if m.nack then 3 else 1)).doneReport p m)) ∧
    -- CONTROL_MESSAGE (R367)
    (∀ (src : Endpoint) (p : Nat) (c : XClass) (e d : Endpoint) (x : Nat) (m : Message)
        (u s : State), s.oldest .posted src (.unit (.stage p)) = some (⟨c, e, d, .message x 1 m⟩, u) →
        (m.words.getD 0 0).toNat % 256 = 1 →
        exec (.controlMessage src p) s = .next ((u.sendReturn (.unit (.stage p)) m.origin
        (if m.nack then 3 else 1)).nextStep p)) ∧
    -- DISPATCH (R372)
    (∀ (p x f : Nat) (u s : State), s.faults.frozen = false → s.stg p = sgRunning → s.bwdNext p = none →
        s.fwdNext p = some x → f = s.fget Fld.STG_STATUS_FCNT p →
        s.sendAll p (s.dispatchWords p (f % s.stgN Fld.STG_CFG_SBUF p) 0 x f) = some u →
        exec (.dispatch p) s = .next (u.launched p x false f)) ∧
    (∀ (p x j : Nat) (u s : State), s.faults.frozen = false → s.stg p = sgRunning → s.bwdNext p = some x →
        (s.nent p = 0 ∨ s.flag Fld.STG_TAG_RESTORED p x = true) → j = s.fget Fld.STG_TAG_ORD p x →
        s.sendAll p (s.dispatchWords p (j % s.stgN Fld.STG_CFG_RBUF p) 1 x j) = some u →
        exec (.dispatch p) s = .next (u.launched p x true j)) ∧
    -- STEPEND (R378)
    (∀ (p : Nat) (u s : State), s.faults.frozen = false → s.stepOver p = true →
        s.sendAll p (s.dispatchWords p 0 2 0 (s.stgN Fld.STG_CFG_NMB p)) = some u →
        exec (.stepend p) s = .next (u.fput Fld.STG_STATUS_STATE sgStepEnd p)) ∧
    -- EMISSION (R377, R702)
    (∀ (p x : Nat) (rest : List Nat) (s : State), s.faults.frozen = false → s.stg p = sgRunning →
        (s.sched p).fwdOut = x :: rest → s.flag Fld.STG_BROUTE_FVALID p = true →
        s.portShut (s.fget Fld.STG_BROUTE_FKPORT p) = false →
        exec (.emission p) s = .next (s.emitOn p x (s.fget Fld.STG_BROUTE_FKPORT p)
        (s.fget Fld.STG_BROUTE_FFARP p) false)) ∧
    (∀ (p x : Nat) (rest : List Nat) (s : State), s.faults.frozen = false → s.stg p = sgRunning →
        (s.sched p).fwdOut = [] → (s.sched p).bwdOut = x :: rest → s.flag Fld.STG_BROUTE_BVALID p = true →
        s.portShut (s.fget Fld.STG_BROUTE_BKPORT p) = false →
        exec (.emission p) s = .next (s.emitOn p x (s.fget Fld.STG_BROUTE_BKPORT p)
        (s.fget Fld.STG_BROUTE_BFARP p) true))

/-- Stash, restore, report and gate commands complete (spec/11_training_state.md). Where the spec leaves a point open the
clauses follow the model's own choices (log entries 1, 3, 15, 34, 35, 74, 85). -/
def Obligations.StashAndTrainingCommandsComplete : Prop :=
    -- STASH_CHUNK (R385)
    (∀ (p : Nat) (j : StashJob) (rest : List StashJob) (s : State), s.faults.frozen = false →
        (s.sched p).outs = j :: rest → s.jobDone p j = false → s.stashTurn p true = true →
        exec (.stashChunk p true) s = .next (({ s with stashOut := p } : State).stepOut p j)) ∧
    (∀ (p : Nat) (j : StashJob) (rest : List StashJob) (s : State), s.faults.frozen = false →
        (s.sched p).ins = j :: rest → s.jobDone p j = false → s.stashTurn p false = true →
        exec (.stashChunk p false) s = .next (({ s with stashIn := p } : State).stepIn p j)) ∧
    -- STASH_OUT_COMPLETE (R382)
    (∀ (p : Nat) (j : StashJob) (rest : List StashJob) (u s : State), s.faults.frozen = false →
        (s.sched p).outs = j :: rest → s.jobDone p j = true → j.open1 = true →
        (s.stashWrite p (s.slotOff p j.tag 0) ((s.slotHeader p j.tag (1 + 2 * b2n j.poison)).map fun x =>
        (x, false)) = (true, u)) →
        exec (.stashOutComplete p) s = .next ((u.putJob p true none).fput Fld.STG_TAG_STASHED 1 p j.tag)) ∧
    (∀ (p : Nat) (j : StashJob) (rest : List StashJob) (u v s : State), s.faults.frozen = false →
        (s.sched p).outs = j :: rest → s.jobDone p j = true → j.open1 = false → s.openOut p j = (true, v) →
        (v.stashWrite p (v.slotOff p j.tag 0) ((v.slotHeader p j.tag (1 + 2 * b2n j.poison)).map fun x =>
        (x, false)) = (true, u)) →
        exec (.stashOutComplete p) s = .next ((u.putJob p true none).fput Fld.STG_TAG_STASHED 1 p j.tag)) ∧
    -- RESTORE_REQUEST (R384)
    (∀ (p x : Nat) (s : State), s.faults.frozen = false → s.stg p = sgRunning → s.restorable p = some x →
        exec (.restoreRequest p) s = .next (s.upSched p fun d =>
        { d with ins := d.ins ++ [⟨x, s.fget Fld.STG_TAG_ORD p x, 0, 0, false, false⟩] })) ∧
    -- RESTORE_COMPLETE (R383)
    (∀ (p : Nat) (j : StashJob) (rest : List StashJob) (s : State), s.faults.frozen = false →
        (s.sched p).ins = j :: rest → s.jobDone p j = true → j.open1 = true →
        exec (.restoreComplete p) s = .next ((s.putJob p false none).fput Fld.STG_TAG_RESTORED 1 p j.tag)) ∧
    -- AMAX_REPORT (R409)
    (∀ (src : Endpoint) (h : Nat) (c : XClass) (e d : Endpoint) (x : Nat) (m : Message)
        (u s : State), s.oldest .posted src (.unit (.health h)) = some (⟨c, e, d, .message x 0 m⟩, u) →
        (m.words.getD 0 0).toNat % 256 = 1 →
        exec (.amaxReport src h) s = .next ((u.sendReturn (.unit (.health h)) m.origin
        (if m.nack then 3 else 1)).amaxReport ((u.sendReturn (.unit (.health h)) m.origin
        (if m.nack then 3 else 1)).healthOf h) m)) ∧
    -- LOSS_REPORT (R412)
    (∀ (src : Endpoint) (h : Nat) (c : XClass) (e d : Endpoint) (x : Nat) (m : Message)
        (u s : State), s.oldest .posted src (.unit (.health h)) = some (⟨c, e, d, .message x 0 m⟩, u) →
        (m.words.getD 0 0).toNat % 256 = 2 →
        exec (.lossReport src h) s = .next ((u.sendReturn (.unit (.health h)) m.origin
        (if m.nack then 3 else 1)).lossReport ((u.sendReturn (.unit (.health h)) m.origin
        (if m.nack then 3 else 1)).healthOf h) m)) ∧
    -- GATE_REQUEST (R419)
    (∀ (src : Endpoint) (h : Nat) (c : XClass) (e d : Endpoint) (x : Nat) (m : Message)
        (u s : State), s.oldest .posted src (.unit (.health h)) = some (⟨c, e, d, .message x 0 m⟩, u) →
        (m.words.getD 0 0).toNat % 256 = 3 →
        exec (.gateRequest src h) s = .next ((u.sendReturn (.unit (.health h)) m.origin
        (if m.nack then 3 else 1)).gateRequest ((u.sendReturn (.unit (.health h)) m.origin
        (if m.nack then 3 else 1)).healthOf h) m)) ∧
    -- GATE_RELEASE (R428)
    (∀ (who : Requester) (h : Nat) (s : State), s.hubOpen = true → mayHostRm who = true →
        (s.gate h = gtHeld ∨ s.gate h = gtReady) → exec (.gateRelease who h) s = .next (s.publish h true)) ∧
    -- GATE_SKIP (R428)
    (∀ (who : Requester) (h : Nat) (s : State), s.hubOpen = true → mayHostRm who = true →
        (s.gate h = gtHeld ∨ s.gate h = gtReady) →
        exec (.gateSkip who h) s = .next (((s.fput Fld.OVB_GATE_STATE gtPublish h).upHset h fun x =>
        { x with verdict := some false }).clearCur h)) ∧
    -- HOLDNEXT (R428)
    (∀ (who : Requester) (h : Nat) (s : State), s.hubOpen = true → mayHostRm who = true →
        exec (.holdnext who h) s = .next (s.upHset h fun x => { x with holdNext := true })) ∧
    -- VERDICT_SEND (R411, R422)
    (∀ (h : Nat) (commit : Bool) (ws : List Word32) (s : State), s.faults.frozen = false →
        (s.hset h).verdict = some commit → s.gate h = gtPublish →
        ((s.vRoutes h).all (fun l => s.rtValid l && s.rt l Fld.QUE_RSTAT_CRED ≠ 0) = true) →
        (ws = [BitVec.ofNat 32 ((if commit then 1 else 2) + 2 ^ 8 * s.fget Fld.OVB_GATE_REASON h), BitVec.ofNat 32 (s.fget Fld.OVB_GATE_STEP h), BitVec.ofNat 32 (s.fget Fld.OVB_CKPT_EPOCH h)])
        → exec (.verdictSend h) s = .next ((((((s.vRoutes h).foldl (fun s l => (s.hubSend (.unit (.health h)) l ws
        (s.sctx h)).getD s) s).clearStep h).fput Fld.OVB_GATE_STATE gtIdle h).upHset h fun x =>
        { x with verdict := none }))) ∧
    -- ROUND_COMPLETION (R418)
    (∀ (h slot : Nat) (s : State), s.faults.frozen = false → slot ∈ (s.hset h).rounds →
        exec (.roundCompletion h slot) s = .next ((s.upHset h fun x =>
        { x with rounds := x.rounds.erase slot }).roundInc h slot))

/-- Rebuild, context, residency and restart commands complete (spec/12_partitions_contexts_residency.md).  Where the
spec leaves a point open the clauses follow the model's own choices (log entries 1, 3, 36 to 39). -/
def Obligations.ContextCommandsComplete : Prop :=
    -- REBUILD (R463)
    (∀ (who : Requester) (p : Nat) (subst : Option Nat) (u v s : State), s.hubOpen = true → mayPf who = true →
        s.flag Fld.PRT_CMDST_PENDING = false → s.fget Fld.DRN_BOOT_STAGE = 7 →
        ((s.rebuildSet p false).any (fun q => s.hbmDead (q / 4)) = false) → s.rebuildBad p = false →
        s.rebuildBusy (s.rebuildSet p false) = false → s.noSpare (s.rebuildSet p false) subst = false →
        u = (((s.fput Fld.PRT_CMDST_OP 1).fput Fld.PRT_CMDST_CTX 0).fput Fld.PRT_CMDST_STATUS 0).fput
        Fld.PRT_CMDST_PENDING 1 → (v = u.upPart p fun x => { x with rebuild := some ⟨subst, false, false, []⟩ }) →
        exec (.rebuild who p subst) s = .next (({ v with cmds := v.cmds ++ [(⟨.rebuild, p, false⟩ : RmCmd)] }).rmGo
        p)) ∧
    -- REBUILD_COMPLETE (R463, R697)
    (∀ (p : Nat) (fails : List Nat) (r : Rebuild) (s : State), s.faults.frozen = false →
        (s.part p).rebuild = some r → r.begun = true → s.bypassWaits (boresOf r.parts) = false →
        (((boresOf r.parts).filter fun b => !(b ∈ fails)).any
        (fun b => s.pstate b ≠ psActive || s.inTransit b) = false) →
        exec (.rebuildComplete p fails) s = .next
        (((((match r.subst with | some b => s.substitute b | none => s).each ((boresOf r.parts).filter fun b => !(b ∈ fails)) fun s b => ((s.rebuildBore b).publishCap b false).showCap b).each ((boresOf r.parts).filter fun b => b ∈ fails) State.rebuildFail).rebuildUp r).rebuildOver p r)) ∧
    -- CREATE (R440)
    (∀ (who : Requester) (c : Nat) (s : State), s.hubOpen = true → mayPf who = true →
        s.flag Fld.PRT_CMDST_PENDING = false → s.cxState c = cxFree → s.leader (s.homeOfCtx c) = s.homeOfCtx c →
        s.homeFull (s.homeOfCtx c) = false →
        exec (.create who c) s = .next (((s.putCx c cxIdle).putNctx).prtSt 2 c rmOk)) ∧
    -- LOAD (R452)
    (∀ (who : Requester) (c : Nat) (s : State), s.hubOpen = true → mayPf who = true →
        s.flag Fld.PRT_CMDST_PENDING = false → s.cxState c = cxIdle → s.homeUp (s.homeOfCtx c) = true →
        exec (.load who c) s = .next ((s.beginLoad c false).prtSt 3 c rmOk)) ∧
    -- CONTEXT_BINDING (R456)
    (∀ (c : Nat) (vs : List Variant) (v : Variant) (u s : State), s.faults.frozen = false → s.isNext .bind c = true →
        s.allActive (s.boundBores c) = true → ((s.boundBores c).any (fun b => s.running b) = false) →
        parseImage (s.ctx c).image = some vs → v = vs.getD (s.ctx c).variant ⟨false, 0, [], []⟩ →
        s.bindCopy c v = (none, u) → exec (.contextBinding c) s = .next ((u.bindEnd c v).rmGo (s.homeOfCtx c))) ∧
    -- EVICT (R460)
    (∀ (who : Requester) (c : Nat) (s : State), s.hubOpen = true → mayPf who = true →
        s.flag Fld.PRT_CMDST_PENDING = false → s.cxState c = cxResident → s.cxBusy c = false →
        exec (.evict who c) s = .next (((({ s with cmds := s.cmds ++ [(⟨.evict, c, false⟩ : RmCmd)] }).putCx c
        cxEvicting).rmGo (s.homeOfCtx c)).prtSt 4 c rmOk)) ∧
    -- EVICTION_SAVE (R460)
    (∀ (c : Nat) (s : State), s.faults.frozen = false → s.isNext .evictRun c = true → s.cxState c = cxEvicting →
        s.quiet c = true → s.allActive (s.boundBores c) = true →
        exec (.evictionSave c) s = .next ((s.evictDone c).rmGo (s.homeOfCtx c))) ∧
    -- PRT_START (R461)
    (∀ (who : Requester) (c : Nat) (s : State), s.hubOpen = true → mayPf who = true →
        s.flag Fld.PRT_CMDST_PENDING = false → s.cxState c = cxResident →
        exec (.prtStart who c) s = .next ((s.each (s.boundBores c) fun s b => s.addStart b c).prtSt 5 c rmOk)) ∧
    -- PRT_END (R462)
    (∀ (who : Requester) (c : Nat) (s : State), s.hubOpen = true → mayPf who = true →
        s.flag Fld.PRT_CMDST_PENDING = false →
        ((s.cxState c = cxLoading ∨ s.cxState c = cxResident) ∨ s.cxState c = cxEvicting) →
        exec (.prtEnd who c) s = .next ((s.beginEnding c endHost none).prtSt 6 c rmOk)) ∧
    -- ENDING_RELEASE (R462)
    (∀ (c : Nat) (s : State), s.faults.frozen = false → s.isNext .endRun c = true → s.cxState c = cxEnding →
        s.quiet c = true → s.allActive (s.boundBores c) = true →
        exec (.endingRelease c) s = .next ((s.endingDone c).rmGo (s.homeOfCtx c))) ∧
    -- PRT_RESET (R440)
    (∀ (who : Requester) (c : Nat) (s : State), s.hubOpen = true → mayPf who = true →
        s.flag Fld.PRT_CMDST_PENDING = false → s.cxState c = cxEnded →
        exec (.prtReset who c) s = .next ((s.putCx c cxIdle).prtSt 7 c rmOk)) ∧
    -- DESTROY (R440)
    (∀ (who : Requester) (c : Nat) (s : State), s.hubOpen = true → mayPf who = true →
        s.flag Fld.PRT_CMDST_PENDING = false → (s.cxState c = cxIdle ∨ s.cxState c = cxEnded) →
        exec (.destroy who c) s = .next (((s.putCx c cxFree).putNctx).prtSt 8 c rmOk)) ∧
    -- CONTEXT_START_DISPATCH (R461)
    (∀ (b c : Nat) (s : State), s.faults.frozen = false → (s.starts.find? (fun x => x.1 = b) = some (b, c)) →
        s.chState b = csHalted → s.fget Fld.CHN_STATUS_HREASON b ∈ [0, 1, 5] → s.dispatchHeld b = false →
        s.pstate b = psActive →
        exec (.contextStartDispatch b) s = .next ((({ s with starts := s.starts.erase (b, c) }).putNpend b).startOn b
        c)) ∧
    -- RESIDENCY_ARRIVAL (R458)
    (∀ (src : Endpoint) (c : XClass) (e d : Endpoint) (ib dq : Nat) (m : Message) (u s : State), s.oldest .posted src
        (.unit .resmgr) = some (⟨c, e, d, .message ib dq m⟩, u) →
        exec (.residencyArrival src) s = .next (u.rmArrive m.ctx ib dq m)) ∧
    -- CTX_INVAL (R476)
    (∀ (who : Requester) (c : Nat) (s : State), s.hubOpen = true → mayPf who = true →
        s.flag Fld.CTX_INVST_PENDING = false →
        exec (.ctxInval who c) s = .next
        (({ s with inval := s.onWay c }.fput Fld.CTX_INVST_PENDING 1).fput Fld.CTX_INVST_CTX c)) ∧
    -- INVALIDATION_COMPLETE (R445)
    (∀ (c : Nat) (s : State), s.faults.frozen = false → s.flag Fld.CTX_INVST_PENDING = true →
        s.fget Fld.CTX_INVST_CTX = c → s.accessing = false →
        exec (.invalidationComplete c) s = .next (({ s with inval := [] }.dropTlb c).fput Fld.CTX_INVST_PENDING 0)) ∧
    -- PARTITION_ERROR (R697)
    (∀ (p code bore : Nat) (s : State), exec (.partitionError p code bore) s = .next (s.partError p code bore)) ∧
    -- RESTART (R703)
    (∀ (who : Requester) (p : Nat) (u s : State), s.hubOpen = true → mayPf who = true →
        s.flag Fld.DMP_PRSTST_PENDING = false → s.homeUp p = true → (s.groupParts p).all s.schedQuiet = true →
        (s.groupCtxs (s.groupParts p)).any s.cxActive = false → s.groupWorks p = false →
        u = (s.prstSt p 0).fput Fld.DMP_PRSTST_PENDING 1 →
        exec (.restart who p) s = .next (({ u with faults := { u.faults with restart := some p } }).each (boresOf
        (s.groupParts p)) fun s b => if s.pstate b = psOff || s.pstate b = psActive then s else s.wake b wakeReset)) ∧
    -- PARTITION_RESTART_COMPLETE (R704)
    (∀ (p : Nat) (u s : State), s.faults.frozen = false → s.faults.restart = some p →
        ((boresOf (s.groupParts p)).all (fun b => s.pstate b = psOff ||
        (s.pstate b = psActive && !s.inTransit b)) = true) →
        u = (s.each (s.groupParts p) State.warmPart).prstSt p 1 →
        exec (.partitionRestartComplete p) s = .next
        (({ u with faults := { u.faults with restart := none } }).partWaiting p))

/-- Crook port, training, flit and replay commands complete (spec/13_crook_links.md).  Where the spec leaves a point
open the clauses follow the model's own choices (log entries 1, 3, 40 to 42, 87). -/
def Obligations.CrookLinkCommandsComplete : Prop :=
    -- CRK_ENABLE (R497)
    (∀ (who : Requester) (k : Nat) (s : State), s.hubOpen = true → mayCrk who = true → s.ck k = ckDisabled → k < 12 →
        exec (.crkEnable who k true) s = .next ((s.fput Fld.CRK_CTRL_ENABLE 1 k).ckGoDown k)) ∧
    (∀ (who : Requester) (k : Nat) (s : State), s.hubOpen = true → mayCrk who = true →
        exec (.crkEnable who k false) s = .next ((s.fput Fld.CRK_CTRL_ENABLE 0 k).putCk k ckDisabled)) ∧
    -- CRK_RETRAIN (R499)
    (∀ (who : Requester) (k : Nat) (s : State), s.hubOpen = true → mayCrk who = true →
        s.fget Fld.CRK_CTRL_ENABLE k = 1 → s.ck k ≠ ckDisabled → k < 12 →
        exec (.crkRetrain who k) s = .next ((s.fput Fld.CRK_CTRL_ENABLE 1 k).ckRetrainGo k)) ∧
    -- CRK_RESET (R497)
    (∀ (who : Requester) (k : Nat) (s : State), s.hubOpen = true → mayCrk who = true →
        s.fget Fld.CRK_CTRL_ENABLE k = 1 → s.ck k = ckFailed → k < 12 →
        exec (.crkReset who k) s = .next ((s.fput Fld.CRK_CTRL_ENABLE 1 k).ckGoDown k)) ∧
    -- TRAINING_COMPLETE (R498)
    (∀ (k : Nat) (init : InitFlit) (u s : State), s.ck k = ckTraining →
        (u = ((s.putPeer k init).lockLanes k).each (List.range 4) fun s vl => s.fput (vlCred vl) (init.grants.getD vl 0) k) →
        exec (.trainingComplete k init) s = .next ((u.takeInit k init).putCk k ckUp)) ∧
    -- TRAINING_TIMEOUT (R497)
    (∀ (k : Nat) (s : State), s.ck k = ckTraining →
        exec (.trainingTimeout k) s = .next ((s.fput Fld.CRK_STATUS_LASTFAIL 1 k).ckGoDown k)) ∧
    -- RETRAIN_COMPLETE (R498)
    (∀ (k : Nat) (init : InitFlit) (u s : State), s.ck k = ckRetrain → s.peerChanged k init = false →
        u = (((s.putPeer k init).takeInit k init).ackTo k init.expected).2 →
        exec (.retrainComplete k init) s = .next (((u.upPort k fun p =>
        { p with resend := p.held.length, replays := 0 }).lockLanes k).putCk k ckUp)) ∧
    -- RETRAIN_TIMEOUT (R497)
    (∀ (k : Nat) (s : State), s.ck k = ckRetrain → exec (.retrainTimeout k) s = .next (s.ckFail k 2)) ∧
    -- LANE_LOCK_LOSS (R499)
    (∀ (k : Nat) (s : State), s.ck k = ckUp →
        exec (.laneLockLoss k) s = .next (({ s with freeCtr := s.freeCtr + 1 }.fput Fld.CRK_STATUS_LANEOK
        (Config.freeValue 4 s.freeCtr).toNat k).ckRetrainGo k)) ∧
    -- INIT_FLIT_RECEIVED (R481, R498, R499)
    (∀ (k : Nat) (init : InitFlit) (s : State), s.ck k = ckTraining →
        exec (.initFlitReceived k init) s = .next ((s.putPeer k init).takeInit k init)) ∧
    (∀ (k : Nat) (init : InitFlit) (u s : State), (s.ck k = ckUp ∨ s.ck k = ckRetrain) →
        u = (s.takeInit k init).ckRetrainGo k → u.peerChanged k init = false →
        exec (.initFlitReceived k init) s = .next u) ∧
    (∀ (k : Nat) (init : InitFlit) (u s : State), (s.ck k = ckUp ∨ s.ck k = ckRetrain) →
        u = (s.takeInit k init).ckRetrainGo k → u.peerChanged k init = true →
        exec (.initFlitReceived k init) s = .next (u.ckFail k 3)) ∧
    -- FLIT_RECEIVED (R480, R481, R491, R494)
    (∀ (k : Nat) (flit : RxFlit) (l : Link) (u s : State), s.ck k = ckUp →
        crcGood flit.bytes = true → l = linkOf flit.bytes → l.type = tyXfer →
        u = (s.fecCount k flit.cor flit.uncor).takeLink k l → u.faults.frozen = false → l.seq = u.fget Fld.CRK_REPLAY_EXPSEQ k →
        exec (.flitReceived k flit) s = .next (u.acceptFlit k l.vl (shareIn flit.bytes))) ∧
    (∀ (k : Nat) (flit : RxFlit) (s : State), s.ck k = ckUp → crcGood flit.bytes = false →
        exec (.flitReceived k flit) s = .next
        (((s.fecCount k flit.cor flit.uncor).fsat Fld.CRK_ERR_CRCERR 1 k).upPort k fun p => { p with nak := true })) ∧
    -- REPLAY_TIMEOUT (R492)
    (∀ (k : Nat) (x : Flit) (rest : List Flit) (s : State), s.faults.frozen = false → s.ck k = ckUp →
        (s.port k).held = x :: rest → exec (.replayTimeout k) s = .next (s.replay k)) ∧
    -- FLIT_TRANSMIT (R481, R492, R495, R498)
    (∀ (k vl rot : Nat) (s : State), s.faults.frozen = false → s.ck k = ckUp → (s.port k).resend = 0 →
        (s.port k).held.length < 4096 → s.pickVl k = some (vl, rot) →
        exec (.flitTransmit k) s = .next (s.sendFlit k vl rot)) ∧
    (∀ (k n : Nat) (f : Flit) (before after : List Flit) (s : State), s.faults.frozen = false → s.ck k = ckUp →
        (s.port k).held = before ++ f :: after → (s.port k).resend = n + 1 → after.length = n →
        exec (.flitTransmit k) s = .next ((s.upPort k fun p => { p with resend := n }).emitFlit k tyXfer f.seq f.vl f.part)) ∧
    (∀ (k : Nat) (s : State), s.faults.frozen = false → s.ck k = ckUp → (s.port k).resend = 0 →
        (4096 ≤ (s.port k).held.length ∨ s.pickVl k = none) →
        exec (.flitTransmit k) s = .next (s.emitFlit k tyIdle 0 0 ⟨false, 0, 0, []⟩)) ∧
    (∀ (k : Nat) (s : State), s.faults.frozen = false → (s.ck k = ckTraining ∨ s.ck k = ckRetrain) →
        exec (.flitTransmit k) s = .next (s.emitInit k))

/-- Crook transfers at both ends complete (spec/13_crook_links.md).  Where the spec leaves a point open the clauses
follow the model's own choices (log entries 1, 3, 40, 86). -/
def Obligations.CrookTransferCommandsComplete : Prop :=
    -- PUT_COMMAND (R484)
    (∀ (src : Endpoint) (k : Nat) (c : XClass) (e d : Endpoint) (x q b ch : Nat) (m : Message)
        (u s : State), s.faults.frozen = false →
        s.oldest .posted src (.crook k) = some (⟨c, e, d, .message x q m⟩, u) → m.nack = false →
        m.origin = .here (.bore b ch) → q ≤ 1 → s.ck k = ckUp →
        exec (.putCommand src k) s = .next (u.upPort k fun p => if q = 0 then
        { p with dq0 := p.dq0 ++ [⟨m.words, b, ch⟩] } else { p with dq1 := p.dq1 ++ [⟨m.words, b, ch⟩] })) ∧
    -- RED_COMMAND (R484)
    (∀ (src : Endpoint) (k : Nat) (c : XClass) (e d : Endpoint) (x b ch : Nat) (m : Message)
        (u s : State), s.faults.frozen = false →
        s.oldest .posted src (.crook k) = some (⟨c, e, d, .message x 2 m⟩, u) → m.nack = false →
        m.origin = .here (.bore b ch) → s.ck k = ckUp →
        exec (.redCommand src k) s = .next (u.upPort k fun p => { p with dq2 := p.dq2 ++ [⟨m.words, b, ch⟩] })) ∧
    -- TRANSFER_START (R485)
    (∀ (k dq : Nat) (c : CrkCmd) (rest : List CrkCmd) (s : State), s.faults.frozen = false →
        (s.port k).dq dq = c :: rest → s.ck k = ckUp → (s.port k).waits.length < 1024 → s.xferBehind k c = false →
        exec (.transferStart k dq) s = .next ((s.upPort k fun p => if dq = 0 then { p with dq0 := rest } else if dq =
        1 then { p with dq1 := rest } else { p with dq2 := rest }).startXfer k dq c)) ∧
    -- PUT_ARRIVAL (R487 to R489): the flits of a PUT as they leave, and a whole PUT of one flit into a LOCAL window
    (∀ (k : Nat) (u s : State), s.faults.frozen = false → s.putStep k 0 = some u →
        exec (.putArrival k) s = .next (s.putRun k 0 (s.port k).rx.length)) ∧
    (∀ (k : Nat) (u s : State), s.faults.frozen = false → s.putStep k 0 = none → s.putStep k 1 = some u →
        exec (.putArrival k) s = .next (s.putRun k 1 (s.port k).rx.length)) ∧
    (∀ (k vl win putid len off rinc : Nat) (back owed : Bool) (x : Share) (w : WinCap) (st : AccStatus) (u s : State),
        s.faults.frozen = false → vl ≤ 1 →
        (s.port k).rx = [⟨vl, x, some (.put back win putid len off rinc, w), owed⟩] → s.mayLeave k vl = true →
        s.behind k (s.headBound k vl) = false → w.valid = true → w.fwd = false → off + len ≤ 4096 * w.size →
        x.ends = false → len ≤ x.data.length → s.spaceWrite .device (4096 * w.base + off) x.data = (st, u) →
        st.bad = false → exec (.putArrival k) s = .next (((u.putCur k vl none).upPort k fun p =>
        { p with putsIn := p.putsIn ++ [⟨back, putid, rinc, w.wctx⟩] }).leave k vl)) ∧
    -- PUT_COMPLETE (R488)
    (∀ (k : Nat) (w : PutIn) (rest : List PutIn) (s : State), s.faults.frozen = false → s.ck k ≠ ckRetrain →
        (s.port k).putsIn = w :: rest → s.behind k (w.local1.toList.map fun x => .bore x.1) = false →
        exec (.putComplete k) s = .next (((s.upPort k fun p => { p with putsIn := rest }).putInc k w).sendAck k true
        w.putid 0)) ∧
    -- RED_ARRIVAL (R490): the flits of a RED as they leave, and a whole RED of one flit
    (∀ (k : Nat) (s : State), s.faults.frozen = false →
        exec (.redArrival k) s = .next (s.redRun k (s.port k).rx.length)) ∧
    (∀ (k slot putid len eidx : Nat) (owed : Bool) (x : Share) (w : WinCap) (u s : State), s.faults.frozen = false →
        (s.port k).rx = [⟨3, x, some (.red slot putid len eidx, w), owed⟩] → s.mayLeave k 3 = true →
        s.behind k (s.headBound k 3) = false → s.flag Fld.OVB_BCFG_VALID (slot / 4) (slot % 4) = true →
        x.ends = false → len ≤ x.data.length →
        u = (if (poisonWords x.data).isEmpty then s else s.poisonedSlot slot) →
        exec (.redArrival k) s = .next ((((u.addRun (srcCrook k) slot (u.redIndex slot eidx 0) (plain x.data)
        (poisonWords x.data)).putCur k 3 none).sendAck k true putid 0).leave k 3)) ∧
    -- ACK_ARRIVAL (R488)
    (∀ (k : Nat) (good : Bool) (putid reason : Nat) (u s : State), s.faults.frozen = false →
        s.behind k (s.headBound k 2) = false → s.rxTake k 2 isAck = some (.ack good putid reason, u) →
        exec (.ackArrival k) s = .next (u.takePutAck k good putid reason)) ∧
    -- MSG_TRANSFER (R486, R314, R334, R446)
    (∀ (k did q : Nat) (m : Message) (u s : State), s.faults.frozen = false →
        s.rxTake k 2 isMsg = some (.msg did q m, u) →
        exec (.msgTransfer k) s = .next ({ u with freeCtr := u.freeCtr + 1 }.send .posted (.crook k) (.bore did)
        (.message did q { m with origin := farOrigin k m.origin, srcKind := 3, ctx := 1024,
                                 tag := (Config.freeValue 8 u.freeCtr).toNat }))) ∧
    (∀ (k did : Nat) (n : NackMsg) (u s : State), s.faults.frozen = false →
        s.rxTake k 2 isMsg = some (.nackm did n, u) →
        exec (.msgTransfer k) s = .next (u.send .posted (.crook k) (.bore did) (.nackMsg (.here (.bore did n.chan)) n))) ∧
    -- INC_TRANSFER (R486)
    (∀ (k did q : Nat) (i : ChanInc) (u s : State), s.faults.frozen = false →
        s.rxTake k 2 isInc = some (.inc did q i, u) →
        exec (.incTransfer k) s = .next (u.send .posted (.crook k) (.bore did)
        (.chanInc did q { i with origin := farOrigin k i.origin, srcKind := 3, ctx := 1024 }))) ∧
    -- RET_TRANSFER (R486)
    (∀ (k rkind b ch oc : Nat) (p : Packet) (u s : State), s.faults.frozen = false →
        s.rxTake k 2 isRet = some (.ret rkind b ch oc, u) → retPacket rkind b ch oc = some p →
        exec (.retTransfer k) s = .next (u.send .posted (.crook k) (.bore b) p)) ∧
    -- TAG_TRANSFER (R368)
    (∀ (k p : Nat) (m : TagMsg) (u s : State), s.faults.frozen = false → s.rxTake01 k isTag = some (.tag p m, u) →
        exec (.tagTransfer k) s = .next (u.upSched p fun d => { d with inbox := d.inbox ++ [m] })) ∧
    -- AUDIT_TRANSFER (R486)
    (∀ (k did q b ch : Nat) (u s : State), s.faults.frozen = false →
        s.rxTake k 2 isAudit = some (.audit did q b ch, u) →
        exec (.auditTransfer k) s = .next (u.send .posted (.crook k) (.bore did) (.auditMarker did q
        (.far k b ch)))) ∧
    -- WINDOW_WRITE (R487)
    (∀ (who : Requester) (k w : Nat) (second : Bool) (val : Word64) (u s : State), s.hubOpen = true →
        mayCrk who = true →
        (u = s.rput (if second then .CRK_IWINB else .CRK_IWINA) (Reg.merge
        (if second then .CRK_IWINB else .CRK_IWINA) (s.rget (if second then .CRK_IWINB else .CRK_IWINA) k w) val) k
        w) → winRange u.small (4096 * u.fget Fld.CRK_IWINA_BASE k w) (4096 * u.fget Fld.CRK_IWINB_SIZE k w) = true →
        exec (.windowWrite who k w second val) s = .next u) ∧
    (∀ (who : Requester) (k w : Nat) (second : Bool) (val : Word64) (u s : State), s.hubOpen = true →
        mayCrk who = true →
        (u = s.rput (if second then .CRK_IWINB else .CRK_IWINA) (Reg.merge
        (if second then .CRK_IWINB else .CRK_IWINA) (s.rget (if second then .CRK_IWINB else .CRK_IWINA) k w) val) k
        w) → winRange u.small (4096 * u.fget Fld.CRK_IWINA_BASE k w) (4096 * u.fget Fld.CRK_IWINB_SIZE k w) = false →
        exec (.windowWrite who k w second val) s = .next
        ((s.fput Fld.CRK_IWINA_VALID 0 k w).fput Fld.CRK_STATUS_WINBAD 1 k))

/-- Doorbell, ring, virtual-function and table commands complete (spec/14_host_interface.md). Where the spec leaves a point
open the clauses follow the model's own choices (log entries 1, 3, 13, 43, 79). -/
def Obligations.HostRingCommandsComplete : Prop :=
    -- DOORBELL (R518, R519, R534, R714)
    (∀ (fn off : Nat) (words : List Word32) (c d : Nat) (u s : State), s.pageCtx fn off = some c →
        s.ctxFn c ∉ s.hif.flr → s.hubOpen = true → off % 4096 = 256 * d → d < 8 → 1 ≤ words.length →
        words.length ≤ 4 → s.flag Fld.HIF_DBR_VALID 0 (8 * c + d) = true → 0 < (s.bell1 (8 * c + d)).cred →
        (u = s.upBell (8 * c + d) fun x => { x with cred := x.cred - 1 }) →
        exec (.doorbell fn off words true false) s = .next
        ({ u with hif := { u.hif with dbq := u.hif.dbq ++ [⟨fn, c, d, ⟨words, s.fget Fld.HIF_DBR_TAG 0 (8 * c + d), 0, .here (.doorbell (8 * c + d)), 4, false, 0, none, c⟩⟩] } }))
        ∧
    -- DOORBELL_FORWARD (R520)
    (∀ (fn : Nat) (x : DbMsg) (s : State), s.faults.frozen = false →
        (s.hif.dbq.find? (fun x => x.fn = fn) = some x) →
        exec (.doorbellForward fn) s = .next ({ s with hif := { s.hif with dbq := s.hif.dbq.erase x } }.send .posted
        (.unit .doorbells) (.unit .resmgr) (.message (s.fget Fld.HIF_DBR_IBORE 0 (8 * x.ctx + x.db))
        (s.fget Fld.HIF_DBR_DQ 0 (8 * x.ctx + x.db)) x.msg))) ∧
    -- DOORBELL_STATUS_CLEAR (R516)
    (∀ (fn off : Nat) (val : Word32) (c d : Nat) (s : State), s.pageCtx fn off = some c → s.ctxFn c ∉ s.hif.flr →
        s.hubOpen = true → off % 4096 = 256 * d + 8 → d < 8 → val.getLsbD 0 = true →
        exec (.doorbellStatusClear fn off val) s = .next (s.upBell
        (8 * c + d) fun x => { x with orphan := false, drops := 0 })) ∧
    -- HEAD_WRITE (R523)
    (∀ (fn off : Nat) (val : Word32) (c q r : Nat) (s : State), s.pageCtx fn off = some c → s.ctxFn c ∉ s.hif.flr →
        s.hubOpen = true → off % 4096 = 0x800 + 0x40 * q → s.ringOf c q = some r →
        exec (.headWrite fn off val) s = .next (s.headWrite r val)) ∧
    -- ARM_WRITE (R524)
    (∀ (fn off : Nat) (val : Word32) (c q r : Nat) (s : State), s.pageCtx fn off = some c → s.ctxFn c ∉ s.hif.flr →
        s.hubOpen = true → off % 4096 = 0x808 + 0x40 * q → s.ringOf c q = some r → val.getLsbD 0 = true →
        exec (.armWrite fn off val) s = .next (s.upRing r fun x => { x with arm := true })) ∧
    -- HOST_MESSAGE_ARRIVAL (R521, R524)
    (∀ (src : Endpoint) (c : XClass) (e d : Endpoint) (x q : Nat) (m : Message) (u s : State), s.oldest .posted src
        (.unit .hostMsg) = some (⟨c, e, d, .message x q m⟩, u) →
        exec (.hostMessageArrival src) s = .next (u.hostJudge q m)) ∧
    -- VF_LOAD (R529)
    (∀ (vf i c : Nat) (s : State), s.faults.frozen = false → vf ≠ 0 → s.fnExists vf = true →
        s.flag Fld.HIF_VCMDST_PENDING vf = false → s.vfCtx vf i = some c → s.cxState c = cxIdle →
        s.homeUp (s.homeOfCtx c) = true → exec (.vfLoad vf i) s = .next ((s.beginLoad c false).vcmdSt vf 3 c rmOk)) ∧
    -- VF_EVICT (R529)
    (∀ (vf i c : Nat) (s : State), s.faults.frozen = false → vf ≠ 0 → s.fnExists vf = true →
        s.flag Fld.HIF_VCMDST_PENDING vf = false → s.vfCtx vf i = some c → s.cxState c = cxResident →
        s.cxBusy c = false →
        exec (.vfEvict vf i) s = .next (((({ s with cmds := s.cmds ++ [(⟨.evict, c, false⟩ : RmCmd)] }).putCx c
        cxEvicting).rmGo (s.homeOfCtx c)).vcmdSt vf 4 c rmOk)) ∧
    -- VF_START (R529)
    (∀ (vf i c : Nat) (s : State), s.faults.frozen = false → vf ≠ 0 → s.fnExists vf = true →
        s.flag Fld.HIF_VCMDST_PENDING vf = false → s.vfCtx vf i = some c → s.cxState c = cxResident →
        exec (.vfStart vf i) s = .next ((s.each (s.boundBores c) fun s b => s.addStart b c).vcmdSt vf 5 c rmOk)) ∧
    -- VF_END (R529)
    (∀ (vf i c : Nat) (s : State), s.faults.frozen = false → vf ≠ 0 → s.fnExists vf = true →
        s.flag Fld.HIF_VCMDST_PENDING vf = false → s.vfCtx vf i = some c →
        ((s.cxState c = cxLoading ∨ s.cxState c = cxResident) ∨ s.cxState c = cxEvicting) →
        exec (.vfEnd vf i) s = .next ((s.beginEnding c endHost none).vcmdSt vf 6 c rmOk)) ∧
    -- VF_RESET (R529)
    (∀ (vf i c : Nat) (s : State), s.faults.frozen = false → vf ≠ 0 → s.fnExists vf = true →
        s.flag Fld.HIF_VCMDST_PENDING vf = false → s.vfCtx vf i = some c → s.cxState c = cxEnded →
        exec (.vfReset vf i) s = .next ((s.putCx c cxIdle).vcmdSt vf 7 c rmOk)) ∧
    -- VFMAP_WRITE (R537)
    (∀ (who : Requester) (vf : Nat) (val : Word64) (new old : Nat × Nat) (s : State), s.hubOpen = true →
        mayPf who = true → vf ≠ 0 → new = vfRange val → old = vfRange (s.rget .HIF_VFMAP 0 vf) → ((∀ i, i < old.2 →
        s.cxActive (old.1 + i) = false)) → ((∀ i, i < new.2 → s.cxActive (new.1 + i) = false)) → vf ∉ s.hif.flr →
        new.1 + new.2 ≤ 1024 → new.2 ≤ 64 → ((∀ u, u < 256 → u ≠ vf → u ≠ 0 →
        overlaps new (vfRange (s.rget .HIF_VFMAP 0 u)) = false)) →
        exec (.vfmapWrite who vf val) s = .next ((s.rput .HIF_VFMAP (Reg.HIF_VFMAP.merge
        (s.rget .HIF_VFMAP 0 vf) val) 0 vf).hifSt hifOk)) ∧
    -- DBR_WRITE (R537)
    (∀ (who : Requester) (r : Nat) (val : Word64) (u s : State), s.hubOpen = true → mayPf who = true →
        (s.flag Fld.HIF_DBR_VALID 0 r = false ∨ (s.bell1 r).cred = s.fget Fld.HIF_DBR_GRANT 0 r) →
        u = s.rput .HIF_DBR (Reg.HIF_DBR.merge (s.rget .HIF_DBR 0 r) val) 0 r →
        exec (.dbrWrite who r val) s = .next ((if u.flag Fld.HIF_DBR_VALID 0 r then u.upBell r fun _ =>
        ⟨u.fget Fld.HIF_DBR_GRANT 0 r, false, 0⟩ else u).hifSt hifOk)) ∧
    -- HRING_WRITE (R537)
    (∀ (who : Requester) (r : Nat) (val : Word64) (u s : State), s.hubOpen = true → mayPf who = true →
        s.flag Fld.HIF_HRING_VALID 0 r = false →
        u = s.rput .HIF_HRING (Reg.HIF_HRING.merge (s.rget .HIF_HRING 0 r) val) 0 r →
        exec (.hringWrite who r val) s = .next ((if u.flag Fld.HIF_HRING_VALID 0 r then u.upRing r fun x =>
        { x with head := 0, tail := 0, arm := false } else u).hifSt hifOk)) ∧
    -- CTXH_WRITE (R538)
    (∀ (who : Requester) (c : Nat) (val : Word64) (s : State), s.hubOpen = true → mayPf who = true →
        (s.cxState c = cxFree ∨ s.cxState c = cxIdle ∨ s.cxState c = cxEnded) →
        bits val.toNat 32 11 + bits val.toNat 16 6 ≤ 2048 →
        exec (.ctxhWrite who c val) s = .next ((s.rput .HIF_CTXH (Reg.HIF_CTXH.merge
        (s.rget .HIF_CTXH 0 c) val) 0 c).hifSt hifOk))

/-- BAR4, configuration, reset, link and MSI-X commands complete (spec/14_host_interface.md).  Where the spec leaves a
point open the clauses follow the model's own choices (log entries 1, 3, 14, 44 to 46). -/
def Obligations.HostLinkCommandsComplete : Prop :=
    -- BAR4_ACCESS (R4, R514, R534, R714)
    (∀ (off len : Nat) (s : State), exec (.bar4Access off len .read) s = .next (s.bar4Read (s.bar4Addr off) len)) ∧
    (∀ (off len : Nat) (l : List Byte) (s : State), exec (.bar4Access off len (.write l false)) s = .next
        (s.bar4Write (s.bar4Addr off) l false)) ∧
    -- CONFIG_REQUEST (R530, R508, R509, R510, R514, R526, R528, R595)
    (∀ (n : Nat) (s : State), s.cfgReady = true → n ≤ 255 → s.fget Fld.DRN_BOOT_STAGE ≠ 8 →
        exec (.configRequest 0 (.writeField .numVfs n)) s = .next ({ s with hif := { s.hif with retry := false } }.fput
        Fld.HIF_LINK_NUMVF n)) ∧
    (∀ (fn : Nat) (f : CfgField) (s : State), s.cfgReady = true → s.fnExists fn = true →
        exec (.configRequest fn (.readField f)) s = .next
        { s with hif := { s.hif with retry := false }, rdata := s.cfgField fn f }) ∧
    (∀ (fn : Nat) (op : ConfigOp) (s : State), s.cfgReady = true → s.fnExists fn = false →
        exec (.configRequest fn op) s = .next
        { ({ s with hif := { s.hif with retry := false } }.pcie aerUnsupported fn 0 none) with rdata := 0xFFFFFFFF }) ∧
    (∀ (fn : Nat) (op : ConfigOp) (s : State), s.cfgReady = false →
        exec (.configRequest fn op) s = .next ({ s with hif := { s.hif with retry := true } })) ∧
    -- FLR (R531)
    (∀ (vf : Nat) (u s : State), vf ≠ 0 → s.fnExists vf = true →
        (u = ({ s with hif := { s.hif with flr := sinsert vf s.hif.flr } }.each (s.owned vf) fun s c =>
          s.beginEnding c endHost none)) →
        exec (.flr vf) s = .next (((u.failReads fun x => x.fn = vf).msixReset vf).each (s.owned vf) State.flrCtx)) ∧
    -- FLR_COMPLETE (R531)
    (∀ (vf : Nat) (s : State), exec (.flrComplete vf) s = .next
        ({ s with hif := { s.hif with flr := s.hif.flr.filter (fun v => v ≠ vf) } })) ∧
    -- HOST_RESET (R532)
    (∀ (linkDown : Bool) (s : State), exec (.hostReset linkDown) s = .next
        (((s.resetHif linkDown).resetContexts).each (List.range 16) State.warmPart)) ∧
    -- HOST_RESET_COMPLETE (R530, R532)
    (∀ (s : State), s.hif.inReset = true →
        exec .hostResetComplete s = .next ({ s with hif := { s.hif with inReset := false } })) ∧
    -- LINK_UP (R533, R540)
    (∀ (flit : Bool) (speed width : Nat) (u s : State), s.powered = true → s.fget Fld.DRN_BOOT_STAGE ≠ 9 → u = ((s.fput Fld.HIF_LINK_UP 1).fput Fld.HIF_LINK_FLIT
        (b2n flit)).fput Fld.HIF_LINK_SPEED speed →
        exec (.linkUp flit speed width) s = .next
        ({ u.fput Fld.HIF_LINK_WIDTH width with hif := { u.hif with linkUp := true } })) ∧
    -- HOST_READ_COMPLETION (R526)
    (∀ (dst : Endpoint) (data : List Byte) (x : HostRead) (rest : List HostRead) (s : State),
        firstOut dst s.hif.reads = some (x, rest) →
        exec (.hostReadCompletion dst .ok data) s = .next ({ s with hif := { s.hif with reads := rest } }.send .completion
        .host (accEnd x.who) (.readData x.who x.id x.addr ((data ++ List.replicate x.len 0).take x.len) .ok))) ∧
    (∀ (dst : Endpoint) (data : List Byte) (x : HostRead) (rest : List HostRead) (st : HostCpl) (s : State),
        firstOut dst s.hif.reads = some (x, rest) → st ≠ .ok →
        exec (.hostReadCompletion dst st data) s = .next (({ s with hif := { s.hif with reads := rest } }.send .completion
        .host (accEnd x.who) (.readData x.who x.id x.addr (List.replicate x.len 0) .unmapped)).pcie
        (if st = HostCpl.ur then aerUnsupported else aerAbort) x.fn x.addr (ctxOpt x.ctx))) ∧
    -- COMPLETION_TIMEOUT (R526)
    (∀ (dst : Endpoint) (x : HostRead) (rest : List HostRead) (s : State),
        firstOut dst s.hif.reads = some (x, rest) →
        exec (.completionTimeout dst) s = .next (({ s with hif := { s.hif with reads := rest } }.send .completion
        .host (accEnd x.who) (.readData x.who x.id x.addr (List.replicate x.len 0) .unmapped)).pcie aerTimeout x.fn
        x.addr (ctxOpt x.ctx))) ∧
    -- MSIX_VECTOR_UNMASK (R528)
    (∀ (fn vec : Nat) (u s : State), vec < msixSize fn → s.fnExists fn = true →
        u = { s with hif := { s.hif with unmasked := sinsert (4096 * fn + vec) s.hif.unmasked } } →
        exec (.msixVectorUnmask fn ⟨vec, .unmask⟩) s = .next (u.sendPending fn)) ∧
    (∀ (fn vec : Nat) (s : State), vec < msixSize fn → s.fnExists fn = true →
        exec (.msixVectorUnmask fn ⟨vec, .mask⟩) s = .next
        { s with hif := { s.hif with unmasked := s.hif.unmasked.filter fun x => x ≠ 4096 * fn + vec } }) ∧
    (∀ (fn vec : Nat) (a : Word64) (d : Word32) (s : State), vec < msixSize fn → s.fnExists fn = true →
        exec (.msixVectorUnmask fn ⟨vec, .write a d⟩) s = .next
        { s with hif := { s.hif with msixTab := mput ⟨0, 0⟩ s.hif.msixTab (4096 * fn + vec) ⟨a, d⟩ } })

/-- Token, wake, sleep, DEEP and OFF commands complete (spec/15_drone_and_bellows.md).  Where the spec leaves a point
open the clauses follow the model's own choices (log entries 1, 3, 47, 48). -/
def Obligations.PowerStateCommandsComplete : Prop :=
    -- TOKEN_CREDIT (R552)
    (∀ (m : TokenMove) (rest : List TokenMove) (s : State), s.faults.frozen = false → s.drone.moves = m :: rest →
        exec .tokenCredit s = .next (({ s with drone := { s.drone with moves := rest } }).credit m)) ∧
    -- FLL_RETARGET_COMPLETE (R549)
    (∀ (b : Nat) (s : State), s.faults.frozen = false → s.pstate b ≠ psOff →
        exec (.fllRetargetComplete b) s = .next (s.fput Fld.BLW_BORE_STEP (s.stepFor b) 0 b)) ∧
    -- QUIET_TIMEOUT (R555)
    (∀ (b : Nat) (s : State), s.faults.frozen = false → s.pstate b = psActive → s.inTransit b = false →
        s.boreQuiet b = true → exec (.quietTimeout b) s = .next (s.goIdle b)) ∧
    -- IDLE_TIMEOUT (R556)
    (∀ (b : Nat) (s : State), s.faults.frozen = false → s.pstate b = psIdle → s.inTransit b = false →
        s.fget Fld.DRN_BPCFG_SLEEPT 0 b ≠ 0 → exec (.idleTimeout b) s = .next (s.enter b psSleep)) ∧
    -- SLEEP_TIMEOUT (R556)
    (∀ (b : Nat) (s : State), s.faults.frozen = false → s.pstate b = psSleep → s.inTransit b = false →
        s.fget Fld.DRN_BPCFG_DEEPT 0 b ≠ 0 → exec (.sleepTimeout b) s = .next (s.enter b psDeep)) ∧
    -- POWER_STATE_ENTRY_COMPLETE (R551, R557, R559, R767)
    (∀ (b p : Nat) (u s : State), s.faults.frozen = false → (s.bore b).power.entering = some p →
        (s.bore b).power.retReq = false → (s.bore b).power.goal = none → (s.bore b).power.held = none →
        (u = (s.upPower b fun w => { w with entering := none }).fput Fld.DRN_BPST_STATE p 0 b) →
        exec (.powerStateEntryComplete b) s = .next ((((u.fput Fld.DRN_BPST_TRANS 0 0 b).shed b u.floor).putDemand
        b).goalMet b p)) ∧
    -- WAKE_TRIGGER (R558)
    (∀ (b code : Nat) (rest : List (Nat × Nat)) (s : State), s.faults.frozen = false →
        takeTrigger b s.drone.wakeq = some (code, rest) →
        exec (.wakeTrigger b) s = .next (({ s with drone := { s.drone with wakeq := rest } }).trigger b code)) ∧
    -- WAKE_COMPLETE (R551, R346)
    (∀ (b : Nat) (s : State), s.faults.frozen = false → (s.bore b).power.waking = true →
        exec (.wakeComplete b) s = .next (((((s.upPower b fun w => { w with waking := false }).nowActive b).fput
        Fld.SYN_WSTAT_LONG 0 b).goalMet b psActive).retireGo b)) ∧
    -- BPCMD_WAKE (R575)
    (∀ (who : Requester) (b : Nat) (s : State), s.powered = true → mayTray who = true →
        s.flag Fld.DRN_BPCMDST_PENDING = false → s.fget Fld.DRN_BOOT_STAGE = 7 → s.pstate b ≠ psOff →
        s.pstate b ≠ psActive →
        exec (.bpcmdWake who b) s = .next (((s.bpPend b).upPower b fun w => { w with goal := some psActive }).trigger
        b wakeCommand)) ∧
    -- BPCMD_SLEEP (R557)
    (∀ (who : Requester) (b : Nat) (s : State), b < 64 → s.powered = true → mayTray who = true →
        s.flag Fld.DRN_BPCMDST_PENDING = false → s.fget Fld.DRN_BOOT_STAGE = 7 → s.pstate b = psActive →
        s.inTransit b = false → s.boreQuiet b = true →
        exec (.bpcmdSleep who b) s = .next (((s.bpPend b).upPower b fun w => { w with goal := some psSleep }).goIdle
        b)) ∧
    -- BPCMD_DEEP (R557)
    (∀ (who : Requester) (b : Nat) (s : State), b < 64 → s.powered = true → mayTray who = true →
        s.flag Fld.DRN_BPCMDST_PENDING = false → s.fget Fld.DRN_BOOT_STAGE = 7 → s.pstate b = psActive →
        s.inTransit b = false → s.boreQuiet b = true →
        exec (.bpcmdDeep who b) s = .next (((s.bpPend b).upPower b fun w => { w with goal := some psDeep }).goIdle
        b)) ∧
    -- BPCMD_OFF (R570)
    (∀ (who : Requester) (b : Nat) (s : State), s.powered = true → mayTray who = true →
        s.flag Fld.DRN_BPCMDST_PENDING = false → s.fget Fld.DRN_BOOT_STAGE = 7 → s.pstate b ≠ psOff →
        (s.ctxs.any (fun x => s.cxActive x.1 && (s.boundOn x.1 b).isSome) = false) →
        (s.bore b).power.entering = none → (s.bore b).power.waking = false →
        exec (.bpcmdOff who b) s = .next (((((s.bpPend b).upPower b fun w => { w with retReq := true }).fput
        Fld.DRN_BPST_RETIRING 1 0 b).putDemand b).retireStart b)) ∧
    -- BPCMD_ON (R574, R767)
    (∀ (who : Requester) (b : Nat) (s : State), s.powered = true → mayTray who = true →
        s.flag Fld.DRN_BPCMDST_PENDING = false → s.fget Fld.DRN_BOOT_STAGE = 7 → s.pstate b = psOff →
        (s.bore b).power.leaving = none →
        exec (.bpcmdOn who b) s = .next (((s.bpPend b).upPower b fun w => { w with leaving := some wakeCommand }).fput
        Fld.DRN_BPST_TRANS 1 0 b)) ∧
    -- RETIREMENT_DRAINED (R571)
    (∀ (b : Nat) (s : State), s.faults.frozen = false → (s.bore b).power.retire = .waitWork → s.workDone b = true →
        exec (.retirementDrained b) s = .next (s.retireDrain b)) ∧
    -- RETIREMENT_ABANDON (R571)
    (∀ (b : Nat) (s : State), s.faults.frozen = false → (s.bore b).power.retire = .waitWork → s.workDone b = false →
        exec (.retirementAbandon b) s = .next ((s.abandon b).retireDrain b)) ∧
    -- DRAIN_INTERVAL_END (R571)
    (∀ (b : Nat) (s : State), s.faults.frozen = false → (s.bore b).power.retire = .drain →
        exec (.drainIntervalEnd b) s = .next ((s.powerOff b).bpSt b (if
        (s.bore b).power.abandoned then bpAbandoned else bpOk))) ∧
    -- STUB_ANSWER (R572)
    (∀ (src : Endpoint) (b : Nat) (x : Transfer) (u v : State) (f : Field) (s : State), s.pstate b = psOff →
        s.oldest .posted src (.bore b) = some (x, u) → u.stub b x.pkt = some (v, f) →
        exec (.stubAnswer src b) s = .next (v.fsat f 1 0 b)) ∧
    -- LEAVE_OFF_COMPLETE (R574)
    (∀ (b code : Nat) (s : State), s.faults.frozen = false → (s.bore b).power.leaving = some code →
        (s.bore b).power.powered = true → (s.drone.moves.any (fun m => m.dst = some b) = false) →
        exec (.leaveOffComplete b) s = .next (if code = wakeCommand then
        (s.powerOn b code).bpSt b bpOk else s.powerOn b code)) ∧
    -- WAKEFAIL (R697)
    (∀ (b : Nat) (s : State), s.faults.frozen = false →
        ((s.bore b).power.waking = true ∨ (s.bore b).power.leaving.isSome = true) →
        exec (.wakefail b) s = .next (s.partError (partOf b) ptWakeFail b))

/-- Bellows, thermal, power-sum, alert, fan, clock and tick commands complete (spec/15_drone_and_bellows.md).  Where the
spec leaves a point open the clauses follow the model's own choices (log entries 1, 3, 48, 49). -/
def Obligations.DroneCommandsComplete : Prop :=
    -- BELLOWS_PERIOD (R561)
    (∀ (s : State), s.faults.frozen = false →
        exec .bellowsPeriod s = .next (((s.creditAll.each (List.range 64)
        State.giveFloor).followLimit.recallShare).grant)) ∧
    -- BLW_LIMIT_WRITE (R578)
    (∀ (who : Requester) (val : Word64) (n : Nat) (u s : State), s.hubOpen = true → mayTray who = true →
        n = bits val.toNat 0 16 → 1400 ≤ n → n ≤ 6000 → s.minBudget ≤ n →
        u = (s.fput Fld.BLW_LIMIT_LIMIT n).fput Fld.BLW_CFGST_STATUS 1 →
        exec (.blwLimitWrite who val) s = .next ({ u with drone := { u.drone with limPend := true } })) ∧
    -- THERMAL_READING (R563, R564, R566, R568)
    (∀ (temps : List (Option Int)) (u : State) (hot : Option (Nat × Int)) (c : Nat × Nat)
        (v w s : State), s.droneOn = true → temps.length = 16 → (u = temps.zipIdx.foldl (fun s x => s.putDiode x.2 x.1) s) →
        hot = hottest temps →
        (c = u.capStep u.drone.thermCap u.drone.coolMs (hot.any fun x => 4 *
        (u.fget Fld.DRN_TCFG_TTHROT : Int) < x.2) (hot.all fun x => x.2 < 4 *
        ((u.fget Fld.DRN_TCFG_TTHROT : Int) - u.fget Fld.DRN_TCFG_THYST))) →
        v = { u with drone := { u.drone with thermCap := c.1, coolMs := c.2 } } →
        (w = (if c.1 < u.drone.thermCap then (v.fput Fld.DRN_ALERT_THROT 1).log srcDrone 0x0070 none 0 (leBytes 2
        (hot.elim 0 (·.1)) ++ leBytes 2 (hot.elim 0 fun x => uint 16 x.2) ++ leBytes 2 c.1) else v).each
        (List.range 4) (State.driveFan · (hot.map (·.2)))) →
        (hot.all (fun x => x.2 < 4 * (w.fget Fld.DRN_TCFG_TSHUT : Int)) = true) →
        exec (.thermalReading temps) s = .next w) ∧
    -- POWER_SUM (R565)
    (∀ (n : Nat) (c : Nat × Nat) (u s : State), s.droneOn = true → (n = (if 2 * s.fget Fld.BLW_LIMIT_LIMIT < s.powerDrawn then
        s.drone.overs + 1 else 0)) →
        c = s.capStep s.drone.powerCap s.drone.lowMs (n = 5) (s.powerDrawn < 2 * s.fget Fld.BLW_LIMIT_LIMIT) →
        (u = { s with drone := { s.drone with powerCap := c.1, lowMs := c.2, overs := if n = 5 then 0 else n } }) →
        exec .powerSum s = .next (if c.1 < s.drone.powerCap then u.fput Fld.DRN_ALERT_PCLAMP 1 else u)) ∧
    -- PMBUS_POLL (R567)
    (∀ (reads : List PmbRead) (s : State), s.droneOn = true → exec (.pmbusPoll reads) s = .next (s.each (List.range 16)
        (State.poll · reads true))) ∧
    -- PMB_ALERT (R748)
    (∀ (reads : List PmbRead) (s : State), s.droneOn = true → exec (.pmbAlert reads) s = .next (s.each (List.range 16)
        (State.poll · reads false))) ∧
    -- FAN_FAIL (R568)
    (∀ (f rpm : Nat) (s : State), s.droneOn = true → f < 4 → rpm < s.fget Fld.DRN_FAN_MINRPM 0 f →
        exec (.fanFail f rpm) s = .next ((((s.fput Fld.DRN_FAN_RPM rpm 0 f).fput Fld.DRN_FAN_FAIL 1 0 f).fput
        Fld.DRN_ALERT_FANFAIL 1).driveFan none f)) ∧
    -- REFCLK_LOSS (R579, R644, R658)
    (∀ (s : State), s.droneOn = true → exec .refclkLoss s = .next (((((((s.fput Fld.DRN_CLKST_REFLOST 1).fput Fld.DRN_CLKST_DRIFTED
        1).fsat Fld.DRN_CLKST_LOSSES).log srcDrone 0x0071 none 0 []).fput Fld.DRN_ALERT_CLKLOSS 1)).driftAll)) ∧
    -- REFCLK_RESTORE (R579)
    (∀ (s : State), s.droneOn = true → exec .refclkRestore s = .next (s.fput Fld.DRN_CLKST_REFLOST 0)) ∧
    -- DRONE_TICK (R547, R346)
    (∀ (s : State), s.droneOn = true →
        exec .droneTick s = .next ((s.rput .DRN_TIME (s.rget .DRN_TIME + 1)).each
        (List.range 64) fun s b => if s.flag Fld.SYN_WSTAT_LONG b then s.finc Fld.SYN_LWAIT_TICKS 1 b else s))

/-- Reset, rail, boot-stage, firmware, reboot and console commands complete (spec/16_cold_start.md).  Where the spec
leaves a point open the clauses follow the model's own choices (log entries 1, 3, 52 to 56, 77). -/
def Obligations.ColdStartCommandsComplete : Prop :=
    -- COLD_RESET (R16, R585, R750)
    (∀ (strap : Nat) (s : State), exec (.coldReset strap) s = .next
        ((s.coldBase false true s.boot.mainOn).fput Fld.DRN_SMBST_ADDR (0x58 + strap % 8))) ∧
    -- PORST_N_ASSERT (R585, R608)
    (∀ (s : State), exec .porstNAssert s = .next (s.coldBase true s.boot.alwaysOn s.boot.mainOn)) ∧
    -- WARM_RESET (R16, R586, R587)
    (∀ (b : Nat) (s : State), exec (.warmReset (.bore b)) s = .next (s.warmBore b)) ∧
    (∀ (p : Nat) (s : State), exec (.warmReset (.partition p)) s = .next (s.warmPart p)) ∧
    (∀ (s : State), exec (.warmReset .package) s = .next s.packageReboot) ∧
    -- MAIN_RAIL_LOSS (R546, R764)
    (∀ (s : State), Yields .mainRailLoss s fun t => t.boot.mainOn = false ∧ t.mem = [] ∧ t.net = [] ∧
        t.flash = s.flash ∧ t.drone = s.drone ∧ t.bores = [] ∧ t.ctxs = []) ∧
    -- ALWAYS_ON_RAIL_LOSS (R547, R727)
    (∀ (s : State), exec .alwaysOnRailLoss s = .next (s.coldBase true false false)) ∧
    -- RAIL_SEQUENCE (R590, R591)
    (∀ (s : State), s.booting = true → s.stage < 2 → s.recordOk boardBase = true →
        exec .railSequence s = .next (({ s with boot := { s.boot with mainOn := true, hubOn := true } }).enterStage
        bsImage)) ∧
    -- RAIL_SEQUENCE_TIMEOUT (R591, R764)
    (∀ (u s : State), s.booting = true → s.stage < 2 →
        u = ((s.fput Fld.DRN_ALERT_PMBFLT 1).bootStatus bsRailfail).fput Fld.DRN_BOOT_STAGE bsHalted →
        exec .railSequenceTimeout s = .next u.mainLost) ∧
    -- FIRMWARE_VERIFY (R594, R595)
    (∀ (s : State), s.booting = true → s.stage = bsImage →
        exec .firmwareVerify s = .next (if s.slotOk false then s.startImage false else if
        (s.fput Fld.DRN_BOOT_AFAIL 1).slotOk true then (s.fput Fld.DRN_BOOT_AFAIL 1).startImage true else
        (((s.fput Fld.DRN_BOOT_AFAIL 1).fput Fld.DRN_BOOT_BFAIL 1).bootStatus bsNoimage).enterStage bsRecovery)) ∧
    -- FUSE_APPLY (R597)
    (∀ (s : State), s.faults.frozen = false → s.booting = true → s.stage = bsFuses →
        exec .fuseApply s = .next (((if s.boot.cold then (s.rput .DRN_QSPARE (s.boot.fuses.qspare.setWidth 64)).each
        (List.range 16) State.loadPmb else s).sitesFromSpares.applyCalibration.applyRepair).enterStage bsHbm)) ∧
    -- HBM_TRAINING (R598, R548)
    (∀ (trained : List Nat) (u s : State), s.faults.frozen = false → s.booting = true → s.stage = bsHbm →
        trained = List.range 8 → u = s.fput Fld.DRN_BOOT_HBMOK 0xFF →
        exec (.hbmTraining trained) s = .next (((u.each (List.range 4) fun s q => if s.hbmDead q then s.zeroRange
        (Config.region s.small * q) (Config.region s.small) else s).each (List.range 4) fun s q => if s.fabRun q then s else s.putFab q
        false).enterStage bsHostready)) ∧
    -- HOSTREADY (R599, R595)
    (∀ (s : State), s.booting = true → (s.stage = bsHostready ∨ s.stage = bsRecovery) →
        exec .hostready s = .next ({ s with hif := { s.hif with ready := true } })) ∧
    -- SELF_TEST (R600, R601, R191)
    (∀ (results : List SiteTest) (adc : Nat) (u s : State), s.faults.frozen = false → s.booting = true →
        s.stage = bsHostready → s.hif.ready = true →
        u = results.foldl State.siteResult { s with boot := { s.boot with sites := [] } } →
        u.boot.masks = s.boot.masks → exec (.selfTest results adc) s = .next (u.enterStage bsSelftest)) ∧
    -- CAPABILITY_PUBLISH (R602, R611)
    (∀ (u s : State), s.faults.frozen = false → s.booting = true → s.stage = bsSelftest →
        (u = s.each (List.range 64) fun s b => s.publishCap b false) →
        exec .capabilityPublish s = .next ((u.fput Fld.DRN_BOOT_READYT (min
        (u.rget .DRN_TIME - u.boot.startT).toNat 0xFFFFFFFF)).enterStage bsReady)) ∧
    -- REBOOT (R587, R609)
    (∀ (who : Requester) (s : State), s.powered = true → mayPf who = true →
        exec (.reboot who) s = .next s.packageReboot) ∧
    -- SVNLOCK (R596, R723)
    (∀ (who : Requester) (adc : Nat) (u s : State), s.powered = true → mayPf who = true →
        s.holdup 5 adc = (true, u) →
        exec (.svnlock who adc true) s = .next
        (({ u with boot := { u.boot with fuses := { u.boot.fuses with svnMin := max u.boot.fuses.svnMin u.boot.svn } } }).fput
        Fld.DRN_BOOTCTL_LOCKST 1)) ∧
    -- CHALLENGE (R606)
    (∀ (who : Requester) (s : State), s.powered = true → mayPf who = true →
        exec (.challenge who) s = .next s.challengeCmd) ∧
    -- SUBMIT (R606, R607)
    (∀ (who : Requester) (s : State), s.powered = true → mayPf who = true →
        exec (.submit who) s = .next s.submitCmd) ∧
    -- RELOCK (R607)
    (∀ (who : Requester) (s : State), s.powered = true → mayPf who = true →
        exec (.relock who) s = .next ((s.fput Fld.DRN_DBG_PERM 0).fput Fld.DRN_DBG_UNLOCKED 0)) ∧
    -- NONCE_EXPIRY (R607)
    (∀ (s : State), exec .nonceExpiry s = .next ({ s with boot := { s.boot with nonceT := none } })) ∧
    -- CONSOLE_RELEASE (R607)
    (∀ (s : State), exec .consoleRelease s = .next ({ s with boot := { s.boot with holds := false } }))

/-- Stream, port, frame, statistics and frame-route commands complete (spec/17_embouchure.md).  Where the spec leaves a
point open the clauses follow the model's own choices (log entries 1, 3, 27, 57, 58). -/
def Obligations.EmbouchureCommandsComplete : Prop :=
    -- EMB_ENABLE (R646)
    (∀ (who : Requester) (n : Nat) (l : List Byte) (v u : State) (x : Stream) (s : State), s.hubOpen = true →
        mayPf who = true → s.flag Fld.EMB_SCMDST_PENDING = false →
        v = (s.fput Fld.EMB_SCMDST_OP 1).fput Fld.EMB_SCMDST_STREAM n → (v.strm n).state = smOff →
        v.devRead 1024 (v.entryAddr n) 64 = (.ok, l, u) →
        x = { Stream.reset with entry := l, gain := gainOf ((l.drop 32).take 16), out := (u.strm n).out } →
        u.entryBad n x = false → x.isTdm = true → u.ep x.port = epLocked →
        exec (.embEnable who n) s = .next ((u.upStrm n fun _ =>
        { x with state := smRun, t0 := u.rget .DRN_TIME, drift := u.flag Fld.DRN_CLKST_REFLOST }).scmdSt esOk)) ∧
    -- EMB_DISABLE (R646)
    (∀ (who : Requester) (n : Nat) (u s : State), s.hubOpen = true → mayPf who = true →
        s.flag Fld.EMB_SCMDST_PENDING = false → u = (s.fput Fld.EMB_SCMDST_OP 2).fput Fld.EMB_SCMDST_STREAM n →
        (u.strm n).state = smWait → (u.strm n).cur = none → (u.strm n).ended = [] →
        exec (.embDisable who n) s = .next ((u.strmEnd n smOff scHost).scmdSt esOk)) ∧
    -- EMB_GAINCOMMIT (R630, R646)
    (∀ (who : Requester) (n : Nat) (u s : State), s.hubOpen = true → mayPf who = true →
        s.flag Fld.EMB_SCMDST_PENDING = false → u = (s.fput Fld.EMB_SCMDST_OP 3).fput Fld.EMB_SCMDST_STREAM n →
        (u.strm n).state = smRun → exec (.embGaincommit who n) s = .next (u.scmdPend 3 n)) ∧
    -- QUERY (R650)
    (∀ (who : Requester) (n : Nat) (u s : State), s.hubOpen = true → mayPf who = true →
        s.flag Fld.EMB_SCMDST_PENDING = false → u = (s.fput Fld.EMB_SCMDST_OP 4).fput Fld.EMB_SCMDST_STREAM n →
        exec (.query who n) s = .next (((((u.fput Fld.EMB_SINFO_STATE (u.strm n).state).fput Fld.EMB_SINFO_CAUSE
        (u.strm n).cause).fput Fld.EMB_SINFO_GSID (u.strm n).gsid).fput Fld.EMB_SINFO_FRAME
        (u.strm n).last).scmdSt esOk)) ∧
    -- GAIN_SET_READ (R630)
    (∀ (n : Nat) (l : List Byte) (u s : State), s.faults.frozen = false → s.emb.cmd = some (3, n) →
        s.devRead 1024 (s.entryAddr n + 32) 16 = (.ok, l, u) →
        exec (.gainSetRead n) s = .next ((u.upStrm n fun x =>
        { x with gainNx := some (gainOf l), gainAgc := false }).scmdSt esOk)) ∧
    -- BORE_GAINCOMMIT (R637)
    (∀ (src : Endpoint) (c : XClass) (e d : Endpoint) (x b ch n : Nat) (m : Message)
        (v u s : State), s.oldest .posted src (.unit .emb) = some (⟨c, e, d, .message x 0 m⟩, v) →
        u = v.hubTaken (.unit .emb) m → n = (m.words.getD 1 0).toNat % 2 ^ 14 → 2 ≤ m.words.length →
        (m.words.getD 0 0).toNat % 256 = 1 → m.origin = .here (.bore b ch) → u.boreCtx b = (u.strm n).ctx →
        (u.strm n).state = smRun →
        exec (.boreGaincommit src) s = .next ({ u with emb := { u.emb with boreGc := u.emb.boreGc ++ [n] } })) ∧
    -- PORT_ENABLE (R623)
    (∀ (who : Requester) (p : Nat) (v u s : State), s.hubOpen = true → mayPf who = true → s.ep p = epOff →
        (v = s.upTdm p fun _ => TdmPort.reset) →
        u = (v.fput Fld.EMB_PSTAT_RATE (v.fget Fld.EMB_PCFG_RATE 0 p) 0 p).rput .EMB_PFRAME 0 0 p →
        u.flag Fld.EMB_PCFG_MASTER 0 p = false →
        exec (.portEnable who p) s = .next ((u.putEp p epAcquire).putPeriod p)) ∧
    -- PORT_DISABLE (R647)
    (∀ (who : Requester) (p : Nat) (s : State), s.hubOpen = true → mayPf who = true → s.ep p ≠ epOff →
        s.epStreams p = [] → exec (.portDisable who p) s = .next ((s.upTdm p fun _ => TdmPort.reset).putEp p epOff)) ∧
    -- RATE_ACK (R643)
    (∀ (who : Requester) (p : Nat) (s : State), s.hubOpen = true → mayPf who = true → s.ep p = epRatewait →
        exec (.rateAck who p) s = .next (s.upTdm p fun x => { x with acked := true })) ∧
    -- FRAME_SYNC (R639)
    (∀ (p period clocks : Nat) (slots : List Word32) (s : State), s.faults.frozen = false → s.ep p ≠ epOff →
        s.flag Fld.EMB_PCFG_MASTER 0 p = true →
        exec (.frameSync p period clocks slots) s = .next (s.sample p (.edge slots))) ∧
    (∀ (p period clocks : Nat) (slots : List Word32) (u s : State), s.faults.frozen = false → s.ep p = epLocked →
        s.flag Fld.EMB_PCFG_MASTER 0 p = false → s.flag Fld.DRN_CLKST_REFLOST = false → u = s.countRate p period →
        exec (.frameSync p period clocks slots) s = .next (u.lockedEdge p period (near period
        (s.epPeriod p) && s.epSlots p * slotBits (s.epW p) ≤ clocks) slots)) ∧
    -- HOLDOVER_ENTRY (R641)
    (∀ (p : Nat) (s : State), s.faults.frozen = false → s.ep p = epLocked → s.flag Fld.EMB_PCFG_MASTER 0 p = false →
        exec (.holdoverEntry p) s = .next (s.enterHoldover p)) ∧
    -- PORT_FRAME_START (R623)
    (∀ (p : Nat) (s : State), s.faults.frozen = false → s.ep p = epLocked →
        ((s.tdm p).began = false ∨ s.epN p ≤ (s.tdm p).pos) → exec (.portFrameStart p) s = .next (s.openFrame p 0)) ∧
    -- CAPTURE_FRAME_END (R625)
    (∀ (n : Nat) (f : Frame) (rest : List Frame) (u s : State), s.faults.frozen = false →
        (s.strm n).ended = f :: rest → (s.strm n).kind = kdCapture → s.ctxLives (s.strm n).ctx = true →
        (u = s.upStrm n fun x => { x with ended := rest }) → u.epRate (s.strm n).port = (s.strm n).srate →
        exec (.captureFrameEnd n) s = .next ((u.capturePut n f.xs.length f (f.xs.map
        (applyGain f.gain.cgain))).strmStop n)) ∧
    -- STATISTICS_RECORD_WRITE (R625)
    (∀ (n : Nat) (o : FrameOut) (s : State), s.faults.frozen = false →
        ((s.strm n).out.find? (fun o => !o.written) = some o) →
        exec (.statisticsRecordWrite n) s = .next (s.putRecord n o)) ∧
    -- FRAME_READY_MESSAGE (R625, R635, R636)
    (∀ (n : Nat) (o : FrameOut) (rest : List FrameOut) (u s : State), s.faults.frozen = false →
        (s.strm n).out = o :: rest → o.written = true → o.route ≤ 255 →
        (u = s.upStrm n fun x => { x with out := rest }) →
        exec (.frameReadyMessage n) s = .next (u.frSend (.emb o.route)
        [o.flags * 2 ^ 16 + o.kind * 2 ^ 14 + n % 2 ^ 14, o.num, o.gsid, o.tstart.toNat % 2 ^ 32])) ∧
    -- PLAYBACK_FETCH (R628)
    (∀ (n : Nat) (l : List Int) (u s : State), s.faults.frozen = false → (s.strm n).kind = kdPlayback →
        (s.strm n).state = smRun → (s.strm n).stopAt = false → s.ep (s.strm n).port = epLocked →
        s.ctxLives (s.strm n).ctx = true → (s.tdm (s.strm n).port).began = false → s.readSlot (s.strm n) ((s.strm n).bufSlot 0) 0 = (.samples l, u) →
        u.epRate (s.strm n).port = (s.strm n).srate →
        exec (.playbackFetch n) s = .next (u.upStrm n fun x => { x with fetched := some (0, some l, false) })) ∧
    -- PLAYBACK_FRAME_END (R628)
    (∀ (n : Nat) (f : Frame) (rest : List Frame) (k : Nat) (vad : Bool) (hang : Nat)
        (u s : State), s.faults.frozen = false → (s.strm n).ended = f :: rest → (s.strm n).kind = kdPlayback →
        s.ctxLives (s.strm n).ctx = true → s.epN (s.strm n).port = k →
        (s.strm n).vad (energyOf f.gain.pgain f.xs) k = (vad, hang) →
        (u = s.upStrm n fun x => { x.total f with ended := rest, hang := hang }) →
        exec (.playbackFrameEnd n) s = .next (((u.upStrm n fun x =>
        { x with out := x.out ++ [(u.strm n).outFrame n f.gain.pgain k ((u.strm n).bufSlot f.num) 1 f vad] }).putRecord
        n ((u.strm n).outFrame n f.gain.pgain k ((u.strm n).bufSlot f.num) 1 f vad)).strmStop n)) ∧
    -- RING_FRAME_END (R629)
    (∀ (n : Nat) (s : State), s.faults.frozen = false → (s.strm n).isTdm = false → (s.strm n).state = smRun →
        s.ctxLives (s.strm n).ctx = true → exec (.ringFrameEnd n) s = .next (s.ringEnd n)) ∧
    -- AGC_COMMIT (R631, R633)
    (∀ (n k e m g : Nat) (u s : State), s.faults.frozen = false → (s.strm n).agc = some (k, e, m) →
        s.strmNow (s.strm n) ≠ k → (s.strm n).isTdm = true → (s.strm n).gainNx = none →
        (u = s.upStrm n fun x => { x with agc := none }) → g = agcGain (s.strm n).gain e m →
        g ≠ (s.strm n).gain.cgain →
        exec (.agcCommit n) s = .next (u.upStrm n fun x =>
        { x with gainNx := some { (s.strm n).gain with cgain := g }, gainAgc := true })) ∧
    -- FROUTE_WRITE (R652, R672)
    (∀ (who : Requester) (r : Nat) (val : Word64) (s : State), s.hubOpen = true → mayPf who = true →
        (s.fget Fld.EMB_FROUTE_VALID 0 r = 0 ∨ s.fget Fld.EMB_FRSTAT_CRED 0 r = s.fget Fld.EMB_FROUTE_GRANT 0 r) →
        1 ≤ bits val.toNat 0 10 → bits val.toNat 0 10 ≤ 512 → val.getLsbD 63 = false →
        exec (.frouteWrite who false r val) s = .next ((s.rput .EMB_FROUTE
        (val &&& 0xCFFFFFFF800003FF) 0 r).fput Fld.EMB_CFGST_STATUS 1)) ∧
    (∀ (who : Requester) (r : Nat) (val : Word64) (s : State), s.hubOpen = true → mayPf who = true →
        (s.fget Fld.BEL_FROUTE_VALID r = 0 ∨ s.fget Fld.BEL_FRSTAT_CRED r = s.fget Fld.BEL_FROUTE_GRANT r) →
        1 ≤ bits val.toNat 0 10 → bits val.toNat 0 10 ≤ 512 → val.getLsbD 63 = false →
        exec (.frouteWrite who true r val) s = .next (s.rput .BEL_FROUTE (val &&& 0xCFFFFFFF800003FF) r))

/-- Pipe, commit, flush, frame and cache commands complete (spec/18_bell.md).  Where the spec leaves a point open the
clauses follow the model's own choices (log entries 1, 3, 28, 59, 60). -/
def Obligations.BellPipeCommandsComplete : Prop :=
    -- PIPE_ENABLE (R682)
    (∀ (who : Requester) (p : Nat) (u s : State), s.hubOpen = true → mayPf who = true → s.bpRun p = false →
        s.ctxLives (s.pipeCtx p) = true → timingOk (s.shadowSet p timingRegs) (s.dpen p) = true →
        compositionOk (s.shadowSet p compositionRegs) (s.shadowSet p timingRegs) = true →
        (u = s.upPipe p (fun _ =>
        { Pipe.reset with active := s.shadowSet p compositionRegs, timing := s.shadowSet p timingRegs, done := (s.pipe p).done }))
        → exec (.pipeEnable who p) s = .next ((((((((u.fput Fld.BEL_PSTAT_STATE 1 p).fput Fld.BEL_PSTAT_CTXGONE 0
        p).fput Fld.BEL_PSTAT_FCVALID 0 p).commitSt p 1).timSt p 1).putLink p
        (if s.dpen p then lkDown else lkOff)).startFrame p))) ∧
    -- PIPE_DISABLE (R682)
    (∀ (who : Requester) (p : Nat) (s : State), s.hubOpen = true → mayPf who = true → s.bpRun p = true →
        exec (.pipeDisable who p) s = .next (s.upPipe p fun x => { x with stopAt := true })) ∧
    -- COMMIT (R657)
    (∀ (who : Requester) (p : Nat) (s : State), s.hubOpen = true → mayPf who = true → s.bpRun p = true →
        exec (.commit who p) s = .next ((s.upPipe p fun x =>
        { x with pend := some (s.shadowSet p compositionRegs) }).fput Fld.BEL_PSTAT_CPEND 1 p)) ∧
    (∀ (who : Requester) (p : Nat) (s : State), s.hubOpen = true → mayPf who = true → s.bpRun p = false →
        exec (.commit who p) s = .next (s.fput Fld.BEL_PSTAT_COMMITST 3 p)) ∧
    -- FLUSH (R668)
    (∀ (who : Requester) (p : Nat) (s : State), s.hubOpen = true → mayPf who = true → s.bpRun p = true →
        exec (.flush who p) s = .next (s.upPipe p fun x => { x with flushed := true })) ∧
    -- TIMING_COMMIT (R679)
    (∀ (who : Requester) (p : Nat) (s : State), s.hubOpen = true → mayPf who = true → s.bpRun p = true →
        timingOk (s.shadowSet p timingRegs) (s.dpen p) = true →
        exec (.timingCommit who p) s = .next (((s.upPipe p fun x =>
        { x with tpend := some (s.shadowSet p timingRegs) }).fput Fld.BEL_PSTAT_TIMST 1 p).fput Fld.BEL_PSTAT_TPEND 1
        p)) ∧
    -- MATRIX_PRESET_LOAD (R664)
    (∀ (who : Requester) (p : Nat) (val : Word64) (s : State), s.hubOpen = true → mayPf who = true →
        bits val.toNat 0 3 = 0 →
        exec (.matrixPresetLoad who p val) s = .next (((s.rput .BEL_VM0 0x1000000000000000 p
        (bits val.toNat 8 2)).rput .BEL_VM1 0x0000100000000000 p
        (bits val.toNat 8 2)).rput .BEL_VM2 0x0000000010000000 p (bits val.toNat 8 2))) ∧
    (∀ (who : Requester) (p : Nat) (val : Word64) (s : State), s.hubOpen = true → mayPf who = true →
        bits val.toNat 0 3 = 1 →
        exec (.matrixPresetLoad who p val) s = .next (((s.rput .BEL_VM0 (rowWord 4769 0 6537 (-14266)) p
        (bits val.toNat 8 2)).rput .BEL_VM1 (rowWord 4769 (-1605) (-3330) 8678) p (bits val.toNat 8 2)).rput .BEL_VM2
        (rowWord 4769 8263 0 (-17718)) p (bits val.toNat 8 2))) ∧
    -- BORE_COMMIT_MESSAGE (R678)
    (∀ (src : Endpoint) (c : XClass) (e d : Endpoint) (x b ch p : Nat) (m : Message)
        (v u s : State), s.oldest .posted src (.unit .bell) = some (⟨c, e, d, .message x 0 m⟩, v) →
        u = v.hubTaken (.unit .bell) m → p = (m.words.getD 1 0).toNat % 4 → 2 ≤ m.words.length →
        (m.words.getD 0 0).toNat % 256 = 1 → m.origin = .here (.bore b ch) → u.boreCtx b = u.pipeCtx p →
        u.bpRun p = true →
        exec (.boreCommitMessage src) s = .next ((u.upPipe p fun x =>
        { x with pend := some (u.shadowSet p compositionRegs) }).fput Fld.BEL_PSTAT_CPEND 1 p)) ∧
    -- BORE_FLUSH_MESSAGE (R678)
    (∀ (src : Endpoint) (c : XClass) (e d : Endpoint) (x b ch p : Nat) (m : Message)
        (v u s : State), s.oldest .posted src (.unit .bell) = some (⟨c, e, d, .message x 0 m⟩, v) →
        u = v.hubTaken (.unit .bell) m → p = (m.words.getD 1 0).toNat % 4 → 2 ≤ m.words.length →
        (m.words.getD 0 0).toNat % 256 = 2 → m.origin = .here (.bore b ch) → u.boreCtx b = u.pipeCtx p →
        u.bpRun p = true → exec (.boreFlushMessage src) s = .next (u.upPipe p fun x => { x with flushed := true })) ∧
    -- FRAME_START (R658)
    (∀ (p : Nat) (s : State), s.faults.frozen = false → s.bpRun p = true → (s.pipe p).framing = false →
        exec (.frameStart p) s = .next (s.startFrame p)) ∧
    -- LATCH (R660)
    (∀ (p : Nat) (late : List Nat) (u s : State), s.faults.frozen = false → s.bpRun p = true →
        (s.pipe p).framing = true → u = s.endFrame p late → (u.pipe p).stopAt = false → (u.pipe p).tpend = none →
        (u.pipe p).flushed = false → u.ctxLives (u.pipeCtx p) = true → (u.pipe p).pend = none →
        exec (.latch p late) s = .next u) ∧
    (∀ (p : Nat) (late : List Nat) (u s : State), s.faults.frozen = false → s.bpRun p = true →
        (s.pipe p).framing = true → u = s.endFrame p late → (u.pipe p).stopAt = true →
        exec (.latch p late) s = .next (u.pipeStop p)) ∧
    -- FLATTEN_CACHE_FILL_COMPLETE (R668)
    (∀ (p : Nat) (s : State), s.faults.frozen = false → (s.pipe p).filling = true →
        exec (.flattenCacheFillComplete p) s = .next ((s.upPipe p fun x => { x with filling := false }).fput
        Fld.BEL_PSTAT_FCVALID 1 p)) ∧
    -- FRAME_DONE_MESSAGE (R671)
    (∀ (p : Nat) (f : FrameDone) (l : List FrameDone) (u s : State), s.faults.frozen = false →
        (s.pipe p).done = f :: l → (u = s.upPipe p (fun x => { x with done := l })) →
        u.flag Fld.BEL_FROUTE_VALID p = true →
        exec (.frameDoneMessage p) s = .next (u.frSend (.bell p) [2 ^ 16 * f.flags + p, f.num, f.miss, f.time.toNat]))

/-- Link training, hot-plug and AUX commands complete (spec/18_bell.md).  Where the spec leaves a point open the clauses
follow the model's own choices (log entries 1, 3, 59). -/
def Obligations.DisplayPortCommandsComplete : Prop :=
    -- DP_TRAIN (R675)
    (∀ (who : Requester) (d : Nat) (s : State), s.hubOpen = true → mayPf who = true → s.bpRun d = true →
        s.dpen d = true → exec (.dpTrain who d) s = .next (s.putLink d lkTraining)) ∧
    -- LINK_TRAINING_DONE (R675, R679)
    (∀ (d : Nat) (t : Map Word64) (s : State), s.faults.frozen = false → s.link d = lkTraining →
        t = (s.pipe d).timing →
        exec (.linkTrainingDone d true) s = .next ((((s.fput Fld.BEL_DPSTAT_TRATE
        (setGet t Fld.BEL_DPCFG_RATE) d).fput Fld.BEL_DPSTAT_TLANES
        (setGet t Fld.BEL_DPCFG_LANES) d).putLink d lkUp).pipeEvent d Fld.BEL_PEVT_LINKUP)) ∧
    (∀ (d : Nat) (s : State), s.faults.frozen = false → s.link d = lkTraining →
        exec (.linkTrainingDone d false) s = .next ((s.putLink d lkFail).pipeEvent d Fld.BEL_PEVT_LINKFAIL)) ∧
    -- HPD_DEASSERT (R677)
    (∀ (d : Nat) (u s : State), s.faults.frozen = false → s.powered = true →
        (u = ((s.fput Fld.BEL_DPSTAT_HPD 0 d).upDp d fun x => { x with unplugged := true }).dpEvent d
        Fld.BEL_DPSTAT_UNPLUG) → u.link d ≠ lkOff → exec (.hpdDeassert d) s = .next (u.putLink d lkDown)) ∧
    (∀ (d : Nat) (u s : State), s.faults.frozen = false → s.powered = true →
        (u = ((s.fput Fld.BEL_DPSTAT_HPD 0 d).upDp d fun x => { x with unplugged := true }).dpEvent d
        Fld.BEL_DPSTAT_UNPLUG) → u.link d = lkOff → exec (.hpdDeassert d) s = .next u) ∧
    -- IRQ_HPD (R677)
    (∀ (d : Nat) (s : State), s.faults.frozen = false → s.powered = true → s.flag Fld.BEL_DPSTAT_IRQHPD d = false →
        exec (.irqHpd d) s = .next ((s.fput Fld.BEL_DPSTAT_IRQHPD 1 d).irq (0xA8 + d))) ∧
    -- HPD_ASSERT (R677)
    (∀ (d : Nat) (u s : State), s.faults.frozen = false → s.powered = true → u = s.fput Fld.BEL_DPSTAT_HPD 1 d →
        (u.dp d).unplugged = true →
        exec (.hpdAssert d) s = .next ((u.upDp d fun x => { x with unplugged := false }).dpEvent d
        Fld.BEL_DPSTAT_PLUG)) ∧
    -- AUX_TRANSACTION (R676)
    (∀ (who : Requester) (d : Nat) (val : Word64) (s : State), s.hubOpen = true → mayPf who = true →
        s.flag Fld.BEL_AUXST_PENDING d = false → s.link d ≠ lkTraining →
        exec (.auxTransaction who d val) s = .next (((s.fput Fld.BEL_AUXST_PENDING 1 d).fput Fld.BEL_AUXST_REPLY 0
        d).upDp d fun x => { x with aux := some val.toNat })) ∧
    -- AUX_REPLY (R676)
    (∀ (d code : Nat) (data : List Byte) (v : Nat) (u s : State), s.faults.frozen = false → (s.dp d).aux = some v →
        (code = 1 ∨ code = 2 ∨ code = 3) → (u = (if code = 1 then s.putAux d (data.take (bits v 0 4 + 1)) else s)) →
        exec (.auxReply d code data) s = .next (((u.fput Fld.BEL_AUXST_PENDING 0 d).fput Fld.BEL_AUXST_REPLY code
        d).upDp d fun x => { x with aux := none })) ∧
    -- AUX_TIMEOUT (R676)
    (∀ (d v : Nat) (s : State), s.faults.frozen = false → (s.dp d).aux = some v →
        exec (.auxTimeout d) s = .next (((s.fput Fld.BEL_AUXST_PENDING 0 d).fput Fld.BEL_AUXST_REPLY 4 d).upDp d fun
        x => { x with aux := none }))

/-- Fatal error, dump, keep-flash, log and patrol commands complete (spec/19_faults_and_recovery.md).  Where the spec
leaves a point open the clauses follow the model's own choices (log entries 1, 3, 24, 50, 51, 65, 66). -/
def Obligations.FaultCommandsComplete : Prop :=
    -- FATAL (R698, R715)
    (∀ (cause src : Nat) (s : State), (cause = pkHubUe ∨ cause = pkHbmFatal ∨ cause = pkWindway) →
        s.fget Fld.DMP_STATUS_STATE = dsNone → 2 < s.fget Fld.DRN_BOOT_STAGE → s.fget Fld.DRN_BOOT_STAGE < 8 →
        s.noWindow cause (src % 0x10000) = false →
        exec (.fatal cause src) s = .next (s.freeze dsWriting cause (src % 0x10000))) ∧
    -- DUMP_COMPLETE (R715)
    (∀ (adc : Nat) (s : State), s.faults.frozen = true → s.fget Fld.DMP_STATUS_STATE = dsWriting →
        exec (.dumpComplete adc) s = .next (s.writeDump adc)) ∧
    -- HOSTFORCE (R698, R728)
    (∀ (who : Requester) (s : State), mayPf who = true → s.blockOpen who .DMP = true →
        s.fget Fld.DMP_STATUS_STATE = dsNone → 2 < s.fget Fld.DRN_BOOT_STAGE → s.fget Fld.DRN_BOOT_STAGE < 8 →
        (s.noWindow pkForce srcHif = false) → exec (.hostforce who) s = .next (s.freeze dsWriting pkForce srcHif)) ∧
    -- DUMP_CLEAR (R732)
    (∀ (who : Requester) (s : State), mayPf who = true → s.blockOpen who .DMP = true →
        s.fget Fld.DMP_STATUS_STATE ≠ dsWriting →
        exec (.dumpClear who) s = .next (s.fput Fld.DMP_STATUS_STATE dsNone)) ∧
    -- KEEP_READ (R721)
    (∀ (who : Requester) (addr : Nat) (u s : State), mayPf who = true → s.powered = true →
        s.flag Fld.KEEP_ST_PENDING = false → s.faults.pwrFail = false → addr % 0x100 = 0 → s.faults.flash = [] →
        u = ((s.fput Fld.KEEP_ST_STATUS 0).fput Fld.KEEP_ST_PENDING 0).fput Fld.KEEP_ST_PENDING 1 →
        exec (.keepRead who addr) s = .next ({ u with faults := { u.faults with flash := [.read addr] } })) ∧
    -- KEEP_PROGRAM (R721)
    (∀ (who : Requester) (addr adc : Nat) (u v s : State), mayPf who = true → s.powered = true →
        s.flag Fld.KEEP_ST_PENDING = false → s.faults.pwrFail = false → addr % 0x100 = 0 → keepOpen addr = true →
        s.faults.flash = [] →
        u = ((s.fput Fld.KEEP_ST_STATUS 0).fput Fld.KEEP_ST_PENDING 0).fput Fld.KEEP_ST_PENDING 1 →
        ({ u with faults := { u.faults with flash := [.program addr s.keepBuf] } } : State).holdup 1 adc =
        (true, v) → exec (.keepProgram who addr adc) s = .next v) ∧
    -- KEEP_ERASE (R721)
    (∀ (who : Requester) (addr adc : Nat) (u v s : State), mayPf who = true → s.powered = true →
        s.flag Fld.KEEP_ST_PENDING = false → s.faults.pwrFail = false → addr % 0x10000 = 0 → keepOpen addr = true →
        s.faults.flash = [] →
        u = ((s.fput Fld.KEEP_ST_STATUS 0).fput Fld.KEEP_ST_PENDING 0).fput Fld.KEEP_ST_PENDING 1 →
        ({ u with faults := { u.faults with flash := [.erase addr] } } : State).holdup 2 adc = (true, v) →
        exec (.keepErase who addr adc) s = .next v) ∧
    -- KEEP_OPERATION_COMPLETE (R730)
    (∀ (adc a : Nat) (s : State), s.faults.flash = [.erase a] →
        exec (.keepOperationComplete true adc) s = .next (((s.flashErase a 0x10000).keepSt keOk).opOver adc)) ∧
    (∀ (adc a : Nat) (l : List Byte) (s : State), s.faults.flash = [.program a l] →
        exec (.keepOperationComplete true adc) s = .next (((s.flashPut a l).keepSt keOk).opOver adc)) ∧
    -- LOG_PAGE_PROGRAM (R722)
    (∀ (adc : List Nat) (p : List (Nat × List Byte)) (rest : List (List (Nat × List Byte)))
        (u s : State), s.faults.flash = [] → s.faults.pages = p :: rest → s.faults.erased = true →
        s.holdup 1 (codeAt adc 1) = (true, u) → exec (.logPageProgram adc) s = .next (u.putPage p)) ∧
    -- LOG_PAGE_RETRY (R722)
    (∀ (adc : List Nat) (p : List (Nat × List Byte)) (rest : List (List (Nat × List Byte)))
        (u s : State), s.faults.flash = [] → s.faults.pages = p :: rest → s.faults.erased = true →
        s.holdup 1 (codeAt adc 1) = (true, u) → exec (.logPageRetry adc) s = .next (u.putPage p)) ∧
    -- PWR_FAIL (R724, R726, R761, R727)
    (∀ (adc : List Nat) (u s : State), s.drone.trip = false → s.fget Fld.DMP_STATUS_STATE ≠ dsWriting →
        s.faults.truncate = false →
        u = ({ s with faults := { s.faults with pwrFail := true } } : State).log srcDrone 0x0090 none 0 (leBytes 4
        (codeAt adc 0) ++ leBytes 4 (holdupEnergy s.holdupBank.1 s.holdupBank.2 (codeAt adc 0 % 4096))) →
        u.faults.flash = [] → exec (.pwrFail adc) s = .next (State.pagesOut adc 64 1 u.pageDue)) ∧
    -- PWR_FAIL_RELEASE (R724)
    (∀ (s : State), exec .pwrFailRelease s = .next ({ s with faults := { s.faults with pwrFail := false } })) ∧
    -- HBM_PATROL (R706)
    (∀ (h blk u : Nat) (s : State), h < 8 → u = patrolAddr s.small h blk → u < Config.hbmEnd s.small → stackOf s.small u = h →
        s.home u = .hbm → s.hubOpen = true → s.fabRun (h / 2) = true →
        exec (.hbmPatrol h blk none) s = .next (s.checkUnit u))

/-- SMBus target and scan port commands complete (spec/20_package_balls_tray.md).  Where the spec leaves a point open
the clauses follow the model's own choices (log entries 1, 3, 63, 64, 67). -/
def Obligations.TrayCommandsComplete : Prop :=
    -- SETADDR (R750)
    (∀ (addr : Nat) (s : State), s.boot.alwaysOn = true →
        exec (.setaddr addr true) s = .next ({ s with smb := { s.smb with ptr := addr % 2 ^ 48, nack := false } })) ∧
    (∀ (addr : Nat) (s : State), s.boot.alwaysOn = true →
        exec (.setaddr addr false) s = .next ((s.fsat Fld.DRN_SMBST_PECERR).upSmb fun x => { x with nack := true })) ∧
    -- READ32 (R750, R751)
    (∀ (v : Word32) (u s : State), s.boot.alwaysOn = true → s.smbJudge 4 false = 0 →
        s.read32 .smbus s.smb.ptr = (v, u) →
        exec .read32 s = .next
        ({ u with smb := { u.smb with status := 0, data := leBytes 4 v.toNat, ptr := (u.smb.ptr + 4) % 2 ^ 48 } })) ∧
    -- READ64 (R750, R751)
    (∀ (v : Word64) (u s : State), s.boot.alwaysOn = true → s.smbJudge 8 false = 0 →
        s.read64 .smbus s.smb.ptr = (v, u) →
        exec .read64 s = .next
        ({ u with smb := { u.smb with status := 0, data := leBytes 8 v.toNat, ptr := (u.smb.ptr + 8) % 2 ^ 48 } })) ∧
    -- WRITE32 (R750, R751)
    (∀ (val : Word32) (u s : State), s.boot.alwaysOn = true → s.smbJudge 4 true = 0 →
        u = s.write32 .smbus s.smb.ptr val →
        exec (.write32 val true) s = .next
        ({ u with smb := { u.smb with last := 0, nack := false, ptr := (u.smb.ptr + 4) % 2 ^ 48 } })) ∧
    -- WRITE64 (R750, R751)
    (∀ (val : Word64) (u s : State), s.boot.alwaysOn = true → s.smbJudge 8 true = 0 →
        u = s.write64 .smbus s.smb.ptr val →
        exec (.write64 val true) s = .next
        ({ u with smb := { u.smb with last := 0, nack := false, ptr := (u.smb.ptr + 8) % 2 ^ 48 } })) ∧
    -- LASTST (R750)
    (∀ (s : State), s.boot.alwaysOn = true →
        exec .lastst s = .next ({ s with smb := { s.smb with data := leBytes 1 s.smb.last } })) ∧
    -- SMBUS_TIMEOUT (R747)
    (∀ (s : State), exec .smbusTimeout s = .next s) ∧
    -- BOUNDARY_SCAN (R749)
    (∀ (s : State), exec (.boundaryScan .reset) s = .next ({ s with tap := { s.tap with inst := .idcode } })) ∧
    (∀ (i : TapInstr) (s : State), i ∈ [TapInstr.bypass, .idcode, .samplePreload, .extest, .highz, .clamp] →
        exec (.boundaryScan (.instruction i)) s = .next ({ s with tap := { s.tap with inst := i } })) ∧
    (∀ (balls tdi out l : List Bool) (s : State), tapShift s.tap.inst balls tdi = (out, l) →
        exec (.boundaryScan (.shift balls tdi)) s = .next ({ s with tap := { s.tap with chain := l, tdo := out } })) ∧
    (∀ (s : State), tapBoundary s.tap.inst = true →
        exec (.boundaryScan .update) s = .next ({ s with tap := { s.tap with upd := s.tap.chain } }))
end

