-- ==== Sys2Proof/Laws/KeepsCore.lean ====
section
/-!
SUPPORT. Laws/KeepsCore.lean: the named operations, memory, queues, synchronisation and ligature tables: the operations and commands that leave memory as it is, and that all
leave the queue as it is.
-/

namespace Sys2Proof.Machine

/-! ### Ops -/

@[simp] theorem mem_ite (c : Prop) [Decidable c] (a b : State) :
    (if c then a else b).mem = if c then a.mem else b.mem := apply_ite ..
@[simp] theorem pending_ite (c : Prop) [Decidable c] (a b : State) :
    (if c then a else b).pending = if c then a.pending else b.pending := apply_ite ..
@[simp] theorem foldl_mem {α : Type} (f : State → α → State) (l : List α) (s : State)
    (h : ∀ s x, (f s x).mem = s.mem) : (l.foldl f s).mem = s.mem := by
  induction l generalizing s with
  | nil => rfl
  | cons x l ih => simp [ih, h]
@[simp] theorem foldl_pending {α : Type} (f : State → α → State) (l : List α) (s : State)
    (h : ∀ s x, (f s x).pending = s.pending) : (l.foldl f s).pending = s.pending := by
  induction l generalizing s with
  | nil => rfl
  | cons x l ih => simp [ih, h]
@[simp] theorem each_mem (s : State) (l : List Nat) (f : State → Nat → State)
    (h : ∀ s x, (f s x).mem = s.mem) : (s.each l f).mem = s.mem := foldl_mem f l s h
@[simp] theorem each_pending (s : State) (l : List Nat) (f : State → Nat → State)
    (h : ∀ s x, (f s x).pending = s.pending) : (s.each l f).pending = s.pending := foldl_pending f l s h
theorem ite_ok {c : Prop} [Decidable c] {a b t : State} (P : State → Prop) (ha : P a) (hb : P b)
    (h : (if c then (.next a : Host.Outcome State Fault Refusal) else .next b) = .next t) : P t := by
  split at h <;> cases h <;> assumption
theorem foldl_inv {α β : Type} (P : β → Prop) (f : β → α → β) (l : List α) (x : β) (h0 : P x)
    (h : ∀ x a, P x → P (f x a)) : P (l.foldl f x) := by
  induction l generalizing x with
  | nil => exact h0
  | cons a l ih => exact ih _ (h _ _ h0)
@[simp] theorem State.dropShadows_keeps (s : State) (P : HeldWord → Bool) :
    (State.dropShadows s P).mem = s.mem ∧ (State.dropShadows s P).pending = s.pending := by
  simp [State.dropShadows]
@[simp] theorem State.rput_keeps (s : State) (r : Reg) (v : Word64) (i j : Nat) :
    (State.rput s r v i j).mem = s.mem ∧ (State.rput s r v i j).pending = s.pending := by
  simp [State.rput]
@[simp] theorem State.fput_keeps (s : State) (f : Field) (v i j : Nat) :
    (State.fput s f v i j).mem = s.mem ∧ (State.fput s f v i j).pending = s.pending := by
  simp [State.fput]
@[simp] theorem State.fsat_keeps (s : State) (f : Field) (n i j : Nat) :
    (State.fsat s f n i j).mem = s.mem ∧ (State.fsat s f n i j).pending = s.pending := by
  simp [State.fsat]
@[simp] theorem State.finc_keeps (s : State) (f : Field) (n i j : Nat) :
    (State.finc s f n i j).mem = s.mem ∧ (State.finc s f n i j).pending = s.pending := by
  simp [State.finc]
@[simp] theorem State.warmReg_keeps (s : State) (r : Reg) (i j : Nat) :
    (State.warmReg s r i j).mem = s.mem ∧ (State.warmReg s r i j).pending = s.pending := by
  simp [State.warmReg]
@[simp] theorem State.free_keeps (s : State) (w : Nat) :
    (State.free s w).2.mem = s.mem ∧ (State.free s w).2.pending = s.pending := by
  simp [State.free]
@[simp] theorem State.upBore_keeps (s : State) (b : Nat) (f : Bore → Bore) :
    (State.upBore s b f).mem = s.mem ∧ (State.upBore s b f).pending = s.pending := by
  simp [State.upBore]
@[simp] theorem State.upCh_keeps (s : State) (b : Nat) (f : Chanter → Chanter) :
    (State.upCh s b f).mem = s.mem ∧ (State.upCh s b f).pending = s.pending := by
  simp [State.upCh]
@[simp] theorem State.upArr_keeps (s : State) (b : Nat) (f : MatArray → MatArray) :
    (State.upArr s b f).mem = s.mem ∧ (State.upArr s b f).pending = s.pending := by
  simp [State.upArr]
@[simp] theorem State.upLig_keeps (s : State) (b : Nat) (f : Lig → Lig) :
    (State.upLig s b f).mem = s.mem ∧ (State.upLig s b f).pending = s.pending := by
  simp [State.upLig]
@[simp] theorem State.upVest_keeps (s : State) (b : Nat) (f : Vestibule → Vestibule) :
    (State.upVest s b f).mem = s.mem ∧ (State.upVest s b f).pending = s.pending := by
  simp [State.upVest]
@[simp] theorem State.upPower_keeps (s : State) (b : Nat) (f : Power → Power) :
    (State.upPower s b f).mem = s.mem ∧ (State.upPower s b f).pending = s.pending := by
  simp [State.upPower]
@[simp] theorem State.upRank_keeps (s : State) (b r : Nat) (f : Rank → Rank) :
    (State.upRank s b r f).mem = s.mem ∧ (State.upRank s b r f).pending = s.pending := by
  simp [State.upRank]
@[simp] theorem State.upReed_keeps (s : State) (b r lane : Nat) (f : Reed → Reed) :
    (State.upReed s b r lane f).mem = s.mem ∧ (State.upReed s b r lane f).pending = s.pending := by
  simp [State.upReed]
@[simp] theorem State.upSched_keeps (s : State) (p : Nat) (f : Sched → Sched) :
    (State.upSched s p f).mem = s.mem ∧ (State.upSched s p f).pending = s.pending := by
  simp [State.upSched]
@[simp] theorem State.upHset_keeps (s : State) (h : Nat) (f : Health → Health) :
    (State.upHset s h f).mem = s.mem ∧ (State.upHset s h f).pending = s.pending := by
  simp [State.upHset]
@[simp] theorem State.upCtx_keeps (s : State) (c : Nat) (f : Ctx → Ctx) :
    (State.upCtx s c f).mem = s.mem ∧ (State.upCtx s c f).pending = s.pending := by
  simp [State.upCtx]
@[simp] theorem State.upPart_keeps (s : State) (p : Nat) (f : Part → Part) :
    (State.upPart s p f).mem = s.mem ∧ (State.upPart s p f).pending = s.pending := by
  simp [State.upPart]
@[simp] theorem State.upPort_keeps (s : State) (k : Nat) (f : Port → Port) :
    (State.upPort s k f).mem = s.mem ∧ (State.upPort s k f).pending = s.pending := by
  simp [State.upPort]
@[simp] theorem State.setQueue_keeps (s : State) (b q : Nat) (l : List QEntry) :
    (State.setQueue s b q l).mem = s.mem ∧ (State.setQueue s b q l).pending = s.pending := by
  simp [State.setQueue]
@[simp] theorem State.send_keeps (s : State) (cls : XClass) (src dst : Endpoint) (p : Packet) :
    (State.send s cls src dst p).mem = s.mem ∧ (State.send s cls src dst p).pending = s.pending := by
  simp [State.send]
theorem State.oldest_keeps (s : State) (cls : XClass) (src dst : Endpoint) {r} (h :
    (State.oldest s cls src dst) = some r) :
    r.2.mem = s.mem ∧ r.2.pending = s.pending := by
  unfold State.oldest at h; (repeat' split at h) <;> cases h <;> simp

/-! ### Events -/

@[simp] theorem State.hostSend_keeps (s : State) (t : HostTlp) :
    (State.hostSend s t).mem = s.mem ∧ (State.hostSend s t).pending = s.pending := by
  unfold State.hostSend; (repeat' split) <;> simp
@[simp] theorem State.hostWrite_keeps (s : State) (fn a : Nat) (l : List (Byte × Bool)) :
    (State.hostWrite s fn a l).mem = s.mem ∧ (State.hostWrite s fn a l).pending = s.pending := by
  simp [State.hostWrite]
@[simp] theorem State.hostReadReq_keeps (s : State) (fn a n : Nat) :
    (State.hostReadReq s fn a n).mem = s.mem ∧ (State.hostReadReq s fn a n).pending = s.pending := by
  simp [State.hostReadReq]
@[simp] theorem State.msix_keeps (s : State) (fn vec : Nat) :
    (State.msix s fn vec).mem = s.mem ∧ (State.msix s fn vec).pending = s.pending := by
  simp [State.msix]
@[simp] theorem State.irq_keeps (s : State) (n : Nat) :
    (State.irq s n).mem = s.mem ∧ (State.irq s n).pending = s.pending := by
  simp [State.irq]
@[simp] theorem putLogWords_keeps (s : State) (k : Nat) (a2 : List Nat) :
    (putLogWords s k a2).mem = s.mem ∧ (putLogWords s k a2).pending = s.pending := by
  induction a2 generalizing s k with
  | nil => exact ⟨rfl, rfl⟩
  | cons w l ih => simp [putLogWords, ih]
@[simp] theorem State.gather_keeps (s : State) (n : Nat) (e : List Byte) :
    (State.gather s n e).mem = s.mem ∧ (State.gather s n e).pending = s.pending := by
  simp [State.gather]
@[simp] theorem State.log_keeps (s : State) (src code : Nat) (ctx : Option Nat) (sev : Nat) (detail : List Byte) :
    (State.log s src code ctx sev detail).mem = s.mem ∧ (State.log s src code ctx sev detail).pending = s.pending := by
  simp [State.log]
@[simp] theorem State.pcie_keeps (s : State) (aer fn addr : Nat) (ctx : Option Nat) :
    (State.pcie s aer fn addr ctx).mem = s.mem ∧ (State.pcie s aer fn addr ctx).pending = s.pending := by
  simp [State.pcie]
@[simp] theorem State.unitFault_keeps (s : State) (src : Nat) (ctx : Option Nat) (addr status : Nat) :
    (State.unitFault s src ctx addr status).mem = s.mem ∧
      (State.unitFault s src ctx addr status).pending = s.pending := by
  simp [State.unitFault]
@[simp] theorem State.wake_keeps (s : State) (b code : Nat) :
    (State.wake s b code).mem = s.mem ∧ (State.wake s b code).pending = s.pending := by
  simp [State.wake]
@[simp] theorem when_mem (c : Bool) (s t : State) (h : t.mem = s.mem) : (when c s t).mem = s.mem := by
  unfold when; split <;> simp_all
@[simp] theorem when_pending (c : Bool) (s t : State) (h : t.pending = s.pending) :
    (when c s t).pending = s.pending := by
  unfold when; split <;> simp_all

/-! ### Mem -/

@[simp] theorem hubReg_mem (s : State) (may : Bool) (t : State) (h : t.mem = s.mem) :
    (s.hubReg may t).mem = s.mem := by unfold State.hubReg; split <;> simp_all
@[simp] theorem hubReg_pending (s : State) (may : Bool) (t : State) (h : t.pending = s.pending) :
    (s.hubReg may t).pending = s.pending := by unfold State.hubReg; split <;> simp_all
@[simp] theorem drnReg_mem (s : State) (may : Bool) (t : State) (h : t.mem = s.mem) :
    (s.drnReg may t).mem = s.mem := by unfold State.drnReg; split <;> simp_all
@[simp] theorem drnReg_pending (s : State) (may : Bool) (t : State) (h : t.pending = s.pending) :
    (s.drnReg may t).pending = s.pending := by unfold State.drnReg; split <;> simp_all
@[simp] theorem State.setBytes_keeps (s : State) (a : Nat) (l : List Byte) :
    (State.setBytes s a l).pending = s.pending := by
  simp [State.setBytes]
@[simp] theorem State.logEcc_keeps (s : State) (u : Nat) (corrected : Bool) :
    (State.logEcc s u corrected).mem = s.mem ∧ (State.logEcc s u corrected).pending = s.pending := by
  unfold State.logEcc; split <;> simp
@[simp] theorem State.checkUnit_keeps (s : State) (u : Nat) :
    (State.checkUnit s u).mem = s.mem ∧ (State.checkUnit s u).pending = s.pending := by
  simp [State.checkUnit]
@[simp] theorem State.checkUnits_keeps (s : State) (a n : Nat) :
    (State.checkUnits s a n).mem = s.mem ∧ (State.checkUnits s a n).pending = s.pending := by
  simp [State.checkUnits]
@[simp] theorem State.storeP_keeps (s : State) (a : Nat) (l : List (Byte × Bool)) :
    (State.storeP s a l).pending = s.pending := by
  simp [State.storeP]
@[simp] theorem State.store_keeps (s : State) (a : Nat) (l : List Byte) (pois : Bool) :
    (State.store s a l pois).pending = s.pending := by
  simp [State.store]
@[simp] theorem State.fetch_keeps (s : State) (a n : Nat) :
    (State.fetch s a n).2.2.mem = s.mem ∧ (State.fetch s a n).2.2.pending = s.pending := by
  simp [State.fetch]
@[simp] theorem State.putFab_keeps (s : State) (q : Nat) (run : Bool) :
    (State.putFab s q run).mem = s.mem ∧ (State.putFab s q run).pending = s.pending := by
  simp [State.putFab]
@[simp] theorem State.openFab_keeps (s : State) (q : Nat) :
    (State.openFab s q).mem = s.mem ∧ (State.openFab s q).pending = s.pending := by
  simp [State.openFab]
@[simp] theorem State.crossFab_keeps (s : State) (a : Nat) :
    (State.crossFab s a).mem = s.mem ∧ (State.crossFab s a).pending = s.pending := by
  unfold State.crossFab; (repeat' split) <;> simp
@[simp] theorem State.darkAccess_keeps (s : State) (b : Nat) (host : Bool) :
    (State.darkAccess s b host).mem = s.mem ∧ (State.darkAccess s b host).pending = s.pending := by
  simp [State.darkAccess]
@[simp] theorem State.status_keeps (s : State) (who : Requester) (st : AccStatus) :
    (State.status s who st).mem = s.mem ∧ (State.status s who st).pending = s.pending := by
  simp [State.status]
@[simp] theorem State.regDone_keeps (s : State) (who : Requester) (b : Nat) :
    (State.regDone s who b).mem = s.mem ∧ (State.regDone s who b).pending = s.pending := by
  simp [State.regDone]
@[simp] theorem State.darkFor_keeps (s : State) (who : Requester) (b : Nat) :
    (State.darkFor s who b).mem = s.mem ∧ (State.darkFor s who b).pending = s.pending := by
  simp [State.darkFor]
@[simp] theorem regAccess_mem (s : State) (who : Requester) (b : Nat) (v may : Bool) (t : State)
    (h : t.mem = s.mem) : (s.regAccess who b v may t).mem = s.mem := by
  unfold State.regAccess; (repeat' split) <;> simp_all
@[simp] theorem regAccess_pending (s : State) (who : Requester) (b : Nat) (v may : Bool) (t : State)
    (h : t.pending = s.pending) : (s.regAccess who b v may t).pending = s.pending := by
  unfold State.regAccess; (repeat' split) <;> simp_all

/-! ### Queues -/

@[simp] theorem State.armCheck_keeps (s : State) (b n : Nat) :
    (State.armCheck s b n).mem = s.mem ∧ (State.armCheck s b n).pending = s.pending := by
  simp [State.armCheck]
@[simp] theorem State.waitEvent_keeps (s : State) (b : Nat) (met : Bool) :
    (State.waitEvent s b met).mem = s.mem ∧ (State.waitEvent s b met).pending = s.pending := by
  simp [State.waitEvent]
@[simp] theorem State.incLocal_keeps (s : State) (b n amt : Nat) :
    (State.incLocal s b n amt).mem = s.mem ∧ (State.incLocal s b n amt).pending = s.pending := by
  simp [State.incLocal]
@[simp] theorem State.sendPool_keeps (s : State) (src : Endpoint) (idx amt ctx : Nat) :
    (State.sendPool s src idx amt ctx).mem = s.mem ∧ (State.sendPool s src idx amt ctx).pending = s.pending := by
  simp [State.sendPool]
@[simp] theorem State.rtPut_keeps (s : State) (l : RouteLoc) (f : Field) (v : Nat) :
    (State.rtPut s l f v).mem = s.mem ∧ (State.rtPut s l f v).pending = s.pending := by
  unfold State.rtPut; split <;> simp
@[simp] theorem State.crkData_keeps (s : State) (k vl : Nat) (b : XferBody) (l : List (Byte × Bool)) :
    (State.crkData s k vl b l).mem = s.mem ∧ (State.crkData s k vl b l).pending = s.pending := by
  simp [State.crkData]
@[simp] theorem State.crkSend_keeps (s : State) (k vl : Nat) (b : XferBody) :
    (State.crkSend s k vl b).mem = s.mem ∧ (State.crkSend s k vl b).pending = s.pending := by
  simp [State.crkSend]
@[simp] theorem State.sendReturn_keeps (s : State) (src : Endpoint) (o : Origin) (kind : Nat) :
    (State.sendReturn s src o kind).mem = s.mem ∧ (State.sendReturn s src o kind).pending = s.pending := by
  unfold State.sendReturn; split <;> simp
@[simp] theorem State.countOrphan_keeps (s : State) (o : Origin) :
    (State.countOrphan s o).mem = s.mem ∧ (State.countOrphan s o).pending = s.pending := by
  unfold State.countOrphan; split <;> simp
@[simp] theorem State.addCredit_keeps (s : State) (o : Origin) :
    (State.addCredit s o).mem = s.mem ∧ (State.addCredit s o).pending = s.pending := by
  unfold State.addCredit; split <;> simp
@[simp] theorem State.crcn_keeps (s : State) (o : Origin) :
    (State.crcn s o).mem = s.mem ∧ (State.crcn s o).pending = s.pending := by
  unfold State.crcn; split <;> simp
@[simp] theorem State.auditCount_keeps (s : State) (o : Origin) :
    (State.auditCount s o).mem = s.mem ∧ (State.auditCount s o).pending = s.pending := by
  unfold State.auditCount; split <;> simp
@[simp] theorem State.takeCredit_keeps (s : State) (o : Origin) (orphan : Bool) :
    (State.takeCredit s o orphan).mem = s.mem ∧ (State.takeCredit s o orphan).pending = s.pending := by
  simp [State.takeCredit]
@[simp] theorem State.holdResv_keeps (s : State) (b : Nat) (r : Resv) :
    (State.holdResv s b r).mem = s.mem ∧ (State.holdResv s b r).pending = s.pending := by
  simp [State.holdResv]
@[simp] theorem State.dropResv_keeps (s : State) (b : Nat) (want : Resv → Bool) :
    (State.dropResv s b want).mem = s.mem ∧ (State.dropResv s b want).pending = s.pending := by
  simp [State.dropResv]
@[simp] theorem State.takeRelease_keeps (s : State) (o : Origin) :
    (State.takeRelease s o).mem = s.mem ∧ (State.takeRelease s o).pending = s.pending := by
  unfold State.takeRelease; (repeat' split) <;> simp
@[simp] theorem State.sendNack_keeps (s : State) (src : Endpoint) (epoch reason : Nat) (m : Message) :
    (State.sendNack s src epoch reason m).mem = s.mem ∧ (State.sendNack s src epoch reason m).pending = s.pending := by
  unfold State.sendNack; (repeat' split) <;> simp
@[simp] theorem State.answer_keeps (s : State) (src : Endpoint) (epoch reason : Nat) (m : Message) :
    (State.answer s src epoch reason m).mem = s.mem ∧ (State.answer s src epoch reason m).pending = s.pending := by
  simp [State.answer]
@[simp] theorem State.refuse_keeps (s : State) (b q reason : Nat) (m : Message) :
    (State.refuse s b q reason m).mem = s.mem ∧ (State.refuse s b q reason m).pending = s.pending := by
  simp [State.refuse]
@[simp] theorem State.landWake_keeps (s : State) (b q : Nat) (doorbell : Bool) :
    (State.landWake s b q doorbell).mem = s.mem ∧ (State.landWake s b q doorbell).pending = s.pending := by
  simp [State.landWake]
@[simp] theorem State.putNpend_keeps (s : State) (b : Nat) :
    (State.putNpend s b).mem = s.mem ∧ (State.putNpend s b).pending = s.pending := by
  simp [State.putNpend]
@[simp] theorem State.addStart_keeps (s : State) (b c : Nat) :
    (State.addStart s b c).mem = s.mem ∧ (State.addStart s b c).pending = s.pending := by
  simp [State.addStart]
@[simp] theorem State.startLanding_keeps (s : State) (b q : Nat) :
    (State.startLanding s b q).mem = s.mem ∧ (State.startLanding s b q).pending = s.pending := by
  unfold State.startLanding; split <;> simp
@[simp] theorem State.land_keeps (s : State) (b q : Nat) (m : Message) :
    (State.land s b q m).mem = s.mem ∧ (State.land s b q m).pending = s.pending := by
  unfold State.land; split <;> simp
@[simp] theorem State.deliver_keeps (s : State) (b q : Nat) (m : Message) :
    (State.deliver s b q m).mem = s.mem ∧ (State.deliver s b q m).pending = s.pending := by
  unfold State.deliver; split <;> simp
@[simp] theorem State.deliverInc_keeps (s : State) (b q : Nat) (i : ChanInc) :
    (State.deliverInc s b q i).mem = s.mem ∧ (State.deliverInc s b q i).pending = s.pending := by
  unfold State.deliverInc; split <;> simp
@[simp] theorem State.deliverNack_keeps (s : State) (b : Nat) (n : NackMsg) :
    (State.deliverNack s b n).mem = s.mem ∧ (State.deliverNack s b n).pending = s.pending := by
  unfold State.deliverNack; dsimp only; split <;> simp
@[simp] theorem State.free1_keeps (s : State) (b q : Nat) (e : QEntry) :
    (State.free1 s b q e).mem = s.mem ∧ (State.free1 s b q e).pending = s.pending := by
  simp [State.free1]
@[simp] theorem State.take_keeps (s : State) (b q : Nat) (e : QEntry) :
    (State.take s b q e).mem = s.mem ∧ (State.take s b q e).pending = s.pending := by
  simp [State.take]
@[simp] theorem State.refuseAll_keeps (s : State) (b q reason : Nat) :
    (State.refuseAll s b q reason).mem = s.mem ∧ (State.refuseAll s b q reason).pending = s.pending := by
  simp [State.refuseAll]
@[simp] theorem State.qClose_keeps (s : State) (b q : Nat) :
    (State.qClose s b q).mem = s.mem ∧ (State.qClose s b q).pending = s.pending := by
  simp [State.qClose]
@[simp] theorem State.qOpen_keeps (s : State) (b q : Nat) :
    (State.qOpen s b q).mem = s.mem ∧ (State.qOpen s b q).pending = s.pending := by
  simp [State.qOpen]
@[simp] theorem State.qEpoch_keeps (s : State) (b q : Nat) :
    (State.qEpoch s b q).mem = s.mem ∧ (State.qEpoch s b q).pending = s.pending := by
  simp [State.qEpoch]
@[simp] theorem State.issue_keeps (s : State) (src : Endpoint) (l : RouteLoc) (m : Message) :
    (State.issue s src l m).mem = s.mem ∧ (State.issue s src l m).pending = s.pending := by
  simp [State.issue]
theorem State.trySend_keeps (s : State) (b ch : Nat) (ws : List Word32) (kind : Nat) (inc : Option CtrRef) {r} (h :
    (State.trySend s b ch ws kind inc) = some r) :
    r.mem = s.mem ∧ r.pending = s.pending := by
  dsimp only [State.trySend, ok] at h; (repeat' split at h) <;> (try injection h with h) <;> (try subst h) <;> first | contradiction | simp | simp_all
theorem State.hubSend_keeps (s : State) (src : Endpoint) (l : RouteLoc) (ws : List Word32) (ctx : Nat) {r} (h :
    (State.hubSend s src l ws ctx) = some r) :
    r.mem = s.mem ∧ r.pending = s.pending := by
  dsimp only [State.hubSend, ok] at h; (repeat' split at h) <;> (try injection h with h) <;> (try subst h) <;> first | contradiction | simp | simp_all
@[simp] theorem State.sendInc_keeps (s : State) (b ch amt kind : Nat) :
    (State.sendInc s b ch amt kind).mem = s.mem ∧ (State.sendInc s b ch amt kind).pending = s.pending := by
  simp [State.sendInc]
theorem execMessageArrival_keeps (src : Endpoint) (b : Nat) (s : State) {t : State} (h :
    (execMessageArrival src b s) = .next t) :
    t.mem = s.mem ∧ t.pending = s.pending := by
  unfold execMessageArrival at h; (repeat' split at h) <;> first | (cases h; simp; done) | (cases h; done) | (rename_i heq; have kk := State.oldest_keeps (h := heq); cases h; simp at kk; simp [kk])
theorem execChannelIncrementArrival_keeps (src : Endpoint) (b : Nat) (s : State) {t : State} (h :
    (execChannelIncrementArrival src b s) = .next t) :
    t.mem = s.mem ∧ t.pending = s.pending := by
  unfold execChannelIncrementArrival at h; (repeat' split at h) <;> first | (cases h; simp; done) | (cases h; done) | (rename_i heq; have kk := State.oldest_keeps (h := heq); cases h; simp at kk; simp [kk])
theorem execNackMessageArrival_keeps (src : Endpoint) (b : Nat) (s : State) {t : State} (h :
    (execNackMessageArrival src b s) = .next t) :
    t.mem = s.mem ∧ t.pending = s.pending := by
  unfold execNackMessageArrival at h; (repeat' split at h) <;> first | (cases h; simp; done) | (cases h; done) | (rename_i heq; have kk := State.oldest_keeps (h := heq); cases h; simp at kk; simp [kk])
theorem execCreditReturn_keeps (src dst : Endpoint) (s : State) {t : State} (h :
    (execCreditReturn src dst s) = .next t) :
    t.mem = s.mem ∧ t.pending = s.pending := by
  unfold execCreditReturn at h; (repeat' split at h) <;> first | (cases h; simp; done) | (cases h; done) | (rename_i heq; have kk := State.oldest_keeps (h := heq); cases h; simp at kk; simp [kk])
theorem execReservationRelease_keeps (src dst : Endpoint) (s : State) {t : State} (h :
    (execReservationRelease src dst s) = .next t) :
    t.mem = s.mem ∧ t.pending = s.pending := by
  unfold execReservationRelease at h; (repeat' split at h) <;> first | (cases h; simp; done) | (cases h; done) | (rename_i heq; have kk := State.oldest_keeps (h := heq); cases h; simp at kk; simp [kk])
theorem execOrphanMarkArrival_keeps (src dst : Endpoint) (s : State) {t : State} (h :
    (execOrphanMarkArrival src dst s) = .next t) :
    t.mem = s.mem ∧ t.pending = s.pending := by
  unfold execOrphanMarkArrival at h; (repeat' split at h) <;> first | (cases h; simp; done) | (cases h; done) | (rename_i heq; have kk := State.oldest_keeps (h := heq); cases h; simp at kk; simp [kk])
@[simp] theorem State.auditReplyTo_keeps (s : State) (src : Endpoint) (o : Origin) (oc : Nat) :
    (State.auditReplyTo s src o oc).mem = s.mem ∧ (State.auditReplyTo s src o oc).pending = s.pending := by
  unfold State.auditReplyTo; split <;> simp
@[simp] theorem State.auditClear_keeps (s : State) (b : Nat) :
    (State.auditClear s b).mem = s.mem ∧ (State.auditClear s b).pending = s.pending := by
  simp [State.auditClear]

@[simp] theorem State.auditStart_keeps (s : State) (b ch : Nat) :
    (State.auditStart s b ch).mem = s.mem ∧ (State.auditStart s b ch).pending = s.pending := by
  simp [State.auditStart]
theorem execChannelAudit_keeps (who : Requester) (b ch : Nat) (s : State) {t : State} (h :
    (execChannelAudit who b ch s) = .next t) :
    t.mem = s.mem ∧ t.pending = s.pending := by
  cases h; simp
theorem execAuditMarkerArrival_keeps (src : Endpoint) (b : Nat) (s : State) {t : State} (h :
    (execAuditMarkerArrival src b s) = .next t) :
    t.mem = s.mem ∧ t.pending = s.pending := by
  unfold execAuditMarkerArrival at h; (repeat' split at h) <;> first | (cases h; simp; done) | (cases h; done) | (rename_i heq; have kk := State.oldest_keeps (h := heq); cases h; simp at kk; simp [kk])
@[simp] theorem State.auditDone_keeps (s : State) (b ch oc : Nat) :
    (State.auditDone s b ch oc).mem = s.mem ∧ (State.auditDone s b ch oc).pending = s.pending := by
  unfold State.auditDone; (repeat' split) <;> simp
@[simp] theorem State.auditFault_keeps (s : State) (b : Nat) :
    (State.auditFault s b).mem = s.mem ∧ (State.auditFault s b).pending = s.pending := by
  simp [State.auditFault]
theorem execAuditReplyArrival_keeps (src : Endpoint) (b : Nat) (s : State) {t : State} (h :
    (execAuditReplyArrival src b s) = .next t) :
    t.mem = s.mem ∧ t.pending = s.pending := by
  unfold execAuditReplyArrival at h; (repeat' split at h) <;> first | (cases h; simp; done) | (cases h; done) | (rename_i heq; have kk := State.oldest_keeps (h := heq); cases h; simp at kk; simp [kk])
@[simp] theorem State.cfgst_keeps (s : State) (b target index status : Nat) :
    (State.cfgst s b target index status).mem = s.mem ∧ (State.cfgst s b target index status).pending = s.pending := by
  simp [State.cfgst]
@[simp] theorem State.writeRoute_keeps (s : State) (l : RouteLoc) (second : Bool) (val : Word64) :
    (State.writeRoute s l second val).1.mem = s.mem ∧ (State.writeRoute s l second val).1.pending = s.pending := by
  unfold State.writeRoute; grind [State.rput_keeps, State.rtPut_keeps]
@[simp] theorem State.writeQcfg_keeps (s : State) (b q : Nat) (val : Word64) :
    (State.writeQcfg s b q val).1.mem = s.mem ∧ (State.writeQcfg s b q val).1.pending = s.pending := by
  unfold State.writeQcfg; grind [State.fput_keeps, State.rput_keeps]
theorem execQueueConfigWrite_keeps (who : Requester) (b q : Nat) (val : Word64) (s : State) {t : State} (h :
    (execQueueConfigWrite who b q val s) = .next t) :
    t.mem = s.mem ∧ t.pending = s.pending := by
  cases h; simp
theorem execQctlOpen_keeps (who : Requester) (b q : Nat) (s : State) {t : State} (h :
    (execQctlOpen who b q s) = .next t) :
    t.mem = s.mem ∧ t.pending = s.pending := by
  cases h; simp
theorem execQctlClose_keeps (who : Requester) (b q : Nat) (s : State) {t : State} (h :
    (execQctlClose who b q s) = .next t) :
    t.mem = s.mem ∧ t.pending = s.pending := by
  cases h; simp
theorem execNewepoch_keeps (who : Requester) (b q : Nat) (s : State) {t : State} (h :
    (execNewepoch who b q s) = .next t) :
    t.mem = s.mem ∧ t.pending = s.pending := by
  cases h; simp
theorem qctl_mem (who : Requester) (b : Nat) (s t : State) (k : t.mem = s.mem) {u : State}
    (h : qctl who b s t = .next u) : u.mem = s.mem := by
  cases h; simp [k]
theorem qctl_pending (who : Requester) (b : Nat) (s t : State) (k : t.pending = s.pending) {u : State}
    (h : qctl who b s t = .next u) : u.pending = s.pending := by
  cases h; simp [k]

/-! ### Sync -/

@[simp] theorem State.answerWatch_keeps (s : State) (b : Nat) (met : Bool) :
    (State.answerWatch s b met).mem = s.mem ∧ (State.answerWatch s b met).pending = s.pending := by
  simp [State.answerWatch]
@[simp] theorem State.judgeWatches_keeps (s : State) (n : Nat) :
    (State.judgeWatches s n).mem = s.mem ∧ (State.judgeWatches s n).pending = s.pending := by
  simp [State.judgeWatches]
@[simp] theorem State.poolArrive_keeps (s : State) (idx amt ctx : Nat) :
    (State.poolArrive s idx amt ctx).mem = s.mem ∧ (State.poolArrive s idx amt ctx).pending = s.pending := by
  simp [State.poolArrive]
theorem execPoolIncrementArrival_keeps (src : Endpoint) (s : State) {t : State} (h :
    (execPoolIncrementArrival src s) = .next t) :
    t.mem = s.mem ∧ t.pending = s.pending := by
  unfold execPoolIncrementArrival at h; (repeat' split at h) <;> first | (cases h; simp; done) | (cases h; done) | (rename_i heq; have kk := State.oldest_keeps (h := heq); cases h; simp at kk; simp [kk])
@[simp] theorem State.watchArrive_keeps (s : State) (b idx : Nat) (target : Word32) (ctx : Nat) :
    (State.watchArrive s b idx target ctx).mem = s.mem ∧
      (State.watchArrive s b idx target ctx).pending = s.pending := by
  simp [State.watchArrive]
theorem execWatchArrival_keeps (src : Endpoint) (s : State) {t : State} (h : (execWatchArrival src s) = .next t) :
    t.mem = s.mem ∧ t.pending = s.pending := by
  unfold execWatchArrival at h; (repeat' split at h) <;> first | (cases h; simp; done) | (cases h; done) | (rename_i heq; have kk := State.oldest_keeps (h := heq); cases h; simp at kk; simp [kk])
@[simp] theorem State.sendWatch_keeps (s : State) (b idx : Nat) (target : Word32) :
    (State.sendWatch s b idx target).mem = s.mem ∧ (State.sendWatch s b idx target).pending = s.pending := by
  simp [State.sendWatch]
@[simp] theorem State.cancelWatch_keeps (s : State) (b : Nat) :
    (State.cancelWatch s b).mem = s.mem ∧ (State.cancelWatch s b).pending = s.pending := by
  simp [State.cancelWatch]
theorem execWatchAnswerArrival_keeps (b : Nat) (s : State) {t : State} (h : (execWatchAnswerArrival b s) = .next t) :
    t.mem = s.mem ∧ t.pending = s.pending := by
  unfold execWatchAnswerArrival at h; (repeat' split at h) <;> first | (cases h; simp; done) | (cases h; done) | (rename_i heq; have kk := State.oldest_keeps (h := heq); cases h; simp at kk; simp [kk])
@[simp] theorem State.endPhase_keeps (s : State) (bid : Nat) (aborted : Bool) :
    (State.endPhase s bid aborted).mem = s.mem ∧ (State.endPhase s bid aborted).pending = s.pending := by
  simp [State.endPhase]
@[simp] theorem State.barArriveAt_keeps (s : State) (p : Participant) (bid ctx : Nat) :
    (State.barArriveAt s p bid ctx).mem = s.mem ∧ (State.barArriveAt s p bid ctx).pending = s.pending := by
  simp [State.barArriveAt]
theorem execBarrierArrival_keeps (src : Endpoint) (s : State) {t : State} (h : (execBarrierArrival src s) = .next t) :
    t.mem = s.mem ∧ t.pending = s.pending := by
  unfold execBarrierArrival at h; (repeat' split at h) <;> first | (cases h; simp; done) | (cases h; done) | (rename_i heq; have kk := State.oldest_keeps (h := heq); cases h; simp at kk; simp [kk])
@[simp] theorem State.barDoneAt_keeps (s : State) (p : Participant) (bid : Nat) (phase : Word32) (aborted : Bool) :
    (State.barDoneAt s p bid phase aborted).mem = s.mem ∧
      (State.barDoneAt s p bid phase aborted).pending = s.pending := by
  unfold State.barDoneAt; (repeat' split) <;> simp
theorem execBarrierCompletionArrival_keeps (b : Nat) (s : State) {t : State} (h :
    (execBarrierCompletionArrival b s) = .next t) :
    t.mem = s.mem ∧ t.pending = s.pending := by
  unfold execBarrierCompletionArrival at h; (repeat' split at h) <;> first | (cases h; simp; done) | (cases h; done) | (rename_i heq; have kk := State.oldest_keeps (h := heq); cases h; simp at kk; simp [kk])
@[simp] theorem State.abortBarrier_keeps (s : State) (bid : Nat) :
    (State.abortBarrier s bid).mem = s.mem ∧ (State.abortBarrier s bid).pending = s.pending := by
  simp [State.abortBarrier]
theorem execAbort_keeps (who : Requester) (bid : Nat) (s : State) {t : State} (h : (execAbort who bid s) = .next t) :
    t.mem = s.mem ∧ t.pending = s.pending := by
  cases h; simp
@[simp] theorem State.syncSt_keeps (s : State) (target index status : Nat) :
    (State.syncSt s target index status).mem = s.mem ∧ (State.syncSt s target index status).pending = s.pending := by
  simp [State.syncSt]
@[simp] theorem State.grantBlock_keeps (s : State) (blk : Nat) :
    (State.grantBlock s blk).mem = s.mem ∧ (State.grantBlock s blk).pending = s.pending := by
  simp [State.grantBlock]
@[simp] theorem State.releaseBlock_keeps (s : State) (blk : Nat) :
    (State.releaseBlock s blk).mem = s.mem ∧ (State.releaseBlock s blk).pending = s.pending := by
  simp [State.releaseBlock]
@[simp] theorem State.writeBlock_keeps (s : State) (blk : Nat) (val : Word64) :
    (State.writeBlock s blk val).mem = s.mem ∧ (State.writeBlock s blk val).pending = s.pending := by
  simp [State.writeBlock]
theorem execPoolBlockWrite_keeps (who : Requester) (blk : Nat) (val : Word64) (s : State) {t : State} (h :
    (execPoolBlockWrite who blk val s) = .next t) :
    t.mem = s.mem ∧ t.pending = s.pending := by
  cases h; simp
@[simp] theorem State.writeBarrier_keeps (s : State) (bid : Nat) (val : Word64) :
    (State.writeBarrier s bid val).mem = s.mem ∧ (State.writeBarrier s bid val).pending = s.pending := by
  simp [State.writeBarrier]
theorem execBarrierConfigWrite_keeps (who : Requester) (bid : Nat) (val : Word64) (s : State) {t : State} (h :
    (execBarrierConfigWrite who bid val s) = .next t) :
    t.mem = s.mem ∧ t.pending = s.pending := by
  cases h; simp
@[simp] theorem State.writeCounter_keeps (s : State) (bore : Option Nat) (n : Nat) (val : Word64) :
    (State.writeCounter s bore n val).mem = s.mem ∧ (State.writeCounter s bore n val).pending = s.pending := by
  unfold State.writeCounter; split <;> simp
theorem execCounterValueWrite_keeps (who : Requester) (bore : Option Nat) (n : Nat) (val : Word64)
    (s : State) {t : State} (h : (execCounterValueWrite who bore n val s) = .next t) :
    t.mem = s.mem ∧ t.pending = s.pending := by
  unfold execCounterValueWrite at h; (repeat' split at h) <;> cases h <;> simp
@[simp] theorem State.writeArm_keeps (s : State) (b n : Nat) (val : Word64) :
    (State.writeArm s b n val).mem = s.mem ∧ (State.writeArm s b n val).pending = s.pending := by
  simp [State.writeArm]
theorem execCounterArmWrite_keeps (who : Requester) (b n : Nat) (val : Word64) (s : State) {t : State} (h :
    (execCounterArmWrite who b n val s) = .next t) :
    t.mem = s.mem ∧ t.pending = s.pending := by
  cases h; simp

/-! ### Ligature -/

@[simp] theorem State.hold_keeps (s : State) (b h : Nat) :
    (State.hold s b h).mem = s.mem ∧ (State.hold s b h).pending = s.pending := by
  simp [State.hold]
@[simp] theorem State.unhold_keeps (s : State) (b h : Nat) :
    (State.unhold s b h).mem = s.mem ∧ (State.unhold s b h).pending = s.pending := by
  simp [State.unhold]
@[simp] theorem State.unholdOpt_keeps (s : State) (b : Nat) (m : Option HMap) :
    (State.unholdOpt s b m).mem = s.mem ∧ (State.unholdOpt s b m).pending = s.pending := by
  unfold State.unholdOpt; split <;> simp
@[simp] theorem State.holdOpt_keeps (s : State) (b : Nat) (m : Option HMap) :
    (State.holdOpt s b m).mem = s.mem ∧ (State.holdOpt s b m).pending = s.pending := by
  unfold State.holdOpt; split <;> simp
@[simp] theorem State.hRead_keeps (s : State) (b : Nat) (m : HMap) (off n : Nat) :
    (State.hRead s b m off n).2.2.mem = s.mem ∧ (State.hRead s b m off n).2.2.pending = s.pending := by
  unfold State.hRead
  refine foldl_inv (fun r : _ × _ × State => r.2.2.mem = s.mem ∧ r.2.2.pending = s.pending) _ _ _ ⟨rfl, rfl⟩ ?_
  rintro ⟨l, p, t⟩ r ⟨h1, h2⟩; dsimp only at h1 h2; simp [h1, h2]
@[simp] theorem State.hWrite_keeps (s : State) (b : Nat) (m : HMap) (off : Nat) (l : List Byte) (pois : Bool) :
    (State.hWrite s b m off l pois).pending = s.pending := by
  simp [State.hWrite]
@[simp] theorem State.hMove_keeps (s : State) (b h dest : Nat) :
    (State.hMove s b h dest).mem = s.mem ∧ (State.hMove s b h dest).pending = s.pending := by
  simp [State.hMove]
@[simp] theorem State.hRelease_keeps (s : State) (b h : Nat) :
    (State.hRelease s b h).mem = s.mem ∧ (State.hRelease s b h).pending = s.pending := by
  simp [State.hRelease]
@[simp] theorem State.hAlloc_keeps (s : State) (b h dest : Nat) (stage mask : Word64) :
    (State.hAlloc s b h dest stage mask).mem = s.mem ∧ (State.hAlloc s b h dest stage mask).pending = s.pending := by
  simp [State.hAlloc]
@[simp] theorem State.hScrub_keeps (s : State) (b h : Nat) :
    (State.hScrub s b h).mem = s.mem ∧ (State.hScrub s b h).pending = s.pending := by
  simp [State.hScrub]
@[simp] theorem State.ligDo_keeps (s : State) (b : Nat) (c : LigCmd) :
    (State.ligDo s b c).1.mem = s.mem ∧ (State.ligDo s b c).1.pending = s.pending := by
  unfold State.ligDo; grind [State.hAlloc_keeps, State.hRelease_keeps, State.hScrub_keeps]
@[simp] theorem State.ligWrite_keeps (s : State) (who : Requester) (b op h : Nat) :
    (State.ligWrite s who b op h).mem = s.mem ∧ (State.ligWrite s who b op h).pending = s.pending := by
  simp [State.ligWrite]
theorem ligCmd_keeps (who : Requester) (b op h : Nat) (s : State) {t : State} (h : (ligCmd who b op h s) = .next t) :
    t.mem = s.mem ∧ t.pending = s.pending := by
  cases h; simp
theorem execAlloc_keeps (who : Requester) (b h : Nat) (s : State) {t : State} (h : (execAlloc who b h s) = .next t) :
    t.mem = s.mem ∧ t.pending = s.pending := by
  cases h; simp
theorem execAllocLock_keeps (who : Requester) (b h : Nat) (s : State) {t : State} (h :
    (execAllocLock who b h s) = .next t) :
    t.mem = s.mem ∧ t.pending = s.pending := by
  cases h; simp
theorem execRelease_keeps (who : Requester) (b h : Nat) (s : State) {t : State} (h :
    (execRelease who b h s) = .next t) :
    t.mem = s.mem ∧ t.pending = s.pending := by
  cases h; simp
theorem execReleaseScrub_keeps (who : Requester) (b h : Nat) (s : State) {t : State} (h :
    (execReleaseScrub who b h s) = .next t) :
    t.mem = s.mem ∧ t.pending = s.pending := by
  cases h; simp
@[simp] theorem State.ligEffect_keeps (s : State) (b : Nat) :
    (State.ligEffect s b).mem = s.mem ∧ (State.ligEffect s b).pending = s.pending := by
  dsimp only [State.ligEffect]; (repeat' split) <;> simp
theorem execHandleCommandEffect_keeps (b : Nat) (s : State) {t : State} (h : (execHandleCommandEffect b s) = .next t) :
    t.mem = s.mem ∧ t.pending = s.pending := by
  unfold execHandleCommandEffect at h; split at h <;> cases h <;> simp
@[simp] theorem State.ligRm_keeps (s : State) (b op h : Nat) (stage mask : Word64) :
    (State.ligRm s b op h stage mask).mem = s.mem ∧ (State.ligRm s b op h stage mask).pending = s.pending := by
  simp [State.ligRm]
theorem execScrubStart_keeps (b : Nat) (s : State) {t : State} (h : (execScrubStart b s) = .next t) :
    t.mem = s.mem ∧ t.pending = s.pending := by
  dsimp only [execScrubStart, ok] at h; (repeat' split at h) <;> (try injection h with h) <;> (try subst h) <;> first | contradiction | simp | simp_all
@[simp] theorem State.scrubLines_keeps (s : State) (b : Nat) (m : HMap) (a3 : Nat) :
    (State.scrubLines s b m a3).pending = s.pending := by
  induction a3 with
  | zero => exact rfl
  | succ k ih => rw [State.scrubLines]; simp only [State.store_keeps]; exact ih
theorem execScrubEnd_keeps (b : Nat) (s : State) {t : State} (h : (execScrubEnd b s) = .next t) :
    t.pending = s.pending := by
  unfold execScrubEnd ok at h; grind [State.hRelease_keeps, State.scrubLines_keeps, State.upLig_keeps]
@[simp] theorem State.ligReset_keeps (s : State) (b : Nat) :
    (State.ligReset s b).mem = s.mem ∧ (State.ligReset s b).pending = s.pending := by
  simp [State.ligReset]
@[simp] theorem State.wchClearAll_keeps (s : State) (b : Nat) :
    (State.wchClearAll s b).mem = s.mem ∧ (State.wchClearAll s b).pending = s.pending := by
  simp [State.wchClearAll]
theorem execWchClear_keeps (who : Requester) (b : Nat) (s : State) {t : State} (h : (execWchClear who b s) = .next t) :
    t.mem = s.mem ∧ t.pending = s.pending := by
  cases h; simp
theorem execWchFreeze_keeps (who : Requester) (b : Nat) (v : Bool) (s : State) {t : State} (h :
    (execWchFreeze who b v s) = .next t) :
    t.mem = s.mem ∧ t.pending = s.pending := by
  cases h; simp

/-! ### Translate -/

@[simp] theorem State.walkEntry_keeps (s : State) (a : Nat) :
    (State.walkEntry s a).2.mem = s.mem ∧ (State.walkEntry s a).2.pending = s.pending := by
  unfold State.walkEntry; split <;> simp
@[simp] theorem State.walkLevel_keeps (s : State) (ctx level key a : Nat) :
    (State.walkLevel s ctx level key a).2.mem = s.mem ∧ (State.walkLevel s ctx level key a).2.pending = s.pending := by
  unfold State.walkLevel; grind [State.walkEntry_keeps]
@[simp] theorem State.xlate_keeps (s : State) (ctx : Nat) (write : Bool) (ca : Nat) :
    (State.xlate s ctx write ca).2.mem = s.mem ∧ (State.xlate s ctx write ca).2.pending = s.pending := by
  unfold State.xlate; grind [State.walkLevel_keeps]
@[simp] theorem State.dropTlb_keeps (s : State) (ctx : Nat) :
    (State.dropTlb s ctx).mem = s.mem ∧ (State.dropTlb s ctx).pending = s.pending := by
  simp [State.dropTlb]
@[simp] theorem State.freeBytes_keeps (s : State) (a1 : Nat) :
    (State.freeBytes s a1).2.mem = s.mem ∧ (State.freeBytes s a1).2.pending = s.pending := by
  induction a1 generalizing s with
  | zero => exact ⟨rfl, rfl⟩
  | succ k ih => simp [State.freeBytes, ih]
@[simp] theorem State.hostFetch_keeps (s : State) (c h n : Nat) :
    (State.hostFetch s c h n).2.2.mem = s.mem ∧ (State.hostFetch s c h n).2.2.pending = s.pending := by
  dsimp only [State.hostFetch]; (repeat' split) <;> simp
@[simp] theorem State.devRead_keeps (s : State) (c a n : Nat) :
    (State.devRead s c a n).2.2.mem = s.mem ∧ (State.devRead s c a n).2.2.pending = s.pending := by
  dsimp only [State.devRead]; (repeat' split) <;> simp
@[simp] theorem State.devWrite_keeps (s : State) (c a : Nat) (l : List (Byte × Bool)) :
    (State.devWrite s c a l).2.pending = s.pending := by
  dsimp only [State.devWrite]; (repeat' split) <;> simp
@[simp] theorem State.spaceAddr_keeps (s : State) (sp : Space) (write : Bool) (a : Nat) :
    (State.spaceAddr s sp write a).2.mem = s.mem ∧ (State.spaceAddr s sp write a).2.pending = s.pending := by
  unfold State.spaceAddr; split <;> simp
@[simp] theorem State.spaceRead_keeps (s : State) (sp : Space) (a n : Nat) :
    (State.spaceRead s sp a n).2.2.mem = s.mem ∧ (State.spaceRead s sp a n).2.2.pending = s.pending := by
  unfold State.spaceRead
  refine foldl_inv (fun r : _ × _ × State => r.2.2.mem = s.mem ∧ r.2.2.pending = s.pending) _ _ _ ⟨rfl, rfl⟩ ?_
  rintro ⟨st, l, t⟩ r ⟨h1, h2⟩
  have k := State.spaceAddr_keeps t sp false r.1
  dsimp only
  (repeat' split) <;> simp_all
@[simp] theorem State.spaceWrite_keeps (s : State) (sp : Space) (a : Nat) (l : List (Byte × Bool)) :
    (State.spaceWrite s sp a l).2.pending = s.pending := by
  unfold State.spaceWrite
  refine foldl_inv (fun r : _ × State => r.2.pending = s.pending) _ _ _ rfl ?_
  rintro ⟨st, t⟩ r h1
  have k := State.spaceAddr_keeps t sp true r.1
  dsimp only
  (repeat' split) <;> simp_all
@[simp] theorem State.hubWrite_keeps (s : State) (sp : Space) (a : Nat) (l : List Byte) :
    (State.hubWrite s sp a l).2.pending = s.pending := by
  simp [State.hubWrite]
@[simp] theorem State.contextFault_keeps (s : State) (src c : Nat) (write : Bool) (a : Nat) (st : AccStatus) :
    (State.contextFault s src c write a st).mem = s.mem ∧ (State.contextFault s src c write a st).pending = s.pending := by
  simp [State.contextFault]

end Sys2Proof.Machine
end

