-- ==== Sys2Proof/Laws/Table.lean ====
section
/-!
SUPPORT. Laws/Table.lean: the laws of sparse tables, registers, fields and memory: a read after a write, and the
canonical form.
-/

namespace Sys2Proof.Machine

/-! ### Sparse tables -/

theorem mget_minsert {α : Type} (d : α) (k : Nat) (v : α) (m : Map α) (k' : Nat) (h : ∀ x ∈ m, x.1 ≠ k) :
    mget d (minsert k v m) k' = if k' = k then v else mget d m k' := by
  induction m with
  | nil => simp [minsert, mget]
  | cons x m ih =>
    have hx : x.1 ≠ k := h x (by simp)
    have ih := ih fun y hy => h y (by simp [hy])
    unfold minsert
    split
    · simp [mget]
    · simp only [mget, ih]
      by_cases h1 : k' = x.1
      · subst h1; simp [hx]
      · simp [h1]

theorem mget_filter_ne {α : Type} (d : α) (k : Nat) (m : Map α) (k' : Nat) :
    mget d (m.filter fun x => x.1 ≠ k) k' = if k' = k then d else mget d m k' := by
  induction m with
  | nil => simp [mget]
  | cons x m ih =>
    by_cases hx : x.1 = k
    · simp only [List.filter_cons, hx, ne_eq, not_true_eq_false, decide_false, Bool.false_eq_true, if_false, mget]
      simp only [ne_eq] at ih
      rw [ih]; split <;> simp_all
    · simp only [List.filter_cons, hx, ne_eq, not_false_eq_true, decide_true, if_true, mget]
      simp only [ne_eq] at ih
      rw [ih]
      by_cases h1 : k' = x.1
      · subst h1; simp [hx]
      · simp [h1]

/-- A write in one piece: the other entries, and the new one where it is not the default. -/
theorem mput_eq {α : Type} [DecidableEq α] (d : α) (m : Map α) (k : Nat) (v : α) :
    mput d m k v = if v = d then m.filter fun x => x.1 ≠ k else minsert k v (m.filter fun x => x.1 ≠ k) := by
  unfold mput
  cases m.filter fun x => x.1 ≠ k <;> simp [minsert]

/-- A read after a write. -/
theorem mget_mput {α : Type} [DecidableEq α] (d : α) (m : Map α) (k : Nat) (v : α) (k' : Nat) :
    mget d (mput d m k v) k' = if k' = k then v else mget d m k' := by
  rw [mput_eq]
  split
  · rename_i hv; simp only [mget_filter_ne, hv]
  · rw [mget_minsert _ _ _ _ _ (by simp), mget_filter_ne]; split <;> simp_all

@[simp] theorem mget_mput_self {α : Type} [DecidableEq α] (d : α) (m : Map α) (k : Nat) (v : α) :
    mget d (mput d m k v) k = v := by simp [mget_mput]

theorem mget_mput_ne {α : Type} [DecidableEq α] (d : α) (m : Map α) {k k' : Nat} (v : α) (h : k' ≠ k) :
    mget d (mput d m k v) k' = mget d m k' := by simp [mget_mput, h]

theorem minsert_mem {α : Type} {k : Nat} {v : α} {m : Map α} {x : Nat × α} (h : x ∈ minsert k v m) :
    x = (k, v) ∨ x ∈ m := by
  induction m with
  | nil => simp_all [minsert]
  | cons y m ih =>
    unfold minsert at h
    split at h
    · simp_all
    · simp only [List.mem_cons] at h ⊢
      rcases h with h | h
      · exact .inr (.inl h)
      · rcases ih h with h | h
        · exact .inl h
        · exact .inr (.inr h)

theorem minsert_rising {α : Type} (k : Nat) (v : α) (m : Map α) (hm : m.Pairwise fun x y => x.1 < y.1)
    (hk : ∀ x ∈ m, x.1 ≠ k) : (minsert k v m).Pairwise fun x y => x.1 < y.1 := by
  induction m with
  | nil => simp [minsert]
  | cons x m ih =>
    have hx : x.1 ≠ k := hk x (by simp)
    rw [List.pairwise_cons] at hm
    unfold minsert
    split
    · rename_i hlt
      rw [List.pairwise_cons, List.pairwise_cons]
      refine ⟨fun y hy => ?_, hm⟩
      rcases List.mem_cons.1 hy with rfl | hy
      · exact hlt
      · exact Nat.lt_trans hlt (hm.1 y hy)
    · rw [List.pairwise_cons]
      refine ⟨fun y hy => ?_, ih hm.2 fun y hy => hk y (by simp [hy])⟩
      rcases minsert_mem hy with rfl | hy
      · show x.1 < k; omega
      · exact hm.1 y hy

/-- A write keeps the canonical form. -/
theorem mwf_mput {α : Type} [DecidableEq α] (d : α) (m : Map α) (k : Nat) (v : α) (h : mwf d m = true) :
    mwf d (mput d m k v) = true := by
  simp only [mwf, Bool.and_eq_true, decide_eq_true_eq, List.all_eq_true] at h ⊢
  have hf : (m.filter fun x => x.1 ≠ k).Pairwise fun x y => x.1 < y.1 := h.1.filter _
  rw [mput_eq]
  split
  · exact ⟨hf, fun x hx => h.2 x (List.mem_of_mem_filter hx)⟩
  · rename_i hv
    refine ⟨minsert_rising _ _ _ hf (by simp), fun x hx => ?_⟩
    rcases minsert_mem hx with rfl | hx
    · simpa using hv
    · exact h.2 x (List.mem_of_mem_filter hx)

/-- Dropping entries keeps the canonical form. -/
theorem mwf_filter {α : Type} [DecidableEq α] (d : α) (m : Map α) (p : Nat × α → Bool) (h : mwf d m = true) :
    mwf d (m.filter p) = true := by
  simp only [mwf, Bool.and_eq_true, decide_eq_true_eq, List.all_eq_true] at h ⊢
  exact ⟨h.1.filter _, fun x hx => h.2 x (List.mem_of_mem_filter hx)⟩

/-! ### Memory -/

theorem Memory.wf_memPut (l : List Byte) (m : Map Byte) (a : Nat) (h : Memory.wf m = true) :
    Memory.wf (memPut m a l) = true := by
  induction l generalizing m a with
  | nil => exact h
  | cons x l ih => exact ih _ _ (mwf_mput 0 m a x h)

/-- Writing bytes keeps the canonical form of memory. -/
theorem Memory.wf_setBytes (s : State) (a : Nat) (l : List Byte) (h : Memory.wf s.mem = true) :
    Memory.wf (s.setBytes a l).mem = true := Memory.wf_memPut l s.mem a h

theorem Memory.wf_filter (m : Map Byte) (p : Nat × Byte → Bool) (h : Memory.wf m = true) :
    Memory.wf (m.filter p) = true := mwf_filter 0 m p h

theorem mget_memPut (l : List Byte) (m : Map Byte) (a x : Nat) :
    mget 0 (memPut m a l) x = if a ≤ x ∧ x < a + l.length then l.getD (x - a) 0 else mget 0 m x := by
  induction l generalizing m a with
  | nil =>
    have : ¬(a ≤ x ∧ x < a + ([] : List Byte).length) := by simp only [List.length_nil]; omega
    rw [if_neg this, memPut]
  | cons b l ih =>
    rw [memPut, ih, mget_mput]
    by_cases h1 : x = a
    · subst h1
      simp
    · by_cases h2 : a + 1 ≤ x ∧ x < a + 1 + l.length
      · have h3 : a ≤ x ∧ x < a + (b :: l).length := by simp only [List.length_cons]; omega
        rw [if_pos h2, if_pos h3]
        obtain ⟨n, hn⟩ : ∃ n, x - a = n + 1 := ⟨x - a - 1, by omega⟩
        have : x - (a + 1) = n := by omega
        simp [this, hn]
      · have h3 : ¬(a ≤ x ∧ x < a + (b :: l).length) := by simp only [List.length_cons]; omega
        rw [if_neg h2, if_neg h1, if_neg h3]

/-- The bytes written read back, and every other byte stands. -/
theorem State.byteAt_setBytes (s : State) (a : Nat) (l : List Byte) (x : Nat) :
    (s.setBytes a l).byteAt x = if a ≤ x ∧ x < a + l.length then l.getD (x - a) 0 else s.byteAt x :=
  mget_memPut l s.mem a x

/-! ### Registers and fields -/

/-- A register reads as it was written. -/
@[simp] theorem State.rget_rput_self (s : State) (r : Reg) (v : Word64) (i j : Nat) : (s.rput r v i j).rget r i j = v := by
  simp [State.rget, State.rput]

theorem mget_mput_other {α : Type} [DecidableEq α] (d d' : α) (m : Map α) {k k' : Nat} (v : α) (h : k' ≠ k) :
    mget d' (mput d m k v) k' = mget d' m k' := by
  have hf : ∀ m : Map α, mget d' (m.filter fun x => x.1 ≠ k) k' = mget d' m k' := fun m => by
    rw [mget_filter_ne, if_neg h]
  rw [mput_eq]
  split
  · exact hf m
  · rw [mget_minsert _ _ _ _ _ (by simp), if_neg h, hf]

/-- A write leaves every other register alone. -/
theorem State.rget_rput_key (s : State) (r r' : Reg) (v : Word64) (i j i' j' : Nat)
    (h : regKey r' i' j' ≠ regKey r i j) : (s.rput r v i j).rget r' i' j' = s.rget r' i' j' := by
  simp only [State.rget, State.rput]; exact mget_mput_other _ _ _ _ h

theorem Reg.ctorIdx_inj {r r' : Reg} (h : r.ctorIdx = r'.ctorIdx) : r = r' := by
  rw [← Reg.ofNat_ctorIdx r, ← Reg.ofNat_ctorIdx r', h]

/-- Registers of units that exist have keys of their own. -/
theorem regKey_inj {r r' : Reg} {i i' j j' : Nat} (hi : i < 256) (hi' : i' < 256) (hj : j < 65536) (hj' : j' < 65536) :
    regKey r i j = regKey r' i' j' ↔ r = r' ∧ i = i' ∧ j = j' := by
  constructor
  · intro h
    simp only [regKey] at h
    have h1 : r.ctorIdx = r'.ctorIdx := by omega
    exact ⟨Reg.ctorIdx_inj h1, by omega, by omega⟩
  · rintro ⟨rfl, rfl, rfl⟩; rfl

/-- A write leaves every other register of the units that exist alone. -/
theorem State.rget_rput_ne (s : State) {r r' : Reg} (v : Word64) {i j i' j' : Nat} (hi : i < 256) (hi' : i' < 256)
    (hj : j < 65536) (hj' : j' < 65536) (h : r' ≠ r ∨ i' ≠ i ∨ j' ≠ j) :
    (s.rput r v i j).rget r' i' j' = s.rget r' i' j' :=
  s.rget_rput_key r r' v i j i' j' (by rw [Ne, regKey_inj hi' hi hj' hj]; tauto)

theorem bits_lt (v lo w : Nat) : bits v lo w < 2 ^ w := Nat.mod_lt _ (Nat.two_pow_pos w)

theorem setBits_eq (v lo w x : Nat) :
    setBits v lo w x = v % 2 ^ lo + (x % 2 ^ w) * 2 ^ lo + v / 2 ^ (lo + w) * 2 ^ (lo + w) := by
  have h1 : v / 2 ^ lo / 2 ^ w = v / 2 ^ (lo + w) := by rw [Nat.div_div_eq_div_mul, ← Nat.pow_add]
  have h2 := Nat.div_add_mod v (2 ^ lo)
  have h3 := Nat.div_add_mod (v / 2 ^ lo) (2 ^ w)
  have h4 : v = 2 ^ lo * (2 ^ w * (v / 2 ^ (lo + w)) + v / 2 ^ lo % 2 ^ w) + v % 2 ^ lo := by rw [← h1, h3, h2]
  have h5 : 2 ^ (lo + w) = 2 ^ lo * 2 ^ w := Nat.pow_add ..
  unfold setBits bits
  rw [Nat.mul_comm (2 ^ lo) (v / 2 ^ lo % 2 ^ w), Nat.mul_comm (2 ^ lo) (x % 2 ^ w)]
  generalize v / 2 ^ lo % 2 ^ w = m at *
  generalize v / 2 ^ (lo + w) = q at *
  generalize v % 2 ^ lo = r at *
  rw [h5]
  have h6 : v = m * 2 ^ lo + (r + q * (2 ^ lo * 2 ^ w)) := by rw [h4]; ring
  rw [h6]; generalize m * 2 ^ lo = a; generalize q * (2 ^ lo * 2 ^ w) = b; generalize x % 2 ^ w * 2 ^ lo = c; omega

theorem setBits_lt (v lo w x n : Nat) (hv : v < 2 ^ n) (h : lo + w ≤ n) : setBits v lo w x < 2 ^ n := by
  rw [setBits_eq]
  have h1 : v / 2 ^ (lo + w) < 2 ^ (n - (lo + w)) := by
    rw [Nat.div_lt_iff_lt_mul (Nat.two_pow_pos _), ← Nat.pow_add, Nat.sub_add_cancel h]; exact hv
  have h2 : x % 2 ^ w < 2 ^ w := Nat.mod_lt _ (Nat.two_pow_pos w)
  have h3 : v % 2 ^ lo < 2 ^ lo := Nat.mod_lt _ (Nat.two_pow_pos lo)
  have h4 : 2 ^ n = 2 ^ (n - (lo + w)) * 2 ^ (lo + w) := by rw [← Nat.pow_add, Nat.sub_add_cancel h]
  have h5 : (x % 2 ^ w + 1) * 2 ^ lo ≤ 2 ^ w * 2 ^ lo := Nat.mul_le_mul_right _ h2
  have h6 : (v / 2 ^ (lo + w) + 1) * 2 ^ (lo + w) ≤ 2 ^ (n - (lo + w)) * 2 ^ (lo + w) := Nat.mul_le_mul_right _ h1
  have h7 : 2 ^ (lo + w) = 2 ^ w * 2 ^ lo := by rw [Nat.pow_add, Nat.mul_comm]
  rw [h4]
  rw [Nat.add_mul] at h5 h6
  omega

/-- The bits set read back. -/
theorem bits_setBits (v lo w x : Nat) : bits (setBits v lo w x) lo w = x % 2 ^ w := by
  have h3 : v % 2 ^ lo < 2 ^ lo := Nat.mod_lt _ (Nat.two_pow_pos lo)
  rw [setBits_eq, bits]
  have : v % 2 ^ lo + x % 2 ^ w * 2 ^ lo + v / 2 ^ (lo + w) * 2 ^ (lo + w)
      = v % 2 ^ lo + 2 ^ lo * (x % 2 ^ w + 2 ^ w * (v / 2 ^ (lo + w))) := by rw [Nat.pow_add]; ring
  rw [this, Nat.add_mul_div_left _ _ (Nat.two_pow_pos lo), Nat.div_eq_of_lt h3, Nat.zero_add, Nat.add_mul_mod_self_left,
    Nat.mod_mod]

theorem testBit_setBits (v lo w x n : Nat) :
    (setBits v lo w x).testBit n = if lo ≤ n ∧ n < lo + w then x.testBit (n - lo) else v.testBit n := by
  have h3 : v % 2 ^ lo < 2 ^ lo := Nat.mod_lt _ (Nat.two_pow_pos lo)
  have h2 : x % 2 ^ w < 2 ^ w := Nat.mod_lt _ (Nat.two_pow_pos w)
  have e : setBits v lo w x = 2 ^ lo * (2 ^ w * (v / 2 ^ (lo + w)) + x % 2 ^ w) + v % 2 ^ lo := by
    rw [setBits_eq, Nat.pow_add]; ring
  rw [e, Nat.testBit_two_pow_mul_add _ h3]
  by_cases h : n < lo
  · have : ¬(lo ≤ n ∧ n < lo + w) := by omega
    rw [if_pos h, if_neg this, Nat.testBit_mod_two_pow]; simp [h]
  · rw [if_neg h, Nat.testBit_two_pow_mul_add _ h2]
    by_cases h' : n - lo < w
    · have : lo ≤ n ∧ n < lo + w := by omega
      rw [if_pos h', if_pos this, Nat.testBit_mod_two_pow]; simp [h']
    · have : ¬(lo ≤ n ∧ n < lo + w) := by omega
      rw [if_neg h', if_neg this, Nat.testBit_div_two_pow]; congr 1; omega

theorem testBit_bits (v lo w n : Nat) : (bits v lo w).testBit n = (decide (n < w) && v.testBit (lo + n)) := by
  rw [bits, Nat.testBit_mod_two_pow, Nat.testBit_div_two_pow]; congr 2; omega

/-- Bits outside those set stand. -/
theorem bits_setBits_disj (v lo w x lo' w' : Nat) (h : lo' + w' ≤ lo ∨ lo + w ≤ lo') :
    bits (setBits v lo w x) lo' w' = bits v lo' w' := by
  apply Nat.eq_of_testBit_eq
  intro n
  rw [testBit_bits, testBit_bits, testBit_setBits]
  by_cases hn : n < w'
  · have : ¬(lo ≤ lo' + n ∧ lo' + n < lo + w) := by omega
    rw [if_neg this]
  · simp [hn]

theorem State.rget_fput_self (s : State) (f : Field) (v i j : Nat) (h : f.lo + f.w ≤ 64) :
    ((s.fput f v i j).rget f.reg i j).toNat = setBits (s.rget f.reg i j).toNat f.lo f.w v := by
  rw [State.fput, State.rget_rput_self, BitVec.toNat_ofNat]
  exact Nat.mod_eq_of_lt (setBits_lt _ _ _ _ _ (s.rget f.reg i j).isLt h)

/-- A field reads as it was set, modulo its width. -/
theorem State.fget_fput_self (s : State) (f : Field) (v i j : Nat) (h : f.lo + f.w ≤ 64) :
    (s.fput f v i j).fget f i j = v % 2 ^ f.w := by
  rw [State.fget, s.rget_fput_self f v i j h, bits_setBits]

/-- Setting a field leaves another field of the same register alone. -/
theorem State.fget_fput_disj (s : State) (f g : Field) (v i j : Nat) (hr : g.reg = f.reg) (h : f.lo + f.w ≤ 64)
    (hd : g.lo + g.w ≤ f.lo ∨ f.lo + f.w ≤ g.lo) : (s.fput f v i j).fget g i j = s.fget g i j := by
  rw [State.fget, State.fget, hr, s.rget_fput_self f v i j h, bits_setBits_disj _ _ _ _ _ _ hd]

/-- Setting a field leaves every other register of the units that exist alone. -/
theorem State.rget_fput_ne (s : State) (f : Field) {r : Reg} (v : Nat) {i j i' j' : Nat} (hi : i < 256) (hi' : i' < 256)
    (hj : j < 65536) (hj' : j' < 65536) (h : r ≠ f.reg ∨ i' ≠ i ∨ j' ≠ j) :
    (s.fput f v i j).rget r i' j' = s.rget r i' j' := s.rget_rput_ne _ hi hi' hj hj' h

theorem State.fget_fput_ne (s : State) (f g : Field) (v : Nat) {i j i' j' : Nat} (hi : i < 256) (hi' : i' < 256)
    (hj : j < 65536) (hj' : j' < 65536) (h : g.reg ≠ f.reg ∨ i' ≠ i ∨ j' ≠ j) :
    (s.fput f v i j).fget g i' j' = s.fget g i' j' := by
  rw [State.fget, State.fget, s.rget_fput_ne f v hi hi' hj hj' h]

theorem State.fget_rput_ne (s : State) (r : Reg) (g : Field) (v : Word64) {i j i' j' : Nat} (hi : i < 256) (hi' : i' < 256)
    (hj : j < 65536) (hj' : j' < 65536) (h : g.reg ≠ r ∨ i' ≠ i ∨ j' ≠ j) :
    (s.rput r v i j).fget g i' j' = s.fget g i' j' := by
  rw [State.fget, State.fget, s.rget_rput_ne v hi hi' hj hj' h]

/-- The same where the registers differ. -/
theorem State.fget_fput_reg (s : State) (f g : Field) (v : Nat) {i j i' j' : Nat} (h : g.reg ≠ f.reg) (hi : i < 256)
    (hi' : i' < 256) (hj : j < 65536) (hj' : j' < 65536) : (s.fput f v i j).fget g i' j' = s.fget g i' j' :=
  s.fget_fput_ne f g v hi hi' hj hj' (.inl h)

theorem State.rget_fput_reg (s : State) (f : Field) {r : Reg} (v : Nat) {i j i' j' : Nat} (h : r ≠ f.reg) (hi : i < 256)
    (hi' : i' < 256) (hj : j < 65536) (hj' : j' < 65536) : (s.fput f v i j).rget r i' j' = s.rget r i' j' :=
  s.rget_fput_ne f v hi hi' hj hj' (.inl h)

theorem State.rget_rput_reg (s : State) {r r' : Reg} (v : Word64) {i j i' j' : Nat} (h : r' ≠ r) (hi : i < 256)
    (hi' : i' < 256) (hj : j < 65536) (hj' : j' < 65536) : (s.rput r v i j).rget r' i' j' = s.rget r' i' j' :=
  s.rget_rput_ne v hi hi' hj hj' (.inl h)

theorem State.fget_rput_reg (s : State) (r : Reg) (g : Field) (v : Word64) {i j i' j' : Nat} (h : g.reg ≠ r) (hi : i < 256)
    (hi' : i' < 256) (hj : j < 65536) (hj' : j' < 65536) : (s.rput r v i j).fget g i' j' = s.fget g i' j' :=
  s.fget_rput_ne r g v hi hi' hj hj' (.inl h)

@[simp] theorem State.fget_rput_self (s : State) (g : Field) (v : Word64) (i j : Nat) :
    (s.rput g.reg v i j).fget g i j = bits v.toNat g.lo g.w := by rw [State.fget, State.rget_rput_self]

theorem State.fget_lt (s : State) (f : Field) (i j : Nat) : s.fget f i j < 2 ^ f.w := bits_lt ..

end Sys2Proof.Machine
end

