-- ==== Sys2Proof/Laws/CanonicalCore.lean ====
section
/-!
SUPPORT. Laws/CanonicalCore.lean: the named operations, memory, queues, synchronisation and ligature tables: the operations and commands that write memory keep it in its canonical form.
-/

namespace Sys2Proof.Machine

/-! ### Ops -/

theorem mem_wf_ite (c : Prop) [Decidable c] (a b : Map Byte) (ha : Memory.wf a = true) (hb : Memory.wf b = true) :
    Memory.wf (if c then a else b) = true := by split <;> assumption
theorem state_wf_ite (c : Prop) [Decidable c] (a b : State) (ha : Memory.wf a.mem = true)
    (hb : Memory.wf b.mem = true) :
    Memory.wf (if c then a else b).mem = true := by split <;> assumption
theorem foldl_wf {α : Type} (f : State → α → State) (l : List α) (s : State)
    (h : ∀ s x, Memory.wf s.mem = true → Memory.wf (f s x).mem = true) (k : Memory.wf s.mem = true) :
    Memory.wf (l.foldl f s).mem = true := foldl_inv (fun s : State => Memory.wf s.mem = true) f l s k h
theorem each_wf (s : State) (l : List Nat) (f : State → Nat → State)
    (h : ∀ s x, Memory.wf s.mem = true → Memory.wf (f s x).mem = true) (k : Memory.wf s.mem = true) :
    Memory.wf (s.each l f).mem = true := foldl_wf f l s h k

/-! ### Events -/

theorem when_wf (c : Bool) (s t : State) (k : Memory.wf s.mem = true) (h : Memory.wf t.mem = true) :
    Memory.wf (when c s t).mem = true := by
  unfold when; split <;> assumption

/-! ### Mem -/

theorem hubReg_wf (s : State) (may : Bool) (t : State) (k : Memory.wf s.mem = true) (h : Memory.wf t.mem = true) :
    Memory.wf (s.hubReg may t).mem = true := by unfold State.hubReg; split <;> assumption
theorem drnReg_wf (s : State) (may : Bool) (t : State) (k : Memory.wf s.mem = true) (h : Memory.wf t.mem = true) :
    Memory.wf (s.drnReg may t).mem = true := by unfold State.drnReg; split <;> assumption
theorem regAccess_wf (s : State) (who : Requester) (b : Nat) (v may : Bool) (t : State) (k : Memory.wf s.mem = true)
    (h : Memory.wf t.mem = true) : Memory.wf (s.regAccess who b v may t).mem = true := by
  unfold State.regAccess; (repeat' split) <;> first | assumption | simpa using h | simpa using k
theorem State.setBytes_wf (s : State) (a : Nat) (l : List Byte) (hwf : Memory.wf s.mem = true) :
    Memory.wf (State.setBytes s a l).mem = true := by
  exact Memory.wf_setBytes s a l hwf
theorem State.storeP_wf (s : State) (a : Nat) (l : List (Byte × Bool)) (hwf : Memory.wf s.mem = true) :
    Memory.wf (State.storeP s a l).mem = true := by
  simp [State.storeP, hwf, State.setBytes_wf]
theorem State.store_wf (s : State) (a : Nat) (l : List Byte) (pois : Bool) (hwf : Memory.wf s.mem = true) :
    Memory.wf (State.store s a l pois).mem = true := by
  simp [State.store, hwf, State.storeP_wf]

/-! ### Ligature -/

theorem State.hWrite_wf (s : State) (b : Nat) (m : HMap) (off : Nat) (l : List Byte) (pois : Bool)
    (hwf : Memory.wf s.mem = true) :
    Memory.wf (State.hWrite s b m off l pois).mem = true := by
  unfold State.hWrite
  exact foldl_wf _ _ _ (fun s r h => by simp [State.store_wf, h]) hwf
theorem State.scrubLines_wf (s : State) (b : Nat) (m : HMap) (a3 : Nat) (hwf : Memory.wf s.mem = true) :
    Memory.wf (State.scrubLines s b m a3).mem = true := by
  induction a3 with
  | zero => exact hwf
  | succ n ih => rw [State.scrubLines]; exact State.store_wf _ _ _ _ ih
theorem execScrubEnd_wf (b : Nat) (s : State) (hwf : Memory.wf s.mem = true) {t : State} (h :
    (execScrubEnd b s) = .next t) :
    Memory.wf t.mem = true := by
  unfold execScrubEnd at h; dsimp only [ok] at h; (repeat' split at h) <;> cases h <;> simp [hwf, State.scrubLines_wf]

/-! ### Translate -/

theorem State.devWrite_wf (s : State) (c a : Nat) (l : List (Byte × Bool)) (hwf :
    Memory.wf s.mem = true) : Memory.wf (State.devWrite s c a l).2.mem = true := by
  dsimp only [State.devWrite]; (repeat' split) <;> simp [hwf, State.storeP_wf]
theorem State.spaceWrite_wf (s : State) (sp : Space) (a : Nat) (l : List (Byte × Bool)) (hwf : Memory.wf s.mem = true) :
    Memory.wf (State.spaceWrite s sp a l).2.mem = true := by
  unfold State.spaceWrite
  refine foldl_inv (fun r : _ × State => Memory.wf r.2.mem = true) _ _ _ hwf ?_
  rintro ⟨st, t⟩ r h1
  have k := State.spaceAddr_keeps t sp true r.1
  dsimp only at h1 ⊢
  split
  · exact h1
  · split
    · rename_i heq; rw [heq] at k; simp at k; simp [k, h1]
    · rename_i heq; rw [heq] at k; simp at k
      split
      · exact State.storeP_wf _ _ _ (by simp [k, h1])
      · exact State.devWrite_wf _ _ _ _ (by simp [k, h1])
theorem State.hubWrite_wf (s : State) (sp : Space) (a : Nat) (l : List Byte) (hwf : Memory.wf s.mem = true) :
    Memory.wf (State.hubWrite s sp a l).2.mem = true := by
  simp [State.hubWrite, hwf, State.spaceWrite_wf]

end Sys2Proof.Machine
end

