-- ==== Sys2Proof/Laws/KeepsBore.lean ====
section
/-!
SUPPORT. Laws/KeepsBore.lean: what runs in a bore, and the windway: the operations and commands that leave memory as it is, and that all
leave the queue as it is.
-/

namespace Sys2Proof.Machine

/-! ### Tensor -/

@[simp] theorem Pass.read_keeps (p : Pass) (sp : Space) (ov : List Nat) (a n : Nat) :
    (Pass.read p sp ov a n).2.s.mem = p.s.mem ∧ (Pass.read p sp ov a n).2.s.pending = p.s.pending := by
  unfold Pass.read
  have k := State.spaceRead_keeps p.s sp a n
  split
  · exact ⟨rfl, rfl⟩
  · split
    all_goals (rename_i heq; rw [heq] at k)
    iterate 2
      refine foldl_inv (fun q : _ × Pass => q.2.s.mem = p.s.mem ∧ q.2.s.pending = p.s.pending) _ _ _ k ?_
      rintro ⟨l, q⟩ i ⟨h1, h2⟩
      have k2 := State.spaceAddr_keeps q.s sp false (a + i)
      dsimp only
      (repeat' split) <;> simp_all
    exact k
@[simp] theorem Pass.elemBits_keeps (p : Pass) (t : Tensor) (ov : List Nat) (row i0 : Nat) :
    (Pass.elemBits p t ov row i0).2.2.s.mem = p.s.mem ∧ (Pass.elemBits p t ov row i0).2.2.s.pending = p.s.pending := by
  unfold Pass.elemBits; split <;> simp
@[simp] theorem Pass.elem_keeps (p : Pass) (t : Tensor) (ov : List Nat) (i0 i1 i2 i3 : Nat) :
    (Pass.elem p t ov i0 i1 i2 i3).2.2.s.mem = p.s.mem ∧
      (Pass.elem p t ov i0 i1 i2 i3).2.2.s.pending = p.s.pending := by
  unfold Pass.elem; split <;> simp
@[simp] theorem Pass.deliver_keeps (p : Pass) (t : Tensor) (ov : List Nat) (i0 i1 i2 i3 : Nat) :
    (Pass.deliver p t ov i0 i1 i2 i3).2.2.s.mem = p.s.mem ∧
      (Pass.deliver p t ov i0 i1 i2 i3).2.2.s.pending = p.s.pending := by
  unfold Pass.deliver; grind [Pass.elem_keeps]
@[simp] theorem State.countCvt_keeps (s : State) (b : Nat) (c : CvtCount) :
    (State.countCvt s b c).mem = s.mem ∧ (State.countCvt s b c).pending = s.pending := by
  simp [State.countCvt]
@[simp] theorem Pass.write_keeps (p : Pass) (sp : Space) (l : List Item) :
    (Pass.write p sp l).s.pending = p.s.pending := by
  unfold Pass.write
  refine foldl_inv (fun q : Pass => q.s.pending = p.s.pending) _ _ _ rfl ?_
  rintro q x h1
  have k := State.spaceWrite_keeps q.s sp x.addr x.data
  (repeat' split) <;> simp_all
@[simp] theorem Pass.readRow_keeps (p : Pass) (src : Tensor) (ov : List Nat) (r : Nat × Nat × Nat) (n : Nat) :
    (Pass.readRow p src ov r n).2.s.mem = p.s.mem ∧ (Pass.readRow p src ov r n).2.s.pending = p.s.pending := by
  unfold Pass.readRow
  refine foldl_inv (fun q : _ × Pass => q.2.s.mem = p.s.mem ∧ q.2.s.pending = p.s.pending) _ _ _ ⟨rfl, rfl⟩ ?_
  rintro ⟨l, q⟩ i ⟨h1, h2⟩
  have k := Pass.deliver_keeps q src ov i r.1 r.2.1 r.2.2
  dsimp only
  (repeat' split) <;> simp_all
@[simp] theorem Pass.gatherItems_keeps (p : Pass) (src dst : Tensor) (ov : List Nat) (seed : Word64) :
    (Pass.gatherItems p src dst ov seed).2.2.s.mem = p.s.mem ∧
      (Pass.gatherItems p src dst ov seed).2.2.s.pending = p.s.pending := by
  unfold Pass.gatherItems
  refine foldl_inv (fun q : _ × _ × Pass => q.2.2.s.mem = p.s.mem ∧ q.2.2.s.pending = p.s.pending) _ _ _ ⟨rfl, rfl⟩ ?_
  rintro ⟨l, c, q⟩ r ⟨h1, h2⟩
  have k := Pass.readRow_keeps q src ov r (tDim dst.d 0)
  dsimp only
  (repeat' split) <;> simp_all
@[simp] theorem State.copyTensor_keeps (s : State) (b : Nat) (src dst : Tensor) (seed : Word64) :
    (State.copyTensor s b src dst seed).s.pending = s.pending := by
  unfold State.copyTensor; grind [Pass.gatherItems_keeps, Pass.write_keeps, State.countCvt_keeps]
@[simp] theorem State.fillTensor_keeps (s : State) (b : Nat) (dst : Tensor) (v seed : Word64) :
    (State.fillTensor s b dst v seed).s.pending = s.pending := by
  simp [State.fillTensor]

/-! ### Operands -/

@[simp] theorem State.regPut_keeps (s : State) (b : Nat) (r : RegRef) (v : Nat) :
    (State.regPut s b r v).mem = s.mem ∧ (State.regPut s b r v).pending = s.pending := by
  unfold State.regPut; split <;> simp

/-! ### Overblow -/

@[simp] theorem State.nonFinite_keeps (s : State) (src : NfSource) (p n : Nat) :
    (State.nonFinite s src p n).mem = s.mem ∧ (State.nonFinite s src p n).pending = s.pending := by
  simp [State.nonFinite]

/-! ### MatrixArray -/

@[simp] theorem State.putFeedOk_keeps (s : State) (b k : Nat) (v : Bool) :
    (State.putFeedOk s b k v).mem = s.mem ∧ (State.putFeedOk s b k v).pending = s.pending := by
  simp [State.putFeedOk]
@[simp] theorem Pass.tileElem_keeps (p : Pass) (t : Tensor) (i0 i1 : Nat) :
    (Pass.tileElem p t i0 i1).2.s.mem = p.s.mem ∧ (Pass.tileElem p t i0 i1).2.s.pending = p.s.pending := by
  unfold Pass.tileElem; split <;> simp
@[simp] theorem State.fillFeed_keeps (s : State) (b : Nat) (f : FeedReq) :
    (State.fillFeed s b f).mem = s.mem ∧ (State.fillFeed s b f).pending = s.pending := by
  unfold State.fillFeed
  dsimp only
  simp only [State.upArr_keeps, State.fsat_keeps, State.countCvt_keeps]
  refine foldl_inv (fun q : _ × _ × Pass => q.2.2.s.mem = s.mem ∧ q.2.2.s.pending = s.pending) _ _ _ ⟨rfl, rfl⟩ ?_
  rintro ⟨m, c, p⟩ i1 ⟨h1, h2⟩
  dsimp only at h1 h2 ⊢
  refine foldl_inv (fun q : _ × Pass => q.2.s.mem = s.mem ∧ q.2.s.pending = s.pending) _ _ _ ⟨h1, h2⟩ ?_
  rintro ⟨l, p⟩ i0 ⟨h1, h2⟩
  dsimp only at h1 h2 ⊢
  simp [h1, h2]
@[simp] theorem State.startFills_keeps (s : State) (b : Nat) :
    (State.startFills s b).mem = s.mem ∧ (State.startFills s b).pending = s.pending := by
  simp [State.startFills]
theorem execFeedTileComplete_keeps (b : Nat) (s : State) {t : State} (h : (execFeedTileComplete b s) = .next t) :
    t.mem = s.mem ∧ t.pending = s.pending := by
  unfold execFeedTileComplete at h; (repeat' split at h) <;> cases h <;> simp
@[simp] theorem State.putAcc_keeps (s : State) (b a row col v : Nat) :
    (State.putAcc s b a row col v).mem = s.mem ∧ (State.putAcc s b a row col v).pending = s.pending := by
  simp [State.putAcc]
@[simp] theorem State.zeroBank_keeps (s : State) (b a : Nat) :
    (State.zeroBank s b a).mem = s.mem ∧ (State.zeroBank s b a).pending = s.pending := by
  simp [State.zeroBank]
@[simp] theorem State.mrun_keeps (s : State) (b : Nat) (o : MxOp) :
    (State.mrun s b o).mem = s.mem ∧ (State.mrun s b o).pending = s.pending := by
  simp [State.mrun]
@[simp] theorem State.mload_keeps (s : State) (b : Nat) (o : MxOp) :
    (State.mload s b o).mem = s.mem ∧ (State.mload s b o).pending = s.pending := by
  simp [State.mload]
@[simp] theorem State.mdrain_keeps (s : State) (b : Nat) (o : ArrOp) (m : HMap) :
    (State.mdrain s b o m).pending = s.pending := by
  simp [State.mdrain]
@[simp] theorem State.putMq_keeps (s : State) (b : Nat) :
    (State.putMq s b).mem = s.mem ∧ (State.putMq s b).pending = s.pending := by
  simp [State.putMq]
@[simp] theorem State.armBegin_keeps (s : State) (b : Nat) (o : ArrOp) :
    (State.armBegin s b o).pending = s.pending := by
  unfold State.armBegin; grind [State.mdrain_keeps, State.mload_keeps, State.mrun_keeps, State.upCh_keeps, State.zeroBank_keeps]
theorem execArrayInstructionBegin_keeps (b : Nat) (s : State) {t : State} (h :
    (execArrayInstructionBegin b s) = .next t) :
    t.pending = s.pending := by
  unfold execArrayInstructionBegin ok at h; grind [State.armBegin_keeps, State.upCh_keeps]
theorem execArrayInstructionFinish_keeps (o : ArrPlace) (s : State) {t : State} (h : (execArrayInstructionFinish o s) = .next t) :
    t.mem = s.mem ∧ t.pending = s.pending := by
  unfold execArrayInstructionFinish ok at h; grind [State.putMq_keeps, State.startFills_keeps, State.upCh_keeps]
theorem execDrainCompletion_keeps (b : Nat) (s : State) {t : State} (h : (execDrainCompletion b s) = .next t) :
    t.mem = s.mem ∧ t.pending = s.pending := by
  unfold execDrainCompletion at h; (repeat' split at h) <;> cases h <;> simp
@[simp] theorem State.ctest_keeps (s : State) (b : Nat) :
    (State.ctest s b).mem = s.mem ∧ (State.ctest s b).pending = s.pending := by
  simp [State.ctest]
theorem execColumnTest_keeps (who : Requester) (b : Nat) (s : State) {t : State} (h :
    (execColumnTest who b s) = .next t) :
    t.mem = s.mem ∧ t.pending = s.pending := by
  cases h; simp
@[simp] theorem State.arrClear_keeps (s : State) (b : Nat) :
    (State.arrClear s b).mem = s.mem ∧ (State.arrClear s b).pending = s.pending := by
  simp [State.arrClear]
theorem execColumnTestDone_keeps (b : Nat) (cols : BitVec 128) (rowfail : Bool) (s : State) {t : State} (h :
    (execColumnTestDone b cols rowfail s) = .next t) :
    t.mem = s.mem ∧ t.pending = s.pending := by
  unfold execColumnTestDone ok at h; (repeat' split at h) <;> simp_all <;> (try subst h) <;> simp_all
@[simp] theorem State.putMaskPair_keeps (s : State) (r : Reg) (b v : Nat) :
    (State.putMaskPair s r b v).mem = s.mem ∧ (State.putMaskPair s r b v).pending = s.pending := by
  simp [State.putMaskPair]
@[simp] theorem State.arrReset_keeps (s : State) (b : Nat) :
    (State.arrReset s b).mem = s.mem ∧ (State.arrReset s b).pending = s.pending := by
  simp [State.arrReset]

/-! ### Dma -/

@[simp] theorem State.impFault_keeps (s : State) (b cause slot pc info : Nat) :
    (State.impFault s b cause slot pc info).mem = s.mem ∧
      (State.impFault s b cause slot pc info).pending = s.pending := by
  simp [State.impFault]
@[simp] theorem State.putDmaq_keeps (s : State) (b : Nat) :
    (State.putDmaq s b).mem = s.mem ∧ (State.putDmaq s b).pending = s.pending := by
  simp [State.putDmaq]
@[simp] theorem State.upDma_keeps (s : State) (b id : Nat) (f : DmaReq → DmaReq) :
    (State.upDma s b id f).mem = s.mem ∧ (State.upDma s b id f).pending = s.pending := by
  simp [State.upDma]
@[simp] theorem State.dropDma_keeps (s : State) (b id : Nat) :
    (State.dropDma s b id).mem = s.mem ∧ (State.dropDma s b id).pending = s.pending := by
  simp [State.dropDma]
theorem State.completionMsg_keeps (s : State) (b ch tag : Nat) {r} (h : (State.completionMsg s b ch tag) = some r) :
    r.mem = s.mem ∧ r.pending = s.pending := by
  unfold State.completionMsg at h
  split at h
  · exact State.trySend_keeps (h := h)
  · cases h; simp
@[simp] theorem State.dmaSignal_keeps (s : State) (b : Nat) (r : DmaReq) :
    (State.dmaSignal s b r).mem = s.mem ∧ (State.dmaSignal s b r).pending = s.pending := by
  unfold State.dmaSignal; grind [State.completionMsg_keeps, State.dropDma_keeps, State.upDma_keeps]
@[simp] theorem State.dmaDone_keeps (s : State) (b : Nat) (r : DmaReq) :
    (State.dmaDone s b r).mem = s.mem ∧ (State.dmaDone s b r).pending = s.pending := by
  simp [State.dmaDone]
theorem execDmaRequestStart_keeps (b : Nat) (s : State) {t : State} (h : (execDmaRequestStart b s) = .next t) :
    t.mem = s.mem ∧ t.pending = s.pending := by
  unfold execDmaRequestStart ok at h; grind [State.dmaDone_keeps, State.upDma_keeps]
@[simp] theorem State.dmaMove_keeps (s : State) (b : Nat) (r : DmaReq) :
    (State.dmaMove s b r).s.pending = s.pending := by
  unfold State.dmaMove; split <;> simp
@[simp] theorem State.dmaAbandon_keeps (s : State) (b : Nat) (r : DmaReq) (st : AccStatus) (a : Nat) :
    (State.dmaAbandon s b r st a).mem = s.mem ∧ (State.dmaAbandon s b r st a).pending = s.pending := by
  simp [State.dmaAbandon]
theorem execDmaCompletion_keeps (b id : Nat) (s : State) {t : State} (h : (execDmaCompletion b id s) = .next t) :
    t.pending = s.pending := by
  unfold execDmaCompletion ok at h; grind [State.dmaAbandon_keeps, State.dmaDone_keeps, State.dmaMove_keeps, State.dmaSignal_keeps]

/-! ### Reeds -/

@[simp] theorem State.tput_keeps (s : State) (b r l n v : Nat) :
    (State.tput s b r l n v).mem = s.mem ∧ (State.tput s b r l n v).pending = s.pending := by
  simp [State.tput]
@[simp] theorem State.cellPut_keeps (s : State) (b r l a : Nat) (x : List Byte) :
    (State.cellPut s b r l a x).mem = s.mem ∧ (State.cellPut s b r l a x).pending = s.pending := by
  simp [State.cellPut]
@[simp] theorem State.reedCorr_keeps (s : State) (b r l key kind at' : Nat) :
    (State.reedCorr s b r l key kind at').mem = s.mem ∧ (State.reedCorr s b r l key kind at').pending = s.pending := by
  simp [State.reedCorr]
@[simp] theorem State.upLaunch_keeps (s : State) (b id : Nat) (f : Launch → Launch) :
    (State.upLaunch s b id f).mem = s.mem ∧ (State.upLaunch s b id f).pending = s.pending := by
  simp [State.upLaunch]
@[simp] theorem State.putLive_keeps (s : State) (b r : Nat) :
    (State.putLive s b r).mem = s.mem ∧ (State.putLive s b r).pending = s.pending := by
  simp [State.putLive]
@[simp] theorem State.leaveRank_keeps (s : State) (b r id : Nat) :
    (State.leaveRank s b r id).mem = s.mem ∧ (State.leaveRank s b r id).pending = s.pending := by
  simp [State.leaveRank]
@[simp] theorem State.startRank_keeps (s : State) (b r : Nat) (x : Launch) :
    (State.startRank s b r x).mem = s.mem ∧ (State.startRank s b r x).pending = s.pending := by
  simp [State.startRank]
@[simp] theorem State.idleRank_keeps (s : State) (b r : Nat) :
    (State.idleRank s b r).mem = s.mem ∧ (State.idleRank s b r).pending = s.pending := by
  unfold State.idleRank; grind [State.fput_keeps, State.leaveRank_keeps, State.upRank_keeps]
@[simp] theorem State.vlaunch_keeps (s : State) (b : Nat) (ranks : List Nat) (entry : Nat) (a0 a1 : Word64)
    (cn : Option Nat) (pc : Nat) :
    (State.vlaunch s b ranks entry a0 a1 cn pc).mem = s.mem ∧
      (State.vlaunch s b ranks entry a0 a1 cn pc).pending = s.pending := by
  unfold State.vlaunch; (repeat' split) <;> simp
@[simp] theorem State.vkload_keeps (s : State) (b : Nat) (k : KLoad) :
    (State.vkload s b k).mem = s.mem ∧ (State.vkload s b k).pending = s.pending := by
  simp [State.vkload]
@[simp] theorem State.dropLoads_keeps (s : State) (b r l : Nat) :
    (State.dropLoads s b r l).mem = s.mem ∧ (State.dropLoads s b r l).pending = s.pending := by
  simp [State.dropLoads]
@[simp] theorem State.vstop_keeps (s : State) (b r : Nat) :
    (State.vstop s b r).mem = s.mem ∧ (State.vstop s b r).pending = s.pending := by
  unfold State.vstop
  dsimp only
  (repeat' split) <;> simp
@[simp] theorem State.raiseReed_keeps (s : State) (b : Nat) :
    (State.raiseReed s b).mem = s.mem ∧ (State.raiseReed s b).pending = s.pending := by
  simp [State.raiseReed]
@[simp] theorem State.reedFaultAt_keeps (s : State) (b r l rpc lid lpc code detail : Nat) :
    (State.reedFaultAt s b r l rpc lid lpc code detail).mem = s.mem ∧ (State.reedFaultAt s b r l rpc lid lpc code detail).pending = s.pending := by
  dsimp only [State.reedFaultAt]; (repeat' split) <;> simp
@[simp] theorem State.reedFault_keeps (s : State) (b r l code detail : Nat) :
    (State.reedFault s b r l code detail).mem = s.mem ∧ (State.reedFault s b r l code detail).pending = s.pending := by
  unfold State.reedFault; split <;> simp
@[simp] theorem State.setRpc_keeps (s : State) (b r l pc : Nat) :
    (State.setRpc s b r l pc).mem = s.mem ∧ (State.setRpc s b r l pc).pending = s.pending := by
  simp [State.setRpc]
@[simp] theorem State.endReed_keeps (s : State) (b r l : Nat) :
    (State.endReed s b r l).mem = s.mem ∧ (State.endReed s b r l).pending = s.pending := by
  simp [State.endReed]
@[simp] theorem State.reedDo_keeps (s : State) (b r l w : Nat) :
    (State.reedDo s b r l w).pending = s.pending := by
  unfold State.reedDo
  dsimp only
  (repeat' split) <;> first | (simp; done) | (rename_i heq; have kk := State.trySend_keeps (h := heq); simp [kk])
@[simp] theorem State.reedRun_keeps (s : State) (b r l w : Nat) :
    (State.reedRun s b r l w).pending = s.pending := by
  unfold State.reedRun; grind [State.endReed_keeps, State.fsat_keeps, State.reedDo_keeps, State.reedFault_keeps, State.setRpc_keeps, State.tput_keeps, State.upReed_keeps]
theorem execReedIssue_keeps (b r lane : Nat) (s : State) {t : State} (h : (execReedIssue b r lane s) = .next t) :
    t.pending = s.pending := by
  unfold execReedIssue ok at h; grind [State.reedCorr_keeps, State.reedFault_keeps, State.reedRun_keeps]
theorem execReedLoadReturn_keeps (b r lane : Nat) (s : State) {t : State} (h :
    (execReedLoadReturn b r lane s) = .next t) :
    t.mem = s.mem ∧ t.pending = s.pending := by
  dsimp only [execReedLoadReturn, ok] at h; (repeat' split at h) <;> (try injection h with h) <;> (try subst h) <;> first | contradiction | simp | simp_all
theorem execLaunchStart_keeps (b r : Nat) (s : State) {t : State} (h : (execLaunchStart b r s) = .next t) :
    t.mem = s.mem ∧ t.pending = s.pending := by
  unfold execLaunchStart ok at h; (repeat' split at h) <;> simp_all <;> (try subst h) <;> simp_all
theorem execLaunchFinish_keeps (b id : Nat) (s : State) {t : State} (h : (execLaunchFinish b id s) = .next t) :
    t.mem = s.mem ∧ t.pending = s.pending := by
  unfold execLaunchFinish at h; (repeat' split at h) <;> cases h <;> simp
theorem execRankStopComplete_keeps (b r : Nat) (s : State) {t : State} (h : (execRankStopComplete b r s) = .next t) :
    t.mem = s.mem ∧ t.pending = s.pending := by
  unfold execRankStopComplete at h; (repeat' split at h) <;> cases h <;> simp
@[simp] theorem State.writeKernel_keeps (s : State) (b : Nat) (k : KLoad) (data : List Byte) :
    (State.writeKernel s b k data).mem = s.mem ∧ (State.writeKernel s b k data).pending = s.pending := by
  simp [State.writeKernel]
theorem execVkloadComplete_keeps (b : Nat) (s : State) {t : State} (h : (execVkloadComplete b s) = .next t) :
    t.mem = s.mem ∧ t.pending = s.pending := by
  unfold execVkloadComplete ok at h; grind [State.hRead_keeps, State.incLocal_keeps, State.unhold_keeps, State.upBore_keeps, State.writeKernel_keeps]
theorem execRankBarrierComplete_keeps (b r scope : Nat) (s : State) {t : State} (h :
    (execRankBarrierComplete b r scope s) = .next t) :
    t.mem = s.mem ∧ t.pending = s.pending := by
  unfold execRankBarrierComplete at h
  split at h
  · cases h; exact ⟨rfl, rfl⟩
  · split at h
    · cases h; exact ⟨rfl, rfl⟩
    · cases h
      constructor
      · refine when_mem _ _ _ (each_mem _ _ _ fun s r => each_mem _ _ _ fun s l => ?_)
        simp
      · refine when_pending _ _ _ (each_pending _ _ _ fun s r => each_pending _ _ _ fun s l => ?_)
        simp
theorem execRankArrivalSend_keeps (b r : Nat) (s : State) {t : State} (h : (execRankArrivalSend b r s) = .next t) :
    t.mem = s.mem ∧ t.pending = s.pending := by
  unfold execRankArrivalSend at h; (repeat' split at h) <;> cases h <;> simp
@[simp] theorem State.reedWindow_keeps (s : State) (b off : Nat) (wr : Option Word32) :
    (State.reedWindow s b off wr).mem = s.mem ∧ (State.reedWindow s b off wr).pending = s.pending := by
  unfold State.reedWindow; (repeat' split) <;> simp
theorem execReedDebugWindowAccess_keeps (who : Requester) (b off : Nat) (wr : Option Word32) (s : State) {t : State}
    (h : (execReedDebugWindowAccess who b off wr s) = .next t) :
    t.mem = s.mem ∧ t.pending = s.pending := by
  cases h; simp
@[simp] theorem State.dropCellErrors_keeps (s : State) (b : Nat) :
    (State.dropCellErrors s b).mem = s.mem ∧ (State.dropCellErrors s b).pending = s.pending := by
  simp [State.dropCellErrors]
@[simp] theorem State.reedReset_keeps (s : State) (b : Nat) (cold : Bool) :
    (State.reedReset s b cold).mem = s.mem ∧ (State.reedReset s b cold).pending = s.pending := by
  simp [State.reedReset]

/-! ### Halting -/

@[simp] theorem State.putState_keeps (s : State) (b st : Nat) :
    (State.putState s b st).mem = s.mem ∧ (State.putState s b st).pending = s.pending := by
  simp [State.putState]
@[simp] theorem State.putOut_keeps (s : State) (b : Nat) :
    (State.putOut s b).mem = s.mem ∧ (State.putOut s b).pending = s.pending := by
  simp [State.putOut]
@[simp] theorem State.stopIssue_keeps (s : State) (b : Nat) (k : StopKind) :
    (State.stopIssue s b k).mem = s.mem ∧ (State.stopIssue s b k).pending = s.pending := by
  simp [State.stopIssue]
@[simp] theorem State.haltChanter_keeps (s : State) (b : Nat) :
    (State.haltChanter s b).mem = s.mem ∧ (State.haltChanter s b).pending = s.pending := by
  simp [State.haltChanter]
@[simp] theorem State.goStart_keeps (s : State) (b : Nat) (step : Bool) :
    (State.goStart s b step).mem = s.mem ∧ (State.goStart s b step).pending = s.pending := by
  simp [State.goStart]
@[simp] theorem State.clrFault_keeps (s : State) (b : Nat) :
    (State.clrFault s b).mem = s.mem ∧ (State.clrFault s b).pending = s.pending := by
  simp [State.clrFault]
@[simp] theorem State.clrCnt_keeps (s : State) (b : Nat) :
    (State.clrCnt s b).mem = s.mem ∧ (State.clrCnt s b).pending = s.pending := by
  simp [State.clrCnt]
@[simp] theorem State.chnCtrl_keeps (s : State) (b : Nat) (val : Word64) :
    (State.chnCtrl s b val).mem = s.mem ∧ (State.chnCtrl s b val).pending = s.pending := by
  simp [State.chnCtrl]
theorem chnCtrl_keeps (who : Requester) (b : Nat) (val : Word64) (s : State) {t : State} (h :
    (chnCtrl who b val s) = .next t) :
    t.mem = s.mem ∧ t.pending = s.pending := by
  cases h; simp
theorem execGo_keeps (who : Requester) (b : Nat) (s : State) {t : State} (h : (execGo who b s) = .next t) :
    t.mem = s.mem ∧ t.pending = s.pending := by
  unfold execGo at h; exact chnCtrl_keeps (h := h)
theorem execStep_keeps (who : Requester) (b : Nat) (s : State) {t : State} (h : (execStep who b s) = .next t) :
    t.mem = s.mem ∧ t.pending = s.pending := by
  unfold execStep at h; exact chnCtrl_keeps (h := h)
theorem execChnCtrlHalt_keeps (who : Requester) (b : Nat) (s : State) {t : State} (h :
    (execChnCtrlHalt who b s) = .next t) :
    t.mem = s.mem ∧ t.pending = s.pending := by
  unfold execChnCtrlHalt at h; exact chnCtrl_keeps (h := h)
theorem execClrfault_keeps (who : Requester) (b : Nat) (s : State) {t : State} (h : (execClrfault who b s) = .next t) :
    t.mem = s.mem ∧ t.pending = s.pending := by
  unfold execClrfault at h; exact chnCtrl_keeps (h := h)
theorem execClrcnt_keeps (who : Requester) (b : Nat) (s : State) {t : State} (h : (execClrcnt who b s) = .next t) :
    t.mem = s.mem ∧ t.pending = s.pending := by
  unfold execClrcnt at h; exact chnCtrl_keeps (h := h)
@[simp] theorem State.writePc_keeps (s : State) (b : Nat) (val : Word64) :
    (State.writePc s b val).mem = s.mem ∧ (State.writePc s b val).pending = s.pending := by
  simp [State.writePc]
theorem execChnPcWrite_keeps (who : Requester) (b : Nat) (val : Word64) (s : State) {t : State} (h :
    (execChnPcWrite who b val s) = .next t) :
    t.mem = s.mem ∧ t.pending = s.pending := by
  cases h; simp
@[simp] theorem State.writeProgram_keeps (s : State) (b addr : Nat) (data : List Byte) :
    (State.writeProgram s b addr data).pending = s.pending := by
  simp [State.writeProgram]
theorem execProgramStoreWrite_keeps (who : Requester) (addr : Nat) (data : List Byte) (s : State) {t : State} (h :
    (execProgramStoreWrite who addr data s) = .next t) :
    t.pending = s.pending := by
  unfold execProgramStoreWrite at h; (repeat' split at h) <;> cases h <;> simp
@[simp] theorem State.winWrite_keeps (s : State) (b off v : Nat) :
    (State.winWrite s b off v).mem = s.mem ∧ (State.winWrite s b off v).pending = s.pending := by
  simp [State.winWrite]
@[simp] theorem State.window_keeps (s : State) (b off : Nat) (may : Bool) (wr : Option Word64) :
    (State.window s b off may wr).mem = s.mem ∧ (State.window s b off may wr).pending = s.pending := by
  unfold State.window; (repeat' split) <;> simp
theorem execRegisterWindowAccess_keeps (who : Requester) (b off : Nat) (wr : Option Word64) (s : State) {t : State}
    (h : (execRegisterWindowAccess who b off wr s) = .next t) :
    t.mem = s.mem ∧ t.pending = s.pending := by
  unfold execRegisterWindowAccess at h; (repeat' split at h) <;> cases h <;> simp
@[simp] theorem State.chanterReset_keeps (s : State) (b : Nat) :
    (State.chanterReset s b).mem = s.mem ∧ (State.chanterReset s b).pending = s.pending := by
  simp [State.chanterReset]

/-! ### Ending -/

@[simp] theorem State.putCx_keeps (s : State) (c st : Nat) :
    (State.putCx s c st).mem = s.mem ∧ (State.putCx s c st).pending = s.pending := by
  simp [State.putCx]
@[simp] theorem State.dropStarts_keeps (s : State) (c : Nat) :
    (State.dropStarts s c).mem = s.mem ∧ (State.dropStarts s c).pending = s.pending := by
  simp [State.dropStarts]
@[simp] theorem State.putHold_keeps (s : State) (p : Nat) :
    (State.putHold s p).mem = s.mem ∧ (State.putHold s p).pending = s.pending := by
  simp [State.putHold]
@[simp] theorem State.rmRefuse_keeps (s : State) (p reason : Nat) (m : Message) :
    (State.rmRefuse s p reason m).mem = s.mem ∧ (State.rmRefuse s p reason m).pending = s.pending := by
  simp [State.rmRefuse]
@[simp] theorem State.refuseHeld_keeps (s : State) (c : Nat) :
    (State.refuseHeld s c).mem = s.mem ∧ (State.refuseHeld s c).pending = s.pending := by
  simp [State.refuseHeld]
@[simp] theorem State.closeQueues_keeps (s : State) (c : Nat) :
    (State.closeQueues s c).mem = s.mem ∧ (State.closeQueues s c).pending = s.pending := by
  simp [State.closeQueues]
@[simp] theorem State.releaseBlocks_keeps (s : State) (c : Nat) :
    (State.releaseBlocks s c).mem = s.mem ∧ (State.releaseBlocks s c).pending = s.pending := by
  simp [State.releaseBlocks]
@[simp] theorem State.setOp_keeps (s : State) (c : Nat) (k : RmKind) :
    (State.setOp s c k).mem = s.mem ∧ (State.setOp s c k).pending = s.pending := by
  simp [State.setOp]
@[simp] theorem State.endOp_keeps (s : State) (c : Nat) :
    (State.endOp s c).mem = s.mem ∧ (State.endOp s c).pending = s.pending := by
  simp [State.endOp]
@[simp] theorem State.endSteps_keeps (s : State) (c : Nat) :
    (State.endSteps s c).mem = s.mem ∧ (State.endSteps s c).pending = s.pending := by
  simp [State.endSteps]
@[simp] theorem State.beginEnding_keeps (s : State) (c cause : Nat) (faulted : Option Nat) :
    (State.beginEnding s c cause faulted).mem = s.mem ∧ (State.beginEnding s c cause faulted).pending = s.pending := by
  simp [State.beginEnding]
@[simp] theorem State.endCurrent_keeps (s : State) (b : Nat) :
    (State.endCurrent s b).mem = s.mem ∧ (State.endCurrent s b).pending = s.pending := by
  simp [State.endCurrent]

/-! ### Gate -/

@[simp] theorem State.precise_keeps (s : State) (b pc : Nat) (f : SlotFault) (multi : Bool) :
    (State.precise s b pc f multi).mem = s.mem ∧ (State.precise s b pc f multi).pending = s.pending := by
  simp [State.precise]
@[simp] theorem State.putAslots_keeps (s : State) (b : Nat) :
    (State.putAslots s b).mem = s.mem ∧ (State.putAslots s b).pending = s.pending := by
  simp [State.putAslots]
@[simp] theorem State.freeSlot_keeps (s : State) (b k : Nat) :
    (State.freeSlot s b k).mem = s.mem ∧ (State.freeSlot s b k).pending = s.pending := by
  simp [State.freeSlot]
@[simp] theorem State.arrive_keeps (s : State) (b bid : Nat) :
    (State.arrive s b bid).2.mem = s.mem ∧ (State.arrive s b bid).2.pending = s.pending := by
  simp [State.arrive]
theorem execArrivalSend_keeps (b : Nat) (s : State) {t : State} (h : (execArrivalSend b s) = .next t) :
    t.mem = s.mem ∧ t.pending = s.pending := by
  unfold execArrivalSend at h; (repeat' split at h) <;> cases h <;> simp

/-! ### Chanter -/

@[simp] theorem State.pend_keeps (s : State) (b : Nat) (r : RegRef) (v : Nat) :
    (State.pend s b r v).mem = s.mem ∧ (State.pend s b r v).pending = s.pending := by
  simp [State.pend]
@[simp] theorem State.newId_keeps (s : State) (b : Nat) :
    (State.newId s b).2.mem = s.mem ∧ (State.newId s b).2.pending = s.pending := by
  simp [State.newId]
@[simp] theorem State.doScalar_keeps (s : State) (b pc w : Nat) :
    (State.doScalar s b pc w).mem = s.mem ∧ (State.doScalar s b pc w).pending = s.pending := by
  unfold State.doScalar; (repeat' split) <;> simp
@[simp] theorem State.doBranch_keeps (s : State) (b pc w : Nat) :
    (State.doBranch s b pc w).mem = s.mem ∧ (State.doBranch s b pc w).pending = s.pending := by
  simp [State.doBranch]
@[simp] theorem State.loadBack_keeps (s : State) (b id : Nat) (data : List Byte) (st : AccStatus) (addr : Nat) :
    (State.loadBack s b id data st addr).mem = s.mem ∧ (State.loadBack s b id data st addr).pending = s.pending := by
  simp [State.loadBack]
@[simp] theorem State.storeOver_keeps (s : State) (b id : Nat) :
    (State.storeOver s b id).mem = s.mem ∧ (State.storeOver s b id).pending = s.pending := by
  unfold State.storeOver; split <;> simp
@[simp] theorem State.launchAccess_keeps (s : State) (b : Nat) (x : ChXlate) (d : Nat) :
    (State.launchAccess s b x d).mem = s.mem ∧ (State.launchAccess s b x d).pending = s.pending := by
  unfold State.launchAccess; split <;> simp
@[simp] theorem State.translate_keeps (s : State) (b : Nat) (x : ChXlate) :
    (State.translate s b x).mem = s.mem ∧ (State.translate s b x).pending = s.pending := by
  unfold State.translate; grind [State.impFault_keeps, State.launchAccess_keeps, State.loadBack_keeps, State.storeOver_keeps, State.xlate_keeps]
@[simp] theorem State.walk_keeps (s : State) (b : Nat) :
    (State.walk s b).mem = s.mem ∧ (State.walk s b).pending = s.pending := by
  unfold State.walk; split <;> simp
theorem execTranslationWalk_keeps (b : Nat) (s : State) {t : State} (h : (execTranslationWalk b s) = .next t) :
    t.mem = s.mem ∧ t.pending = s.pending := by
  unfold execTranslationWalk at h; (repeat' split at h) <;> cases h <;> simp
@[simp] theorem State.walkAll_keeps (s : State) (b : Nat) :
    (State.walkAll s b).mem = s.mem ∧ (State.walkAll s b).pending = s.pending := by
  simp [State.walkAll]
@[simp] theorem State.lmAccess_keeps (s : State) (b : Nat) (x : ChXlate) :
    (State.lmAccess s b x).mem = s.mem ∧ (State.lmAccess s b x).pending = s.pending := by
  simp [State.lmAccess]
@[simp] theorem State.lhAccess_keeps (s : State) (b pc w n : Nat) (load : Bool) :
    (State.lhAccess s b pc w n load).pending = s.pending := by
  unfold State.lhAccess; split <;> simp
@[simp] theorem State.lmIssue_keeps (s : State) (b pc w n : Nat) (load : Bool) :
    (State.lmIssue s b pc w n load).mem = s.mem ∧ (State.lmIssue s b pc w n load).pending = s.pending := by
  simp [State.lmIssue]
@[simp] theorem State.dmaIssue_keeps (s : State) (b pc w : Nat) :
    (State.dmaIssue s b pc w).mem = s.mem ∧ (State.dmaIssue s b pc w).pending = s.pending := by
  simp [State.dmaIssue]
@[simp] theorem State.feedIssue_keeps (s : State) (b w : Nat) :
    (State.feedIssue s b w).mem = s.mem ∧ (State.feedIssue s b w).pending = s.pending := by
  unfold State.feedIssue; split <;> simp
@[simp] theorem State.doLoad_keeps (s : State) (b pc w : Nat) :
    (State.doLoad s b pc w).pending = s.pending := by
  simp [State.doLoad]
@[simp] theorem State.doArray_keeps (s : State) (b w : Nat) :
    (State.doArray s b w).mem = s.mem ∧ (State.doArray s b w).pending = s.pending := by
  simp [State.doArray]
@[simp] theorem State.doLaunch_keeps (s : State) (b pc w : Nat) :
    (State.doLaunch s b pc w).mem = s.mem ∧ (State.doLaunch s b pc w).pending = s.pending := by
  unfold State.doLaunch; (repeat' split) <;> simp
@[simp] theorem State.qSend_keeps (s : State) (b w : Nat) :
    (State.qSend s b w).mem = s.mem ∧ (State.qSend s b w).pending = s.pending := by
  unfold State.qSend; grind [State.pend_keeps, State.trySend_keeps]
@[simp] theorem State.qRecv_keeps (s : State) (b w : Nat) (timed : Bool) :
    (State.qRecv s b w timed).mem = s.mem ∧ (State.qRecv s b w timed).pending = s.pending := by
  unfold State.qRecv; (repeat' split) <;> simp
@[simp] theorem State.doQueue_keeps (s : State) (b w : Nat) (timed : Bool) :
    (State.doQueue s b w timed).mem = s.mem ∧ (State.doQueue s b w timed).pending = s.pending := by
  unfold State.doQueue; (repeat' split) <;> simp
@[simp] theorem State.yInc_keeps (s : State) (b w : Nat) :
    (State.yInc s b w).mem = s.mem ∧ (State.yInc s b w).pending = s.pending := by
  unfold State.yInc; split <;> simp
@[simp] theorem State.yWait_keeps (s : State) (b w : Nat) (timed : Bool) :
    (State.yWait s b w timed).mem = s.mem ∧ (State.yWait s b w timed).pending = s.pending := by
  simp [State.yWait]
@[simp] theorem State.yBar_keeps (s : State) (b w : Nat) (timed : Bool) :
    (State.yBar s b w timed).mem = s.mem ∧ (State.yBar s b w timed).pending = s.pending := by
  unfold State.yBar; split <;> simp
@[simp] theorem State.yBwt_keeps (s : State) (b w : Nat) (timed : Bool) :
    (State.yBwt s b w timed).mem = s.mem ∧ (State.yBwt s b w timed).pending = s.pending := by
  simp [State.yBwt]
@[simp] theorem State.doSync_keeps (s : State) (b w : Nat) (pre : State) (timed : Bool) :
    (State.doSync s b w pre timed).mem = s.mem ∧ (State.doSync s b w pre timed).pending = s.pending := by
  dsimp only [State.doSync]; (repeat' split) <;> simp
@[simp] theorem State.advance_keeps (s : State) (b pc : Nat) (tgt : Option Nat) (bop : Nat) :
    (State.advance s b pc tgt bop).mem = s.mem ∧ (State.advance s b pc tgt bop).pending = s.pending := by
  unfold State.advance; split <;> simp
@[simp] theorem State.fetchCorr_keeps (s : State) (b pc : Nat) :
    (State.fetchCorr s b pc).mem = s.mem ∧ (State.fetchCorr s b pc).pending = s.pending := by
  simp [State.fetchCorr]
@[simp] theorem State.issueBundle_keeps (s : State) (b pc : Nat) (ws : List Nat) :
    (State.issueBundle s b pc ws).pending = s.pending := by
  unfold State.issueBundle
  dsimp only
  simp only [State.advance_keeps, State.upCh_keeps, State.doSync_keeps, State.doQueue_keeps, State.doLaunch_keeps, State.doArray_keeps]
  (repeat' split) <;> simp
@[simp] theorem State.holdGate_keeps (s : State) (b : Nat) (q y : Bool) :
    (State.holdGate s b q y).mem = s.mem ∧ (State.holdGate s b q y).pending = s.pending := by
  simp [State.holdGate]
@[simp] theorem State.firstMet_keeps (s : State) (b pc : Nat) (ws : List Nat) :
    (State.firstMet s b pc ws).mem = s.mem ∧ (State.firstMet s b pc ws).pending = s.pending := by
  simp [State.firstMet]
@[simp] theorem State.pass_keeps (s : State) (b pc : Nat) (ws : List Nat) :
    (State.pass s b pc ws).pending = s.pending := by
  dsimp only [State.pass]; (repeat' split) <;> simp
@[simp] theorem State.tryIssue_keeps (s : State) (b : Nat) :
    (State.tryIssue s b).pending = s.pending := by
  dsimp only [State.tryIssue]; (repeat' split) <;> simp
@[simp] theorem State.takeImp_keeps (s : State) (b : Nat) (f : ImpFault) (rest : List ImpFault) (multi : Bool) :
    (State.takeImp s b f rest multi).mem = s.mem ∧ (State.takeImp s b f rest multi).pending = s.pending := by
  unfold State.takeImp; grind [State.stopIssue_keeps, State.upCh_keeps]
@[simp] theorem State.boreCycle_keeps (s : State) (b : Nat) :
    (State.boreCycle s b).pending = s.pending := by
  dsimp only [State.boreCycle]; (repeat' split) <;> simp
theorem execBundleIssue_keeps (b : Nat) (s : State) {t : State} (h : (execBundleIssue b s) = .next t) :
    t.pending = s.pending := by
  unfold execBundleIssue at h; (repeat' split at h) <;> cases h <;> simp
@[simp] theorem State.expire_keeps (s : State) (b : Nat) (l : List Nat) :
    (State.expire s b l).mem = s.mem ∧ (State.expire s b l).pending = s.pending := by
  simp [State.expire]
theorem execWaitTimeout_keeps (b : Nat) (s : State) {t : State} (h : (execWaitTimeout b s) = .next t) :
    t.pending = s.pending := by
  dsimp only [execWaitTimeout, ok] at h; (repeat' split at h) <;> cases h <;> simp
theorem execRegisterWriteback_keeps (b k : Nat) (s : State) {t : State} (h : (execRegisterWriteback b k s) = .next t) :
    t.mem = s.mem ∧ t.pending = s.pending := by
  unfold execRegisterWriteback at h; (repeat' split at h) <;> cases h <;> simp
@[simp] theorem State.dropLoad_keeps (s : State) (b id : Nat) :
    (State.dropLoad s b id).mem = s.mem ∧ (State.dropLoad s b id).pending = s.pending := by
  simp [State.dropLoad]
@[simp] theorem State.loadDone_keeps (s : State) (b : Nat) (x : ChLoad) (data : List Byte) (st : AccStatus)
    (addr : Nat) :
    (State.loadDone s b x data st addr).mem = s.mem ∧ (State.loadDone s b x data st addr).pending = s.pending := by
  unfold State.loadDone; split <;> simp
theorem execLoadCompletion_keeps (b id : Nat) (s : State) {t : State} (h : (execLoadCompletion b id s) = .next t) :
    t.mem = s.mem ∧ t.pending = s.pending := by
  unfold execLoadCompletion ok at h; grind [State.hRead_keeps, State.loadDone_keeps, State.unhold_keeps]
theorem execImpreciseFault_keeps (b : Nat) (s : State) {t : State} (h : (execImpreciseFault b s) = .next t) :
    t.mem = s.mem ∧ t.pending = s.pending := by
  unfold execImpreciseFault at h; (repeat' split at h) <;> cases h <;> simp
@[simp] theorem State.enterHalted_keeps (s : State) (b r pc : Nat) :
    (State.enterHalted s b r pc).mem = s.mem ∧ (State.enterHalted s b r pc).pending = s.pending := by
  simp [State.enterHalted]
@[simp] theorem State.enterFaulted_keeps (s : State) (b : Nat) (f : ImpFault) (precise multi : Bool) (haltpc : Nat) :
    (State.enterFaulted s b f precise multi haltpc).mem = s.mem ∧
      (State.enterFaulted s b f precise multi haltpc).pending = s.pending := by
  simp [State.enterFaulted]
theorem execChanterHaltComplete_keeps (b : Nat) (s : State) {t : State} (h : (execChanterHaltComplete b s) = .next t) :
    t.mem = s.mem ∧ t.pending = s.pending := by
  unfold execChanterHaltComplete at h; (repeat' split at h) <;> cases h <;> simp

/-! ### Windway -/

@[simp] theorem State.answerRead_keeps (s : State) (home : Endpoint) (who : Accessor) (id addr : Nat)
    (data : List Byte) (st : AccStatus) :
    (State.answerRead s home who id addr data st).mem = s.mem ∧
      (State.answerRead s home who id addr data st).pending = s.pending := by
  simp [State.answerRead]
@[simp] theorem State.answerWrite_keeps (s : State) (home : Endpoint) (who : Accessor) (id ctx addr : Nat) (st : AccStatus) :
    (State.answerWrite s home who id ctx addr st).mem = s.mem ∧ (State.answerWrite s home who id ctx addr st).pending = s.pending := by
  simp [State.answerWrite]
@[simp] theorem State.readHome_keeps (s : State) (home : Endpoint) (who : Accessor) (id ctx addr len : Nat) :
    (State.readHome s home who id ctx addr len).mem = s.mem ∧ (State.readHome s home who id ctx addr len).pending = s.pending := by
  simp [State.readHome]
@[simp] theorem State.writeHome_keeps (s : State) (home : Endpoint) (who : Accessor) (id ctx addr : Nat) (data : List Byte) (pois : Bool) :
    (State.writeHome s home who id ctx addr data pois).pending = s.pending := by
  simp [State.writeHome]
@[simp] theorem State.serve_keeps (s : State) (cls : XClass) (src dst : Endpoint) :
    (State.serve s cls src dst).pending = s.pending := by
  unfold State.serve; (repeat' split) <;> first | (simp; done) | (rename_i heq; have kk := State.oldest_keeps (h := heq); simp at kk; simp [kk])
@[simp] theorem State.hostAsk_keeps (s : State) (src : Endpoint) :
    (State.hostAsk s src).mem = s.mem ∧ (State.hostAsk s src).pending = s.pending := by
  unfold State.hostAsk
  split
  · rename_i heq; have kk := State.oldest_keeps (h := heq); simp at kk
    dsimp only; (repeat' split) <;> simp [kk]
  · exact ⟨rfl, rfl⟩
theorem execWindwayWriteArrival_keeps (src dst : Endpoint) (s : State) {t : State} (h :
    (execWindwayWriteArrival src dst s) = .next t) :
    t.pending = s.pending := by
  cases h; simp
theorem execWindwayReadArrival_keeps (src dst : Endpoint) (s : State) {t : State} (h :
    (execWindwayReadArrival src dst s) = .next t) :
    t.pending = s.pending := by
  cases h; simp
@[simp] theorem State.takeRead_keeps (s : State) (who : Accessor) (id addr : Nat) (data : List Byte) (st : AccStatus) :
    (State.takeRead s who id addr data st).mem = s.mem ∧
      (State.takeRead s who id addr data st).pending = s.pending := by
  unfold State.takeRead; split <;> simp
theorem execReadCompletionArrival_keeps (src dst : Endpoint) (s : State) {t : State} (h :
    (execReadCompletionArrival src dst s) = .next t) :
    t.mem = s.mem ∧ t.pending = s.pending := by
  unfold execReadCompletionArrival at h; (repeat' split at h) <;> first | (cases h; simp; done) | (cases h; done) | (rename_i heq; have kk := State.oldest_keeps (h := heq); cases h; simp at kk; simp [kk])
@[simp] theorem State.takeAck_keeps (s : State) (who : Accessor) (id addr : Nat) (st : AccStatus) :
    (State.takeAck s who id addr st).mem = s.mem ∧ (State.takeAck s who id addr st).pending = s.pending := by
  unfold State.takeAck; (repeat' split) <;> simp
theorem execWriteAcknowledgement_keeps (src dst : Endpoint) (s : State) {t : State} (h :
    (execWriteAcknowledgement src dst s) = .next t) :
    t.mem = s.mem ∧ t.pending = s.pending := by
  unfold execWriteAcknowledgement at h; (repeat' split at h) <;> first | (cases h; simp; done) | (cases h; done) | (rename_i heq; have kk := State.oldest_keeps (h := heq); cases h; simp at kk; simp [kk])
theorem execBoreClockStartForAccess_keeps (b : Nat) (s : State) {t : State} (h :
    (execBoreClockStartForAccess b s) = .next t) :
    t.pending = s.pending := by
  unfold execBoreClockStartForAccess at h; (repeat' split at h) <;> cases h <;> simp

end Sys2Proof.Machine
end

