-- ==== Sys2Proof/Laws/CanonicalBore.lean ====
section
/-!
SUPPORT. Laws/CanonicalBore.lean: what runs in a bore, and the windway: the operations and commands that write memory keep it in its canonical form.
-/

namespace Sys2Proof.Machine

/-! ### Tensor -/

theorem Pass.write_wf (p : Pass) (sp : Space) (l : List Item) (hwf : Memory.wf p.s.mem = true) :
    Memory.wf (Pass.write p sp l).s.mem = true := by
  unfold Pass.write
  refine foldl_inv (fun q : Pass => Memory.wf q.s.mem = true) _ _ _ hwf ?_
  rintro q x h1
  have k := State.spaceWrite_wf q.s sp x.addr x.data h1
  split
  · exact h1
  · split <;> (rename_i heq; rw [heq] at k; exact k)
theorem State.copyTensor_wf (s : State) (b : Nat) (src dst : Tensor) (seed : Word64) (hwf : Memory.wf s.mem = true) :
    Memory.wf (State.copyTensor s b src dst seed).s.mem = true := by
  unfold State.copyTensor; dsimp only; (repeat' split) <;> simp [hwf, Pass.write_wf]
theorem State.fillTensor_wf (s : State) (b : Nat) (dst : Tensor) (v : Word64) (seed : Word64) (hwf :
    Memory.wf s.mem = true) : Memory.wf (State.fillTensor s b dst v seed).s.mem = true := by
  simp [State.fillTensor, hwf, Pass.write_wf]

/-! ### MatrixArray -/

theorem State.mdrain_wf (s : State) (b : Nat) (o : ArrOp) (m : HMap) (hwf : Memory.wf s.mem = true) :
    Memory.wf (State.mdrain s b o m).mem = true := by
  simp [State.mdrain, hwf, Pass.write_wf]
theorem State.armBegin_wf (s : State) (b : Nat) (o : ArrOp) (hwf : Memory.wf s.mem = true) :
    Memory.wf (State.armBegin s b o).mem = true := by
  unfold State.armBegin; dsimp only; (repeat' split) <;> simp [hwf, State.mdrain_wf]
theorem execArrayInstructionBegin_wf (b : Nat) (s : State) (hwf : Memory.wf s.mem = true) {t : State} (h :
    (execArrayInstructionBegin b s) = .next t) :
    Memory.wf t.mem = true := by
  unfold execArrayInstructionBegin at h; dsimp only [ok] at h; (repeat' split at h) <;> cases h <;> simp [hwf, State.armBegin_wf]

/-! ### Dma -/

theorem State.dmaMove_wf (s : State) (b : Nat) (r : DmaReq) (hwf : Memory.wf s.mem = true) :
    Memory.wf (State.dmaMove s b r).s.mem = true := by
  unfold State.dmaMove; (repeat' split) <;> simp [hwf, State.copyTensor_wf, State.fillTensor_wf]
theorem execDmaCompletion_wf (b id : Nat) (s : State) (hwf : Memory.wf s.mem = true) {t : State} (h :
    (execDmaCompletion b id s) = .next t) :
    Memory.wf t.mem = true := by
  unfold execDmaCompletion at h; dsimp only [ok] at h; (repeat' split at h) <;> cases h <;> simp [hwf, State.dmaMove_wf]

/-! ### Reeds -/

theorem State.reedDo_wf (s : State) (b r l w : Nat) (hwf : Memory.wf s.mem = true) :
    Memory.wf (State.reedDo s b r l w).mem = true := by
  unfold State.reedDo
  dsimp only
  (repeat' split) <;> first | (simp [hwf]; done) | (simp; exact State.hWrite_wf _ _ _ _ _ _ hwf) | (rename_i heq; have kk := State.trySend_keeps (h := heq); simp [kk, hwf])
theorem State.reedRun_wf (s : State) (b r l w : Nat) (hwf : Memory.wf s.mem = true) :
    Memory.wf (State.reedRun s b r l w).mem = true := by
  unfold State.reedRun; dsimp only; (repeat' split) <;> simp [hwf, State.reedDo_wf]
theorem execReedIssue_wf (b r lane : Nat) (s : State) (hwf : Memory.wf s.mem = true) {t : State} (h :
    (execReedIssue b r lane s) = .next t) :
    Memory.wf t.mem = true := by
  unfold execReedIssue at h; dsimp only [ok] at h; (repeat' split at h) <;> cases h <;> simp [hwf, State.reedRun_wf]

/-! ### Halting -/

theorem State.writeProgram_wf (s : State) (b addr : Nat) (data : List Byte) (hwf : Memory.wf s.mem = true) :
    Memory.wf (State.writeProgram s b addr data).mem = true := by
  simp [State.writeProgram, hwf, mem_wf_ite, State.store_wf]
theorem execProgramStoreWrite_wf (who : Requester) (addr : Nat) (data : List Byte) (s : State)
    (hwf : Memory.wf s.mem = true) {t : State} (h : (execProgramStoreWrite who addr data s) = .next t) :
    Memory.wf t.mem = true := by
  unfold execProgramStoreWrite at h; (repeat' split at h) <;> cases h <;> simp [hwf, regAccess_wf, State.writeProgram_wf]

/-! ### Chanter -/

theorem State.lhAccess_wf (s : State) (b pc w n : Nat) (load : Bool) (hwf : Memory.wf s.mem = true) :
    Memory.wf (State.lhAccess s b pc w n load).mem = true := by
  unfold State.lhAccess; dsimp only; (repeat' split) <;> simp [hwf, State.hWrite_wf]
theorem State.doLoad_wf (s : State) (b pc w : Nat) (hwf : Memory.wf s.mem = true) :
    Memory.wf (State.doLoad s b pc w).mem = true := by
  unfold State.doLoad; dsimp only; (repeat' split) <;> simp [hwf, State.lhAccess_wf]
theorem State.issueBundle_wf (s : State) (b pc : Nat) (ws : List Nat) (hwf : Memory.wf s.mem = true) :
    Memory.wf (State.issueBundle s b pc ws).mem = true := by
  unfold State.issueBundle
  dsimp only
  simp only [State.advance_keeps, State.upCh_keeps, State.doSync_keeps, State.doQueue_keeps, State.doLaunch_keeps, State.doArray_keeps]
  (repeat' split) <;> simp [State.doLoad_wf, hwf]
theorem State.pass_wf (s : State) (b pc : Nat) (ws : List Nat) (hwf : Memory.wf s.mem = true) :
    Memory.wf (State.pass s b pc ws).mem = true := by
  dsimp only [State.pass]; (repeat' split) <;> simp [hwf, State.issueBundle_wf]
theorem State.tryIssue_wf (s : State) (b : Nat) (hwf : Memory.wf s.mem = true) :
    Memory.wf (State.tryIssue s b).mem = true := by
  unfold State.tryIssue; dsimp only; (repeat' split) <;> simp [hwf, State.pass_wf]
theorem State.boreCycle_wf (s : State) (b : Nat) (hwf : Memory.wf s.mem = true) :
    Memory.wf (State.boreCycle s b).mem = true := by
  dsimp only [State.boreCycle]; (repeat' split) <;> simp [hwf, State.tryIssue_wf]
theorem execBundleIssue_wf (b : Nat) (s : State) (hwf : Memory.wf s.mem = true) {t : State} (h :
    (execBundleIssue b s) = .next t) :
    Memory.wf t.mem = true := by
  unfold execBundleIssue at h; (repeat' split at h) <;> cases h <;> simp [hwf, State.boreCycle_wf]
theorem execWaitTimeout_wf (b : Nat) (s : State) (hwf : Memory.wf s.mem = true) {t : State} (h :
    (execWaitTimeout b s) = .next t) :
    Memory.wf t.mem = true := by
  unfold execWaitTimeout at h; dsimp only [ok] at h; (repeat' split at h) <;> cases h <;> simp [hwf, State.boreCycle_wf]

/-! ### Windway -/

theorem State.writeHome_wf (s : State) (home : Endpoint) (who : Accessor) (id ctx addr : Nat) (data : List Byte) (pois : Bool) (hwf :
    Memory.wf s.mem = true) : Memory.wf (State.writeHome s home who id ctx addr data pois).mem = true := by
  simp [State.writeHome, hwf, State.devWrite_wf]
theorem State.serve_wf (s : State) (cls : XClass) (src dst : Endpoint) (hwf : Memory.wf s.mem = true) :
    Memory.wf (State.serve s cls src dst).mem = true := by
  unfold State.serve
  split
  · rename_i heq; have kk := State.oldest_keeps (h := heq); simp at kk
    exact State.writeHome_wf _ _ _ _ _ _ _ _ (by simp [kk, hwf])
  · rename_i heq; have kk := State.oldest_keeps (h := heq); simp at kk
    simp [kk, hwf]
  · exact hwf
theorem execWindwayWriteArrival_wf (src dst : Endpoint) (s : State) (hwf : Memory.wf s.mem = true) {t : State} (h :
    (execWindwayWriteArrival src dst s) = .next t) :
    Memory.wf t.mem = true := by
  cases h; simp [hwf, mem_wf_ite, State.serve_wf]
theorem execWindwayReadArrival_wf (src dst : Endpoint) (s : State) (hwf : Memory.wf s.mem = true) {t : State} (h :
    (execWindwayReadArrival src dst s) = .next t) :
    Memory.wf t.mem = true := by
  cases h; simp only [mem_ite]; (repeat' split) <;> simp [hwf, State.serve_wf]
theorem execBoreClockStartForAccess_wf (b : Nat) (s : State) (hwf : Memory.wf s.mem = true) {t : State} (h :
    (execBoreClockStartForAccess b s) = .next t) :
    Memory.wf t.mem = true := by
  unfold execBoreClockStartForAccess at h; (repeat' split at h) <;> cases h <;> simp [hwf, when_wf, State.serve_wf]

end Sys2Proof.Machine
end

