-- ==== Sys2Proof/Laws/KeepsTraining.lean ====
section
/-!
SUPPORT. Laws/KeepsTraining.lean: schedulers, health sets and contexts: the operations and commands that leave memory as it is, and that all
leave the queue as it is.
-/

namespace Sys2Proof.Machine

/-! ### Stage -/

@[simp] theorem State.stgHalt_keeps (s : State) (p reason : Nat) :
    (State.stgHalt s p reason).mem = s.mem ∧ (State.stgHalt s p reason).pending = s.pending := by
  simp [State.stgHalt]
@[simp] theorem State.putTag_keeps (s : State) (p t st : Nat) :
    (State.putTag s p t st).mem = s.mem ∧ (State.putTag s p t st).pending = s.pending := by
  simp [State.putTag]
@[simp] theorem State.enqueue_keeps (s : State) (p t q : Nat) :
    (State.enqueue s p t q).mem = s.mem ∧ (State.enqueue s p t q).pending = s.pending := by
  simp [State.enqueue]
@[simp] theorem State.dequeue_keeps (s : State) (p t : Nat) :
    (State.dequeue s p t).mem = s.mem ∧ (State.dequeue s p t).pending = s.pending := by
  simp [State.dequeue]
@[simp] theorem State.freeTag_keeps (s : State) (p t : Nat) :
    (State.freeTag s p t).mem = s.mem ∧ (State.freeTag s p t).pending = s.pending := by
  simp [State.freeTag]
@[simp] theorem State.acceptFwd_keeps (s : State) (p t : Nat) :
    (State.acceptFwd s p t).mem = s.mem ∧ (State.acceptFwd s p t).pending = s.pending := by
  simp [State.acceptFwd]
@[simp] theorem State.acceptBwd_keeps (s : State) (p t : Nat) :
    (State.acceptBwd s p t).mem = s.mem ∧ (State.acceptBwd s p t).pending = s.pending := by
  simp [State.acceptBwd]
@[simp] theorem State.judgeTag_keeps (s : State) (p : Nat) (m : TagMsg) :
    (State.judgeTag s p m).mem = s.mem ∧ (State.judgeTag s p m).pending = s.pending := by
  simp [State.judgeTag]
@[simp] theorem State.autoInject_keeps (s : State) (p : Nat) :
    (State.autoInject s p).mem = s.mem ∧ (State.autoInject s p).pending = s.pending := by
  simp [State.autoInject]
@[simp] theorem State.zeroCounts_keeps (s : State) (p : Nat) :
    (State.zeroCounts s p).mem = s.mem ∧ (State.zeroCounts s p).pending = s.pending := by
  simp [State.zeroCounts]
@[simp] theorem State.stashFault_keeps (s : State) (p : Nat) (write : Bool) (a : Nat) (st : AccStatus) :
    (State.stashFault s p write a st).mem = s.mem ∧ (State.stashFault s p write a st).pending = s.pending := by
  simp [State.stashFault]
@[simp] theorem State.stashWrite_keeps (s : State) (p a : Nat) (l : List (Byte × Bool)) :
    (State.stashWrite s p a l).2.pending = s.pending := by
  unfold State.stashWrite; grind [State.spaceWrite_keeps, State.stashFault_keeps]
@[simp] theorem State.clearHeaders_keeps (s : State) (p : Nat) :
    (State.clearHeaders s p).pending = s.pending := by
  unfold State.clearHeaders
  split
  · rfl
  · refine foldl_inv (fun r : Bool × State => r.2.pending = s.pending) _ _ _ rfl ?_
    rintro ⟨k, t⟩ i h1
    dsimp only at h1 ⊢
    split <;> simp [h1]
@[simp] theorem State.stgStart_keeps (s : State) (p : Nat) :
    (State.stgStart s p).pending = s.pending := by
  simp [State.stgStart]
@[simp] theorem State.stgStop_keeps (s : State) (p : Nat) :
    (State.stgStop s p).mem = s.mem ∧ (State.stgStop s p).pending = s.pending := by
  simp [State.stgStop]
@[simp] theorem State.nextStep_keeps (s : State) (p : Nat) :
    (State.nextStep s p).mem = s.mem ∧ (State.nextStep s p).pending = s.pending := by
  simp [State.nextStep]
@[simp] theorem State.stgCtrl_keeps (s : State) (p : Nat) (val : Word64) :
    (State.stgCtrl s p val).pending = s.pending := by
  simp [State.stgCtrl]
theorem stgCtrl_keeps (who : Requester) (p : Nat) (val : Word64) (s : State) {t : State} (h :
    (stgCtrl who p val s) = .next t) :
    t.pending = s.pending := by
  cases h; simp
theorem execStgStart_keeps (who : Requester) (p : Nat) (s : State) {t : State} (h : (execStgStart who p s) = .next t) :
    t.pending = s.pending := by
  unfold execStgStart at h; exact stgCtrl_keeps (h := h)
theorem execStgStop_keeps (who : Requester) (p : Nat) (s : State) {t : State} (h : (execStgStop who p s) = .next t) :
    t.pending = s.pending := by
  unfold execStgStop at h; exact stgCtrl_keeps (h := h)
theorem execNextstep_keeps (who : Requester) (p : Nat) (s : State) {t : State} (h : (execNextstep who p s) = .next t) :
    t.pending = s.pending := by
  unfold execNextstep at h; exact stgCtrl_keeps (h := h)
@[simp] theorem State.inject_keeps (s : State) (p : Nat) (val : Word64) :
    (State.inject s p val).mem = s.mem ∧ (State.inject s p val).pending = s.pending := by
  simp [State.inject]
theorem execStgInject_keeps (who : Requester) (p : Nat) (val : Word64) (s : State) {t : State} (h :
    (execStgInject who p val s) = .next t) :
    t.mem = s.mem ∧ t.pending = s.pending := by
  cases h; simp
theorem execTagMessageArrival_keeps (p : Nat) (s : State) {t : State} (h : (execTagMessageArrival p s) = .next t) :
    t.mem = s.mem ∧ t.pending = s.pending := by
  unfold execTagMessageArrival at h; (repeat' split at h) <;> cases h <;> simp
@[simp] theorem State.fwdDone_keeps (s : State) (p t ord : Nat) :
    (State.fwdDone s p t ord).mem = s.mem ∧ (State.fwdDone s p t ord).pending = s.pending := by
  simp [State.fwdDone]
@[simp] theorem State.bwdDone_keeps (s : State) (p t : Nat) :
    (State.bwdDone s p t).mem = s.mem ∧ (State.bwdDone s p t).pending = s.pending := by
  simp [State.bwdDone]
@[simp] theorem State.doneReport_keeps (s : State) (p : Nat) (m : Message) :
    (State.doneReport s p m).mem = s.mem ∧ (State.doneReport s p m).pending = s.pending := by
  unfold State.doneReport; grind [State.bwdDone_keeps, State.fput_keeps, State.fsat_keeps, State.fwdDone_keeps, State.upSched_keeps]
@[simp] theorem State.controlMsg_keeps (s : State) (p q : Nat) (m : Message) :
    (State.controlMsg s p q m).mem = s.mem ∧ (State.controlMsg s p q m).pending = s.pending := by
  simp [State.controlMsg]
theorem State.hubTake_keeps (s : State) (src : Endpoint) (u : HubUnit) (want : Nat → Bool) {r} (h :
    (State.hubTake s src u want) = some r) :
    r.2.2.mem = s.mem ∧ r.2.2.pending = s.pending := by
  unfold State.hubTake at h; (repeat' split at h) <;> first | (cases h; simp; done) | (cases h; done) | (rename_i heq _ _; have kk := State.oldest_keeps (h := heq); cases h; simp at kk; simp [kk])
theorem execDoneReport_keeps (src : Endpoint) (p : Nat) (s : State) {t : State} (h :
    (execDoneReport src p s) = .next t) :
    t.mem = s.mem ∧ t.pending = s.pending := by
  unfold execDoneReport at h; (repeat' split at h) <;> first | (cases h; simp; done) | (cases h; done) | (rename_i heq; have kk := State.hubTake_keeps (h := heq); cases h; simp at kk; simp [kk])
theorem execControlMessage_keeps (src : Endpoint) (p : Nat) (s : State) {t : State} (h :
    (execControlMessage src p s) = .next t) :
    t.mem = s.mem ∧ t.pending = s.pending := by
  unfold execControlMessage at h; (repeat' split at h) <;> first | (cases h; simp; done) | (cases h; done) | (rename_i heq; have kk := State.hubTake_keeps (h := heq); cases h; simp at kk; simp [kk])
theorem State.sendAll_keeps (s : State) (p : Nat) (ws : List Word32) {r} (h : (State.sendAll s p ws) = some r) :
    r.mem = s.mem ∧ r.pending = s.pending := by
  unfold State.sendAll at h
  split at h
  · cases h
    refine foldl_inv (fun q : State => q.mem = s.mem ∧ q.pending = s.pending) _ _ _ ⟨rfl, rfl⟩ ?_
    rintro q l ⟨h1, h2⟩
    generalize hg : q.hubSend _ l _ _ = o
    cases o with
    | none => exact ⟨h1, h2⟩
    | some u => have k := State.hubSend_keeps (h := hg); exact ⟨k.1.trans h1, k.2.trans h2⟩
  · cases h
@[simp] theorem State.launched_keeps (s : State) (p t : Nat) (back : Bool) (ord : Nat) :
    (State.launched s p t back ord).mem = s.mem ∧ (State.launched s p t back ord).pending = s.pending := by
  simp [State.launched]
@[simp] theorem State.sendBwd_keeps (s : State) (p t : Nat) :
    (State.sendBwd s p t).mem = s.mem ∧ (State.sendBwd s p t).pending = s.pending := by
  unfold State.sendBwd; grind [State.launched_keeps, State.sendAll_keeps]
@[simp] theorem State.sendFwd_keeps (s : State) (p t : Nat) :
    (State.sendFwd s p t).mem = s.mem ∧ (State.sendFwd s p t).pending = s.pending := by
  unfold State.sendFwd; grind [State.launched_keeps, State.sendAll_keeps]
@[simp] theorem State.dispatch_keeps (s : State) (p : Nat) :
    (State.dispatch s p).mem = s.mem ∧ (State.dispatch s p).pending = s.pending := by
  unfold State.dispatch; grind [State.fsat_keeps, State.sendBwd_keeps, State.sendFwd_keeps, State.upSched_keeps]
theorem execDispatch_keeps (p : Nat) (s : State) {t : State} (h : (execDispatch p s) = .next t) :
    t.mem = s.mem ∧ t.pending = s.pending := by
  unfold execDispatch at h; (repeat' split at h) <;> cases h <;> simp
theorem execStepend_keeps (p : Nat) (s : State) {t : State} (h : (execStepend p s) = .next t) :
    t.mem = s.mem ∧ t.pending = s.pending := by
  unfold execStepend ok at h; grind [State.fput_keeps, State.sendAll_keeps]
@[simp] theorem State.emitOn_keeps (s : State) (p t k farp : Nat) (back : Bool) :
    (State.emitOn s p t k farp back).mem = s.mem ∧ (State.emitOn s p t k farp back).pending = s.pending := by
  simp [State.emitOn]
theorem execEmission_keeps (p : Nat) (s : State) {t : State} (h : (execEmission p s) = .next t) :
    t.mem = s.mem ∧ t.pending = s.pending := by
  dsimp only [execEmission, ok] at h; (repeat' split at h) <;> (try injection h with h) <;> (try subst h) <;> first | contradiction | simp | simp_all
@[simp] theorem State.putJob_keeps (s : State) (p : Nat) (out : Bool) (j : Option StashJob) :
    (State.putJob s p out j).mem = s.mem ∧ (State.putJob s p out j).pending = s.pending := by
  simp [State.putJob]
@[simp] theorem State.openOut_keeps (s : State) (p : Nat) (j : StashJob) :
    (State.openOut s p j).2.pending = s.pending := by
  simp [State.openOut]
@[simp] theorem State.openIn_keeps (s : State) (p : Nat) (j : StashJob) :
    (State.openIn s p j).2.mem = s.mem ∧ (State.openIn s p j).2.pending = s.pending := by
  unfold State.openIn; grind [State.fsat_keeps, State.spaceRead_keeps, State.stashFault_keeps, State.stgHalt_keeps]
@[simp] theorem State.chunkOut_keeps (s : State) (p : Nat) (j0 : StashJob) :
    (State.chunkOut s p j0).2.pending = s.pending := by
  unfold State.chunkOut; grind [State.fsat_keeps, State.spaceRead_keeps, State.stashFault_keeps, State.stashWrite_keeps]
@[simp] theorem State.chunkIn_keeps (s : State) (p : Nat) (j0 : StashJob) :
    (State.chunkIn s p j0).2.pending = s.pending := by
  unfold State.chunkIn; grind [State.fsat_keeps, State.spaceRead_keeps, State.stashFault_keeps, State.stashWrite_keeps]
@[simp] theorem State.stepOut_keeps (s : State) (p : Nat) (j : StashJob) :
    (State.stepOut s p j).pending = s.pending := by
  unfold State.stepOut; grind [State.chunkOut_keeps, State.openOut_keeps, State.putJob_keeps]
@[simp] theorem State.stepIn_keeps (s : State) (p : Nat) (j : StashJob) :
    (State.stepIn s p j).pending = s.pending := by
  unfold State.stepIn; grind [State.chunkIn_keeps, State.openIn_keeps, State.putJob_keeps]
theorem execStashChunk_keeps (p : Nat) (out : Bool) (s : State) {t : State} (h : (execStashChunk p out s) = .next t) :
    t.pending = s.pending := by
  unfold execStashChunk at h; (repeat' split at h) <;> cases h <;> simp
theorem execStashOutComplete_keeps (p : Nat) (s : State) {t : State} (h : (execStashOutComplete p s) = .next t) :
    t.pending = s.pending := by
  unfold execStashOutComplete ok at h; grind [State.fput_keeps, State.openOut_keeps, State.putJob_keeps, State.stashWrite_keeps]
theorem execRestoreRequest_keeps (p : Nat) (s : State) {t : State} (h : (execRestoreRequest p s) = .next t) :
    t.mem = s.mem ∧ t.pending = s.pending := by
  unfold execRestoreRequest at h; (repeat' split at h) <;> cases h <;> simp
theorem execRestoreComplete_keeps (p : Nat) (s : State) {t : State} (h : (execRestoreComplete p s) = .next t) :
    t.mem = s.mem ∧ t.pending = s.pending := by
  unfold execRestoreComplete ok at h; grind [State.fput_keeps, State.openIn_keeps, State.putJob_keeps]
@[simp] theorem State.stgWrite_keeps (s : State) (p : Nat) (r : Reg) (j : Nat) (val : Word64) :
    (State.stgWrite s p r j val).mem = s.mem ∧ (State.stgWrite s p r j val).pending = s.pending := by
  simp [State.stgWrite]
@[simp] theorem State.stgRoute_keeps (s : State) (p k : Nat) (second : Bool) (val : Word64) :
    (State.stgRoute s p k second val).mem = s.mem ∧ (State.stgRoute s p k second val).pending = s.pending := by
  simp [State.stgRoute]
@[simp] theorem State.schedReset_keeps (s : State) (p : Nat) :
    (State.schedReset s p).mem = s.mem ∧ (State.schedReset s p).pending = s.pending := by
  simp [State.schedReset]

/-! ### Training -/

theorem State.ovbTake_keeps (s : State) (src : Endpoint) (h k : Nat) {r} (h : (State.ovbTake s src h k) = some r) :
    r.2.2.mem = s.mem ∧ r.2.2.pending = s.pending := by
  unfold State.ovbTake at h; (repeat' split at h) <;> first | (cases h; simp; done) | (cases h; done) | (rename_i heq _ _; have kk := State.oldest_keeps (h := heq); cases h; simp at kk; simp [kk])
@[simp] theorem State.amaxReport_keeps (s : State) (h : Nat) (m : Message) :
    (State.amaxReport s h m).mem = s.mem ∧ (State.amaxReport s h m).pending = s.pending := by
  simp [State.amaxReport]
theorem execAmaxReport_keeps (src : Endpoint) (h : Nat) (s : State) {t : State} (h :
    (execAmaxReport src h s) = .next t) :
    t.mem = s.mem ∧ t.pending = s.pending := by
  unfold execAmaxReport ovbMessage at h
  split at h
  · cases h; exact ⟨rfl, rfl⟩
  · rename_i heq; have k := State.ovbTake_keeps _ _ _ _ heq
    cases h; simp at k; split <;> simp [k]
@[simp] theorem State.lossReport_keeps (s : State) (h : Nat) (m : Message) :
    (State.lossReport s h m).mem = s.mem ∧ (State.lossReport s h m).pending = s.pending := by
  simp [State.lossReport]
theorem execLossReport_keeps (src : Endpoint) (h : Nat) (s : State) {t : State} (h :
    (execLossReport src h s) = .next t) :
    t.mem = s.mem ∧ t.pending = s.pending := by
  unfold execLossReport ovbMessage at h
  split at h
  · cases h; exact ⟨rfl, rfl⟩
  · rename_i heq; have k := State.ovbTake_keeps _ _ _ _ heq
    cases h; simp at k; split <;> simp [k]
@[simp] theorem State.pushAmax_keeps (s : State) (h e : Nat) :
    (State.pushAmax s h e).mem = s.mem ∧ (State.pushAmax s h e).pending = s.pending := by
  simp [State.pushAmax]
@[simp] theorem State.newScale_keeps (s : State) (h e : Nat) :
    (State.newScale s h e).mem = s.mem ∧ (State.newScale s h e).pending = s.pending := by
  unfold State.newScale; grind [State.fput_keeps, State.free_keeps]
@[simp] theorem State.writeMirror_keeps (s : State) (h e : Nat) :
    (State.writeMirror s h e).pending = s.pending := by
  simp [State.writeMirror]
@[simp] theorem State.scaleUpdate_keeps (s : State) (h : Nat) :
    (State.scaleUpdate s h).pending = s.pending := by
  simp [State.scaleUpdate]
@[simp] theorem State.clearCur_keeps (s : State) (h : Nat) :
    (State.clearCur s h).mem = s.mem ∧ (State.clearCur s h).pending = s.pending := by
  simp [State.clearCur]
@[simp] theorem State.lossUpdate_keeps (s : State) (h : Nat) :
    (State.lossUpdate s h).mem = s.mem ∧ (State.lossUpdate s h).pending = s.pending := by
  simp [State.lossUpdate]
@[simp] theorem State.publish_keeps (s : State) (h : Nat) (commit : Bool) :
    (State.publish s h commit).pending = s.pending := by
  simp [State.publish]
@[simp] theorem State.stepHold_keeps (s : State) (h st : Nat) :
    (State.stepHold s h st).mem = s.mem ∧ (State.stepHold s h st).pending = s.pending := by
  simp [State.stepHold]
@[simp] theorem State.evaluate_keeps (s : State) (h : Nat) :
    (State.evaluate s h).pending = s.pending := by
  simp [State.evaluate]
@[simp] theorem State.gateRequest_keeps (s : State) (h : Nat) (m : Message) :
    (State.gateRequest s h m).pending = s.pending := by
  simp [State.gateRequest]
theorem execGateRequest_keeps (src : Endpoint) (h : Nat) (s : State) {t : State} (h :
    (execGateRequest src h s) = .next t) :
    t.pending = s.pending := by
  unfold execGateRequest ovbMessage at h
  split at h
  · cases h; rfl
  · rename_i heq; have k := State.ovbTake_keeps _ _ _ _ heq
    cases h; simp at k; split <;> simp [k]
@[simp] theorem State.gctl_keeps (s : State) (h : Nat) (val : Word64) :
    (State.gctl s h val).pending = s.pending := by
  simp [State.gctl]
theorem gctl_keeps (who : Requester) (h : Nat) (val : Word64) (s : State) {t : State} (h :
    (gctl who h val s) = .next t) :
    t.pending = s.pending := by
  cases h; simp
theorem execGateRelease_keeps (who : Requester) (h : Nat) (s : State) {t : State} (h :
    (execGateRelease who h s) = .next t) :
    t.pending = s.pending := by
  cases h; simp
theorem execGateSkip_keeps (who : Requester) (h : Nat) (s : State) {t : State} (h : (execGateSkip who h s) = .next t) :
    t.pending = s.pending := by
  cases h; simp
theorem execHoldnext_keeps (who : Requester) (h : Nat) (s : State) {t : State} (h : (execHoldnext who h s) = .next t) :
    t.pending = s.pending := by
  cases h; simp
@[simp] theorem State.clearStep_keeps (s : State) (h : Nat) :
    (State.clearStep s h).mem = s.mem ∧ (State.clearStep s h).pending = s.pending := by
  simp [State.clearStep]
theorem execVerdictSend_keeps (h : Nat) (s : State) {t : State} (h : (execVerdictSend h s) = .next t) :
    t.mem = s.mem ∧ t.pending = s.pending := by
  unfold execVerdictSend at h
  split at h
  · cases h; exact ⟨rfl, rfl⟩
  · split at h
    · cases h; exact ⟨rfl, rfl⟩
    · split at h
      · cases h
        simp
        refine foldl_inv (fun q : State => q.mem = s.mem ∧ q.pending = s.pending) _ _ _ ⟨rfl, rfl⟩ ?_
        rintro q l ⟨h1, h2⟩
        generalize hg : q.hubSend _ l _ _ = o
        cases o with
        | none => exact ⟨h1, h2⟩
        | some u => have k := State.hubSend_keeps (h := hg); exact ⟨k.1.trans h1, k.2.trans h2⟩
      · cases h; exact ⟨rfl, rfl⟩
@[simp] theorem State.reduce1_keeps (s : State) (src h j i : Nat) (x : List Byte) (pois : Bool) :
    (State.reduce1 s src h j i x pois).pending = s.pending := by
  simp [State.reduce1]
@[simp] theorem State.reduceAll_keeps (s : State) (src h j : Nat) (pw : List Nat) (a5 a6 a7 : Nat) (a8 : List Byte) :
    (State.reduceAll s src h j pw a5 a6 a7 a8).pending = s.pending := by
  induction a5 generalizing s a6 a7 a8 with
  | zero => rfl
  | succ k ih => unfold State.reduceAll; dsimp only; split <;> simp [ih]
@[simp] theorem State.countRound_keeps (s : State) (h j n : Nat) :
    (State.countRound s h j n).mem = s.mem ∧ (State.countRound s h j n).pending = s.pending := by
  simp [State.countRound]
@[simp] theorem State.addRun_keeps (s : State) (src slot i : Nat) (data : List Byte) (pw : List Nat) :
    (State.addRun s src slot i data pw).pending = s.pending := by
  simp [State.addRun]
@[simp] theorem State.noSlot_keeps (s : State) (slot : Nat) :
    (State.noSlot s slot).mem = s.mem ∧ (State.noSlot s slot).pending = s.pending := by
  simp [State.noSlot]
@[simp] theorem State.poisonedSlot_keeps (s : State) (slot : Nat) :
    (State.poisonedSlot s slot).mem = s.mem ∧ (State.poisonedSlot s slot).pending = s.pending := by
  simp [State.poisonedSlot]
@[simp] theorem State.roundInc_keeps (s : State) (h j : Nat) :
    (State.roundInc s h j).mem = s.mem ∧ (State.roundInc s h j).pending = s.pending := by
  simp [State.roundInc]
theorem execRoundCompletion_keeps (h slot : Nat) (s : State) {t : State} (h :
    (execRoundCompletion h slot s) = .next t) :
    t.mem = s.mem ∧ t.pending = s.pending := by
  unfold execRoundCompletion at h; (repeat' split at h) <;> cases h <;> simp
@[simp] theorem State.ovbSt_keeps (s : State) (h st : Nat) :
    (State.ovbSt s h st).mem = s.mem ∧ (State.ovbSt s h st).pending = s.pending := by
  simp [State.ovbSt]
@[simp] theorem State.ovbWrite_keeps (s : State) (h : Nat) (r : Reg) (j : Nat) (val : Word64) :
    (State.ovbWrite s h r j val).mem = s.mem ∧ (State.ovbWrite s h r j val).pending = s.pending := by
  simp [State.ovbWrite]
@[simp] theorem State.ovbRoute_keeps (s : State) (h k : Nat) (second : Bool) (val : Word64) :
    (State.ovbRoute s h k second val).mem = s.mem ∧ (State.ovbRoute s h k second val).pending = s.pending := by
  simp [State.ovbRoute]
theorem execRouteWrite_keeps (who : Requester) (tbl : RouteTable) (owner entry : Nat) (second : Bool) (val : Word64)
    (s : State) {t : State} (h : (execRouteWrite who tbl owner entry second val s) = .next t) :
    t.mem = s.mem ∧ t.pending = s.pending := by
  dsimp only [execRouteWrite, ok] at h; (repeat' split at h) <;> (try injection h with h) <;> (try subst h) <;> first | contradiction | simp | simp_all
@[simp] theorem State.ovbReset_keeps (s : State) (h : Nat) :
    (State.ovbReset s h).mem = s.mem ∧ (State.ovbReset s h).pending = s.pending := by
  simp [State.ovbReset]

/-! ### Residency -/

@[simp] theorem State.putNctx_keeps (s : State) :
    (State.putNctx s).mem = s.mem ∧ (State.putNctx s).pending = s.pending := by
  simp [State.putNctx]
@[simp] theorem State.ctxEvent_keeps (s : State) (c : Nat) :
    (State.ctxEvent s c).mem = s.mem ∧ (State.ctxEvent s c).pending = s.pending := by
  simp [State.ctxEvent]
@[simp] theorem State.putMask_keeps (s : State) (c : Nat) :
    (State.putMask s c).mem = s.mem ∧ (State.putMask s c).pending = s.pending := by
  simp [State.putMask]
@[simp] theorem State.wakeAll_keeps (s : State) (l : List Nat) :
    (State.wakeAll s l).mem = s.mem ∧ (State.wakeAll s l).pending = s.pending := by
  simp [State.wakeAll]
@[simp] theorem State.dropOp_keeps (s : State) (c : Nat) :
    (State.dropOp s c).mem = s.mem ∧ (State.dropOp s c).pending = s.pending := by
  simp [State.dropOp]
@[simp] theorem State.ldres_keeps (s : State) (c st v ib pb deficit : Nat) :
    (State.ldres s c st v ib pb deficit).mem = s.mem ∧ (State.ldres s c st v ib pb deficit).pending = s.pending := by
  simp [State.ldres]
@[simp] theorem State.rmRead_keeps (s : State) (c a n : Nat) :
    (State.rmRead s c a n).2.2.mem = s.mem ∧ (State.rmRead s c a n).2.2.pending = s.pending := by
  simp [State.rmRead]
@[simp] theorem State.unbind1_keeps (s : State) (op : Nat) (i : BoreBind) :
    (State.unbind1 s op i).2.mem = s.mem ∧ (State.unbind1 s op i).2.pending = s.pending := by
  unfold State.unbind1
  dsimp only
  refine foldl_inv (fun r : Bool × State => r.2.mem = s.mem ∧ r.2.pending = s.pending) _ _ _ ?_ ?_
  · simp
  · rintro ⟨x, t⟩ ch ⟨h1, h2⟩
    dsimp only at h1 h2 ⊢
    (repeat' split) <;> simp [h1, h2]
@[simp] theorem State.unbind_keeps (s : State) (c op : Nat) :
    (State.unbind s c op).mem = s.mem ∧ (State.unbind s c op).pending = s.pending := by
  unfold State.unbind
  dsimp only
  simp only [State.putMask_keeps, State.fput_keeps, State.upCtx_keeps, State.releaseBlocks_keeps]
  have k : let r := (s.ctx c).binds.foldl (fun (k, s) i =>
      let (k', s) := s.unbind1 op i
      (k || k', s)) (false, s); r.2.mem = s.mem ∧ r.2.pending = s.pending := by
    refine foldl_inv (fun r : Bool × State => r.2.mem = s.mem ∧ r.2.pending = s.pending) _ _ _ ⟨rfl, rfl⟩ ?_
    rintro ⟨x, t⟩ ch ⟨h1, h2⟩
    dsimp only at h1 h2 ⊢
    simp [h1, h2]
  refine ⟨(each_mem _ _ _ fun s x => ?_).trans k.1, (each_pending _ _ _ fun s x => ?_).trans k.2⟩ <;> simp
@[simp] theorem State.failLoad_keeps (s : State) (c : Nat) :
    (State.failLoad s c).mem = s.mem ∧ (State.failLoad s c).pending = s.pending := by
  simp [State.failLoad]
@[simp] theorem State.setUpBore_keeps (s : State) (x : Ctx) (r : BoreRec) (i : BoreBind) :
    (State.setUpBore s x r i).mem = s.mem ∧ (State.setUpBore s x r i).pending = s.pending := by
  simp [State.setUpBore]
@[simp] theorem State.beginBind_keeps (s : State) (c k : Nat) (v : Variant) (bores : List Nat) :
    (State.beginBind s c k v bores).mem = s.mem ∧ (State.beginBind s c k v bores).pending = s.pending := by
  simp [State.beginBind]
@[simp] theorem State.beginEvict_keeps (s : State) (c : Nat) :
    (State.beginEvict s c).mem = s.mem ∧ (State.beginEvict s c).pending = s.pending := by
  simp [State.beginEvict]
@[simp] theorem State.checkLoad_keeps (s : State) (x : RmCmd) :
    (State.checkLoad s x).mem = s.mem ∧ (State.checkLoad s x).pending = s.pending := by
  unfold State.checkLoad
  dsimp only
  split
  · simp
  · have k := State.rmRead_keeps s x.target (s.fget Fld.CTX_CFG_IMAGE 0 x.target * 64) 64
    split
    · rename_i heq; rw [heq] at k; simp at k; simp [k]
    · rename_i h t heq; rw [heq] at k; simp at k
      split
      · simp [k]
      · rename_i n hn
        have k2 := State.rmRead_keeps t x.target (s.fget Fld.CTX_CFG_IMAGE 0 x.target * 64) n
        split
        · rename_i heq2; rw [heq2] at k2; simp at k2; simp [k, k2]
        · rename_i heq2; rw [heq2] at k2; simp at k2
          (repeat' split) <;> simp [k, k2]
@[simp] theorem State.rouse_keeps (s : State) (b : Nat) :
    (State.rouse s b).mem = s.mem ∧ (State.rouse s b).pending = s.pending := by
  simp [State.rouse]
@[simp] theorem State.beginRebuild_keeps (s : State) (p : Nat) :
    (State.beginRebuild s p).mem = s.mem ∧ (State.beginRebuild s p).pending = s.pending := by
  unfold State.beginRebuild; split <;> simp
@[simp] theorem State.rmRun_keeps (p a1 : Nat) (a2 : State) :
    (State.rmRun p a1 a2).mem = a2.mem ∧ (State.rmRun p a1 a2).pending = a2.pending := by
  induction a1 generalizing a2 with
  | zero => exact ⟨rfl, rfl⟩
  | succ n ih => unfold State.rmRun; (repeat' split) <;> simp [ih]
@[simp] theorem State.rmGo_keeps (s : State) (p : Nat) :
    (State.rmGo s p).mem = s.mem ∧ (State.rmGo s p).pending = s.pending := by
  simp [State.rmGo]
@[simp] theorem State.beginLoad_keeps (s : State) (c : Nat) (demand : Bool) :
    (State.beginLoad s c demand).mem = s.mem ∧ (State.beginLoad s c demand).pending = s.pending := by
  simp [State.beginLoad]
@[simp] theorem State.initBore_keeps (s : State) (r : BoreRec) (i : BoreBind) (d : List Byte) (saved : Bool) :
    (State.initBore s r i d saved).pending = s.pending := by
  unfold State.initBore
  refine foldl_inv (fun q : State => q.pending = s.pending) _ _ _ rfl ?_
  rintro q e h1
  dsimp only
  (repeat' split) <;> simp [h1]
@[simp] theorem State.restoreBore_keeps (s : State) (c : Nat) (i : BoreBind) (a : Nat) :
    (State.restoreBore s c i a).2.pending = s.pending := by
  unfold State.restoreBore
  refine foldl_inv (fun r : Except Nat Nat × State => r.2.pending = s.pending) _ _ _ rfl ?_
  rintro ⟨x, t⟩ h h1
  dsimp only at h1 ⊢
  split
  · exact h1
  · rename_i a
    have k := State.rmRead_keeps t c a (256 * t.fget Fld.LIG_HDESC_SIZE i.bore h)
    split
    · rename_i heq; rw [heq] at k; simp at k; simp [k, h1]
    · rename_i heq; rw [heq] at k; simp at k
      split <;> simp [k, h1]
@[simp] theorem State.routeBore_keeps (s : State) (x : Ctx) (r : BoreRec) (i : BoreBind) :
    (State.routeBore s x r i).mem = s.mem ∧ (State.routeBore s x r i).pending = s.pending := by
  simp [State.routeBore]
@[simp] theorem State.progBore_keeps (s : State) (r : BoreRec) (i : BoreBind) (d : List Byte) :
    (State.progBore s r i d).pending = s.pending := by
  simp [State.progBore]
@[simp] theorem State.recordBore_keeps (s : State) (c : Nat) (x : Ctx) (r : BoreRec) (i : BoreBind) :
    (State.recordBore s c x r i).pending = s.pending := by
  unfold State.recordBore; (repeat' split) <;> simp
theorem State.forward_keeps (s : State) (c ib dq : Nat) (m : Message) {r} (h : (State.forward s c ib dq m) = some r) :
    r.mem = s.mem ∧ r.pending = s.pending := by
  unfold State.forward at h; (repeat' split at h) <;> cases h <;> simp
@[simp] theorem State.deliverTo_keeps (s : State) (c ib dq : Nat) (m : Message) :
    (State.deliverTo s c ib dq m).mem = s.mem ∧ (State.deliverTo s c ib dq m).pending = s.pending := by
  unfold State.deliverTo
  generalize hg : s.forward c ib dq m = o
  cases o with
  | none => simp
  | some u => have k := State.forward_keeps (h := hg); exact k
@[simp] theorem State.deliverHeld_keeps (s : State) (c : Nat) :
    (State.deliverHeld s c).mem = s.mem ∧ (State.deliverHeld s c).pending = s.pending := by
  simp [State.deliverHeld]
@[simp] theorem State.bindCopy_keeps (s : State) (c : Nat) (v : Variant) :
    (State.bindCopy s c v).2.pending = s.pending := by
  unfold State.bindCopy
  dsimp only
  generalize hu : List.foldl _ s (s.ctx c).binds = u
  have a : u.pending = s.pending := by
    rw [← hu]
    refine foldl_inv (fun q : State => q.pending = s.pending) _ _ _ rfl ?_
    rintro q i h1; simp [h1]
  split
  · exact a
  · generalize hr : List.foldl _ _ _ = r
    have k : r.2.pending = s.pending := by
      rw [← hr]
      refine foldl_inv (fun r : Except Nat Nat × State => r.2.pending = s.pending) _ _ _ a ?_
      rintro ⟨x, t⟩ i h1
      dsimp only at h1 ⊢
      split <;> simp [h1]
    split <;> exact k
@[simp] theorem State.bindEnd_keeps (s : State) (c : Nat) (v : Variant) :
    (State.bindEnd s c v).pending = s.pending := by
  simp [State.bindEnd]
theorem execContextBinding_keeps (c : Nat) (s : State) {t : State} (h : (execContextBinding c s) = .next t) :
    t.pending = s.pending := by
  unfold execContextBinding ok at h; grind [State.bindCopy_keeps, State.bindEnd_keeps, State.failLoad_keeps, State.ldres_keeps, State.rmGo_keeps, State.wakeAll_keeps]
@[simp] theorem State.rmDo_keeps (s : State) (op c : Nat) :
    (State.rmDo s op c).1.mem = s.mem ∧ (State.rmDo s op c).1.pending = s.pending := by
  unfold State.rmDo
  dsimp only
  (repeat' split) <;> simp
@[simp] theorem State.prtSt_keeps (s : State) (op c st : Nat) :
    (State.prtSt s op c st).mem = s.mem ∧ (State.prtSt s op c st).pending = s.pending := by
  simp [State.prtSt]
@[simp] theorem State.prtCmd_keeps (s : State) (op c : Nat) :
    (State.prtCmd s op c).mem = s.mem ∧ (State.prtCmd s op c).pending = s.pending := by
  simp [State.prtCmd]
theorem prtCmd_keeps (who : Requester) (op c : Nat) (s : State) {t : State} (h : (prtCmd who op c s) = .next t) :
    t.mem = s.mem ∧ t.pending = s.pending := by
  cases h; simp
theorem execCreate_keeps (who : Requester) (c : Nat) (s : State) {t : State} (h : (execCreate who c s) = .next t) :
    t.mem = s.mem ∧ t.pending = s.pending := by
  unfold execCreate at h; exact prtCmd_keeps (h := h)
theorem execLoad_keeps (who : Requester) (c : Nat) (s : State) {t : State} (h : (execLoad who c s) = .next t) :
    t.mem = s.mem ∧ t.pending = s.pending := by
  unfold execLoad at h; exact prtCmd_keeps (h := h)
theorem execEvict_keeps (who : Requester) (c : Nat) (s : State) {t : State} (h : (execEvict who c s) = .next t) :
    t.mem = s.mem ∧ t.pending = s.pending := by
  unfold execEvict at h; exact prtCmd_keeps (h := h)
theorem execPrtStart_keeps (who : Requester) (c : Nat) (s : State) {t : State} (h : (execPrtStart who c s) = .next t) :
    t.mem = s.mem ∧ t.pending = s.pending := by
  unfold execPrtStart at h; exact prtCmd_keeps (h := h)
theorem execPrtEnd_keeps (who : Requester) (c : Nat) (s : State) {t : State} (h : (execPrtEnd who c s) = .next t) :
    t.mem = s.mem ∧ t.pending = s.pending := by
  unfold execPrtEnd at h; exact prtCmd_keeps (h := h)
theorem execPrtReset_keeps (who : Requester) (c : Nat) (s : State) {t : State} (h : (execPrtReset who c s) = .next t) :
    t.mem = s.mem ∧ t.pending = s.pending := by
  unfold execPrtReset at h; exact prtCmd_keeps (h := h)
theorem execDestroy_keeps (who : Requester) (c : Nat) (s : State) {t : State} (h : (execDestroy who c s) = .next t) :
    t.mem = s.mem ∧ t.pending = s.pending := by
  unfold execDestroy at h; exact prtCmd_keeps (h := h)
@[simp] theorem State.saveBore_keeps (s : State) (c : Nat) (i : BoreBind) (a : Nat) :
    (State.saveBore s c i a).2.pending = s.pending := by
  unfold State.saveBore
  refine foldl_inv (fun r : Option Nat × State => r.2.pending = s.pending) _ _ _ rfl ?_
  rintro ⟨x, t⟩ h h1
  dsimp only at h1 ⊢
  (repeat' split) <;> simp [h1]
@[simp] theorem State.evictDone_keeps (s : State) (c : Nat) :
    (State.evictDone s c).pending = s.pending := by
  unfold State.evictDone
  dsimp only
  have k : let r := (s.ctx c).binds.foldl (fun (a, s) i =>
      match a with
      | some a => s.saveBore c i a
      | none => (none, s)) (some (s.fget Fld.CTX_SAVE_SAVE 0 c * 64), s); r.2.pending = s.pending := by
    refine foldl_inv (fun r : Option Nat × State => r.2.pending = s.pending) _ _ _ rfl ?_
    rintro ⟨x, t⟩ ch h1
    dsimp only at h1 ⊢
    split <;> simp [h1]
  dsimp only at k
  split
  · rename_i heq; have kk := (congrArg (fun r : Option Nat × State => r.2.pending) heq).symm.trans k; dsimp only at kk; simp [kk]
  · rename_i heq; have kk := (congrArg (fun r : Option Nat × State => r.2.pending) heq).symm.trans k; dsimp only at kk
    simp only [State.ctxEvent_keeps, State.putCx_keeps, State.dropOp_keeps, State.dropTlb_keeps, State.unbind_keeps]; simp [kk]
theorem execEvictionSave_keeps (c : Nat) (s : State) {t : State} (h : (execEvictionSave c s) = .next t) :
    t.pending = s.pending := by
  unfold execEvictionSave ok at h; grind [State.evictDone_keeps, State.rmGo_keeps, State.wakeAll_keeps]
@[simp] theorem State.copyFault_keeps (s : State) (c b : Nat) :
    (State.copyFault s c b).mem = s.mem ∧ (State.copyFault s c b).pending = s.pending := by
  simp [State.copyFault]
@[simp] theorem State.endingDone_keeps (s : State) (c : Nat) :
    (State.endingDone s c).mem = s.mem ∧ (State.endingDone s c).pending = s.pending := by
  unfold State.endingDone; simp; grind [State.copyFault_keeps, State.ctxEvent_keeps, State.dropOp_keeps, State.dropTlb_keeps, State.fput_keeps, State.putCx_keeps, State.unbind_keeps]
theorem execEndingRelease_keeps (c : Nat) (s : State) {t : State} (h : (execEndingRelease c s) = .next t) :
    t.mem = s.mem ∧ t.pending = s.pending := by
  unfold execEndingRelease ok at h; grind [State.endingDone_keeps, State.rmGo_keeps, State.wakeAll_keeps]
@[simp] theorem State.startOn_keeps (s : State) (b c : Nat) :
    (State.startOn s b c).mem = s.mem ∧ (State.startOn s b c).pending = s.pending := by
  unfold State.startOn; split <;> simp
theorem execContextStartDispatch_keeps (b : Nat) (s : State) {t : State} (h :
    (execContextStartDispatch b s) = .next t) :
    t.mem = s.mem ∧ t.pending = s.pending := by
  unfold execContextStartDispatch at h; (repeat' split at h) <;> cases h <;> simp
@[simp] theorem State.holdMsg_keeps (s : State) (c ib dq : Nat) (m : Message) :
    (State.holdMsg s c ib dq m).mem = s.mem ∧ (State.holdMsg s c ib dq m).pending = s.pending := by
  simp [State.holdMsg]
@[simp] theorem State.rmArrive_keeps (s : State) (c ib dq : Nat) (m : Message) :
    (State.rmArrive s c ib dq m).mem = s.mem ∧ (State.rmArrive s c ib dq m).pending = s.pending := by
  simp [State.rmArrive]
theorem execResidencyArrival_keeps (src : Endpoint) (s : State) {t : State} (h :
    (execResidencyArrival src s) = .next t) :
    t.mem = s.mem ∧ t.pending = s.pending := by
  unfold execResidencyArrival at h; (repeat' split at h) <;> first | (cases h; simp; done) | (cases h; done) | (rename_i heq; have kk := State.oldest_keeps (h := heq); cases h; simp at kk; simp [kk])
@[simp] theorem State.ctxInval_keeps (s : State) (c : Nat) :
    (State.ctxInval s c).mem = s.mem ∧ (State.ctxInval s c).pending = s.pending := by
  simp [State.ctxInval]
theorem execCtxInval_keeps (who : Requester) (c : Nat) (s : State) {t : State} (h : (execCtxInval who c s) = .next t) :
    t.mem = s.mem ∧ t.pending = s.pending := by
  cases h; simp
theorem execInvalidationComplete_keeps (c : Nat) (s : State) {t : State} (h :
    (execInvalidationComplete c s) = .next t) :
    t.mem = s.mem ∧ t.pending = s.pending := by
  unfold execInvalidationComplete at h; (repeat' split at h) <;> cases h <;> simp
@[simp] theorem State.ctxWrite_keeps (s : State) (c : Nat) (r : Reg) (val : Word64) :
    (State.ctxWrite s c r val).mem = s.mem ∧ (State.ctxWrite s c r val).pending = s.pending := by
  simp [State.ctxWrite]

end Sys2Proof.Machine
end

