-- ==== Sys2Proof/Laws/CanonicalTraining.lean ====
section
/-!
SUPPORT. Laws/CanonicalTraining.lean: schedulers, health sets and contexts: the operations and commands that write memory keep it in its canonical form.
-/

namespace Sys2Proof.Machine

/-! ### Stage -/

theorem State.stashWrite_wf (s : State) (p a : Nat) (l : List (Byte × Bool)) (hwf : Memory.wf s.mem = true) :
    Memory.wf (State.stashWrite s p a l).2.mem = true := by
  unfold State.stashWrite; dsimp only; (repeat' split) <;> simp [hwf, State.spaceWrite_wf]
theorem State.clearHeaders_wf (s : State) (p : Nat) (hwf : Memory.wf s.mem = true) :
    Memory.wf (State.clearHeaders s p).mem = true := by
  unfold State.clearHeaders
  split
  · exact hwf
  · refine foldl_inv (fun r : Bool × State => Memory.wf r.2.mem = true) _ _ _ hwf ?_
    rintro ⟨k, t⟩ i h1
    dsimp only at h1 ⊢
    split
    · exact State.stashWrite_wf _ _ _ _ h1
    · exact h1
theorem State.stgStart_wf (s : State) (p : Nat) (hwf : Memory.wf s.mem = true) :
    Memory.wf (State.stgStart s p).mem = true := by
  unfold State.stgStart; (repeat' split) <;> simp [hwf, State.clearHeaders_wf]
theorem State.stgCtrl_wf (s : State) (p : Nat) (val : Word64) (hwf : Memory.wf s.mem = true) :
    Memory.wf (State.stgCtrl s p val).mem = true := by
  unfold State.stgCtrl; dsimp only; (repeat' split) <;> simp [hwf, State.stgStart_wf]
theorem stgCtrl_wf (who : Requester) (p : Nat) (val : Word64) (s : State) (hwf : Memory.wf s.mem = true) {t : State}
    (h : (stgCtrl who p val s) = .next t) :
    Memory.wf t.mem = true := by
  cases h; simp [hwf, hubReg_wf, State.stgCtrl_wf]
theorem execStgStart_wf (who : Requester) (p : Nat) (s : State) (hwf : Memory.wf s.mem = true) {t : State} (h :
    (execStgStart who p s) = .next t) :
    Memory.wf t.mem = true := by
  unfold execStgStart at h; exact stgCtrl_wf (hwf := hwf) (h := h)
theorem execStgStop_wf (who : Requester) (p : Nat) (s : State) (hwf : Memory.wf s.mem = true) {t : State} (h :
    (execStgStop who p s) = .next t) :
    Memory.wf t.mem = true := by
  unfold execStgStop at h; exact stgCtrl_wf (hwf := hwf) (h := h)
theorem execNextstep_wf (who : Requester) (p : Nat) (s : State) (hwf : Memory.wf s.mem = true) {t : State} (h :
    (execNextstep who p s) = .next t) :
    Memory.wf t.mem = true := by
  unfold execNextstep at h; exact stgCtrl_wf (hwf := hwf) (h := h)
theorem State.openOut_wf (s : State) (p : Nat) (j : StashJob) (hwf : Memory.wf s.mem = true) :
    Memory.wf (State.openOut s p j).2.mem = true := by
  simp [State.openOut, hwf, State.stashWrite_wf]
theorem State.chunkOut_wf (s : State) (p : Nat) (j0 : StashJob) (hwf : Memory.wf s.mem = true) :
    Memory.wf (State.chunkOut s p j0).2.mem = true := by
  unfold State.chunkOut
  dsimp only
  generalize State.jobNext s p j0 = j
  split
  · exact hwf
  · split
    · simp [hwf]
    · generalize hz : State.stashWrite _ _ _ _ = z
      have k2 : Memory.wf z.2.mem = true := by rw [← hz]; exact State.stashWrite_wf _ _ _ _ (by simp [hwf])
      split
      · exact k2
      · simpa using k2
theorem State.chunkIn_wf (s : State) (p : Nat) (j0 : StashJob) (hwf : Memory.wf s.mem = true) :
    Memory.wf (State.chunkIn s p j0).2.mem = true := by
  unfold State.chunkIn
  dsimp only
  generalize State.jobNext s p j0 = j
  split
  · exact hwf
  · have k1 := State.spaceRead_keeps s (.context (s.sctx p)) (s.slotOff p j.tag (low6 (s.fget Fld.STH_EOFF_SLOTOFF p j.e) + j.off)) (min 4096 (s.entBytes p j.e - j.off))
    split
    · simp [hwf]
    · generalize hz : State.stashWrite _ _ _ _ = z
      have k2 : Memory.wf z.2.mem = true := by rw [← hz]; exact State.stashWrite_wf _ _ _ _ (by simp [hwf])
      split
      · exact k2
      · simpa using k2
theorem State.stepOut_wf (s : State) (p : Nat) (j : StashJob) (hwf : Memory.wf s.mem = true) :
    Memory.wf (State.stepOut s p j).mem = true := by
  unfold State.stepOut; dsimp only; (repeat' split) <;> simp [hwf, State.chunkOut_wf, State.openOut_wf]
theorem State.stepIn_wf (s : State) (p : Nat) (j : StashJob) (hwf : Memory.wf s.mem = true) :
    Memory.wf (State.stepIn s p j).mem = true := by
  unfold State.stepIn; dsimp only; (repeat' split) <;> simp [hwf, State.chunkIn_wf]
theorem execStashChunk_wf (p : Nat) (out : Bool) (s : State) (hwf : Memory.wf s.mem = true) {t : State} (h :
    (execStashChunk p out s) = .next t) :
    Memory.wf t.mem = true := by
  unfold execStashChunk at h; (repeat' split at h) <;> cases h <;> simp [hwf, State.stepIn_wf, State.stepOut_wf]
theorem execStashOutComplete_wf (p : Nat) (s : State) (hwf : Memory.wf s.mem = true) {t : State} (h :
    (execStashOutComplete p s) = .next t) :
    Memory.wf t.mem = true := by
  unfold execStashOutComplete at h; dsimp only [ok] at h; (repeat' split at h) <;> cases h <;> simp [hwf, State.stashWrite_wf, State.openOut_wf]

/-! ### Training -/

theorem State.writeMirror_wf (s : State) (h e : Nat) (hwf : Memory.wf s.mem = true) :
    Memory.wf (State.writeMirror s h e).mem = true := by
  simp [State.writeMirror, hwf, State.hubWrite_wf]
theorem State.scaleUpdate_wf (s : State) (h : Nat) (hwf : Memory.wf s.mem = true) :
    Memory.wf (State.scaleUpdate s h).mem = true := by
  unfold State.scaleUpdate; dsimp only; refine each_wf _ _ _ (fun s x hwf => ?_) hwf; (repeat' split) <;> simp [hwf, State.writeMirror_wf]
theorem State.publish_wf (s : State) (h : Nat) (commit : Bool) (hwf : Memory.wf s.mem = true) :
    Memory.wf (State.publish s h commit).mem = true := by
  simp [State.publish, hwf, mem_wf_ite, State.scaleUpdate_wf]
theorem State.evaluate_wf (s : State) (h : Nat) (hwf : Memory.wf s.mem = true) :
    Memory.wf (State.evaluate s h).mem = true := by
  unfold State.evaluate; dsimp only; (repeat' split) <;> simp [hwf, State.publish_wf]
theorem State.gateRequest_wf (s : State) (h : Nat) (m : Message) (hwf : Memory.wf s.mem = true) :
    Memory.wf (State.gateRequest s h m).mem = true := by
  unfold State.gateRequest; (repeat' split) <;> simp [hwf, mem_wf_ite, State.evaluate_wf]
theorem execGateRequest_wf (src : Endpoint) (h : Nat) (s : State) (hwf : Memory.wf s.mem = true) {t : State} (h :
    (execGateRequest src h s) = .next t) :
    Memory.wf t.mem = true := by
  unfold execGateRequest ovbMessage at h
  split at h
  · cases h; exact hwf
  · rename_i heq; have kk := State.ovbTake_keeps _ _ _ _ heq
    cases h; simp at kk
    split
    · exact State.gateRequest_wf _ _ _ (by simp [kk, hwf])
    · simp [kk, hwf]
theorem State.gctl_wf (s : State) (h : Nat) (val : Word64) (hwf : Memory.wf s.mem = true) :
    Memory.wf (State.gctl s h val).mem = true := by
  unfold State.gctl; dsimp only; (repeat' split) <;> simp [hwf, State.publish_wf]
theorem gctl_wf (who : Requester) (h : Nat) (val : Word64) (s : State) (hwf : Memory.wf s.mem = true) {t : State}
    (h : (gctl who h val s) = .next t) :
    Memory.wf t.mem = true := by
  cases h; simp [hwf, hubReg_wf, State.gctl_wf]
theorem execGateRelease_wf (who : Requester) (h : Nat) (s : State) (hwf : Memory.wf s.mem = true) {t : State} (h :
    (execGateRelease who h s) = .next t) :
    Memory.wf t.mem = true := by
  unfold execGateRelease gctl at h
  cases h
  exact hubReg_wf _ _ _ hwf (State.gctl_wf _ _ _ hwf)
theorem execGateSkip_wf (who : Requester) (h : Nat) (s : State) (hwf : Memory.wf s.mem = true) {t : State} (h :
    (execGateSkip who h s) = .next t) :
    Memory.wf t.mem = true := by
  unfold execGateSkip gctl at h
  cases h
  exact hubReg_wf _ _ _ hwf (State.gctl_wf _ _ _ hwf)
theorem execHoldnext_wf (who : Requester) (h : Nat) (s : State) (hwf : Memory.wf s.mem = true) {t : State} (h :
    (execHoldnext who h s) = .next t) :
    Memory.wf t.mem = true := by
  unfold execHoldnext gctl at h
  cases h
  exact hubReg_wf _ _ _ hwf (State.gctl_wf _ _ _ hwf)
theorem State.reduce1_wf (s : State) (src h j i : Nat) (x : List Byte) (pois : Bool) (hwf : Memory.wf s.mem = true) :
    Memory.wf (State.reduce1 s src h j i x pois).mem = true := by
  unfold State.reduce1; (repeat' split) <;> simp [hwf, mem_wf_ite, State.spaceWrite_wf]
theorem State.reduceAll_wf (s : State) (src h j : Nat) (pw : List Nat) (a5 a6 a7 : Nat) (a8 : List Byte)
    (hwf : Memory.wf s.mem = true) :
    Memory.wf (State.reduceAll s src h j pw a5 a6 a7 a8).mem = true := by
  induction a5 generalizing s a6 a7 a8 with
  | zero => exact hwf
  | succ k ih => unfold State.reduceAll; dsimp only; split; exact hwf; exact ih _ _ _ _ (State.reduce1_wf _ _ _ _ _ _ _ hwf)
theorem State.addRun_wf (s : State) (src slot i : Nat) (data : List Byte) (pw : List Nat)
    (hwf : Memory.wf s.mem = true) :
    Memory.wf (State.addRun s src slot i data pw).mem = true := by
  simp [State.addRun, hwf, State.reduceAll_wf]

/-! ### Residency -/

theorem State.initBore_wf (s : State) (r : BoreRec) (i : BoreBind) (d : List Byte) (saved : Bool)
    (hwf : Memory.wf s.mem = true) :
    Memory.wf (State.initBore s r i d saved).mem = true := by
  unfold State.initBore
  refine foldl_wf _ _ _ (fun t e ht => ?_) hwf
  dsimp only
  (repeat' split) <;> simp [State.hWrite_wf, ht]
theorem State.restoreBore_wf (s : State) (c : Nat) (i : BoreBind) (a : Nat) (hwf :
    Memory.wf s.mem = true) : Memory.wf (State.restoreBore s c i a).2.mem = true := by
  unfold State.restoreBore
  refine foldl_inv (fun r : Except Nat Nat × State => Memory.wf r.2.mem = true) _ _ _ hwf ?_
  rintro ⟨x, t⟩ h h1
  dsimp only at h1 ⊢
  split
  · exact h1
  · rename_i a
    have k := State.rmRead_keeps t c a (256 * t.fget Fld.LIG_HDESC_SIZE i.bore h)
    split
    · rename_i heq; rw [heq] at k; simp at k; simp [k, h1]
    · rename_i heq; rw [heq] at k; simp at k
      split
      · exact State.hWrite_wf _ _ _ _ _ _ (by simp [k, h1])
      · simp [k, h1]
theorem State.progBore_wf (s : State) (r : BoreRec) (i : BoreBind) (d : List Byte) (hwf : Memory.wf s.mem = true) :
    Memory.wf (State.progBore s r i d).mem = true := by
  simp [State.progBore, hwf, State.store_wf]
theorem State.recordBore_wf (s : State) (c : Nat) (x : Ctx) (r : BoreRec) (i : BoreBind)
    (hwf : Memory.wf s.mem = true) :
    Memory.wf (State.recordBore s c x r i).mem = true := by
  unfold State.recordBore; (repeat' split) <;> simp [hwf, State.hWrite_wf]
theorem State.bindCopy_wf (s : State) (c : Nat) (v : Variant) (hwf : Memory.wf s.mem = true) :
    Memory.wf (State.bindCopy s c v).2.mem = true := by
  unfold State.bindCopy
  dsimp only
  generalize hu : List.foldl _ s (s.ctx c).binds = u
  have a : Memory.wf u.mem = true := by
    rw [← hu]
    exact foldl_wf _ _ _ (fun t i ht => State.initBore_wf _ _ _ _ _ (State.progBore_wf _ _ _ _ ht)) hwf
  split
  · exact a
  · generalize hr : List.foldl _ _ _ = r
    have k : Memory.wf r.2.mem = true := by
      rw [← hr]
      refine foldl_inv (fun r : Except Nat Nat × State => Memory.wf r.2.mem = true) _ _ _ a ?_
      rintro ⟨x, t⟩ i h1
      dsimp only at h1 ⊢
      split
      · exact h1
      · exact State.restoreBore_wf _ _ _ _ h1
    split <;> exact k
theorem State.bindEnd_wf (s : State) (c : Nat) (v : Variant) (hwf : Memory.wf s.mem = true) :
    Memory.wf (State.bindEnd s c v).mem = true := by
  unfold State.bindEnd
  dsimp only
  simp only [State.dropOp_keeps, State.deliverHeld_keeps, State.ctxEvent_keeps, State.putCx_keeps, State.ldres_keeps, State.fput_keeps]
  refine foldl_wf _ _ _ (fun t i ht => by simpa using ht) ?_
  simp only [State.upCtx_keeps]
  refine foldl_wf _ _ _ (fun t i ht => State.recordBore_wf _ _ _ _ _ ht) ?_
  exact foldl_wf _ _ _ (fun t i ht => by simpa using ht) hwf
theorem execContextBinding_wf (c : Nat) (s : State) (hwf : Memory.wf s.mem = true) {t : State} (h :
    (execContextBinding c s) = .next t) :
    Memory.wf t.mem = true := by
  unfold execContextBinding at h
  dsimp only at h
  (repeat' split at h) <;> first | (cases h; simp [hwf]; done) | skip
  · rename_i vs _ _ _ _ heq; have k := State.bindCopy_wf s c (vs.getD (s.ctx c).variant ⟨false, 0, [], []⟩) hwf
    rw [heq] at k; cases h; simpa using k
  · rename_i vs _ _ _ heq; have k := State.bindCopy_wf s c (vs.getD (s.ctx c).variant ⟨false, 0, [], []⟩) hwf
    rw [heq] at k; cases h
    simp only [State.rmGo_keeps]; exact State.bindEnd_wf _ _ _ k
theorem State.saveBore_wf (s : State) (c : Nat) (i : BoreBind) (a : Nat) (hwf :
    Memory.wf s.mem = true) : Memory.wf (State.saveBore s c i a).2.mem = true := by
  unfold State.saveBore
  refine foldl_inv (fun r : Option Nat × State => Memory.wf r.2.mem = true) _ _ _ hwf ?_
  rintro ⟨x, t⟩ h h1
  dsimp only at h1 ⊢
  (repeat' split) <;> simp [h1, State.spaceWrite_wf]
theorem State.evictDone_wf (s : State) (c : Nat) (hwf : Memory.wf s.mem = true) :
    Memory.wf (State.evictDone s c).mem = true := by
  unfold State.evictDone
  dsimp only
  have k : let r := (s.ctx c).binds.foldl (fun (a, s) i =>
      match a with
      | some a => s.saveBore c i a
      | none => (none, s)) (some (s.fget Fld.CTX_SAVE_SAVE 0 c * 64), s); Memory.wf r.2.mem = true := by
    refine foldl_inv (fun r : Option Nat × State => Memory.wf r.2.mem = true) _ _ _ hwf ?_
    rintro ⟨x, t⟩ ch h1
    dsimp only at h1 ⊢
    split
    · exact State.saveBore_wf _ _ _ _ h1
    · exact h1
  dsimp only at k
  split
  · rename_i heq; have kk := (congrArg (fun r : Option Nat × State => Memory.wf r.2.mem) heq).symm.trans k; dsimp only at kk; simp [kk]
  · rename_i heq; have kk := (congrArg (fun r : Option Nat × State => Memory.wf r.2.mem) heq).symm.trans k; dsimp only at kk
    simp only [State.ctxEvent_keeps, State.putCx_keeps, State.dropOp_keeps, State.dropTlb_keeps, State.unbind_keeps]; simp [kk]
theorem execEvictionSave_wf (c : Nat) (s : State) (hwf : Memory.wf s.mem = true) {t : State} (h :
    (execEvictionSave c s) = .next t) :
    Memory.wf t.mem = true := by
  unfold execEvictionSave at h; dsimp only [ok] at h; (repeat' split at h) <;> cases h <;> simp [hwf, State.evictDone_wf]

end Sys2Proof.Machine
end

