-- ==== Sys2Proof/Laws/KeepsHub.lean ====
section
/-!
SUPPORT. Laws/KeepsHub.lean: crooks, the host interface, the drone and boot: the operations and commands that leave memory as it is, and that all
leave the queue as it is.
-/

namespace Sys2Proof.Machine

/-! ### Crook -/

@[simp] theorem State.putCk_keeps (s : State) (k st : Nat) :
    (State.putCk s k st).mem = s.mem ∧ (State.putCk s k st).pending = s.pending := by
  simp [State.putCk]
@[simp] theorem State.ckGoDown_keeps (s : State) (k : Nat) :
    (State.ckGoDown s k).mem = s.mem ∧ (State.ckGoDown s k).pending = s.pending := by
  simp [State.ckGoDown]
@[simp] theorem State.ckRetrainGo_keeps (s : State) (k : Nat) :
    (State.ckRetrainGo s k).mem = s.mem ∧ (State.ckRetrainGo s k).pending = s.pending := by
  simp [State.ckRetrainGo]
@[simp] theorem State.faultRoute_keeps (s : State) (k : Nat) (l : RouteLoc) :
    (State.faultRoute s k l).mem = s.mem ∧ (State.faultRoute s k l).pending = s.pending := by
  simp [State.faultRoute]
@[simp] theorem State.faultRoutes_keeps (s : State) (k : Nat) :
    (State.faultRoutes s k).mem = s.mem ∧ (State.faultRoutes s k).pending = s.pending := by
  simp [State.faultRoutes]
@[simp] theorem State.faultAudits_keeps (s : State) (k : Nat) :
    (State.faultAudits s k).mem = s.mem ∧ (State.faultAudits s k).pending = s.pending := by
  unfold State.faultAudits
  refine ⟨each_mem _ _ _ fun s x => ?_, each_pending _ _ _ fun s x => ?_⟩ <;> dsimp only <;> (repeat' split) <;> simp
@[simp] theorem State.loseXfer_keeps (s : State) (k : Nat) (x : XferBody) :
    (State.loseXfer s k x).mem = s.mem ∧ (State.loseXfer s k x).pending = s.pending := by
  unfold State.loseXfer; (repeat' split) <;> simp
@[simp] theorem State.sendAck_keeps (s : State) (k : Nat) (good : Bool) (putid reason : Nat) :
    (State.sendAck s k good putid reason).mem = s.mem ∧ (State.sendAck s k good putid reason).pending = s.pending := by
  simp [State.sendAck]
@[simp] theorem State.refuseCmd_keeps (s : State) (k b ch : Nat) :
    (State.refuseCmd s k b ch).mem = s.mem ∧ (State.refuseCmd s k b ch).pending = s.pending := by
  simp [State.refuseCmd]
@[simp] theorem State.losePut_keeps (s : State) (k : Nat) (w : PutWait) :
    (State.losePut s k w).mem = s.mem ∧ (State.losePut s k w).pending = s.pending := by
  unfold State.losePut; (repeat' split) <;> simp
@[simp] theorem State.ckFail_keeps (s : State) (k why : Nat) :
    (State.ckFail s k why).mem = s.mem ∧ (State.ckFail s k why).pending = s.pending := by
  simp [State.ckFail]
@[simp] theorem State.crkCtrl_keeps (s : State) (k v : Nat) :
    (State.crkCtrl s k v).mem = s.mem ∧ (State.crkCtrl s k v).pending = s.pending := by
  simp [State.crkCtrl]
theorem crkCtrl_keeps (who : Requester) (k v : Nat) (s : State) {t : State} (h :
    (crkCtrl who k v s) = .next t) :
    t.mem = s.mem ∧ t.pending = s.pending := by
  cases h; simp
theorem execCrkEnable_keeps (who : Requester) (k : Nat) (on : Bool) (s : State) {t : State} (h :
    (execCrkEnable who k on s) = .next t) :
    t.mem = s.mem ∧ t.pending = s.pending := by
  unfold execCrkEnable at h; exact crkCtrl_keeps (h := h)
theorem execCrkRetrain_keeps (who : Requester) (k : Nat) (s : State) {t : State} (h :
    (execCrkRetrain who k s) = .next t) :
    t.mem = s.mem ∧ t.pending = s.pending := by
  unfold execCrkRetrain at h; exact crkCtrl_keeps (h := h)
theorem execCrkReset_keeps (who : Requester) (k : Nat) (s : State) {t : State} (h :
    (execCrkReset who k s) = .next t) :
    t.mem = s.mem ∧ t.pending = s.pending := by
  unfold execCrkReset at h; exact crkCtrl_keeps (h := h)
@[simp] theorem State.putPeer_keeps (s : State) (k : Nat) (i : InitFlit) :
    (State.putPeer s k i).mem = s.mem ∧ (State.putPeer s k i).pending = s.pending := by
  simp [State.putPeer]
@[simp] theorem State.lockLanes_keeps (s : State) (k : Nat) :
    (State.lockLanes s k).mem = s.mem ∧ (State.lockLanes s k).pending = s.pending := by
  simp [State.lockLanes]
theorem execTrainingTimeout_keeps (k : Nat) (s : State) {t : State} (h :
    (execTrainingTimeout k s) = .next t) :
    t.mem = s.mem ∧ t.pending = s.pending := by
  cases h; simp
@[simp] theorem State.ackTo_keeps (s : State) (k ack : Nat) :
    (State.ackTo s k ack).2.mem = s.mem ∧ (State.ackTo s k ack).2.pending = s.pending := by
  unfold State.ackTo; grind [State.fput_keeps, State.upPort_keeps]
@[simp] theorem State.replay_keeps (s : State) (k : Nat) :
    (State.replay s k).mem = s.mem ∧ (State.replay s k).pending = s.pending := by
  simp [State.replay]
@[simp] theorem State.takeCrtot_keeps (s : State) (k vl tot : Nat) :
    (State.takeCrtot s k vl tot).mem = s.mem ∧ (State.takeCrtot s k vl tot).pending = s.pending := by
  simp [State.takeCrtot]
@[simp] theorem State.takeInit_keeps (s : State) (k : Nat) (i : InitFlit) :
    (State.takeInit s k i).mem = s.mem ∧ (State.takeInit s k i).pending = s.pending := by
  simp [State.takeInit]
theorem execTrainingComplete_keeps (k : Nat) (init : InitFlit) (s : State) {t : State} (h :
    (execTrainingComplete k init s) = .next t) :
    t.mem = s.mem ∧ t.pending = s.pending := by
  unfold execTrainingComplete at h; (repeat' split at h) <;> cases h <;> simp
theorem execRetrainComplete_keeps (k : Nat) (init : InitFlit) (s : State) {t : State} (h :
    (execRetrainComplete k init s) = .next t) :
    t.mem = s.mem ∧ t.pending = s.pending := by
  unfold execRetrainComplete at h; (repeat' split at h) <;> cases h <;> simp
theorem execRetrainTimeout_keeps (k : Nat) (s : State) {t : State} (h :
    (execRetrainTimeout k s) = .next t) :
    t.mem = s.mem ∧ t.pending = s.pending := by
  cases h; simp
theorem execLaneLockLoss_keeps (k : Nat) (s : State) {t : State} (h :
    (execLaneLockLoss k s) = .next t) :
    t.mem = s.mem ∧ t.pending = s.pending := by
  unfold execLaneLockLoss ok at h; grind [State.ckRetrainGo_keeps, State.fput_keeps, State.free_keeps]
theorem execInitFlitReceived_keeps (k : Nat) (init : InitFlit) (s : State) {t : State} (h :
    (execInitFlitReceived k init s) = .next t) :
    t.mem = s.mem ∧ t.pending = s.pending := by
  unfold execInitFlitReceived at h; (repeat' split at h) <;> cases h <;> simp
@[simp] theorem State.returnVl_keeps (s : State) (k vl : Nat) :
    (State.returnVl s k vl).mem = s.mem ∧ (State.returnVl s k vl).pending = s.pending := by
  simp [State.returnVl]
@[simp] theorem State.fecCount_keeps (s : State) (k cor uncor : Nat) :
    (State.fecCount s k cor uncor).mem = s.mem ∧ (State.fecCount s k cor uncor).pending = s.pending := by
  simp [State.fecCount]
@[simp] theorem State.takeNak_keeps (s : State) (k : Nat) (nak progress : Bool) :
    (State.takeNak s k nak progress).mem = s.mem ∧ (State.takeNak s k nak progress).pending = s.pending := by
  simp [State.takeNak]
@[simp] theorem State.bufferFlit_keeps (s : State) (k vl : Nat) (x : Share) (head : Option (XferBody × WinCap)) :
    (State.bufferFlit s k vl x head).mem = s.mem ∧ (State.bufferFlit s k vl x head).pending = s.pending := by
  simp [State.bufferFlit]
@[simp] theorem State.acceptFlit_keeps (s : State) (k vl : Nat) (x : Share) :
    (State.acceptFlit s k vl x).mem = s.mem ∧ (State.acceptFlit s k vl x).pending = s.pending := by
  dsimp only [State.acceptFlit]; (repeat' split) <;> simp
@[simp] theorem State.dropFlit_keeps (s : State) (k : Nat) :
    (State.dropFlit s k).mem = s.mem ∧ (State.dropFlit s k).pending = s.pending := by
  simp [State.dropFlit]
@[simp] theorem State.takeLink_keeps (s : State) (k : Nat) (l : Link) :
    (State.takeLink s k l).mem = s.mem ∧ (State.takeLink s k l).pending = s.pending := by
  simp [State.takeLink]
@[simp] theorem State.takeFlit_keeps (s : State) (k : Nat) (f : RxFlit) :
    (State.takeFlit s k f).mem = s.mem ∧ (State.takeFlit s k f).pending = s.pending := by
  unfold State.takeFlit; (repeat' split) <;> simp
theorem execFlitReceived_keeps (k : Nat) (flit : RxFlit) (s : State) {t : State} (h :
    (execFlitReceived k flit s) = .next t) :
    t.mem = s.mem ∧ t.pending = s.pending := by
  cases h; simp
theorem execReplayTimeout_keeps (k : Nat) (s : State) {t : State} (h :
    (execReplayTimeout k s) = .next t) :
    t.mem = s.mem ∧ t.pending = s.pending := by
  unfold execReplayTimeout at h; (repeat' split at h) <;> cases h <;> simp
@[simp] theorem State.creditCmd_keeps (s : State) (k putid : Nat) :
    (State.creditCmd s k putid).mem = s.mem ∧ (State.creditCmd s k putid).pending = s.pending := by
  unfold State.creditCmd; (repeat' split) <;> simp
@[simp] theorem State.reported_keeps (s : State) (k vl : Nat) :
    (State.reported s k vl).mem = s.mem ∧ (State.reported s k vl).pending = s.pending := by
  simp [State.reported]
@[simp] theorem State.emitFlit_keeps (s : State) (k type seq vl : Nat) (x : Share) :
    (State.emitFlit s k type seq vl x).mem = s.mem ∧ (State.emitFlit s k type seq vl x).pending = s.pending := by
  simp [State.emitFlit]
@[simp] theorem State.emitIdle_keeps (s : State) (k : Nat) :
    (State.emitIdle s k).mem = s.mem ∧ (State.emitIdle s k).pending = s.pending := by
  simp [State.emitIdle]
@[simp] theorem State.emitInit_keeps (s : State) (k : Nat) :
    (State.emitInit s k).mem = s.mem ∧ (State.emitInit s k).pending = s.pending := by
  simp [State.emitInit]
@[simp] theorem State.sendFlit_keeps (s : State) (k vl rot : Nat) :
    (State.sendFlit s k vl rot).mem = s.mem ∧ (State.sendFlit s k vl rot).pending = s.pending := by
  unfold State.sendFlit; (repeat' split) <;> simp
@[simp] theorem State.resendFlit_keeps (s : State) (k : Nat) :
    (State.resendFlit s k).mem = s.mem ∧ (State.resendFlit s k).pending = s.pending := by
  dsimp only [State.resendFlit]; (repeat' split) <;> simp
theorem execFlitTransmit_keeps (k : Nat) (s : State) {t : State} (h :
    (execFlitTransmit k s) = .next t) :
    t.mem = s.mem ∧ t.pending = s.pending := by
  dsimp only [execFlitTransmit, ok] at h; (repeat' split at h) <;> cases h <;> simp
theorem crookCommand_keeps (src : Endpoint) (k : Nat) (s : State) (want : Nat → Bool) {t : State} (h :
    (crookCommand src k s want) = .next t) :
    t.mem = s.mem ∧ t.pending = s.pending := by
  unfold crookCommand at h
  split at h
  · rename_i heq; have k := State.oldest_keeps (h := heq); simp at k
    dsimp only at h
    (repeat' split at h) <;> cases h <;> simp [k]
  · cases h; exact ⟨rfl, rfl⟩
theorem execPutCommand_keeps (src : Endpoint) (k : Nat) (s : State) {t : State} (h :
    (execPutCommand src k s) = .next t) :
    t.mem = s.mem ∧ t.pending = s.pending := by
  unfold execPutCommand at h; split at h <;> first | exact crookCommand_keeps (h := h) | (cases h; simp)
theorem execRedCommand_keeps (src : Endpoint) (k : Nat) (s : State) {t : State} (h :
    (execRedCommand src k s) = .next t) :
    t.mem = s.mem ∧ t.pending = s.pending := by
  unfold execRedCommand at h; split at h <;> first | exact crookCommand_keeps (h := h) | (cases h; simp)
@[simp] theorem State.startXfer_keeps (s : State) (k q : Nat) (c : CrkCmd) :
    (State.startXfer s k q c).mem = s.mem ∧ (State.startXfer s k q c).pending = s.pending := by
  simp [State.startXfer]
theorem execTransferStart_keeps (k dq : Nat) (s : State) {t : State} (h :
    (execTransferStart k dq s) = .next t) :
    t.mem = s.mem ∧ t.pending = s.pending := by
  unfold execTransferStart at h; (repeat' split at h) <;> cases h <;> simp
@[simp] theorem State.leave_keeps (s : State) (k vl : Nat) :
    (State.leave s k vl).mem = s.mem ∧ (State.leave s k vl).pending = s.pending := by
  dsimp only [State.leave]; (repeat' split) <;> simp
theorem State.rxTake_keeps (s : State) (k vl : Nat) (want : XferBody → Bool) {r} (h : (State.rxTake s k vl want) = some r) :
    r.2.mem = s.mem ∧ r.2.pending = s.pending := by
  unfold State.rxTake at h; (repeat' split at h) <;> cases h <;> simp
theorem State.rxTake01_keeps (s : State) (k : Nat) (want : XferBody → Bool) {r} (h : (State.rxTake01 s k want) = some r) :
    r.2.mem = s.mem ∧ r.2.pending = s.pending := by
  unfold State.rxTake01 at h
  split at h
  · rename_i heq; cases h; exact State.rxTake_keeps (h := heq)
  · exact State.rxTake_keeps (h := h)
@[simp] theorem State.rejectPut_keeps (s : State) (k putid reason : Nat) :
    (State.rejectPut s k putid reason).mem = s.mem ∧ (State.rejectPut s k putid reason).pending = s.pending := by
  simp [State.rejectPut]
@[simp] theorem State.putCur_keeps (s : State) (k vl : Nat) (c : Option RxCur) :
    (State.putCur s k vl c).mem = s.mem ∧ (State.putCur s k vl c).pending = s.pending := by
  simp [State.putCur]
@[simp] theorem State.beginForward_keeps (s : State) (k n putid : Nat) (back : Bool) (body : Nat → XferBody) :
    (State.beginForward s k n putid back body).2.mem = s.mem ∧ (State.beginForward s k n putid back body).2.pending = s.pending := by
  simp [State.beginForward]
theorem State.beginPut_keeps (s : State) (k vl : Nat) (b : XferBody) (w : WinCap) {r} (h : (State.beginPut s k vl b w) = some r) :
    r.2.mem = s.mem ∧ r.2.pending = s.pending := by
  unfold State.beginPut at h; dsimp only at h; (repeat' split at h) <;> cases h <;> simp
@[simp] theorem State.forwardFlit_keeps (s : State) (n id : Nat) (x : Share) (last : Bool) :
    (State.forwardFlit s n id x last).mem = s.mem ∧ (State.forwardFlit s n id x last).pending = s.pending := by
  simp [State.forwardFlit]
@[simp] theorem State.putFlit_keeps (s : State) (k : Nat) (c : RxCur) (x : Share) :
    (State.putFlit s k c x).pending = s.pending := by
  dsimp only [State.putFlit]; (repeat' split) <;> simp
theorem State.putStep_keeps (s : State) (k vl : Nat) {r} (h : (State.putStep s k vl) = some r) :
    r.pending = s.pending := by
  unfold State.putStep at h
  split at h
  · cases h
  · (repeat' split at h)
    · cases h
    · obtain ⟨x, hg, rfl⟩ := Option.map_eq_some_iff.mp h
      have kk := State.beginPut_keeps (h := hg); simp [kk]
    · cases h; simp
    · cases h; simp
@[simp] theorem State.putRun_keeps (k vl n : Nat) (s : State) : (State.putRun k vl n s).pending = s.pending := by
  induction n generalizing s with
  | zero => rfl
  | succ n ih =>
    unfold State.putRun
    split
    · rename_i h; have kk := State.putStep_keeps (h := h); split <;> simp [kk, ih]
    · rfl
theorem execPutArrival_keeps (k : Nat) (s : State) {t : State} (h :
    (execPutArrival k s) = .next t) :
    t.pending = s.pending := by
  unfold execPutArrival at h; (repeat' split at h) <;> cases h <;> simp
@[simp] theorem State.portInc_keeps (s : State) (b i : Nat) :
    (State.portInc s b i).mem = s.mem ∧ (State.portInc s b i).pending = s.pending := by
  simp [State.portInc]
@[simp] theorem State.putInc_keeps (s : State) (k : Nat) (w : PutIn) :
    (State.putInc s k w).mem = s.mem ∧ (State.putInc s k w).pending = s.pending := by
  dsimp only [State.putInc]; (repeat' split) <;> simp
theorem execPutComplete_keeps (k : Nat) (s : State) {t : State} (h :
    (execPutComplete k s) = .next t) :
    t.mem = s.mem ∧ t.pending = s.pending := by
  unfold execPutComplete at h; (repeat' split at h) <;> cases h <;> simp
theorem State.beginRed_keeps (s : State) (k : Nat) (b : XferBody) (w : WinCap) {r} (h : (State.beginRed s k b w) = some r) :
    r.2.mem = s.mem ∧ r.2.pending = s.pending := by
  unfold State.beginRed at h; (repeat' split at h) <;> cases h <;> simp
@[simp] theorem State.redFlit_keeps (s : State) (k : Nat) (c : RxCur) (x : Share) :
    (State.redFlit s k c x).pending = s.pending := by
  dsimp only [State.redFlit]; (repeat' split) <;> simp
theorem State.redStep_keeps (s : State) (k : Nat) {r} (h : (State.redStep s k) = some r) :
    r.pending = s.pending := by
  unfold State.redStep at h
  split at h
  · cases h
  · (repeat' split at h)
    · cases h
    · obtain ⟨x, hg, rfl⟩ := Option.map_eq_some_iff.mp h
      have kk := State.beginRed_keeps (h := hg); simp [kk]
    · cases h; simp
    · cases h; simp
@[simp] theorem State.redRun_keeps (k n : Nat) (s : State) : (State.redRun k n s).pending = s.pending := by
  induction n generalizing s with
  | zero => rfl
  | succ n ih =>
    unfold State.redRun
    split
    · rename_i h; have kk := State.redStep_keeps (h := h); split <;> simp [kk, ih]
    · rfl
theorem execRedArrival_keeps (k : Nat) (s : State) {t : State} (h :
    (execRedArrival k s) = .next t) :
    t.pending = s.pending := by
  unfold execRedArrival at h; (repeat' split at h) <;> cases h <;> simp
@[simp] theorem State.takePutAck_keeps (s : State) (k : Nat) (good : Bool) (putid reason : Nat) :
    (State.takePutAck s k good putid reason).mem = s.mem ∧ (State.takePutAck s k good putid reason).pending = s.pending := by
  unfold State.takePutAck; (repeat' split) <;> simp
theorem execAckArrival_keeps (k : Nat) (s : State) {t : State} (h :
    (execAckArrival k s) = .next t) :
    t.mem = s.mem ∧ t.pending = s.pending := by
  unfold execAckArrival at h; (repeat' split at h) <;> first | (cases h; simp; done) | (cases h; done) | (rename_i heq; have kk := State.rxTake_keeps (h := heq); cases h; simp at kk; simp [kk])
theorem execMsgTransfer_keeps (k : Nat) (s : State) {t : State} (h :
    (execMsgTransfer k s) = .next t) :
    t.mem = s.mem ∧ t.pending = s.pending := by
  dsimp only [execMsgTransfer, ok] at h; (repeat' split at h) <;> first | (cases h; simp; done) | (rename_i heq; have kk := State.rxTake_keeps (h := heq); cases h; simp at kk; simp [kk])
theorem execIncTransfer_keeps (k : Nat) (s : State) {t : State} (h :
    (execIncTransfer k s) = .next t) :
    t.mem = s.mem ∧ t.pending = s.pending := by
  unfold execIncTransfer at h; (repeat' split at h) <;> first | (cases h; simp; done) | (cases h; done) | (rename_i heq; have kk := State.rxTake_keeps (h := heq); cases h; simp at kk; simp [kk])
theorem execRetTransfer_keeps (k : Nat) (s : State) {t : State} (h :
    (execRetTransfer k s) = .next t) :
    t.mem = s.mem ∧ t.pending = s.pending := by
  unfold execRetTransfer at h
  split at h
  · cases h; exact ⟨rfl, rfl⟩
  · split at h
    · rename_i heq; have k := State.rxTake_keeps (h := heq); simp at k
      split at h <;> cases h <;> simp [k]
    · cases h; exact ⟨rfl, rfl⟩
theorem execTagTransfer_keeps (k : Nat) (s : State) {t : State} (h :
    (execTagTransfer k s) = .next t) :
    t.mem = s.mem ∧ t.pending = s.pending := by
  unfold execTagTransfer at h; (repeat' split at h) <;> first | (cases h; simp; done) | (cases h; done) | (rename_i heq; have kk := State.rxTake01_keeps (h := heq); cases h; simp at kk; simp [kk])
theorem execAuditTransfer_keeps (k : Nat) (s : State) {t : State} (h :
    (execAuditTransfer k s) = .next t) :
    t.mem = s.mem ∧ t.pending = s.pending := by
  unfold execAuditTransfer at h; (repeat' split at h) <;> first | (cases h; simp; done) | (cases h; done) | (rename_i heq; have kk := State.rxTake_keeps (h := heq); cases h; simp at kk; simp [kk])
@[simp] theorem State.writeWindow_keeps (s : State) (k w : Nat) (second : Bool) (val : Word64) :
    (State.writeWindow s k w second val).mem = s.mem ∧ (State.writeWindow s k w second val).pending = s.pending := by
  simp [State.writeWindow]
theorem execWindowWrite_keeps (who : Requester) (k w : Nat) (second : Bool) (val : Word64) (s : State) {t : State} (h :
    (execWindowWrite who k w second val s) = .next t) :
    t.mem = s.mem ∧ t.pending = s.pending := by
  cases h; simp
theorem execFabricRestart_keeps (q : Nat) (s : State) {t : State} (h :
    (execFabricRestart q s) = .next t) :
    t.mem = s.mem ∧ t.pending = s.pending := by
  unfold execFabricRestart at h; (repeat' split at h) <;> first | (cases h; simp; done) | (cases h; done)
theorem execFabricIdleStop_keeps (q : Nat) (s : State) {t : State} (h :
    (execFabricIdleStop q s) = .next t) :
    t.mem = s.mem ∧ t.pending = s.pending := by
  unfold execFabricIdleStop at h; (repeat' split at h) <;> first | (cases h; simp; done) | (cases h; done)

/-! ### HostIf -/

@[simp] theorem State.upBell_keeps (s : State) (r : Nat) (f : Doorbell → Doorbell) :
    (State.upBell s r f).mem = s.mem ∧ (State.upBell s r f).pending = s.pending := by
  simp [State.upBell]
@[simp] theorem State.ring_keeps (s : State) (fn c d : Nat) (words : List Word32) :
    (State.ring s fn c d words).mem = s.mem ∧ (State.ring s fn c d words).pending = s.pending := by
  simp [State.ring]
@[simp] theorem State.upRing_keeps (s : State) (r : Nat) (f : Ring → Ring) :
    (State.upRing s r f).mem = s.mem ∧ (State.upRing s r f).pending = s.pending := by
  simp [State.upRing]
@[simp] theorem State.headWrite_keeps (s : State) (r : Nat) (v : Word32) :
    (State.headWrite s r v).mem = s.mem ∧ (State.headWrite s r v).pending = s.pending := by
  simp [State.headWrite]
@[simp] theorem State.bar2Write_keeps (s : State) (fn off : Nat) (words : List Word32) (full : Bool) :
    (State.bar2Write s fn off words full).mem = s.mem ∧ (State.bar2Write s fn off words full).pending = s.pending := by
  unfold State.bar2Write; grind [State.fsat_keeps, State.headWrite_keeps, State.ring_keeps, State.upBell_keeps, State.upRing_keeps]
theorem execDoorbell_keeps (fn off : Nat) (words : List Word32) (full poisoned : Bool) (s : State) {t : State} (h :
    (execDoorbell fn off words full poisoned s) = .next t) :
    t.mem = s.mem ∧ t.pending = s.pending := by
  cases h; simp
theorem execDoorbellForward_keeps (fn : Nat) (s : State) {t : State} (h : (execDoorbellForward fn s) = .next t) :
    t.mem = s.mem ∧ t.pending = s.pending := by
  unfold execDoorbellForward at h; (repeat' split at h) <;> cases h <;> simp
theorem execDoorbellStatusClear_keeps (fn off : Nat) (val : Word32) (s : State) {t : State} (h :
    (execDoorbellStatusClear fn off val s) = .next t) :
    t.mem = s.mem ∧ t.pending = s.pending := by
  cases h; simp
theorem execHeadWrite_keeps (fn off : Nat) (val : Word32) (s : State) {t : State} (h :
    (execHeadWrite fn off val s) = .next t) :
    t.mem = s.mem ∧ t.pending = s.pending := by
  cases h; simp
theorem execArmWrite_keeps (fn off : Nat) (val : Word32) (s : State) {t : State} (h :
    (execArmWrite fn off val s) = .next t) :
    t.mem = s.mem ∧ t.pending = s.pending := by
  cases h; simp
@[simp] theorem State.bar2Read_keeps (s : State) (fn off : Nat) :
    (State.bar2Read s fn off).2.mem = s.mem ∧ (State.bar2Read s fn off).2.pending = s.pending := by
  unfold State.bar2Read; grind [State.upRing_keeps]
@[simp] theorem State.hostRefuse_keeps (s : State) (reason : Nat) (m : Message) :
    (State.hostRefuse s reason m).mem = s.mem ∧ (State.hostRefuse s reason m).pending = s.pending := by
  simp [State.hostRefuse]
@[simp] theorem State.ringOvf_keeps (s : State) (r : Nat) :
    (State.ringOvf s r).mem = s.mem ∧ (State.ringOvf s r).pending = s.pending := by
  simp [State.ringOvf]
@[simp] theorem State.ringPut_keeps (s : State) (r c q : Nat) (m : Message) :
    (State.ringPut s r c q m).mem = s.mem ∧ (State.ringPut s r c q m).pending = s.pending := by
  simp [State.ringPut]
@[simp] theorem State.hostJudge_keeps (s : State) (q : Nat) (m : Message) :
    (State.hostJudge s q m).mem = s.mem ∧ (State.hostJudge s q m).pending = s.pending := by
  unfold State.hostJudge; (repeat' split) <;> simp
theorem execHostMessageArrival_keeps (src : Endpoint) (s : State) {t : State} (h :
    (execHostMessageArrival src s) = .next t) :
    t.mem = s.mem ∧ t.pending = s.pending := by
  unfold execHostMessageArrival at h; (repeat' split at h) <;> first | (cases h; simp; done) | (cases h; done) | (rename_i heq; have kk := State.oldest_keeps (h := heq); cases h; simp at kk; simp [kk])
@[simp] theorem State.vcmdSt_keeps (s : State) (v op c st : Nat) :
    (State.vcmdSt s v op c st).mem = s.mem ∧ (State.vcmdSt s v op c st).pending = s.pending := by
  simp [State.vcmdSt]
@[simp] theorem State.vcmd_keeps (s : State) (v op i : Nat) :
    (State.vcmd s v op i).mem = s.mem ∧ (State.vcmd s v op i).pending = s.pending := by
  unfold State.vcmd; grind [State.fput_keeps, State.rmDo_keeps, State.vcmdSt_keeps]
theorem execVfLoad_keeps (vf i : Nat) (s : State) {t : State} (h : (execVfLoad vf i s) = .next t) :
    t.mem = s.mem ∧ t.pending = s.pending := by
  unfold execVfLoad at h; (repeat' split at h) <;> cases h <;> simp
theorem execVfEvict_keeps (vf i : Nat) (s : State) {t : State} (h : (execVfEvict vf i s) = .next t) :
    t.mem = s.mem ∧ t.pending = s.pending := by
  unfold execVfEvict at h; (repeat' split at h) <;> cases h <;> simp
theorem execVfStart_keeps (vf i : Nat) (s : State) {t : State} (h : (execVfStart vf i s) = .next t) :
    t.mem = s.mem ∧ t.pending = s.pending := by
  unfold execVfStart at h; (repeat' split at h) <;> cases h <;> simp
theorem execVfEnd_keeps (vf i : Nat) (s : State) {t : State} (h : (execVfEnd vf i s) = .next t) :
    t.mem = s.mem ∧ t.pending = s.pending := by
  unfold execVfEnd at h; (repeat' split at h) <;> cases h <;> simp
theorem execVfReset_keeps (vf i : Nat) (s : State) {t : State} (h : (execVfReset vf i s) = .next t) :
    t.mem = s.mem ∧ t.pending = s.pending := by
  unfold execVfReset at h; (repeat' split at h) <;> cases h <;> simp
@[simp] theorem State.hifSt_keeps (s : State) (st : Nat) :
    (State.hifSt s st).mem = s.mem ∧ (State.hifSt s st).pending = s.pending := by
  simp [State.hifSt]
@[simp] theorem State.writeVfmap_keeps (s : State) (v : Nat) (val : Word64) :
    (State.writeVfmap s v val).mem = s.mem ∧ (State.writeVfmap s v val).pending = s.pending := by
  simp [State.writeVfmap]
theorem execVfmapWrite_keeps (who : Requester) (vf : Nat) (val : Word64) (s : State) {t : State} (h :
    (execVfmapWrite who vf val s) = .next t) :
    t.mem = s.mem ∧ t.pending = s.pending := by
  cases h; simp
@[simp] theorem State.writeDbr_keeps (s : State) (r : Nat) (val : Word64) :
    (State.writeDbr s r val).mem = s.mem ∧ (State.writeDbr s r val).pending = s.pending := by
  simp [State.writeDbr]
theorem execDbrWrite_keeps (who : Requester) (r : Nat) (val : Word64) (s : State) {t : State} (h :
    (execDbrWrite who r val s) = .next t) :
    t.mem = s.mem ∧ t.pending = s.pending := by
  cases h; simp
@[simp] theorem State.writeHring_keeps (s : State) (r : Nat) (val : Word64) :
    (State.writeHring s r val).mem = s.mem ∧ (State.writeHring s r val).pending = s.pending := by
  simp [State.writeHring]
theorem execHringWrite_keeps (who : Requester) (r : Nat) (val : Word64) (s : State) {t : State} (h :
    (execHringWrite who r val s) = .next t) :
    t.mem = s.mem ∧ t.pending = s.pending := by
  cases h; simp
@[simp] theorem State.writeCtxh_keeps (s : State) (c : Nat) (val : Word64) :
    (State.writeCtxh s c val).mem = s.mem ∧ (State.writeCtxh s c val).pending = s.pending := by
  simp [State.writeCtxh]
theorem execCtxhWrite_keeps (who : Requester) (c : Nat) (val : Word64) (s : State) {t : State} (h :
    (execCtxhWrite who c val s) = .next t) :
    t.mem = s.mem ∧ t.pending = s.pending := by
  cases h; simp
@[simp] theorem State.hostRead_keeps (s : State) (a n : Nat) :
    (State.hostRead s a n).2.2.mem = s.mem ∧ (State.hostRead s a n).2.2.pending = s.pending := by
  dsimp only [State.hostRead]; (repeat' split) <;> simp
@[simp] theorem State.hostStore_keeps (s : State) (a : Nat) (l : List Byte) (pois : Bool) :
    (State.hostStore s a l pois).pending = s.pending := by
  dsimp only [State.hostStore]; (repeat' split) <;> simp
@[simp] theorem State.bar4Read_keeps (s : State) (a n : Nat) :
    (State.bar4Read s a n).mem = s.mem ∧ (State.bar4Read s a n).pending = s.pending := by
  unfold State.bar4Read
  dsimp only
  refine foldl_inv (fun r : List Byte × Bool × State => r.2.2.mem = s.mem ∧ r.2.2.pending = s.pending) _ _ _ ⟨rfl, rfl⟩ ?_
  rintro ⟨l, p, t⟩ r ⟨h1, h2⟩; dsimp only at h1 h2; simp [h1, h2]
@[simp] theorem State.bar4Write_keeps (s : State) (a : Nat) (l : List Byte) (pois : Bool) :
    (State.bar4Write s a l pois).pending = s.pending := by
  simp [State.bar4Write]
theorem execBar4Access_keeps (off len : Nat) (acc : HostAccess) (s : State) {t : State} (h :
    (execBar4Access off len acc s) = .next t) :
    t.pending = s.pending := by
  unfold execBar4Access at h; (repeat' split at h) <;> cases h <;> simp
@[simp] theorem State.sendPending_keeps (s : State) (fn : Nat) :
    (State.sendPending s fn).mem = s.mem ∧ (State.sendPending s fn).pending = s.pending := by
  simp [State.sendPending]
@[simp] theorem State.upCfg_keeps (s : State) (f : PcieCfg → PcieCfg) :
    (State.upCfg s f).mem = s.mem ∧ (State.upCfg s f).pending = s.pending := by
  simp [State.upCfg]
@[simp] theorem State.cfgWrite_keeps (s : State) (fn : Nat) (f : CfgField) (v : Nat) :
    (State.cfgWrite s fn f v).mem = s.mem ∧ (State.cfgWrite s fn f v).pending = s.pending := by
  dsimp only [State.cfgWrite]; (repeat' split) <;> simp
@[simp] theorem State.configDword_keeps (s : State) (fn off : Nat) :
    (State.configDword s fn off).mem = s.mem ∧ (State.configDword s fn off).pending = s.pending := by
  simp [State.configDword]
theorem execConfigRequest_keeps (fn : Nat) (op : ConfigOp) (s : State) {t : State} (h :
    (execConfigRequest fn op s) = .next t) :
    t.mem = s.mem ∧ t.pending = s.pending := by
  dsimp only [execConfigRequest, ok] at h; (repeat' split at h) <;> cases h <;> simp
theorem execMsixVectorUnmask_keeps (fn : Nat) (acc : MsixAccess) (s : State) {t : State} (h : (execMsixVectorUnmask fn acc s) = .next t) :
    t.mem = s.mem ∧ t.pending = s.pending := by
  unfold execMsixVectorUnmask at h; (repeat' split at h) <;> cases h <;> simp
@[simp] theorem State.failRead_keeps (s : State) (x : HostRead) :
    (State.failRead s x).mem = s.mem ∧ (State.failRead s x).pending = s.pending := by
  simp [State.failRead]
@[simp] theorem State.failReads_keeps (s : State) (P : HostRead → Bool) :
    (State.failReads s P).mem = s.mem ∧ (State.failReads s P).pending = s.pending := by
  simp [State.failReads]
@[simp] theorem State.msixReset_keeps (s : State) (fn : Nat) :
    (State.msixReset s fn).mem = s.mem ∧ (State.msixReset s fn).pending = s.pending := by
  simp [State.msixReset]
@[simp] theorem State.flrCtx_keeps (s : State) (c : Nat) :
    (State.flrCtx s c).mem = s.mem ∧ (State.flrCtx s c).pending = s.pending := by
  simp [State.flrCtx]
theorem execFlr_keeps (vf : Nat) (s : State) {t : State} (h : (execFlr vf s) = .next t) :
    t.mem = s.mem ∧ t.pending = s.pending := by
  unfold execFlr ok at h; (repeat' split at h) <;> simp_all <;> (try subst h) <;> simp_all
theorem execFlrComplete_keeps (vf : Nat) (s : State) {t : State} (h : (execFlrComplete vf s) = .next t) :
    t.mem = s.mem ∧ t.pending = s.pending := by
  cases h; simp
theorem execLinkUp_keeps (flit : Bool) (speed width : Nat) (s : State) {t : State} (h :
    (execLinkUp flit speed width s) = .next t) :
    t.mem = s.mem ∧ t.pending = s.pending := by
  dsimp only [execLinkUp, ok] at h; (repeat' split at h) <;> cases h <;> simp
theorem execHostResetComplete_keeps (s : State) {t : State} (h : (execHostResetComplete s) = .next t) :
    t.mem = s.mem ∧ t.pending = s.pending := by
  cases h; simp
@[simp] theorem State.hostAnswer_keeps (s : State) (dst : Endpoint) (err : Option Nat) (data : List Byte) :
    (State.hostAnswer s dst err data).mem = s.mem ∧ (State.hostAnswer s dst err data).pending = s.pending := by
  dsimp only [State.hostAnswer]; (repeat' split) <;> simp
theorem execHostReadCompletion_keeps (dst : Endpoint) (st : HostCpl) (data : List Byte) (s : State) {t : State} (h :
    (execHostReadCompletion dst st data s) = .next t) :
    t.mem = s.mem ∧ t.pending = s.pending := by
  unfold execHostReadCompletion at h; (repeat' split at h) <;> cases h <;> simp
theorem execCompletionTimeout_keeps (dst : Endpoint) (s : State) {t : State} (h :
    (execCompletionTimeout dst s) = .next t) :
    t.mem = s.mem ∧ t.pending = s.pending := by
  cases h; simp

/-! ### Resetting -/

@[simp] theorem State.mapRegs_keeps (s : State) (f : Reg → Nat → Nat → Word64 → Word64) :
    (State.mapRegs s f).mem = s.mem ∧ (State.mapRegs s f).pending = s.pending := by
  simp [State.mapRegs]
@[simp] theorem State.dropHalves_keeps (s : State) (b : Nat) :
    (State.dropHalves s b).mem = s.mem ∧ (State.dropHalves s b).pending = s.pending := by
  simp [State.dropHalves]
@[simp] theorem State.flashPut_keeps (s : State) (a : Nat) (l : List Byte) :
    (State.flashPut s a l).mem = s.mem ∧ (State.flashPut s a l).pending = s.pending := by
  simp [State.flashPut]
@[simp] theorem State.flashErase_keeps (s : State) (a n : Nat) :
    (State.flashErase s a n).mem = s.mem ∧ (State.flashErase s a n).pending = s.pending := by
  simp [State.flashErase]
@[simp] theorem State.boreReset_keeps (s : State) (b : Nat) :
    (State.boreReset s b).mem = s.mem ∧ (State.boreReset s b).pending = s.pending := by
  simp [State.boreReset]
@[simp] theorem State.zeroRange_keeps (s : State) (a n : Nat) :
    (State.zeroRange s a n).pending = s.pending := by
  simp [State.zeroRange]
@[simp] theorem State.zeroWindchest_keeps (s : State) (b : Nat) :
    (State.zeroWindchest s b).pending = s.pending := by
  simp [State.zeroWindchest]
@[simp] theorem State.dropReedErrors_keeps (s : State) (b : Nat) :
    (State.dropReedErrors s b).mem = s.mem ∧ (State.dropReedErrors s b).pending = s.pending := by
  simp [State.dropReedErrors]
@[simp] theorem State.loseBore_keeps (s : State) (b : Nat) :
    (State.loseBore s b).pending = s.pending := by
  simp [State.loseBore]
@[simp] theorem State.logFatal_keeps (s : State) (cause src : Nat) :
    (State.logFatal s cause src).mem = s.mem ∧ (State.logFatal s cause src).pending = s.pending := by
  simp [State.logFatal]
@[simp] theorem State.bootHalt_keeps (s : State) :
    (State.bootHalt s).mem = s.mem ∧ (State.bootHalt s).pending = s.pending := by
  simp [State.bootHalt]
@[simp] theorem State.dumpRecord_keeps (s : State) (state cause src : Nat) :
    (State.dumpRecord s state cause src).mem = s.mem ∧ (State.dumpRecord s state cause src).pending = s.pending := by
  simp [State.dumpRecord]
@[simp] theorem State.freeze_keeps (s : State) (state cause src : Nat) :
    (State.freeze s state cause src).mem = s.mem ∧ (State.freeze s state cause src).pending = s.pending := by
  simp [State.freeze]
@[simp] theorem State.packageError_keeps (s : State) (cause src : Nat) :
    (State.packageError s cause src).mem = s.mem ∧ (State.packageError s cause src).pending = s.pending := by
  simp [State.packageError]
@[simp] theorem State.partAct_keeps (s : State) (l : Nat) :
    (State.partAct s l).mem = s.mem ∧ (State.partAct s l).pending = s.pending := by
  simp [State.partAct]
@[simp] theorem State.partError_keeps (s : State) (p cause bore : Nat) :
    (State.partError s p cause bore).mem = s.mem ∧ (State.partError s p cause bore).pending = s.pending := by
  simp [State.partError]
@[simp] theorem State.partWaiting_keeps (s : State) (l : Nat) :
    (State.partWaiting s l).mem = s.mem ∧ (State.partWaiting s l).pending = s.pending := by
  simp [State.partWaiting]

/-! ### Froute -/

@[simp] theorem State.upTdm_keeps (s : State) (p : Nat) (f : TdmPort → TdmPort) :
    (State.upTdm s p f).mem = s.mem ∧ (State.upTdm s p f).pending = s.pending := by
  simp [State.upTdm]
@[simp] theorem State.upStrm_keeps (s : State) (n : Nat) (f : Stream → Stream) :
    (State.upStrm s n f).mem = s.mem ∧ (State.upStrm s n f).pending = s.pending := by
  simp [State.upStrm]
@[simp] theorem State.upPipe_keeps (s : State) (p : Nat) (f : Pipe → Pipe) :
    (State.upPipe s p f).mem = s.mem ∧ (State.upPipe s p f).pending = s.pending := by
  simp [State.upPipe]
@[simp] theorem State.upDp_keeps (s : State) (d : Nat) (f : DpLink → DpLink) :
    (State.upDp s d f).mem = s.mem ∧ (State.upDp s d f).pending = s.pending := by
  simp [State.upDp]
@[simp] theorem State.frPut_keeps (s : State) (x : Froute) (f : Field) (v : Nat) :
    (State.frPut s x f v).mem = s.mem ∧ (State.frPut s x f v).pending = s.pending := by
  unfold State.frPut; split <;> simp
@[simp] theorem State.frSend_keeps (s : State) (x : Froute) (words : List Nat) :
    (State.frSend s x words).mem = s.mem ∧ (State.frSend s x words).pending = s.pending := by
  simp [State.frSend]
@[simp] theorem State.embCfg_keeps (s : State) (st : Nat) :
    (State.embCfg s st).mem = s.mem ∧ (State.embCfg s st).pending = s.pending := by
  simp [State.embCfg]
@[simp] theorem State.frSt_keeps (s : State) (x : Froute) (st : Nat) :
    (State.frSt s x st).mem = s.mem ∧ (State.frSt s x st).pending = s.pending := by
  unfold State.frSt; split <;> simp
@[simp] theorem State.writeFroute_keeps (s : State) (x : Froute) (val : Word64) :
    (State.writeFroute s x val).mem = s.mem ∧ (State.writeFroute s x val).pending = s.pending := by
  unfold State.writeFroute; (repeat' split) <;> simp
theorem execFrouteWrite_keeps (who : Requester) (bell : Bool) (r : Nat) (val : Word64) (s : State) {t : State} (h :
    (execFrouteWrite who bell r val s) = .next t) :
    t.mem = s.mem ∧ t.pending = s.pending := by
  cases h; simp
@[simp] theorem State.portEvent_keeps (s : State) (p n : Nat) :
    (State.portEvent s p n).mem = s.mem ∧ (State.portEvent s p n).pending = s.pending := by
  simp [State.portEvent]
@[simp] theorem State.driftAll_keeps (s : State) :
    (State.driftAll s).mem = s.mem ∧ (State.driftAll s).pending = s.pending := by
  simp [State.driftAll]

/-! ### Speech -/

@[simp] theorem State.strmEnd_keeps (s : State) (n st cause : Nat) :
    (State.strmEnd s n st cause).mem = s.mem ∧ (State.strmEnd s n st cause).pending = s.pending := by
  simp [State.strmEnd]
@[simp] theorem State.strmNote_keeps (s : State) (n : Nat) (ctx : Option Nat) (a : Nat) (st : AccStatus) :
    (State.strmNote s n ctx a st).mem = s.mem ∧ (State.strmNote s n ctx a st).pending = s.pending := by
  simp [State.strmNote]
@[simp] theorem State.strmFault_keeps (s : State) (n a : Nat) (st : AccStatus) :
    (State.strmFault s n a st).mem = s.mem ∧ (State.strmFault s n a st).pending = s.pending := by
  simp [State.strmFault]
@[simp] theorem State.strmNoWrite_keeps (s : State) (n a k : Nat) (st : AccStatus) :
    (State.strmNoWrite s n a k st).mem = s.mem ∧ (State.strmNoWrite s n a k st).pending = s.pending := by
  simp [State.strmNoWrite]
@[simp] theorem State.readSlot_keeps (s : State) (x : Stream) (a k : Nat) :
    (State.readSlot s x a k).2.mem = s.mem ∧ (State.readSlot s x a k).2.pending = s.pending := by
  unfold State.readSlot; grind [State.spaceRead_keeps]
@[simp] theorem State.resampled_keeps (s : State) (a1 : Nat) :
    (State.resampled s a1).2.mem = s.mem ∧ (State.resampled s a1).2.pending = s.pending := by
  induction a1 generalizing s with
  | zero => exact ⟨rfl, rfl⟩
  | succ k ih => simp [State.resampled, ih]
@[simp] theorem State.resample_keeps (s : State) (src dst : Nat) (xs : List Int) :
    (State.resample s src dst xs).2.mem = s.mem ∧ (State.resample s src dst xs).2.pending = s.pending := by
  unfold State.resample; split <;> simp

/-! ### Drone -/

@[simp] theorem State.putDemand_keeps (s : State) (b : Nat) :
    (State.putDemand s b).mem = s.mem ∧ (State.putDemand s b).pending = s.pending := by
  simp [State.putDemand]
@[simp] theorem State.debit_keeps (s : State) (b n : Nat) :
    (State.debit s b n).mem = s.mem ∧ (State.debit s b n).pending = s.pending := by
  simp [State.debit]
@[simp] theorem State.moving_keeps (s : State) (n : Nat) (dst : Option Nat) :
    (State.moving s n dst).mem = s.mem ∧ (State.moving s n dst).pending = s.pending := by
  simp [State.moving]
@[simp] theorem State.giveUp_keeps (s : State) (b n : Nat) :
    (State.giveUp s b n).mem = s.mem ∧ (State.giveUp s b n).pending = s.pending := by
  simp [State.giveUp]
@[simp] theorem State.shed_keeps (s : State) (b n : Nat) :
    (State.shed s b n).mem = s.mem ∧ (State.shed s b n).pending = s.pending := by
  simp [State.shed]
@[simp] theorem State.capStepTo_keeps (s : State) (b : Nat) :
    (State.capStepTo s b).mem = s.mem ∧ (State.capStepTo s b).pending = s.pending := by
  simp [State.capStepTo]
@[simp] theorem State.lend_keeps (s : State) (b n : Nat) :
    (State.lend s b n).mem = s.mem ∧ (State.lend s b n).pending = s.pending := by
  simp [State.lend]
@[simp] theorem State.credit_keeps (s : State) (m : TokenMove) :
    (State.credit s m).mem = s.mem ∧ (State.credit s m).pending = s.pending := by
  unfold State.credit; split <;> simp
theorem execTokenCredit_keeps (s : State) {t : State} (h : (execTokenCredit s) = .next t) :
    t.mem = s.mem ∧ t.pending = s.pending := by
  unfold execTokenCredit at h; (repeat' split at h) <;> cases h <;> simp
@[simp] theorem State.creditAll_keeps (s : State) :
    (State.creditAll s).mem = s.mem ∧ (State.creditAll s).pending = s.pending := by
  simp [State.creditAll]
theorem execFllRetargetComplete_keeps (b : Nat) (s : State) {t : State} (h : (execFllRetargetComplete b s) = .next t) :
    t.mem = s.mem ∧ t.pending = s.pending := by
  unfold execFllRetargetComplete at h; (repeat' split at h) <;> cases h <;> simp
@[simp] theorem State.enter_keeps (s : State) (b p : Nat) :
    (State.enter s b p).mem = s.mem ∧ (State.enter s b p).pending = s.pending := by
  simp [State.enter]
@[simp] theorem State.goIdle_keeps (s : State) (b : Nat) :
    (State.goIdle s b).mem = s.mem ∧ (State.goIdle s b).pending = s.pending := by
  simp [State.goIdle]
theorem execQuietTimeout_keeps (b : Nat) (s : State) {t : State} (h : (execQuietTimeout b s) = .next t) :
    t.mem = s.mem ∧ t.pending = s.pending := by
  unfold execQuietTimeout at h; (repeat' split at h) <;> cases h <;> simp
theorem execIdleTimeout_keeps (b : Nat) (s : State) {t : State} (h : (execIdleTimeout b s) = .next t) :
    t.mem = s.mem ∧ t.pending = s.pending := by
  unfold execIdleTimeout at h; (repeat' split at h) <;> cases h <;> simp
theorem execSleepTimeout_keeps (b : Nat) (s : State) {t : State} (h : (execSleepTimeout b s) = .next t) :
    t.mem = s.mem ∧ t.pending = s.pending := by
  unfold execSleepTimeout at h; (repeat' split at h) <;> cases h <;> simp
@[simp] theorem State.beginWake_keeps (s : State) (b code : Nat) :
    (State.beginWake s b code).mem = s.mem ∧ (State.beginWake s b code).pending = s.pending := by
  simp [State.beginWake]
@[simp] theorem State.trigger_keeps (s : State) (b code : Nat) :
    (State.trigger s b code).mem = s.mem ∧ (State.trigger s b code).pending = s.pending := by
  simp [State.trigger]
theorem execWakeTrigger_keeps (b : Nat) (s : State) {t : State} (h : (execWakeTrigger b s) = .next t) :
    t.mem = s.mem ∧ t.pending = s.pending := by
  unfold execWakeTrigger at h; (repeat' split at h) <;> cases h <;> simp
@[simp] theorem State.bpSt_keeps (s : State) (b st : Nat) :
    (State.bpSt s b st).mem = s.mem ∧ (State.bpSt s b st).pending = s.pending := by
  simp [State.bpSt]
@[simp] theorem State.goalMet_keeps (s : State) (b p : Nat) :
    (State.goalMet s b p).mem = s.mem ∧ (State.goalMet s b p).pending = s.pending := by
  simp [State.goalMet]
@[simp] theorem State.retireStart_keeps (s : State) (b : Nat) :
    (State.retireStart s b).mem = s.mem ∧ (State.retireStart s b).pending = s.pending := by
  simp [State.retireStart]
@[simp] theorem State.retireGo_keeps (s : State) (b : Nat) :
    (State.retireGo s b).mem = s.mem ∧ (State.retireGo s b).pending = s.pending := by
  simp [State.retireGo]
@[simp] theorem State.entered_keeps (s : State) (b p : Nat) :
    (State.entered s b p).mem = s.mem ∧ (State.entered s b p).pending = s.pending := by
  simp [State.entered]
theorem execPowerStateEntryComplete_keeps (b : Nat) (s : State) {t : State} (h :
    (execPowerStateEntryComplete b s) = .next t) :
    t.mem = s.mem ∧ t.pending = s.pending := by
  unfold execPowerStateEntryComplete ok at h; grind [State.beginWake_keeps, State.enter_keeps, State.entered_keeps, State.goalMet_keeps, State.retireStart_keeps, State.upPower_keeps]
@[simp] theorem State.nowActive_keeps (s : State) (b : Nat) :
    (State.nowActive s b).mem = s.mem ∧ (State.nowActive s b).pending = s.pending := by
  simp [State.nowActive]
theorem execWakeComplete_keeps (b : Nat) (s : State) {t : State} (h : (execWakeComplete b s) = .next t) :
    t.mem = s.mem ∧ t.pending = s.pending := by
  unfold execWakeComplete at h; (repeat' split at h) <;> cases h <;> simp
@[simp] theorem State.bpPend_keeps (s : State) (b : Nat) :
    (State.bpPend s b).mem = s.mem ∧ (State.bpPend s b).pending = s.pending := by
  simp [State.bpPend]
@[simp] theorem State.bpWake_keeps (s : State) (b : Nat) :
    (State.bpWake s b).mem = s.mem ∧ (State.bpWake s b).pending = s.pending := by
  simp [State.bpWake]
@[simp] theorem State.bpDown_keeps (s : State) (b p : Nat) :
    (State.bpDown s b p).mem = s.mem ∧ (State.bpDown s b p).pending = s.pending := by
  simp [State.bpDown]
@[simp] theorem State.bpOff_keeps (s : State) (b : Nat) :
    (State.bpOff s b).mem = s.mem ∧ (State.bpOff s b).pending = s.pending := by
  simp [State.bpOff]
@[simp] theorem State.bpOn_keeps (s : State) (b : Nat) :
    (State.bpOn s b).mem = s.mem ∧ (State.bpOn s b).pending = s.pending := by
  simp [State.bpOn]
theorem execBpcmdWake_keeps (who : Requester) (b : Nat) (s : State) {t : State} (h :
    (execBpcmdWake who b s) = .next t) :
    t.mem = s.mem ∧ t.pending = s.pending := by
  unfold execBpcmdWake State.bpCmd at h
  cases h
  refine ⟨drnReg_mem _ _ _ ?_, drnReg_pending _ _ _ ?_⟩ <;> (repeat' split) <;> simp
theorem execBpcmdSleep_keeps (who : Requester) (b : Nat) (s : State) {t : State} (h :
    (execBpcmdSleep who b s) = .next t) :
    t.mem = s.mem ∧ t.pending = s.pending := by
  unfold execBpcmdSleep State.bpCmd at h
  cases h
  refine ⟨drnReg_mem _ _ _ ?_, drnReg_pending _ _ _ ?_⟩ <;> (repeat' split) <;> simp
theorem execBpcmdDeep_keeps (who : Requester) (b : Nat) (s : State) {t : State} (h :
    (execBpcmdDeep who b s) = .next t) :
    t.mem = s.mem ∧ t.pending = s.pending := by
  unfold execBpcmdDeep State.bpCmd at h
  cases h
  refine ⟨drnReg_mem _ _ _ ?_, drnReg_pending _ _ _ ?_⟩ <;> (repeat' split) <;> simp
theorem execBpcmdOff_keeps (who : Requester) (b : Nat) (s : State) {t : State} (h : (execBpcmdOff who b s) = .next t) :
    t.mem = s.mem ∧ t.pending = s.pending := by
  unfold execBpcmdOff State.bpCmd at h
  cases h
  refine ⟨drnReg_mem _ _ _ ?_, drnReg_pending _ _ _ ?_⟩ <;> (repeat' split) <;> simp
theorem execBpcmdOn_keeps (who : Requester) (b : Nat) (s : State) {t : State} (h : (execBpcmdOn who b s) = .next t) :
    t.mem = s.mem ∧ t.pending = s.pending := by
  unfold execBpcmdOn State.bpCmd at h
  cases h
  refine ⟨drnReg_mem _ _ _ ?_, drnReg_pending _ _ _ ?_⟩ <;> (repeat' split) <;> simp
@[simp] theorem State.retireDrain_keeps (s : State) (b : Nat) :
    (State.retireDrain s b).mem = s.mem ∧ (State.retireDrain s b).pending = s.pending := by
  simp [State.retireDrain]
theorem execRetirementDrained_keeps (b : Nat) (s : State) {t : State} (h : (execRetirementDrained b s) = .next t) :
    t.mem = s.mem ∧ t.pending = s.pending := by
  unfold execRetirementDrained at h; (repeat' split at h) <;> cases h <;> simp
@[simp] theorem State.recountHandles_keeps (s : State) (b : Nat) :
    (State.recountHandles s b).mem = s.mem ∧ (State.recountHandles s b).pending = s.pending := by
  simp [State.recountHandles]
@[simp] theorem State.abandon_keeps (s : State) (b : Nat) :
    (State.abandon s b).mem = s.mem ∧ (State.abandon s b).pending = s.pending := by
  simp [State.abandon]
theorem execRetirementAbandon_keeps (b : Nat) (s : State) {t : State} (h : (execRetirementAbandon b s) = .next t) :
    t.mem = s.mem ∧ t.pending = s.pending := by
  unfold execRetirementAbandon at h; (repeat' split at h) <;> cases h <;> simp
@[simp] theorem State.powerOff_keeps (s : State) (b : Nat) :
    (State.powerOff s b).pending = s.pending := by
  simp [State.powerOff]
theorem execDrainIntervalEnd_keeps (b : Nat) (s : State) {t : State} (h : (execDrainIntervalEnd b s) = .next t) :
    t.pending = s.pending := by
  unfold execDrainIntervalEnd at h; (repeat' split at h) <;> cases h <;> simp
theorem State.stub_keeps (s : State) (b : Nat) (p : Packet) {r} (h : (State.stub s b p) = some r) :
    r.1.mem = s.mem ∧ r.1.pending = s.pending := by
  unfold State.stub at h; (repeat' split at h) <;> cases h <;> simp
theorem execStubAnswer_keeps (src : Endpoint) (b : Nat) (s : State) {t : State} (h :
    (execStubAnswer src b s) = .next t) :
    t.mem = s.mem ∧ t.pending = s.pending := by
  unfold execStubAnswer at h
  split at h
  · cases h; exact ⟨rfl, rfl⟩
  · split at h
    · cases h; exact ⟨rfl, rfl⟩
    · rename_i heq; have k := State.oldest_keeps (h := heq); simp at k
      split at h
      · rename_i heq2; have k2 := State.stub_keeps (h := heq2); simp at k2
        cases h; simp [k, k2]
      · cases h; exact ⟨rfl, rfl⟩
@[simp] theorem State.powerOn_keeps (s : State) (b code : Nat) :
    (State.powerOn s b code).mem = s.mem ∧ (State.powerOn s b code).pending = s.pending := by
  simp [State.powerOn]
theorem execLeaveOffComplete_keeps (b : Nat) (s : State) {t : State} (h : (execLeaveOffComplete b s) = .next t) :
    t.mem = s.mem ∧ t.pending = s.pending := by
  unfold execLeaveOffComplete ok at h; grind [State.bpSt_keeps, State.powerOn_keeps]
theorem execWakefail_keeps (b : Nat) (s : State) {t : State} (h : (execWakefail b s) = .next t) :
    t.mem = s.mem ∧ t.pending = s.pending := by
  unfold execWakefail at h; (repeat' split at h) <;> cases h <;> simp
@[simp] theorem State.recall_keeps (a0 : Nat) (a1 : State) (a2 : Nat) :
    (State.recall a0 a1 a2).2.mem = a1.mem ∧ (State.recall a0 a1 a2).2.pending = a1.pending := by
  induction a0 generalizing a1 a2 with
  | zero => exact ⟨rfl, rfl⟩
  | succ n ih => unfold State.recall; (repeat' split) <;> simp [ih]
@[simp] theorem State.giveFloor_keeps (s : State) (b : Nat) :
    (State.giveFloor s b).mem = s.mem ∧ (State.giveFloor s b).pending = s.pending := by
  simp [State.giveFloor]
@[simp] theorem State.followLimit_keeps (s : State) :
    (State.followLimit s).mem = s.mem ∧ (State.followLimit s).pending = s.pending := by
  simp [State.followLimit]
@[simp] theorem State.recallShare_keeps (s : State) :
    (State.recallShare s).mem = s.mem ∧ (State.recallShare s).pending = s.pending := by
  simp [State.recallShare]
@[simp] theorem State.grantTo_keeps (s : State) (l : List Nat) (last : Nat) :
    (State.grantTo s l last).2.mem = s.mem ∧ (State.grantTo s l last).2.pending = s.pending := by
  unfold State.grantTo
  refine foldl_inv (fun r : _ × State => r.2.mem = s.mem ∧ r.2.pending = s.pending) _ _ _ ⟨rfl, rfl⟩ ?_
  rintro ⟨l, t⟩ r ⟨h1, h2⟩
  dsimp only at h1 h2 ⊢
  split <;> simp [h1, h2]
@[simp] theorem State.grant_keeps (s : State) :
    (State.grant s).mem = s.mem ∧ (State.grant s).pending = s.pending := by
  simp [State.grant]
theorem execBellowsPeriod_keeps (s : State) {t : State} (h : (execBellowsPeriod s) = .next t) :
    t.mem = s.mem ∧ t.pending = s.pending := by
  unfold execBellowsPeriod at h; (repeat' split at h) <;> cases h <;> simp
@[simp] theorem State.writeLimit_keeps (s : State) (val : Word64) :
    (State.writeLimit s val).mem = s.mem ∧ (State.writeLimit s val).pending = s.pending := by
  simp [State.writeLimit]
theorem execBlwLimitWrite_keeps (who : Requester) (val : Word64) (s : State) {t : State} (h :
    (execBlwLimitWrite who val s) = .next t) :
    t.mem = s.mem ∧ t.pending = s.pending := by
  cases h; simp
@[simp] theorem State.writeReserve_keeps (s : State) (val : Word64) :
    (State.writeReserve s val).mem = s.mem ∧ (State.writeReserve s val).pending = s.pending := by
  simp [State.writeReserve]
@[simp] theorem State.putDiode_keeps (s : State) (n : Nat) (t : Option Int) :
    (State.putDiode s n t).mem = s.mem ∧ (State.putDiode s n t).pending = s.pending := by
  unfold State.putDiode; split <;> simp
@[simp] theorem State.fanDuty_keeps (s : State) (tlo thi : Nat) (t : Int) :
    (State.fanDuty s tlo thi t).2.mem = s.mem ∧ (State.fanDuty s tlo thi t).2.pending = s.pending := by
  dsimp only [State.fanDuty]; (repeat' split) <;> simp
@[simp] theorem State.driveFan_keeps (s : State) (hot : Option Int) (f : Nat) :
    (State.driveFan s hot f).mem = s.mem ∧ (State.driveFan s hot f).pending = s.pending := by
  unfold State.driveFan; split <;> simp
@[simp] theorem State.thermtrip_keeps (s : State) :
    (State.thermtrip s).pending = s.pending := by
  simp [State.thermtrip]
theorem execThermalReading_keeps (temps : List (Option Int)) (s : State) {t : State} (h :
    (execThermalReading temps s) = .next t) :
    t.pending = s.pending := by
  unfold execThermalReading at h; split at h <;> cases h <;> simp
theorem execPowerSum_keeps (s : State) {t : State} (h : (execPowerSum s) = .next t) :
    t.mem = s.mem ∧ t.pending = s.pending := by
  unfold execPowerSum at h; split at h <;> cases h <;> simp
@[simp] theorem State.poll_keeps (s : State) (reads : List PmbRead) (power : Bool) (r : Nat) :
    (State.poll s reads power r).mem = s.mem ∧ (State.poll s reads power r).pending = s.pending := by
  unfold State.poll; grind [State.fput_keeps, State.log_keeps]
theorem execPmbusPoll_keeps (reads : List PmbRead) (s : State) {t : State} (h : (execPmbusPoll reads s) = .next t) :
    t.mem = s.mem ∧ t.pending = s.pending := by
  cases h; simp
theorem execPmbAlert_keeps (reads : List PmbRead) (s : State) {t : State} (h : (execPmbAlert reads s) = .next t) :
    t.mem = s.mem ∧ t.pending = s.pending := by
  cases h; simp
theorem execFanFail_keeps (f rpm : Nat) (s : State) {t : State} (h : (execFanFail f rpm s) = .next t) :
    t.mem = s.mem ∧ t.pending = s.pending := by
  unfold execFanFail at h; (repeat' split at h) <;> cases h <;> simp
theorem execRefclkLoss_keeps (s : State) {t : State} (h : (execRefclkLoss s) = .next t) :
    t.mem = s.mem ∧ t.pending = s.pending := by
  unfold execRefclkLoss at h; split at h <;> cases h <;> simp
theorem execRefclkRestore_keeps (s : State) {t : State} (h : (execRefclkRestore s) = .next t) :
    t.mem = s.mem ∧ t.pending = s.pending := by
  cases h; simp
theorem execDroneTick_keeps (s : State) {t : State} (h : (execDroneTick s) = .next t) :
    t.mem = s.mem ∧ t.pending = s.pending := by
  cases h; simp

/-! ### Recovery -/

@[simp] theorem State.publishCap_keeps (s : State) (b : Nat) (failed : Bool) :
    (State.publishCap s b failed).mem = s.mem ∧ (State.publishCap s b failed).pending = s.pending := by
  simp [State.publishCap]
@[simp] theorem State.showCap_keeps (s : State) (b : Nat) :
    (State.showCap s b).mem = s.mem ∧ (State.showCap s b).pending = s.pending := by
  simp [State.showCap]
@[simp] theorem State.rebuildCmd_keeps (s : State) (p : Nat) (subst : Option Nat) :
    (State.rebuildCmd s p subst).mem = s.mem ∧ (State.rebuildCmd s p subst).pending = s.pending := by
  simp [State.rebuildCmd]
theorem execRebuild_keeps (who : Requester) (p : Nat) (subst : Option Nat) (s : State) {t : State} (h :
    (execRebuild who p subst s) = .next t) :
    t.mem = s.mem ∧ t.pending = s.pending := by
  cases h; simp
@[simp] theorem State.substitute_keeps (s : State) (b : Nat) :
    (State.substitute s b).pending = s.pending := by
  simp [State.substitute]
@[simp] theorem State.rebuildBore_keeps (s : State) (b : Nat) :
    (State.rebuildBore s b).pending = s.pending := by
  simp [State.rebuildBore]
@[simp] theorem State.rebuildFail_keeps (s : State) (b : Nat) :
    (State.rebuildFail s b).pending = s.pending := by
  simp [State.rebuildFail]
@[simp] theorem State.rebuildUp_keeps (s : State) (r : Rebuild) :
    (State.rebuildUp s r).mem = s.mem ∧ (State.rebuildUp s r).pending = s.pending := by
  simp [State.rebuildUp]
@[simp] theorem State.rebuildOver_keeps (s : State) (p : Nat) (r : Rebuild) :
    (State.rebuildOver s p r).mem = s.mem ∧ (State.rebuildOver s p r).pending = s.pending := by
  simp [State.rebuildOver]
theorem execRebuildComplete_keeps (p : Nat) (fails : List Nat) (s : State) {t : State} (h :
    (execRebuildComplete p fails s) = .next t) :
    t.pending = s.pending := by
  dsimp only [execRebuildComplete, ok] at h; (repeat' split at h) <;> (try injection h with h) <;> (try subst h) <;> first | contradiction | simp | simp_all
@[simp] theorem State.resetWake_keeps (s : State) (b : Nat) :
    (State.resetWake s b).mem = s.mem ∧ (State.resetWake s b).pending = s.pending := by
  simp [State.resetWake]
@[simp] theorem State.warmBore_keeps (s : State) (b : Nat) :
    (State.warmBore s b).mem = s.mem ∧ (State.warmBore s b).pending = s.pending := by
  simp [State.warmBore]
@[simp] theorem State.warmPart_keeps (s : State) (p : Nat) :
    (State.warmPart s p).mem = s.mem ∧ (State.warmPart s p).pending = s.pending := by
  simp [State.warmPart]
@[simp] theorem State.resetHif_keeps (s : State) (linkDown : Bool) :
    (State.resetHif s linkDown).mem = s.mem ∧ (State.resetHif s linkDown).pending = s.pending := by
  simp [State.resetHif]
@[simp] theorem State.resetContexts_keeps (s : State) :
    (State.resetContexts s).mem = s.mem ∧ (State.resetContexts s).pending = s.pending := by
  simp [State.resetContexts]
@[simp] theorem State.hostReset_keeps (s : State) (linkDown : Bool) :
    (State.hostReset s linkDown).mem = s.mem ∧ (State.hostReset s linkDown).pending = s.pending := by
  simp [State.hostReset]
theorem execHostReset_keeps (linkDown : Bool) (s : State) {t : State} (h : (execHostReset linkDown s) = .next t) :
    t.mem = s.mem ∧ t.pending = s.pending := by
  simp [execHostReset, ok] at h; subst h; simp
@[simp] theorem State.prstSt_keeps (s : State) (p st : Nat) :
    (State.prstSt s p st).mem = s.mem ∧ (State.prstSt s p st).pending = s.pending := by
  simp [State.prstSt]
@[simp] theorem State.restartCmd_keeps (s : State) (p : Nat) :
    (State.restartCmd s p).mem = s.mem ∧ (State.restartCmd s p).pending = s.pending := by
  simp [State.restartCmd]
theorem execRestart_keeps (who : Requester) (p : Nat) (s : State) {t : State} (h : (execRestart who p s) = .next t) :
    t.mem = s.mem ∧ t.pending = s.pending := by
  cases h; simp
theorem execPartitionRestartComplete_keeps (p : Nat) (s : State) {t : State} (h :
    (execPartitionRestartComplete p s) = .next t) :
    t.mem = s.mem ∧ t.pending = s.pending := by
  unfold execPartitionRestartComplete ok at h; simp at h; (repeat' split at h) <;> (try subst h) <;> (try simp_all) <;> (try grind [State.partWaiting_keeps, State.prstSt_keeps, State.warmPart_keeps])
theorem execPartitionError_keeps (p code bore : Nat) (s : State) {t : State} (h :
    (execPartitionError p code bore s) = .next t) :
    t.mem = s.mem ∧ t.pending = s.pending := by
  cases h; simp

/-! ### Keep -/

@[simp] theorem State.holdup_keeps (s : State) (row code : Nat) :
    (State.holdup s row code).2.mem = s.mem ∧ (State.holdup s row code).2.pending = s.pending := by
  unfold State.holdup; grind [State.fput_keeps, State.log_keeps]
@[simp] theorem State.keepSt_keeps (s : State) (st : Nat) :
    (State.keepSt s st).mem = s.mem ∧ (State.keepSt s st).pending = s.pending := by
  simp [State.keepSt]
@[simp] theorem State.bypSt_keeps (s : State) (b st : Nat) :
    (State.bypSt s b st).mem = s.mem ∧ (State.bypSt s b st).pending = s.pending := by
  simp [State.bypSt]
@[simp] theorem State.refuseOp_keeps (s : State) (x : FlashOp) (power : Bool) :
    (State.refuseOp s x power).mem = s.mem ∧ (State.refuseOp s x power).pending = s.pending := by
  unfold State.refuseOp; split <;> simp
@[simp] theorem State.startOp_keeps (code a1 : Nat) (a2 : State) :
    (State.startOp code a1 a2).mem = a2.mem ∧ (State.startOp code a1 a2).pending = a2.pending := by
  induction a1 generalizing a2 with
  | zero => exact ⟨rfl, rfl⟩
  | succ n ih => unfold State.startOp; dsimp only; (repeat' split) <;> simp [ih]
@[simp] theorem State.queueOp_keeps (s : State) (x : FlashOp) (code : Nat) :
    (State.queueOp s x code).mem = s.mem ∧ (State.queueOp s x code).pending = s.pending := by
  simp [State.queueOp]
@[simp] theorem State.opOver_keeps (s : State) (code : Nat) :
    (State.opOver s code).mem = s.mem ∧ (State.opOver s code).pending = s.pending := by
  simp [State.opOver]
@[simp] theorem State.keepCmd_keeps (s : State) (op addr code : Nat) :
    (State.keepCmd s op addr code).mem = s.mem ∧ (State.keepCmd s op addr code).pending = s.pending := by
  simp [State.keepCmd]
theorem execKeepRead_keeps (who : Requester) (addr : Nat) (s : State) {t : State} (h :
    (execKeepRead who addr s) = .next t) :
    t.mem = s.mem ∧ t.pending = s.pending := by
  cases h; simp
theorem execKeepProgram_keeps (who : Requester) (addr adc : Nat) (s : State) {t : State} (h :
    (execKeepProgram who addr adc s) = .next t) :
    t.mem = s.mem ∧ t.pending = s.pending := by
  cases h; simp
theorem execKeepErase_keeps (who : Requester) (addr adc : Nat) (s : State) {t : State} (h :
    (execKeepErase who addr adc s) = .next t) :
    t.mem = s.mem ∧ t.pending = s.pending := by
  cases h; simp
@[simp] theorem State.flashLost_keeps (s : State) (a n : Nat) :
    (State.flashLost s a n).mem = s.mem ∧ (State.flashLost s a n).pending = s.pending := by
  simp [State.flashLost]
@[simp] theorem State.toKeepBuf_keeps (s : State) (a : Nat) :
    (State.toKeepBuf s a).mem = s.mem ∧ (State.toKeepBuf s a).pending = s.pending := by
  simp [State.toKeepBuf]
@[simp] theorem State.flashErr_keeps (s : State) (a : Nat) :
    (State.flashErr s a).mem = s.mem ∧ (State.flashErr s a).pending = s.pending := by
  simp [State.flashErr]
@[simp] theorem State.hostOp_keeps (s : State) (x : FlashOp) (good : Bool) :
    (State.hostOp s x good).mem = s.mem ∧ (State.hostOp s x good).pending = s.pending := by
  unfold State.hostOp; split <;> simp
theorem execKeepOperationComplete_keeps (good : Bool) (adc : Nat) (s : State) {t : State} (h :
    (execKeepOperationComplete good adc s) = .next t) :
    t.mem = s.mem ∧ t.pending = s.pending := by
  unfold execKeepOperationComplete at h; (repeat' split at h) <;> cases h <;> simp
@[simp] theorem State.writeRepair_keeps (s : State) (m : Map Nat) :
    (State.writeRepair s m).mem = s.mem ∧ (State.writeRepair s m).pending = s.pending := by
  simp [State.writeRepair]
@[simp] theorem State.setMask_keeps (s : State) (site mask : Nat) :
    (State.setMask s site mask).mem = s.mem ∧ (State.setMask s site mask).pending = s.pending := by
  simp [State.setMask]
@[simp] theorem State.commit_keeps (s : State) (b code : Nat) :
    (State.commit s b code).mem = s.mem ∧ (State.commit s b code).pending = s.pending := by
  simp [State.commit]
theorem execBypassCommit_keeps (who : Requester) (b adc : Nat) (s : State) {t : State} (h :
    (execBypassCommit who b adc s) = .next t) :
    t.mem = s.mem ∧ t.pending = s.pending := by
  cases h; simp
theorem execBypassCommitDone_keeps (b : Nat) (good : Bool) (adc : Nat) (s : State) {t : State} (h :
    (execBypassCommitDone b good adc s) = .next t) :
    t.mem = s.mem ∧ t.pending = s.pending := by
  unfold execBypassCommitDone at h; (repeat' split at h) <;> cases h <;> simp
@[simp] theorem State.markPersisted_keeps (s : State) (n : Nat) :
    (State.markPersisted s n).mem = s.mem ∧ (State.markPersisted s n).pending = s.pending := by
  simp [State.markPersisted]
@[simp] theorem State.putPage_keeps (s : State) (page : List (Nat × List Byte)) :
    (State.putPage s page).mem = s.mem ∧ (State.putPage s page).pending = s.pending := by
  simp [State.putPage]
@[simp] theorem State.eraseAhead_keeps (s : State) (code : Nat) :
    (State.eraseAhead s code).2.mem = s.mem ∧ (State.eraseAhead s code).2.pending = s.pending := by
  unfold State.eraseAhead; grind [State.flashErase_keeps, State.holdup_keeps]
@[simp] theorem State.programPage_keeps (s : State) (erase page : Nat) :
    (State.programPage s erase page).2.mem = s.mem ∧ (State.programPage s erase page).2.pending = s.pending := by
  unfold State.programPage; grind [State.eraseAhead_keeps, State.fsat_keeps, State.holdup_keeps, State.putPage_keeps]
@[simp] theorem State.pageDue_keeps (s : State) :
    (State.pageDue s).mem = s.mem ∧ (State.pageDue s).pending = s.pending := by
  simp [State.pageDue]
@[simp] theorem State.pageRun_keeps (s : State) (adc : List Nat) :
    (State.pageRun s adc).mem = s.mem ∧ (State.pageRun s adc).pending = s.pending := by
  simp [State.pageRun]
theorem execLogPageProgram_keeps (adc : List Nat) (s : State) {t : State} (h : (execLogPageProgram adc s) = .next t) :
    t.mem = s.mem ∧ t.pending = s.pending := by
  cases h; simp
theorem execLogPageRetry_keeps (adc : List Nat) (s : State) {t : State} (h : (execLogPageRetry adc s) = .next t) :
    t.mem = s.mem ∧ t.pending = s.pending := by
  cases h; simp
@[simp] theorem State.pagesOut_keeps (adc : List Nat) (a1 a2 : Nat) (a3 : State) :
    (State.pagesOut adc a1 a2 a3).mem = a3.mem ∧ (State.pagesOut adc a1 a2 a3).pending = a3.pending := by
  induction a1 generalizing a2 a3 with
  | zero => exact ⟨rfl, rfl⟩
  | succ n ih =>
    unfold State.pagesOut
    have kk := State.programPage_keeps a3 0 (codeAt adc a2)
    split <;> (rename_i heq; rw [heq] at kk; simp at kk; simp [kk, ih])
theorem execPwrFail_keeps (adc : List Nat) (s : State) {t : State} (h : (execPwrFail adc s) = .next t) :
    t.mem = s.mem ∧ t.pending = s.pending := by
  unfold execPwrFail ok at h; grind [State.log_keeps, State.pageDue_keeps, State.pagesOut_keeps]
theorem execPwrFailRelease_keeps (s : State) {t : State} (h : (execPwrFailRelease s) = .next t) :
    t.mem = s.mem ∧ t.pending = s.pending := by
  cases h; simp

/-! ### Boot -/

@[simp] theorem State.flashCut_keeps (s : State) :
    (State.flashCut s).mem = s.mem ∧ (State.flashCut s).pending = s.pending := by
  unfold State.flashCut; split <;> simp
@[simp] theorem State.coldBase_keeps (s : State) (porst always main : Bool) :
    (State.coldBase s porst always main).pending = s.pending := by
  simp [State.coldBase]
theorem execColdReset_keeps (strap : Nat) (s : State) {t : State} (h : (execColdReset strap s) = .next t) :
    t.pending = s.pending := by
  cases h; simp
theorem execPorstNAssert_keeps (s : State) {t : State} (h : (execPorstNAssert s) = .next t) :
    t.pending = s.pending := by
  cases h; simp
@[simp] theorem State.mainLost_keeps (s : State) :
    (State.mainLost s).pending = s.pending := by
  simp [State.mainLost]
theorem execMainRailLoss_keeps (s : State) {t : State} (h : (execMainRailLoss s) = .next t) :
    t.pending = s.pending := by
  cases h; simp
theorem execAlwaysOnRailLoss_keeps (s : State) {t : State} (h : (execAlwaysOnRailLoss s) = .next t) :
    t.pending = s.pending := by
  cases h; simp
@[simp] theorem State.bootStatus_keeps (s : State) (v : Nat) :
    (State.bootStatus s v).mem = s.mem ∧ (State.bootStatus s v).pending = s.pending := by
  simp [State.bootStatus]
@[simp] theorem State.enterStage_keeps (s : State) (st : Nat) :
    (State.enterStage s st).mem = s.mem ∧ (State.enterStage s st).pending = s.pending := by
  simp [State.enterStage]
theorem execRailSequence_keeps (s : State) {t : State} (h : (execRailSequence s) = .next t) :
    t.mem = s.mem ∧ t.pending = s.pending := by
  unfold execRailSequence ok at h; (repeat' split at h) <;> simp_all <;> (try subst h) <;> simp_all
theorem execRailSequenceTimeout_keeps (s : State) {t : State} (h : (execRailSequenceTimeout s) = .next t) :
    t.pending = s.pending := by
  unfold execRailSequenceTimeout at h; split at h <;> cases h <;> simp
@[simp] theorem State.startImage_keeps (s : State) (b : Bool) :
    (State.startImage s b).mem = s.mem ∧ (State.startImage s b).pending = s.pending := by
  simp [State.startImage]
theorem execFirmwareVerify_keeps (s : State) {t : State} (h : (execFirmwareVerify s) = .next t) :
    t.mem = s.mem ∧ t.pending = s.pending := by
  unfold execFirmwareVerify ok at h; grind [State.bootStatus_keeps, State.enterStage_keeps, State.fput_keeps, State.startImage_keeps]
@[simp] theorem State.sitesFromSpares_keeps (s : State) :
    (State.sitesFromSpares s).mem = s.mem ∧ (State.sitesFromSpares s).pending = s.pending := by
  simp [State.sitesFromSpares]
@[simp] theorem State.loadPmb_keeps (s : State) (i : Nat) :
    (State.loadPmb s i).mem = s.mem ∧ (State.loadPmb s i).pending = s.pending := by
  simp [State.loadPmb]
@[simp] theorem State.loadCosts_keeps (s : State) :
    (State.loadCosts s).mem = s.mem ∧ (State.loadCosts s).pending = s.pending := by
  simp [State.loadCosts]
@[simp] theorem State.applyCalibration_keeps (s : State) :
    (State.applyCalibration s).mem = s.mem ∧ (State.applyCalibration s).pending = s.pending := by
  simp [State.applyCalibration]
@[simp] theorem State.applyRepair_keeps (s : State) :
    (State.applyRepair s).mem = s.mem ∧ (State.applyRepair s).pending = s.pending := by
  simp [State.applyRepair]
theorem execFuseApply_keeps (s : State) {t : State} (h : (execFuseApply s) = .next t) :
    t.mem = s.mem ∧ t.pending = s.pending := by
  unfold execFuseApply ok at h; (repeat' split at h) <;> simp_all <;> (try subst h) <;> simp_all
theorem execHbmTraining_keeps (trained : List Nat) (s : State) {t : State} (h : (execHbmTraining trained s) = .next t) :
    t.pending = s.pending := by
  unfold execHbmTraining ok at h; (repeat' split at h) <;> simp_all <;> (try subst h) <;> simp_all
theorem execHostready_keeps (s : State) {t : State} (h : (execHostready s) = .next t) :
    t.mem = s.mem ∧ t.pending = s.pending := by
  cases h; simp
@[simp] theorem State.siteResult_keeps (s : State) (r : SiteTest) :
    (State.siteResult s r).mem = s.mem ∧ (State.siteResult s r).pending = s.pending := by
  simp [State.siteResult]
theorem execSelfTest_keeps (results : List SiteTest) (adc : Nat) (s : State) {t : State} (h :
    (execSelfTest results adc s) = .next t) :
    t.mem = s.mem ∧ t.pending = s.pending := by
  unfold execSelfTest at h
  split at h
  · cases h; exact ⟨rfl, rfl⟩
  · split at h
    · cases h; exact ⟨rfl, rfl⟩
    · cases h
      simp only [State.enterStage_keeps]
      have k := foldl_inv (fun q : State => q.mem = s.mem ∧ q.pending = s.pending) State.siteResult results
        { s with boot := { s.boot with sites := [] } } ⟨rfl, rfl⟩ (fun x a h => by simp [h])
      split
      · exact k
      · generalize results.foldl State.siteResult _ = u at k ⊢
        have kk := State.holdup_keeps u 3 adc
        split <;> (rename_i heq; rw [heq] at kk; simp at kk; simp [kk, k])
theorem execCapabilityPublish_keeps (s : State) {t : State} (h : (execCapabilityPublish s) = .next t) :
    t.mem = s.mem ∧ t.pending = s.pending := by
  unfold execCapabilityPublish ok at h; (repeat' split at h) <;> simp_all <;> (try subst h) <;> simp_all
@[simp] theorem State.rebootUnits_keeps (s : State) :
    (State.rebootUnits s).mem = s.mem ∧ (State.rebootUnits s).pending = s.pending := by
  simp [State.rebootUnits]
@[simp] theorem State.packageReboot_keeps (s : State) :
    (State.packageReboot s).pending = s.pending := by
  simp [State.packageReboot]
theorem execReboot_keeps (who : Requester) (s : State) {t : State} (h : (execReboot who s) = .next t) :
    t.pending = s.pending := by
  cases h; simp
theorem execWarmReset_keeps (scope : ResetScope) (s : State) {t : State} (h : (execWarmReset scope s) = .next t) :
    t.pending = s.pending := by
  unfold execWarmReset ok at h; (repeat' split at h) <;> simp_all <;> (try subst h) <;> simp_all
@[simp] theorem State.svnLock_keeps (s : State) (adc : Nat) (fused : Bool) :
    (State.svnLock s adc fused).mem = s.mem ∧ (State.svnLock s adc fused).pending = s.pending := by
  unfold State.svnLock; grind [State.fput_keeps, State.holdup_keeps]
theorem execSvnlock_keeps (who : Requester) (adc : Nat) (fused : Bool) (s : State) {t : State} (h :
    (execSvnlock who adc fused s) = .next t) :
    t.mem = s.mem ∧ t.pending = s.pending := by
  cases h; simp
@[simp] theorem State.writeBootctl_keeps (s : State) (val : Nat) :
    (State.writeBootctl s val).pending = s.pending := by
  simp [State.writeBootctl]
@[simp] theorem State.challengeCmd_keeps (s : State) :
    (State.challengeCmd s).mem = s.mem ∧ (State.challengeCmd s).pending = s.pending := by
  simp [State.challengeCmd]
theorem execChallenge_keeps (who : Requester) (s : State) {t : State} (h : (execChallenge who s) = .next t) :
    t.mem = s.mem ∧ t.pending = s.pending := by
  cases h; simp
@[simp] theorem State.dbgSt_keeps (s : State) (st : Nat) :
    (State.dbgSt s st).mem = s.mem ∧ (State.dbgSt s st).pending = s.pending := by
  simp [State.dbgSt]
@[simp] theorem State.putPerm_keeps (s : State) (p : Nat) :
    (State.putPerm s p).mem = s.mem ∧ (State.putPerm s p).pending = s.pending := by
  simp [State.putPerm]
@[simp] theorem State.dropNonce_keeps (s : State) :
    (State.dropNonce s).mem = s.mem ∧ (State.dropNonce s).pending = s.pending := by
  simp [State.dropNonce]
@[simp] theorem State.submitCmd_keeps (s : State) :
    (State.submitCmd s).mem = s.mem ∧ (State.submitCmd s).pending = s.pending := by
  unfold State.submitCmd; split <;> simp
theorem execSubmit_keeps (who : Requester) (s : State) {t : State} (h : (execSubmit who s) = .next t) :
    t.mem = s.mem ∧ t.pending = s.pending := by
  cases h; simp
theorem execRelock_keeps (who : Requester) (s : State) {t : State} (h : (execRelock who s) = .next t) :
    t.mem = s.mem ∧ t.pending = s.pending := by
  cases h; simp
@[simp] theorem State.writeDbgcmd_keeps (s : State) (op : Nat) :
    (State.writeDbgcmd s op).mem = s.mem ∧ (State.writeDbgcmd s op).pending = s.pending := by
  simp [State.writeDbgcmd]
theorem execNonceExpiry_keeps (s : State) {t : State} (h : (execNonceExpiry s) = .next t) :
    t.mem = s.mem ∧ t.pending = s.pending := by
  cases h; simp
theorem execConsoleRelease_keeps (s : State) {t : State} (h : (execConsoleRelease s) = .next t) :
    t.mem = s.mem ∧ t.pending = s.pending := by
  cases h; simp

end Sys2Proof.Machine
end

