-- ==== Sys2Proof/Laws/CanonicalHub.lean ====
section
/-!
SUPPORT. Laws/CanonicalHub.lean: crooks, the host interface, the drone and boot: the operations and commands that write memory keep it in its canonical form.
-/

namespace Sys2Proof.Machine

/-! ### Crook -/

theorem State.putFlit_wf (s : State) (k : Nat) (c : RxCur) (x : Share) (hwf : Memory.wf s.mem = true) :
    Memory.wf (State.putFlit s k c x).mem = true := by
  dsimp only [State.putFlit]; (repeat' split) <;> simp [hwf, State.spaceWrite_wf]
theorem State.putStep_wf (s : State) (k vl : Nat) (hwf : Memory.wf s.mem = true) {r} (h : (State.putStep s k vl) = some r) :
    Memory.wf r.mem = true := by
  unfold State.putStep at h
  split at h
  · cases h
  · (repeat' split at h)
    · cases h
    · obtain ⟨x, hg, rfl⟩ := Option.map_eq_some_iff.mp h
      have kk := State.beginPut_keeps (h := hg); simp [kk, hwf, State.putFlit_wf]
    · cases h; simp [hwf, State.putFlit_wf]
    · cases h; simp [hwf]
theorem State.putRun_wf (k vl n : Nat) (s : State) (hwf : Memory.wf s.mem = true) :
    Memory.wf (State.putRun k vl n s).mem = true := by
  induction n generalizing s with
  | zero => exact hwf
  | succ n ih =>
    unfold State.putRun
    split
    · rename_i h; have kk := State.putStep_wf _ _ _ hwf h; split <;> simp [kk, ih]
    · exact hwf
theorem execPutArrival_wf (k : Nat) (s : State) (hwf : Memory.wf s.mem = true) {t : State} (h :
    (execPutArrival k s) = .next t) :
    Memory.wf t.mem = true := by
  unfold execPutArrival at h; (repeat' split at h) <;> cases h <;> simp [hwf, State.putRun_wf]
theorem State.redFlit_wf (s : State) (k : Nat) (c : RxCur) (x : Share) (hwf : Memory.wf s.mem = true) :
    Memory.wf (State.redFlit s k c x).mem = true := by
  dsimp only [State.redFlit]; (repeat' split) <;> simp [hwf, State.addRun_wf]
theorem State.redStep_wf (s : State) (k : Nat) (hwf : Memory.wf s.mem = true) {r} (h : (State.redStep s k) = some r) :
    Memory.wf r.mem = true := by
  unfold State.redStep at h
  split at h
  · cases h
  · (repeat' split at h)
    · cases h
    · obtain ⟨x, hg, rfl⟩ := Option.map_eq_some_iff.mp h
      have kk := State.beginRed_keeps (h := hg); simp [kk, hwf, State.redFlit_wf]
    · cases h; simp [hwf, State.redFlit_wf]
    · cases h; simp [hwf]
theorem State.redRun_wf (k n : Nat) (s : State) (hwf : Memory.wf s.mem = true) :
    Memory.wf (State.redRun k n s).mem = true := by
  induction n generalizing s with
  | zero => exact hwf
  | succ n ih =>
    unfold State.redRun
    split
    · rename_i h; have kk := State.redStep_wf _ _ hwf h; split <;> simp [kk, ih]
    · exact hwf
theorem execRedArrival_wf (k : Nat) (s : State) (hwf : Memory.wf s.mem = true) {t : State} (h :
    (execRedArrival k s) = .next t) :
    Memory.wf t.mem = true := by
  unfold execRedArrival at h; (repeat' split at h) <;> cases h <;> simp [hwf, State.redRun_wf]

/-! ### HostIf -/

theorem State.hostStore_wf (s : State) (a : Nat) (l : List Byte) (pois : Bool) (hwf : Memory.wf s.mem = true) :
    Memory.wf (State.hostStore s a l pois).mem = true := by
  dsimp only [State.hostStore]; (repeat' split) <;> simp [hwf, State.store_wf]
theorem State.bar4Write_wf (s : State) (a : Nat) (l : List Byte) (pois : Bool) (hwf : Memory.wf s.mem = true) :
    Memory.wf (State.bar4Write s a l pois).mem = true := by
  unfold State.bar4Write
  exact foldl_wf _ _ _ (fun t r ht => State.hostStore_wf _ _ _ _ ht) hwf
theorem execBar4Access_wf (off len : Nat) (acc : HostAccess) (s : State) (hwf : Memory.wf s.mem = true) {t : State}
    (h : (execBar4Access off len acc s) = .next t) :
    Memory.wf t.mem = true := by
  unfold execBar4Access at h; (repeat' split at h) <;> cases h <;> simp [hwf, State.bar4Write_wf]

/-! ### Resetting -/

theorem State.zeroRange_wf (s : State) (a n : Nat) (hwf : Memory.wf s.mem = true) :
    Memory.wf (State.zeroRange s a n).mem = true := by
  exact Memory.wf_filter _ _ hwf
theorem State.zeroWindchest_wf (s : State) (b : Nat) (hwf : Memory.wf s.mem = true) :
    Memory.wf (State.zeroWindchest s b).mem = true := by
  simp [State.zeroWindchest, hwf, State.zeroRange_wf]
theorem State.loseBore_wf (s : State) (b : Nat) (hwf : Memory.wf s.mem = true) :
    Memory.wf (State.loseBore s b).mem = true := by
  simp [State.loseBore, hwf, State.zeroRange_wf, State.zeroWindchest_wf]

/-! ### Drone -/

theorem State.powerOff_wf (s : State) (b : Nat) (hwf : Memory.wf s.mem = true) :
    Memory.wf (State.powerOff s b).mem = true := by
  simp [State.powerOff, hwf, State.loseBore_wf]
theorem execDrainIntervalEnd_wf (b : Nat) (s : State) (hwf : Memory.wf s.mem = true) {t : State} (h :
    (execDrainIntervalEnd b s) = .next t) :
    Memory.wf t.mem = true := by
  unfold execDrainIntervalEnd at h; (repeat' split at h) <;> cases h <;> simp [hwf, when_wf, State.powerOff_wf]
theorem State.thermtrip_wf (s : State) (hwf : Memory.wf s.mem = true) :
    Memory.wf (State.thermtrip s).mem = true := by
  unfold State.thermtrip
  dsimp only
  simp only [State.packageError_keeps]
  refine each_wf _ _ _ (fun t b ht => ?_) hwf
  split
  · exact ht
  · exact State.powerOff_wf _ _ ht
theorem execThermalReading_wf (temps : List (Option Int)) (s : State) (hwf : Memory.wf s.mem = true) {t : State}
    (h : (execThermalReading temps s) = .next t) :
    Memory.wf t.mem = true := by
  unfold execThermalReading at h; split at h <;> cases h <;> simp [hwf, mem_wf_ite, State.thermtrip_wf]

/-! ### Recovery -/

theorem State.substitute_wf (s : State) (b : Nat) (hwf : Memory.wf s.mem = true) :
    Memory.wf (State.substitute s b).mem = true := by
  simp [State.substitute, hwf, State.zeroRange_wf]
theorem State.rebuildBore_wf (s : State) (b : Nat) (hwf : Memory.wf s.mem = true) :
    Memory.wf (State.rebuildBore s b).mem = true := by
  simp [State.rebuildBore, hwf, State.zeroWindchest_wf]
theorem State.rebuildFail_wf (s : State) (b : Nat) (hwf : Memory.wf s.mem = true) :
    Memory.wf (State.rebuildFail s b).mem = true := by
  simp [State.rebuildFail, hwf, mem_wf_ite, State.powerOff_wf]
theorem execRebuildComplete_wf (p : Nat) (fails : List Nat) (s : State) (hwf : Memory.wf s.mem = true) {t : State}
    (h : (execRebuildComplete p fails s) = .next t) :
    Memory.wf t.mem = true := by
  unfold execRebuildComplete at h
  dsimp only at h
  (repeat' split at h) <;> first | (cases h; exact hwf; done) | skip
  all_goals
    cases h
    simp only [State.rebuildOver_keeps, State.rebuildUp_keeps]
    refine each_wf _ _ _ (fun t b ht => State.rebuildFail_wf _ _ ht) ?_
    refine each_wf _ _ _ (fun t b ht => ?_) ?_
    · simp only [State.showCap_keeps, State.publishCap_keeps]; exact State.rebuildBore_wf _ _ ht
    · first | exact State.substitute_wf _ _ hwf | exact hwf

/-! ### Boot -/

theorem State.coldBase_wf (s : State) (porst always main : Bool) (hwf : Memory.wf s.mem = true) :
    Memory.wf (State.coldBase s porst always main).mem = true := by
  unfold State.coldBase
  dsimp only
  simp only [State.fput_keeps]
  split
  · exact Memory.wf_filter _ _ (by simpa using hwf)
  · rfl
theorem execColdReset_wf (strap : Nat) (s : State) (hwf : Memory.wf s.mem = true) {t : State} (h :
    (execColdReset strap s) = .next t) :
    Memory.wf t.mem = true := by
  cases h; simp [hwf, State.coldBase_wf]
theorem execPorstNAssert_wf (s : State) (hwf : Memory.wf s.mem = true) {t : State} (h :
    (execPorstNAssert s) = .next t) :
    Memory.wf t.mem = true := by
  cases h; simp [hwf, State.coldBase_wf]
theorem execMainRailLoss_wf (s : State) (hwf : Memory.wf s.mem = true) {t : State} (h :
    (execMainRailLoss s) = .next t) :
    Memory.wf t.mem = true := by
  cases h
  rfl
theorem execRailSequenceTimeout_wf (s : State) (hwf : Memory.wf s.mem = true) {t : State} (h :
    (execRailSequenceTimeout s) = .next t) :
    Memory.wf t.mem = true := by
  unfold execRailSequenceTimeout at h; split at h <;> cases h
  · exact hwf
  · rfl
theorem execAlwaysOnRailLoss_wf (s : State) (hwf : Memory.wf s.mem = true) {t : State} (h :
    (execAlwaysOnRailLoss s) = .next t) :
    Memory.wf t.mem = true := by
  cases h; simp [hwf, State.coldBase_wf]
theorem execHbmTraining_wf (trained : List Nat) (s : State) (hwf : Memory.wf s.mem = true) {t : State} (h :
    (execHbmTraining trained s) = .next t) :
    Memory.wf t.mem = true := by
  unfold execHbmTraining at h
  dsimp only at h
  split at h
  · cases h; exact hwf
  · split at h
    · cases h; exact hwf
    · cases h
      simp only [State.enterStage_keeps]
      refine each_wf _ _ _ (fun t q ht => ?_) (each_wf _ _ _ (fun t q ht => ?_) ?_)
      · split <;> simp [ht]
      · split
        · exact State.zeroRange_wf _ _ _ ht
        · exact ht
      · split <;> simp [hwf]
theorem State.packageReboot_wf (s : State) (hwf : Memory.wf s.mem = true) :
    Memory.wf (State.packageReboot s).mem = true := by
  unfold State.packageReboot
  dsimp only
  simp
  refine each_wf _ _ _ (fun t b ht => ?_) hwf
  split
  · exact ht
  · exact State.powerOff_wf _ _ ht
theorem execReboot_wf (who : Requester) (s : State) (hwf : Memory.wf s.mem = true) {t : State} (h :
    (execReboot who s) = .next t) :
    Memory.wf t.mem = true := by
  cases h; simp [hwf, drnReg_wf, State.packageReboot_wf]
theorem execWarmReset_wf (scope : ResetScope) (s : State) (hwf : Memory.wf s.mem = true) {t : State} (h :
    (execWarmReset scope s) = .next t) :
    Memory.wf t.mem = true := by
  unfold execWarmReset at h
  split at h <;> simp only [ok, Host.Outcome.next.injEq] at h <;> rw [← h]
  · simpa using hwf
  · rw [(State.warmPart_keeps s _).1]; exact hwf
  · exact State.packageReboot_wf s hwf
theorem State.writeBootctl_wf (s : State) (val : Nat) (hwf : Memory.wf s.mem = true) :
    Memory.wf (State.writeBootctl s val).mem = true := by
  simp [State.writeBootctl, hwf, mem_wf_ite, State.packageReboot_wf]

end Sys2Proof.Machine
end

