-- ==== Sys2Proof/Laws/KeepsMedia.lean ====
section
/-!
SUPPORT. Laws/KeepsMedia.lean: the embouchure and the bell: the operations and commands that leave memory as it is, and that all
leave the queue as it is.
-/

namespace Sys2Proof.Machine

/-! ### Embouchure -/

@[simp] theorem State.putPeriod_keeps (s : State) (p : Nat) :
    (State.putPeriod s p).mem = s.mem ∧ (State.putPeriod s p).pending = s.pending := by
  simp [State.putPeriod]
@[simp] theorem State.goodPeriod_keeps (s : State) (p t : Nat) :
    (State.goodPeriod s p t).mem = s.mem ∧ (State.goodPeriod s p t).pending = s.pending := by
  simp [State.goodPeriod]
@[simp] theorem State.putEp_keeps (s : State) (p st : Nat) :
    (State.putEp s p st).mem = s.mem ∧ (State.putEp s p st).pending = s.pending := by
  simp [State.putEp]
@[simp] theorem State.epFlag_keeps (s : State) (p fl : Nat) :
    (State.epFlag s p fl).mem = s.mem ∧ (State.epFlag s p fl).pending = s.pending := by
  simp [State.epFlag]
@[simp] theorem State.beginFrame_keeps (s : State) (n num : Nat) (t : Word64) :
    (State.beginFrame s n num t).mem = s.mem ∧ (State.beginFrame s n num t).pending = s.pending := by
  simp [State.beginFrame]
@[simp] theorem State.beginPlay_keeps (s : State) (n num : Nat) (t : Word64) :
    (State.beginPlay s n num t).mem = s.mem ∧ (State.beginPlay s n num t).pending = s.pending := by
  simp [State.beginPlay]
@[simp] theorem State.closeStream_keeps (s : State) (p n : Nat) :
    (State.closeStream s p n).mem = s.mem ∧ (State.closeStream s p n).pending = s.pending := by
  simp [State.closeStream]
@[simp] theorem State.closeFrame_keeps (s : State) (p : Nat) :
    (State.closeFrame s p).mem = s.mem ∧ (State.closeFrame s p).pending = s.pending := by
  simp [State.closeFrame]
@[simp] theorem State.openFrame_keeps (s : State) (p fl : Nat) :
    (State.openFrame s p fl).mem = s.mem ∧ (State.openFrame s p fl).pending = s.pending := by
  simp [State.openFrame]
@[simp] theorem State.instant_keeps (s : State) (p : Nat) (i : Instant) :
    (State.instant s p i).mem = s.mem ∧ (State.instant s p i).pending = s.pending := by
  simp [State.instant]
@[simp] theorem State.sample_keeps (s : State) (p : Nat) (i : Instant) :
    (State.sample s p i).mem = s.mem ∧ (State.sample s p i).pending = s.pending := by
  simp [State.sample]
@[simp] theorem State.due_keeps (s : State) (p : Nat) :
    (State.due s p).mem = s.mem ∧ (State.due s p).pending = s.pending := by
  simp [State.due]
@[simp] theorem State.enterHoldover_keeps (s : State) (p : Nat) :
    (State.enterHoldover s p).mem = s.mem ∧ (State.enterHoldover s p).pending = s.pending := by
  simp [State.enterHoldover]
@[simp] theorem State.glitch_keeps (s : State) (p t : Nat) (slots : List Word32) :
    (State.glitch s p t slots).mem = s.mem ∧ (State.glitch s p t slots).pending = s.pending := by
  simp [State.glitch]
@[simp] theorem State.lockedEdge_keeps (s : State) (p t : Nat) (good : Bool) (slots : List Word32) :
    (State.lockedEdge s p t good slots).mem = s.mem ∧ (State.lockedEdge s p t good slots).pending = s.pending := by
  unfold State.lockedEdge; (repeat' split) <;> simp
@[simp] theorem State.countRate_keeps (s : State) (p t : Nat) :
    (State.countRate s p t).mem = s.mem ∧ (State.countRate s p t).pending = s.pending := by
  simp [State.countRate]
@[simp] theorem State.actRate_keeps (s : State) (p : Nat) :
    (State.actRate s p).mem = s.mem ∧ (State.actRate s p).pending = s.pending := by
  simp [State.actRate]
@[simp] theorem State.relock_keeps (s : State) (p fl : Nat) (slots : List Word32) :
    (State.relock s p fl slots).mem = s.mem ∧ (State.relock s p fl slots).pending = s.pending := by
  simp [State.relock]
@[simp] theorem State.holdoverEdge_keeps (s : State) (p : Nat) (good : Bool) (slots : List Word32) :
    (State.holdoverEdge s p good slots).mem = s.mem ∧ (State.holdoverEdge s p good slots).pending = s.pending := by
  unfold State.holdoverEdge; split <;> simp
@[simp] theorem State.firstLock_keeps (s : State) (p : Nat) :
    (State.firstLock s p).mem = s.mem ∧ (State.firstLock s p).pending = s.pending := by
  simp [State.firstLock]
@[simp] theorem State.frameSync_keeps (s : State) (p period clocks : Nat) (slots : List Word32) :
    (State.frameSync s p period clocks slots).mem = s.mem ∧
      (State.frameSync s p period clocks slots).pending = s.pending := by
  dsimp only [State.frameSync]; (repeat' split) <;> simp
theorem execFrameSync_keeps (p period clocks : Nat) (slots : List Word32) (s : State) {t : State} (h :
    (execFrameSync p period clocks slots s) = .next t) :
    t.mem = s.mem ∧ t.pending = s.pending := by
  unfold execFrameSync at h; (repeat' split at h) <;> cases h <;> simp
theorem execHoldoverEntry_keeps (p : Nat) (s : State) {t : State} (h : (execHoldoverEntry p s) = .next t) :
    t.mem = s.mem ∧ t.pending = s.pending := by
  unfold execHoldoverEntry at h; (repeat' split at h) <;> cases h <;> simp
@[simp] theorem State.holdOut_keeps (s : State) (p : Nat) :
    (State.holdOut s p).mem = s.mem ∧ (State.holdOut s p).pending = s.pending := by
  simp [State.holdOut]
@[simp] theorem State.takeRate_keeps (s : State) (p c : Nat) :
    (State.takeRate s p c).mem = s.mem ∧ (State.takeRate s p c).pending = s.pending := by
  simp [State.takeRate]
@[simp] theorem State.boundary_keeps (s : State) (p : Nat) :
    (State.boundary s p).mem = s.mem ∧ (State.boundary s p).pending = s.pending := by
  unfold State.boundary; grind [State.holdOut_keeps, State.openFrame_keeps, State.takeRate_keeps, State.upTdm_keeps]
theorem execPortFrameStart_keeps (p : Nat) (s : State) {t : State} (h : (execPortFrameStart p s) = .next t) :
    t.mem = s.mem ∧ t.pending = s.pending := by
  unfold execPortFrameStart at h; (repeat' split at h) <;> cases h <;> simp
@[simp] theorem State.portEnable_keeps (s : State) (p : Nat) :
    (State.portEnable s p).mem = s.mem ∧ (State.portEnable s p).pending = s.pending := by
  simp [State.portEnable]
@[simp] theorem State.portDisable_keeps (s : State) (p : Nat) :
    (State.portDisable s p).mem = s.mem ∧ (State.portDisable s p).pending = s.pending := by
  simp [State.portDisable]
@[simp] theorem State.rateAck_keeps (s : State) (p : Nat) :
    (State.rateAck s p).mem = s.mem ∧ (State.rateAck s p).pending = s.pending := by
  simp [State.rateAck]
@[simp] theorem State.writePctl_keeps (s : State) (p v : Nat) :
    (State.writePctl s p v).mem = s.mem ∧ (State.writePctl s p v).pending = s.pending := by
  simp [State.writePctl]
theorem execPortEnable_keeps (who : Requester) (p : Nat) (s : State) {t : State} (h :
    (execPortEnable who p s) = .next t) :
    t.mem = s.mem ∧ t.pending = s.pending := by
  cases h; simp
theorem execPortDisable_keeps (who : Requester) (p : Nat) (s : State) {t : State} (h :
    (execPortDisable who p s) = .next t) :
    t.mem = s.mem ∧ t.pending = s.pending := by
  cases h; simp
theorem execRateAck_keeps (who : Requester) (p : Nat) (s : State) {t : State} (h : (execRateAck who p s) = .next t) :
    t.mem = s.mem ∧ t.pending = s.pending := by
  cases h; simp
@[simp] theorem State.writePcfg_keeps (s : State) (p : Nat) (val : Word64) :
    (State.writePcfg s p val).mem = s.mem ∧ (State.writePcfg s p val).pending = s.pending := by
  simp [State.writePcfg]
@[simp] theorem State.writeStbase_keeps (s : State) (val : Word64) :
    (State.writeStbase s val).mem = s.mem ∧ (State.writeStbase s val).pending = s.pending := by
  simp [State.writeStbase]
@[simp] theorem State.scmdSt_keeps (s : State) (st : Nat) :
    (State.scmdSt s st).mem = s.mem ∧ (State.scmdSt s st).pending = s.pending := by
  simp [State.scmdSt]
@[simp] theorem State.scmdPend_keeps (s : State) (op n : Nat) :
    (State.scmdPend s op n).mem = s.mem ∧ (State.scmdPend s op n).pending = s.pending := by
  simp [State.scmdPend]
@[simp] theorem State.strmEnable_keeps (s : State) (n : Nat) :
    (State.strmEnable s n).mem = s.mem ∧ (State.strmEnable s n).pending = s.pending := by
  unfold State.strmEnable; (repeat' split) <;> grind [State.devRead_keeps, State.scmdSt_keeps, State.upStrm_keeps, State.strmNote_keeps]
@[simp] theorem State.strmDisable_keeps (s : State) (n : Nat) :
    (State.strmDisable s n).mem = s.mem ∧ (State.strmDisable s n).pending = s.pending := by
  simp [State.strmDisable]
@[simp] theorem State.strmGaincommit_keeps (s : State) (n : Nat) :
    (State.strmGaincommit s n).mem = s.mem ∧ (State.strmGaincommit s n).pending = s.pending := by
  simp [State.strmGaincommit]
@[simp] theorem State.strmQuery_keeps (s : State) (n : Nat) :
    (State.strmQuery s n).mem = s.mem ∧ (State.strmQuery s n).pending = s.pending := by
  simp [State.strmQuery]
@[simp] theorem State.scmd_keeps (s : State) (op n : Nat) :
    (State.scmd s op n).mem = s.mem ∧ (State.scmd s op n).pending = s.pending := by
  simp [State.scmd]
theorem execEmbEnable_keeps (who : Requester) (n : Nat) (s : State) {t : State} (h :
    (execEmbEnable who n s) = .next t) :
    t.mem = s.mem ∧ t.pending = s.pending := by
  cases h; simp
theorem execEmbDisable_keeps (who : Requester) (n : Nat) (s : State) {t : State} (h :
    (execEmbDisable who n s) = .next t) :
    t.mem = s.mem ∧ t.pending = s.pending := by
  cases h; simp
theorem execEmbGaincommit_keeps (who : Requester) (n : Nat) (s : State) {t : State} (h :
    (execEmbGaincommit who n s) = .next t) :
    t.mem = s.mem ∧ t.pending = s.pending := by
  cases h; simp
theorem execQuery_keeps (who : Requester) (n : Nat) (s : State) {t : State} (h : (execQuery who n s) = .next t) :
    t.mem = s.mem ∧ t.pending = s.pending := by
  cases h; simp
@[simp] theorem State.readShadow_keeps (s : State) (n : Nat) :
    (State.readShadow s n).2.mem = s.mem ∧ (State.readShadow s n).2.pending = s.pending := by
  unfold State.readShadow; grind [State.devRead_keeps, State.strmFault_keeps, State.upStrm_keeps]
theorem execGainSetRead_keeps (n : Nat) (s : State) {t : State} (h : (execGainSetRead n s) = .next t) :
    t.mem = s.mem ∧ t.pending = s.pending := by
  unfold execGainSetRead ok at h; grind [State.readShadow_keeps, State.scmdSt_keeps]
@[simp] theorem State.hubTaken_keeps (s : State) (src : Endpoint) (m : Message) :
    (State.hubTaken s src m).mem = s.mem ∧ (State.hubTaken s src m).pending = s.pending := by
  simp [State.hubTaken]
theorem execBoreGaincommit_keeps (src : Endpoint) (s : State) {t : State} (h : (execBoreGaincommit src s) = .next t) :
    t.mem = s.mem ∧ t.pending = s.pending := by
  unfold execBoreGaincommit at h
  split at h
  · rename_i heq; have k := State.oldest_keeps (h := heq); simp at k
    exact ite_ok (fun t => t.mem = s.mem ∧ t.pending = s.pending) (by simp [k]) (by simp [k]) h
  · cases h; exact ⟨rfl, rfl⟩
theorem execAgcCommit_keeps (n : Nat) (s : State) {t : State} (h : (execAgcCommit n s) = .next t) :
    t.mem = s.mem ∧ t.pending = s.pending := by
  unfold execAgcCommit ok at h; grind [State.upStrm_keeps]
@[simp] theorem State.strmStop_keeps (s : State) (n : Nat) :
    (State.strmStop s n).mem = s.mem ∧ (State.strmStop s n).pending = s.pending := by
  simp [State.strmStop]
@[simp] theorem State.capturePut_keeps (s : State) (sn n : Nat) (f : Frame) (vs : List Int) :
    (State.capturePut s sn n f vs).pending = s.pending := by
  simp [State.capturePut]
@[simp] theorem State.captureEnd_keeps (s : State) (sn : Nat) :
    (State.captureEnd s sn).pending = s.pending := by
  unfold State.captureEnd; grind [State.capturePut_keeps, State.resample_keeps, State.strmEnd_keeps, State.strmStop_keeps, State.upStrm_keeps]
theorem execCaptureFrameEnd_keeps (sn : Nat) (s : State) {t : State} (h : (execCaptureFrameEnd sn s) = .next t) :
    t.pending = s.pending := by
  unfold execCaptureFrameEnd at h; (repeat' split at h) <;> cases h <;> simp
@[simp] theorem State.putRecord_keeps (s : State) (sn : Nat) (o : FrameOut) :
    (State.putRecord s sn o).pending = s.pending := by
  simp [State.putRecord]
theorem execStatisticsRecordWrite_keeps (sn : Nat) (s : State) {t : State} (h :
    (execStatisticsRecordWrite sn s) = .next t) :
    t.pending = s.pending := by
  unfold execStatisticsRecordWrite at h; (repeat' split at h) <;> cases h <;> simp
theorem execFrameReadyMessage_keeps (sn : Nat) (s : State) {t : State} (h : (execFrameReadyMessage sn s) = .next t) :
    t.mem = s.mem ∧ t.pending = s.pending := by
  unfold execFrameReadyMessage at h; (repeat' split at h) <;> cases h <;> simp
@[simp] theorem State.playFetch_keeps (s : State) (sn : Nat) :
    (State.playFetch s sn).mem = s.mem ∧ (State.playFetch s sn).pending = s.pending := by
  unfold State.playFetch; grind [State.readSlot_keeps, State.resample_keeps, State.strmFault_keeps, State.upStrm_keeps]
theorem execPlaybackFetch_keeps (sn : Nat) (s : State) {t : State} (h : (execPlaybackFetch sn s) = .next t) :
    t.mem = s.mem ∧ t.pending = s.pending := by
  unfold execPlaybackFetch at h; (repeat' split at h) <;> cases h <;> simp
@[simp] theorem State.playEnd_keeps (s : State) (sn : Nat) :
    (State.playEnd s sn).pending = s.pending := by
  unfold State.playEnd; grind [State.putRecord_keeps, State.strmEnd_keeps, State.strmStop_keeps, State.upStrm_keeps]
theorem execPlaybackFrameEnd_keeps (sn : Nat) (s : State) {t : State} (h : (execPlaybackFrameEnd sn s) = .next t) :
    t.pending = s.pending := by
  unfold execPlaybackFrameEnd at h; (repeat' split at h) <;> cases h <;> simp
@[simp] theorem State.egressPut_keeps (s : State) (sn n : Nat) (f : Frame) :
    (State.egressPut s sn n f).pending = s.pending := by
  simp [State.egressPut]
@[simp] theorem State.ringEnd_keeps (s : State) (sn : Nat) :
    (State.ringEnd s sn).pending = s.pending := by
  unfold State.ringEnd; grind [State.beginFrame_keeps, State.capturePut_keeps, State.egressPut_keeps, State.readSlot_keeps, State.strmEnd_keeps, State.strmFault_keeps, State.upStrm_keeps]
theorem execRingFrameEnd_keeps (sn : Nat) (s : State) {t : State} (h : (execRingFrameEnd sn s) = .next t) :
    t.pending = s.pending := by
  unfold execRingFrameEnd at h; (repeat' split at h) <;> cases h <;> simp

/-! ### Compose -/

theorem Scan.gatherPx_keeps (f : Scan → Nat → Option Px × Scan)
    (hf : ∀ c i, (f c i).2.s.mem = c.s.mem ∧ (f c i).2.s.pending = c.s.pending) (l : List (Nat × Int)) (c : Scan) :
    (Scan.gatherPx c f l).2.s.mem = c.s.mem ∧ (Scan.gatherPx c f l).2.s.pending = c.s.pending := by
  induction l generalizing c with
  | nil => exact ⟨rfl, rfl⟩
  | cons e l ih =>
    obtain ⟨i, w⟩ := e
    unfold Scan.gatherPx
    have k := hf c i
    split
    · rename_i heq; rw [heq] at k; exact k
    · rename_i d heq; rw [heq] at k
      have k2 := ih d
      split <;> (rename_i heq2; rw [heq2] at k2; exact ⟨k2.1.trans k.1, k2.2.trans k.2⟩)
@[simp] theorem Scan.read_keeps (c : Scan) (x : Layer) (a n : Nat) :
    (Scan.read c x a n).2.s.mem = c.s.mem ∧ (Scan.read c x a n).2.s.pending = c.s.pending := by
  unfold Scan.read; grind [State.spaceRead_keeps, State.contextFault_keeps]
@[simp] theorem Scan.a4_keeps (c : Scan) (x : Layer) (row px : Nat) :
    (Scan.a4 c x row px).2.s.mem = c.s.mem ∧ (Scan.a4 c x row px).2.s.pending = c.s.pending := by
  unfold Scan.a4
  refine foldl_inv (fun r : Option Nat × Scan => r.2.s.mem = c.s.mem ∧ r.2.s.pending = c.s.pending) _ _ _ ⟨rfl, rfl⟩ ?_
  rintro ⟨x, t⟩ k ⟨h1, h2⟩
  dsimp only at h1 h2 ⊢
  split
  · exact ⟨h1, h2⟩
  · have kk := Scan.read_keeps t x (row + 64 * (px / 128) + 16 * k + px % 128 / 8) 1
    split <;> (rename_i heq; rw [heq] at kk; simp at kk; simp [kk, h1, h2])
@[simp] theorem Scan.pixel_keeps (c : Scan) (x : Layer) (fmt addr caddr pitch colour px py : Nat) :
    (Scan.pixel c x fmt addr caddr pitch colour px py).2.s.mem = c.s.mem ∧
      (Scan.pixel c x fmt addr caddr pitch colour px py).2.s.pending = c.s.pending := by
  unfold Scan.pixel; grind [Scan.a4_keeps, Scan.read_keeps]
@[simp] theorem Scan.videoPx_keeps (c : Scan) (m : Map Word64) (v dx dy : Nat) :
    (Scan.videoPx c m v dx dy).2.s.mem = c.s.mem ∧ (Scan.videoPx c m v dx dy).2.s.pending = c.s.pending := by
  unfold Scan.videoPx
  dsimp only
  refine Scan.gatherPx_keeps _ (fun c sy => ?_) _ _
  exact Scan.gatherPx_keeps _ (fun c sx => by simp) _ _
@[simp] theorem Scan.graphicPx_keeps (c : Scan) (m : Map Word64) (i gx gy : Nat) :
    (Scan.graphicPx c m i gx gy).2.s.mem = c.s.mem ∧ (Scan.graphicPx c m i gx gy).2.s.pending = c.s.pending := by
  simp [Scan.graphicPx]
@[simp] theorem Scan.cursorPx_keeps (c : Scan) (m : Map Word64) (x y : Nat) :
    (Scan.cursorPx c m x y).2.s.mem = c.s.mem ∧ (Scan.cursorPx c m x y).2.s.pending = c.s.pending := by
  unfold Scan.cursorPx; grind [Scan.pixel_keeps]
@[simp] theorem Scan.planePx_keeps (c : Scan) (m : Map Word64) (l : Layer) (x y : Nat) :
    (Scan.planePx c m l x y).2.s.mem = c.s.mem ∧ (Scan.planePx c m l x y).2.s.pending = c.s.pending := by
  unfold Scan.planePx; grind [Scan.cursorPx_keeps, Scan.graphicPx_keeps, Scan.videoPx_keeps]
@[simp] theorem Scan.groupSrc_keeps (c : Scan) (m : Map Word64) (x y : Nat) :
    (Scan.groupSrc c m x y).2.s.mem = c.s.mem ∧ (Scan.groupSrc c m x y).2.s.pending = c.s.pending := by
  unfold Scan.groupSrc
  refine foldl_inv (fun r : _ × Scan => r.2.s.mem = c.s.mem ∧ r.2.s.pending = c.s.pending) _ _ _ ⟨rfl, rfl⟩ ?_
  rintro ⟨d, t⟩ l ⟨h1, h2⟩
  dsimp only at h1 h2 ⊢
  have kk := Scan.planePx_keeps t m l x y
  split <;> (rename_i heq; rw [heq] at kk; simp at kk; simp [kk, h1, h2])
@[simp] theorem Scan.layerPx_keeps (c : Scan) (j : Job) (f : Option Px) (l : Layer) (x y : Nat) :
    (Scan.layerPx c j f l x y).2.s.mem = c.s.mem ∧ (Scan.layerPx c j f l x y).2.s.pending = c.s.pending := by
  unfold Scan.layerPx; grind [Scan.groupSrc_keeps, Scan.pixel_keeps, Scan.planePx_keeps]
@[simp] theorem Scan.blend_keeps (c : Scan) (j : Job) (f : Option Px) (d : Px) (x y : Nat) (a6 : List Layer) :
    (Scan.blend c j f d x y a6).2.s.mem = c.s.mem ∧ (Scan.blend c j f d x y a6).2.s.pending = c.s.pending := by
  induction a6 generalizing c with
  | nil => exact ⟨rfl, rfl⟩
  | cons l below ih =>
    unfold Scan.blend
    have kk := Scan.layerPx_keeps c j f l x y
    split
    · rename_i heq; rw [heq] at kk; simp at kk
      split <;> simp [kk, ih]
    · rename_i heq; rw [heq] at kk; simp at kk; simp [kk, ih]
@[simp] theorem Scan.outPx_keeps (c : Scan) (j : Job) (layers : List Layer) (x y : Nat) :
    (Scan.outPx c j layers x y).2.s.mem = c.s.mem ∧ (Scan.outPx c j layers x y).2.s.pending = c.s.pending := by
  unfold Scan.outPx; grind [Scan.blend_keeps, Scan.groupSrc_keeps]
@[simp] theorem Scan.outRow_keeps (c : Scan) (j : Job) (layers : List Layer) (y : Nat) :
    (Scan.outRow c j layers y).2.s.mem = c.s.mem ∧ (Scan.outRow c j layers y).2.s.pending = c.s.pending := by
  unfold Scan.outRow
  refine foldl_inv (fun r : _ × Scan => r.2.s.mem = c.s.mem ∧ r.2.s.pending = c.s.pending) _ _ _ ⟨rfl, rfl⟩ ?_
  rintro ⟨d, t⟩ l ⟨h1, h2⟩
  dsimp only at h1 h2 ⊢
  simp [h1, h2]
@[simp] theorem Scan.frame_keeps (c : Scan) (j : Job) (layers : List Layer) :
    (Scan.frame c j layers).2.s.mem = c.s.mem ∧ (Scan.frame c j layers).2.s.pending = c.s.pending := by
  unfold Scan.frame
  refine foldl_inv (fun r : _ × Scan => r.2.s.mem = c.s.mem ∧ r.2.s.pending = c.s.pending) _ _ _ ⟨rfl, rfl⟩ ?_
  rintro ⟨d, t⟩ l ⟨h1, h2⟩
  dsimp only at h1 h2 ⊢
  simp [h1, h2]
@[simp] theorem State.putRows_keeps (s : State) (p ctx base pitch a4 : Nat) (a5 : List (List Px)) :
    (State.putRows s p ctx base pitch a4 a5).2.pending = s.pending := by
  induction a5 generalizing s a4 with
  | nil => rfl
  | cons r l ih => unfold State.putRows; dsimp only; split <;> simp [ih]

/-! ### Bell -/

@[simp] theorem State.putLink_keeps (s : State) (p v : Nat) :
    (State.putLink s p v).mem = s.mem ∧ (State.putLink s p v).pending = s.pending := by
  simp [State.putLink]
@[simp] theorem State.commitSt_keeps (s : State) (p v : Nat) :
    (State.commitSt s p v).mem = s.mem ∧ (State.commitSt s p v).pending = s.pending := by
  simp [State.commitSt]
@[simp] theorem State.timSt_keeps (s : State) (p v : Nat) :
    (State.timSt s p v).mem = s.mem ∧ (State.timSt s p v).pending = s.pending := by
  simp [State.timSt]
@[simp] theorem State.pipeEvent_keeps (s : State) (p : Nat) (f : Field) :
    (State.pipeEvent s p f).mem = s.mem ∧ (State.pipeEvent s p f).pending = s.pending := by
  simp [State.pipeEvent]
@[simp] theorem State.dpEvent_keeps (s : State) (d : Nat) (f : Field) :
    (State.dpEvent s d f).mem = s.mem ∧ (State.dpEvent s d f).pending = s.pending := by
  simp [State.dpEvent]
@[simp] theorem State.startFrame_keeps (s : State) (p : Nat) :
    (State.startFrame s p).mem = s.mem ∧ (State.startFrame s p).pending = s.pending := by
  simp [State.startFrame]
@[simp] theorem State.pipeEnable_keeps (s : State) (p : Nat) :
    (State.pipeEnable s p).mem = s.mem ∧ (State.pipeEnable s p).pending = s.pending := by
  simp [State.pipeEnable]
theorem execPipeEnable_keeps (who : Requester) (p : Nat) (s : State) {t : State} (h :
    (execPipeEnable who p s) = .next t) :
    t.mem = s.mem ∧ t.pending = s.pending := by
  cases h; simp
@[simp] theorem State.pipeDisable_keeps (s : State) (p : Nat) :
    (State.pipeDisable s p).mem = s.mem ∧ (State.pipeDisable s p).pending = s.pending := by
  simp [State.pipeDisable]
theorem execPipeDisable_keeps (who : Requester) (p : Nat) (s : State) {t : State} (h :
    (execPipeDisable who p s) = .next t) :
    t.mem = s.mem ∧ t.pending = s.pending := by
  cases h; simp
@[simp] theorem State.pipeCommit_keeps (s : State) (p : Nat) :
    (State.pipeCommit s p).mem = s.mem ∧ (State.pipeCommit s p).pending = s.pending := by
  simp [State.pipeCommit]
theorem execCommit_keeps (who : Requester) (p : Nat) (s : State) {t : State} (h : (execCommit who p s) = .next t) :
    t.mem = s.mem ∧ t.pending = s.pending := by
  cases h; simp
@[simp] theorem State.pipeFlush_keeps (s : State) (p : Nat) :
    (State.pipeFlush s p).mem = s.mem ∧ (State.pipeFlush s p).pending = s.pending := by
  simp [State.pipeFlush]
theorem execFlush_keeps (who : Requester) (p : Nat) (s : State) {t : State} (h : (execFlush who p s) = .next t) :
    t.mem = s.mem ∧ t.pending = s.pending := by
  cases h; simp
@[simp] theorem State.timingCommit_keeps (s : State) (p : Nat) :
    (State.timingCommit s p).mem = s.mem ∧ (State.timingCommit s p).pending = s.pending := by
  simp [State.timingCommit]
theorem execTimingCommit_keeps (who : Requester) (p : Nat) (s : State) {t : State} (h :
    (execTimingCommit who p s) = .next t) :
    t.mem = s.mem ∧ t.pending = s.pending := by
  cases h; simp
@[simp] theorem State.writeBelPctl_keeps (s : State) (p v : Nat) :
    (State.writeBelPctl s p v).mem = s.mem ∧ (State.writeBelPctl s p v).pending = s.pending := by
  simp [State.writeBelPctl]
@[simp] theorem State.writeBelPcfg_keeps (s : State) (p : Nat) (val : Word64) :
    (State.writeBelPcfg s p val).mem = s.mem ∧ (State.writeBelPcfg s p val).pending = s.pending := by
  simp [State.writeBelPcfg]
@[simp] theorem State.loadMatrix_keeps (s : State) (p v n : Nat) :
    (State.loadMatrix s p v n).mem = s.mem ∧ (State.loadMatrix s p v n).pending = s.pending := by
  simp [State.loadMatrix]
theorem execMatrixPresetLoad_keeps (who : Requester) (p : Nat) (val : Word64) (s : State) {t : State} (h :
    (execMatrixPresetLoad who p val s) = .next t) :
    t.mem = s.mem ∧ t.pending = s.pending := by
  cases h; simp
@[simp] theorem State.bellTake_keeps (s : State) (q : Nat) (m : Message) :
    (State.bellTake s q m).mem = s.mem ∧ (State.bellTake s q m).pending = s.pending := by
  simp [State.bellTake]
theorem execBoreCommitMessage_keeps (src : Endpoint) (s : State) {t : State} (h :
    (execBoreCommitMessage src s) = .next t) :
    t.mem = s.mem ∧ t.pending = s.pending := by
  unfold execBoreCommitMessage at h; (repeat' split at h) <;> first | (cases h; simp; done) | (cases h; done) | (rename_i heq _; have kk := State.oldest_keeps (h := heq); cases h; simp at kk; simp [kk])
theorem execBoreFlushMessage_keeps (src : Endpoint) (s : State) {t : State} (h :
    (execBoreFlushMessage src s) = .next t) :
    t.mem = s.mem ∧ t.pending = s.pending := by
  unfold execBoreFlushMessage at h; (repeat' split at h) <;> first | (cases h; simp; done) | (cases h; done) | (rename_i heq _; have kk := State.oldest_keeps (h := heq); cases h; simp at kk; simp [kk])
theorem execFrameStart_keeps (p : Nat) (s : State) {t : State} (h : (execFrameStart p s) = .next t) :
    t.mem = s.mem ∧ t.pending = s.pending := by
  unfold execFrameStart at h; (repeat' split at h) <;> cases h <;> simp
@[simp] theorem State.signRegion_keeps (s : State) (p n r : Nat) (rows : List (List Px)) :
    (State.signRegion s p n r rows).2.mem = s.mem ∧ (State.signRegion s p n r rows).2.pending = s.pending := by
  unfold State.signRegion; grind [State.fput_keeps, State.fsat_keeps, State.upPipe_keeps]
@[simp] theorem State.signAll_keeps (s : State) (p n : Nat) (rows : List (List Px)) :
    (State.signAll s p n rows).2.mem = s.mem ∧ (State.signAll s p n rows).2.pending = s.pending := by
  unfold State.signAll
  refine foldl_inv (fun r : Nat × State => r.2.mem = s.mem ∧ r.2.pending = s.pending) _ _ _ ⟨rfl, rfl⟩ ?_
  rintro ⟨x, t⟩ k ⟨h1, h2⟩
  dsimp only at h1 h2 ⊢
  simp [h1, h2]
@[simp] theorem State.fillCache_keeps (s : State) (p : Nat) (rows : List (List Px)) :
    (State.fillCache s p rows).2.pending = s.pending := by
  unfold State.fillCache; grind [State.putRows_keeps, State.upPipe_keeps]
@[simp] theorem State.writeBack_keeps (s : State) (p n : Nat) (rows : List (List Px)) :
    (State.writeBack s p n rows).2.pending = s.pending := by
  unfold State.writeBack; grind [State.putRows_keeps]
@[simp] theorem State.frameCounts_keeps (s : State) (p : Nat) (under fault bad : Bool) :
    (State.frameCounts s p under fault bad).mem = s.mem ∧
      (State.frameCounts s p under fault bad).pending = s.pending := by
  simp [State.frameCounts]
@[simp] theorem State.endFrame_keeps (s : State) (p : Nat) (late : List Nat) :
    (State.endFrame s p late).pending = s.pending := by
  unfold State.endFrame; grind [Scan.frame_keeps, State.fillCache_keeps, State.frameCounts_keeps, State.signAll_keeps, State.upPipe_keeps, State.writeBack_keeps]
@[simp] theorem State.dropCache_keeps (s : State) (p : Nat) :
    (State.dropCache s p).mem = s.mem ∧ (State.dropCache s p).pending = s.pending := by
  simp [State.dropCache]
@[simp] theorem State.latchTiming_keeps (s : State) (p : Nat) :
    (State.latchTiming s p).mem = s.mem ∧ (State.latchTiming s p).pending = s.pending := by
  unfold State.latchTiming; split <;> simp
@[simp] theorem State.latchComposition_keeps (s : State) (p : Nat) :
    (State.latchComposition s p).mem = s.mem ∧ (State.latchComposition s p).pending = s.pending := by
  unfold State.latchComposition; split <;> simp
@[simp] theorem State.pipeStop_keeps (s : State) (p : Nat) :
    (State.pipeStop s p).mem = s.mem ∧ (State.pipeStop s p).pending = s.pending := by
  simp [State.pipeStop]
@[simp] theorem State.doLatch_keeps (s : State) (p : Nat) :
    (State.doLatch s p).mem = s.mem ∧ (State.doLatch s p).pending = s.pending := by
  simp [State.doLatch]
theorem execLatch_keeps (p : Nat) (late : List Nat) (s : State) {t : State} (h : (execLatch p late s) = .next t) :
    t.pending = s.pending := by
  unfold execLatch at h; (repeat' split at h) <;> cases h <;> simp
theorem execFlattenCacheFillComplete_keeps (p : Nat) (s : State) {t : State} (h :
    (execFlattenCacheFillComplete p s) = .next t) :
    t.mem = s.mem ∧ t.pending = s.pending := by
  unfold execFlattenCacheFillComplete at h; (repeat' split at h) <;> cases h <;> simp
theorem execFrameDoneMessage_keeps (p : Nat) (s : State) {t : State} (h : (execFrameDoneMessage p s) = .next t) :
    t.mem = s.mem ∧ t.pending = s.pending := by
  unfold execFrameDoneMessage ok at h; grind [State.frSend_keeps, State.upPipe_keeps]
@[simp] theorem State.train_keeps (s : State) (d : Nat) :
    (State.train s d).mem = s.mem ∧ (State.train s d).pending = s.pending := by
  simp [State.train]
theorem execDpTrain_keeps (who : Requester) (d : Nat) (s : State) {t : State} (h : (execDpTrain who d s) = .next t) :
    t.mem = s.mem ∧ t.pending = s.pending := by
  cases h; simp
theorem execLinkTrainingDone_keeps (d : Nat) (up : Bool) (s : State) {t : State} (h :
    (execLinkTrainingDone d up s) = .next t) :
    t.mem = s.mem ∧ t.pending = s.pending := by
  unfold execLinkTrainingDone at h; (repeat' split at h) <;> cases h <;> simp
theorem execHpdDeassert_keeps (d : Nat) (s : State) {t : State} (h : (execHpdDeassert d s) = .next t) :
    t.mem = s.mem ∧ t.pending = s.pending := by
  unfold execHpdDeassert at h; (repeat' split at h) <;> cases h <;> simp
theorem execIrqHpd_keeps (d : Nat) (s : State) {t : State} (h : (execIrqHpd d s) = .next t) :
    t.mem = s.mem ∧ t.pending = s.pending := by
  unfold execIrqHpd at h; (repeat' split at h) <;> cases h <;> simp
theorem execHpdAssert_keeps (d : Nat) (s : State) {t : State} (h : (execHpdAssert d s) = .next t) :
    t.mem = s.mem ∧ t.pending = s.pending := by
  unfold execHpdAssert at h; (repeat' split at h) <;> cases h <;> simp
@[simp] theorem State.auxSt_keeps (s : State) (d pend reply : Nat) :
    (State.auxSt s d pend reply).mem = s.mem ∧ (State.auxSt s d pend reply).pending = s.pending := by
  simp [State.auxSt]
@[simp] theorem State.auxCmd_keeps (s : State) (d v : Nat) :
    (State.auxCmd s d v).mem = s.mem ∧ (State.auxCmd s d v).pending = s.pending := by
  simp [State.auxCmd]
theorem execAuxTransaction_keeps (who : Requester) (d : Nat) (val : Word64) (s : State) {t : State} (h :
    (execAuxTransaction who d val s) = .next t) :
    t.mem = s.mem ∧ t.pending = s.pending := by
  cases h; simp
@[simp] theorem State.putAux_keeps (s : State) (d : Nat) (l : List Byte) :
    (State.putAux s d l).mem = s.mem ∧ (State.putAux s d l).pending = s.pending := by
  simp [State.putAux]
theorem execAuxReply_keeps (d code : Nat) (data : List Byte) (s : State) {t : State} (h :
    (execAuxReply d code data s) = .next t) :
    t.mem = s.mem ∧ t.pending = s.pending := by
  unfold execAuxReply at h; (repeat' split at h) <;> cases h <;> simp
theorem execAuxTimeout_keeps (d : Nat) (s : State) {t : State} (h : (execAuxTimeout d s) = .next t) :
    t.mem = s.mem ∧ t.pending = s.pending := by
  unfold execAuxTimeout at h; (repeat' split at h) <;> cases h <;> simp

end Sys2Proof.Machine
end

