-- ==== Sys2Proof/Laws/CanonicalMedia.lean ====
section
/-!
SUPPORT. Laws/CanonicalMedia.lean: the embouchure and the bell: the operations and commands that write memory keep it in its canonical form.
-/

namespace Sys2Proof.Machine

/-! ### Embouchure -/

theorem State.capturePut_wf (s : State) (sn n : Nat) (f : Frame) (vs : List Int) (hwf : Memory.wf s.mem = true) :
    Memory.wf (State.capturePut s sn n f vs).mem = true := by
  simp [State.capturePut, hwf, mem_wf_ite, State.hubWrite_wf]
theorem State.captureEnd_wf (s : State) (sn : Nat) (hwf : Memory.wf s.mem = true) :
    Memory.wf (State.captureEnd s sn).mem = true := by
  unfold State.captureEnd; dsimp only; (repeat' split) <;> simp [hwf, State.capturePut_wf]
theorem execCaptureFrameEnd_wf (sn : Nat) (s : State) (hwf : Memory.wf s.mem = true) {t : State} (h :
    (execCaptureFrameEnd sn s) = .next t) :
    Memory.wf t.mem = true := by
  unfold execCaptureFrameEnd at h; (repeat' split at h) <;> cases h <;> simp [hwf, State.captureEnd_wf]
theorem State.putRecord_wf (s : State) (sn : Nat) (o : FrameOut) (hwf : Memory.wf s.mem = true) :
    Memory.wf (State.putRecord s sn o).mem = true := by
  simp [State.putRecord, hwf, mem_wf_ite, State.hubWrite_wf]
theorem execStatisticsRecordWrite_wf (sn : Nat) (s : State) (hwf : Memory.wf s.mem = true) {t : State} (h :
    (execStatisticsRecordWrite sn s) = .next t) :
    Memory.wf t.mem = true := by
  unfold execStatisticsRecordWrite at h; (repeat' split at h) <;> cases h <;> simp [hwf, State.putRecord_wf]
theorem State.playEnd_wf (s : State) (sn : Nat) (hwf : Memory.wf s.mem = true) :
    Memory.wf (State.playEnd s sn).mem = true := by
  unfold State.playEnd; dsimp only; (repeat' split) <;> simp [hwf, State.putRecord_wf]
theorem execPlaybackFrameEnd_wf (sn : Nat) (s : State) (hwf : Memory.wf s.mem = true) {t : State} (h :
    (execPlaybackFrameEnd sn s) = .next t) :
    Memory.wf t.mem = true := by
  unfold execPlaybackFrameEnd at h; (repeat' split at h) <;> cases h <;> simp [hwf, State.playEnd_wf]
theorem State.egressPut_wf (s : State) (sn n : Nat) (f : Frame) (hwf : Memory.wf s.mem = true) :
    Memory.wf (State.egressPut s sn n f).mem = true := by
  simp [State.egressPut, hwf, State.hubWrite_wf]
theorem State.ringEnd_wf (s : State) (sn : Nat) (hwf : Memory.wf s.mem = true) :
    Memory.wf (State.ringEnd s sn).mem = true := by
  unfold State.ringEnd; dsimp only; (repeat' split) <;> simp [hwf, State.capturePut_wf, State.egressPut_wf]
theorem execRingFrameEnd_wf (sn : Nat) (s : State) (hwf : Memory.wf s.mem = true) {t : State} (h :
    (execRingFrameEnd sn s) = .next t) :
    Memory.wf t.mem = true := by
  unfold execRingFrameEnd at h; (repeat' split at h) <;> cases h <;> simp [hwf, State.ringEnd_wf]

/-! ### Compose -/

theorem State.putRows_wf (s : State) (p ctx base pitch a4 : Nat) (a5 : List (List Px)) (hwf : Memory.wf s.mem = true) :
    Memory.wf (State.putRows s p ctx base pitch a4 a5).2.mem = true := by
  induction a5 generalizing s a4 with
  | nil => exact hwf
  | cons r l ih =>
    unfold State.putRows; dsimp only; split
    · simp [State.hubWrite_wf, hwf]
    · exact ih _ _ (State.hubWrite_wf _ _ _ _ hwf)

/-! ### Bell -/

theorem State.fillCache_wf (s : State) (p : Nat) (rows : List (List Px)) (hwf : Memory.wf s.mem = true) :
    Memory.wf (State.fillCache s p rows).2.mem = true := by
  unfold State.fillCache; dsimp only; (repeat' split) <;> simp [hwf, State.putRows_wf]
theorem State.writeBack_wf (s : State) (p n : Nat) (rows : List (List Px)) (hwf : Memory.wf s.mem = true) :
    Memory.wf (State.writeBack s p n rows).2.mem = true := by
  unfold State.writeBack; dsimp only; (repeat' split) <;> simp [hwf, State.putRows_wf]
theorem State.endFrame_wf (s : State) (p : Nat) (late : List Nat) (hwf : Memory.wf s.mem = true) :
    Memory.wf (State.endFrame s p late).mem = true := by
  unfold State.endFrame; dsimp only; (repeat' split) <;> simp [hwf, State.fillCache_wf, State.writeBack_wf]
theorem execLatch_wf (p : Nat) (late : List Nat) (s : State) (hwf : Memory.wf s.mem = true) {t : State} (h :
    (execLatch p late s) = .next t) :
    Memory.wf t.mem = true := by
  unfold execLatch at h; (repeat' split at h) <;> cases h <;> simp [hwf, when_wf, State.endFrame_wf]

end Sys2Proof.Machine
end

