-- ==== Sys2Proof/Laws/KeepsAccess.lean ====
section
/-!
SUPPORT. Laws/KeepsAccess.lean: register accesses, the SMBus target and the dump: the operations and commands that leave memory as it is, and that all
leave the queue as it is.
-/

namespace Sys2Proof.Machine

/-! ### Access -/

@[simp] theorem State.clearRc_keeps (s : State) (r : Reg) (i j : Nat) :
    (State.clearRc s r i j).mem = s.mem ∧ (State.clearRc s r i j).pending = s.pending := by
  simp [State.clearRc]
@[simp] theorem State.forceDump_keeps (s : State) :
    (State.forceDump s).mem = s.mem ∧ (State.forceDump s).pending = s.pending := by
  simp [State.forceDump]
@[simp] theorem State.clearDump_keeps (s : State) :
    (State.clearDump s).mem = s.mem ∧ (State.clearDump s).pending = s.pending := by
  simp [State.clearDump]
@[simp] theorem State.writeBpcmd_keeps (s : State) (b op : Nat) :
    (State.writeBpcmd s b op).mem = s.mem ∧ (State.writeBpcmd s b op).pending = s.pending := by
  unfold State.writeBpcmd State.bpCmd
  (repeat' split) <;> simp
@[simp] theorem State.writePrtCmd_keeps (s : State) (v : Word64) :
    (State.writePrtCmd s v).mem = s.mem ∧ (State.writePrtCmd s v).pending = s.pending := by
  simp [State.writePrtCmd]
@[simp] theorem State.writeQctl_keeps (s : State) (b : Nat) (v : Word64) :
    (State.writeQctl s b v).mem = s.mem ∧ (State.writeQctl s b v).pending = s.pending := by
  simp [State.writeQctl]
@[simp] theorem State.writeBypcmd_keeps (s : State) (b : Nat) (v : Word64) :
    (State.writeBypcmd s b v).mem = s.mem ∧ (State.writeBypcmd s b v).pending = s.pending := by
  simp [State.writeBypcmd]
@[simp] theorem State.writeKeepCmd_keeps (s : State) (v : Word64) :
    (State.writeKeepCmd s v).mem = s.mem ∧ (State.writeKeepCmd s v).pending = s.pending := by
  simp [State.writeKeepCmd]
@[simp] theorem State.writeDmpCtrl_keeps (s : State) (v : Word64) :
    (State.writeDmpCtrl s v).mem = s.mem ∧ (State.writeDmpCtrl s v).pending = s.pending := by
  simp [State.writeDmpCtrl]
@[simp] theorem State.writeQueRoute_keeps (s : State) (b k : Nat) (second : Bool) (v : Word64) :
    (State.writeQueRoute s b k second v).mem = s.mem ∧ (State.writeQueRoute s b k second v).pending = s.pending := by
  simp [State.writeQueRoute]
@[simp] theorem State.plainWrite_keeps (s : State) (r : Reg) (i j : Nat) (v : Word64) :
    (State.plainWrite s r i j v).mem = s.mem ∧ (State.plainWrite s r i j v).pending = s.pending := by
  simp [State.plainWrite]
@[simp] theorem State.writeBoreReg_keeps (s : State) (who : Requester) (r : Reg) (b j : Nat) (v : Word64) :
    (State.writeBoreReg s who r b j v).mem = s.mem ∧ (State.writeBoreReg s who r b j v).pending = s.pending := by
  unfold State.writeBoreReg; split <;> simp
@[simp] theorem State.writeTrainReg_keeps (s : State) (r : Reg) (p j : Nat) (v : Word64) :
    (State.writeTrainReg s r p j v).pending = s.pending := by
  unfold State.writeTrainReg; (repeat' split) <;> simp
@[simp] theorem State.writeMediaReg_keeps (s : State) (r : Reg) (i j : Nat) (v : Word64) :
    (State.writeMediaReg s r i j v).mem = s.mem ∧ (State.writeMediaReg s r i j v).pending = s.pending := by
  unfold State.writeMediaReg; split <;> simp
@[simp] theorem State.writeHubReg_keeps (s : State) (r : Reg) (i j : Nat) (v : Word64) :
    (State.writeHubReg s r i j v).pending = s.pending := by
  unfold State.writeHubReg; split <;> simp
@[simp] theorem State.writeReg_keeps (s : State) (who : Requester) (r : Reg) (i j : Nat) (v : Word64) :
    (State.writeReg s who r i j v).pending = s.pending := by
  unfold State.writeReg; (repeat' split) <;> simp
@[simp] theorem State.winDrop_keeps (s : State) (b : Nat) :
    (State.winDrop s b).mem = s.mem ∧ (State.winDrop s b).pending = s.pending := by
  simp [State.winDrop]
@[simp] theorem State.readHalf_keeps (s : State) (who : Requester) (r : Reg) (i j : Nat) (high : Bool) :
    (State.readHalf s who r i j high).2.mem = s.mem ∧ (State.readHalf s who r i j high).2.pending = s.pending := by
  unfold State.readHalf; (repeat' split) <;> simp
@[simp] theorem State.writeHalf_keeps (s : State) (who : Requester) (r : Reg) (i j : Nat) (high : Bool) (x : Word32) :
    (State.writeHalf s who r i j high x).pending = s.pending := by
  unfold State.writeHalf; (repeat' split) <;> simp
@[simp] theorem State.readPlace_keeps (s : State) (who : Requester) (p : Place) :
    (State.readPlace s who p).2.mem = s.mem ∧ (State.readPlace s who p).2.pending = s.pending := by
  unfold State.readPlace; grind [State.bar2Read_keeps, State.fetch_keeps, State.readHalf_keeps, State.reedWindow_keeps, State.window_keeps]
@[simp] theorem State.writePlace_keeps (s : State) (who : Requester) (p : Place) (x : Word32) :
    (State.writePlace s who p x).pending = s.pending := by
  unfold State.writePlace; split <;> simp
@[simp] theorem State.through_keeps (s : State) (who : Requester) (p : Place) :
    (State.through s who p).mem = s.mem ∧ (State.through s who p).pending = s.pending := by
  dsimp only [State.through]; (repeat' split) <;> simp
@[simp] theorem State.read32_keeps (s : State) (who : Requester) (a : Nat) :
    (State.read32 s who a).2.mem = s.mem ∧ (State.read32 s who a).2.pending = s.pending := by
  unfold State.read32; grind [State.darkFor_keeps, State.readPlace_keeps, State.status_keeps, State.through_keeps]
@[simp] theorem State.write32_keeps (s : State) (who : Requester) (a : Nat) (x : Word32) :
    (State.write32 s who a x).pending = s.pending := by
  unfold State.write32; grind [State.darkFor_keeps, State.writePlace_keeps, State.status_keeps, State.through_keeps]
@[simp] theorem State.read64_keeps (s : State) (who : Requester) (a : Nat) :
    (State.read64 s who a).2.mem = s.mem ∧ (State.read64 s who a).2.pending = s.pending := by
  dsimp only [State.read64]; (repeat' split) <;> simp
@[simp] theorem State.write64_keeps (s : State) (who : Requester) (a : Nat) (v : Word64) :
    (State.write64 s who a v).pending = s.pending := by
  dsimp only [State.write64]; (repeat' split) <;> simp
@[simp] theorem State.readOther_keeps (s : State) (who : Requester) (a n : Nat) :
    (State.readOther s who a n).mem = s.mem ∧ (State.readOther s who a n).pending = s.pending := by
  dsimp only [State.readOther]; (repeat' split) <;> simp
@[simp] theorem State.writeOther_keeps (s : State) (who : Requester) (a n : Nat) (v : Word64) :
    (State.writeOther s who a n v).pending = s.pending := by
  dsimp only [State.writeOther]; (repeat' split) <;> simp
@[simp] theorem State.readAccess_keeps (s : State) (who : Requester) (a size : Nat) :
    (State.readAccess s who a size).mem = s.mem ∧ (State.readAccess s who a size).pending = s.pending := by
  simp [State.readAccess]
@[simp] theorem State.writeAccess_keeps (s : State) (who : Requester) (a size : Nat) (v : Word64) :
    (State.writeAccess s who a size v).pending = s.pending := by
  simp [State.writeAccess]
theorem execRegisterWrite_keeps (who : Requester) (addr : Nat) (how : WriteForm) (val : Word64) (s : State) {t : State} (h :
    (execRegisterWrite who addr how val s) = .next t) : t.pending = s.pending := by
  cases h; simp
theorem execRcFieldRead_keeps (who : Requester) (addr size : Nat) (s : State) {t : State} (h : (execRcFieldRead who addr size s) = .next t) :
    t.mem = s.mem ∧ t.pending = s.pending := by
  cases h; simp
theorem execLowWordRead_keeps (who : Requester) (addr : Nat) (s : State) {t : State} (h :
    (execLowWordRead who addr s) = .next t) :
    t.mem = s.mem ∧ t.pending = s.pending := by
  cases h; simp
theorem execHighWordRead_keeps (who : Requester) (addr : Nat) (s : State) {t : State} (h :
    (execHighWordRead who addr s) = .next t) :
    t.mem = s.mem ∧ t.pending = s.pending := by
  simp [execHighWordRead, ok] at h; subst h; simp
theorem execLowWordWrite_keeps (who : Requester) (addr : Nat) (val : Word32) (s : State) {t : State} (h :
    (execLowWordWrite who addr val s) = .next t) :
    t.pending = s.pending := by
  cases h; simp
theorem execHighWordWrite_keeps (who : Requester) (addr : Nat) (val : Word32) (s : State) {t : State} (h :
    (execHighWordWrite who addr val s) = .next t) :
    t.pending = s.pending := by
  cases h; simp
theorem execUndocumentedOffsetAccess_keeps (who : Requester) (addr size : Nat) (wr : Option Word64) (s : State) {t : State} (h : (execUndocumentedOffsetAccess who addr size wr s) = .next t) : t.pending = s.pending := by
  unfold execUndocumentedOffsetAccess at h; (repeat' split at h) <;> cases h <;> simp

/-! ### Smbus -/

@[simp] theorem State.smbCount_keeps (s : State) (st : Nat) :
    (State.smbCount s st).mem = s.mem ∧ (State.smbCount s st).pending = s.pending := by
  simp [State.smbCount]
@[simp] theorem State.upSmb_keeps (s : State) (f : Smbus → Smbus) :
    (State.upSmb s f).mem = s.mem ∧ (State.upSmb s f).pending = s.pending := by
  simp [State.upSmb]
@[simp] theorem State.smbPecErr_keeps (s : State) :
    (State.smbPecErr s).mem = s.mem ∧ (State.smbPecErr s).pending = s.pending := by
  simp [State.smbPecErr]
theorem execSetaddr_keeps (addr : Nat) (pec : Bool) (s : State) {t : State} (h : (execSetaddr addr pec s) = .next t) :
    t.mem = s.mem ∧ t.pending = s.pending := by
  cases h; simp
@[simp] theorem State.smbNoRead_keeps (s : State) (st n : Nat) :
    (State.smbNoRead s st n).mem = s.mem ∧ (State.smbNoRead s st n).pending = s.pending := by
  simp [State.smbNoRead]
@[simp] theorem State.smbData_keeps (s : State) (n v : Nat) :
    (State.smbData s n v).mem = s.mem ∧ (State.smbData s n v).pending = s.pending := by
  simp [State.smbData]
theorem execRead32_keeps (s : State) {t : State} (h : (execRead32 s) = .next t) :
    t.mem = s.mem ∧ t.pending = s.pending := by
  cases h; simp
theorem execRead64_keeps (s : State) {t : State} (h : (execRead64 s) = .next t) :
    t.mem = s.mem ∧ t.pending = s.pending := by
  cases h; simp
@[simp] theorem State.smbWrote_keeps (s : State) (st n : Nat) :
    (State.smbWrote s st n).mem = s.mem ∧ (State.smbWrote s st n).pending = s.pending := by
  simp [State.smbWrote]
theorem execWrite32_keeps (val : Word32) (pec : Bool) (s : State) {t : State} (h : (execWrite32 val pec s) = .next t) :
    t.pending = s.pending := by
  cases h; simp
theorem execWrite64_keeps (val : Word64) (pec : Bool) (s : State) {t : State} (h : (execWrite64 val pec s) = .next t) :
    t.pending = s.pending := by
  cases h; simp
theorem execLastst_keeps (s : State) {t : State} (h : (execLastst s) = .next t) :
    t.mem = s.mem ∧ t.pending = s.pending := by
  cases h; simp
theorem execSmbusTimeout_keeps (s : State) {t : State} (h : (execSmbusTimeout s) = .next t) :
    t.mem = s.mem ∧ t.pending = s.pending := by
  cases h; simp
@[simp] theorem State.upTap_keeps (s : State) (f : Tap → Tap) :
    (State.upTap s f).mem = s.mem ∧ (State.upTap s f).pending = s.pending := by
  simp [State.upTap]
theorem execBoundaryScan_keeps (op : TapOp) (s : State) {t : State} (h : (execBoundaryScan op s) = .next t) :
    t.mem = s.mem ∧ t.pending = s.pending := by
  unfold execBoundaryScan at h; (repeat' split at h) <;> cases h <;> simp

/-! ### Dump -/

@[simp] theorem State.sectionRecords_keeps (s : State) (done : Nat) :
    (State.sectionRecords s done).2.mem = s.mem ∧ (State.sectionRecords s done).2.pending = s.pending := by
  unfold State.sectionRecords; grind [State.freeBytes_keeps]
@[simp] theorem State.dumpHeader_keeps (s : State) (done : Nat) (st : Byte) :
    (State.dumpHeader s done st).2.mem = s.mem ∧ (State.dumpHeader s done st).2.pending = s.pending := by
  simp [State.dumpHeader]
@[simp] theorem State.writeSections_keeps (s0 : State) (done : Nat) :
    (State.writeSections s0 done).pending = s0.pending := by
  simp [State.writeSections]
@[simp] theorem State.sumSt_keeps (s : State) (v : Nat) :
    (State.sumSt s v).mem = s.mem ∧ (State.sumSt s v).pending = s.pending := by
  simp [State.sumSt]
@[simp] theorem State.eraseSlot_keeps (s : State) (adc : Nat) :
    (State.eraseSlot s adc).mem = s.mem ∧ (State.eraseSlot s adc).pending = s.pending := by
  unfold State.eraseSlot; grind [State.flashErase_keeps, State.holdup_keeps]
@[simp] theorem State.summary_keeps (s : State) (hdr : List Byte) (adc : Nat) :
    (State.summary s hdr adc).mem = s.mem ∧ (State.summary s hdr adc).pending = s.pending := by
  unfold State.summary; grind [State.eraseSlot_keeps, State.flashErase_keeps, State.flashLost_keeps, State.flashPut_keeps, State.free_keeps, State.holdup_keeps, State.log_keeps, State.sumSt_keeps]
@[simp] theorem State.dumpEnd_keeps (s : State) (hdr : List Byte) (adc : Nat) :
    (State.dumpEnd s hdr adc).pending = s.pending := by
  simp [State.dumpEnd]
@[simp] theorem State.writeDump_keeps (s : State) (adc : Nat) :
    (State.writeDump s adc).pending = s.pending := by
  unfold State.writeDump; grind [State.dumpEnd_keeps, State.dumpHeader_keeps, State.fput_keeps, State.free_keeps, State.setBytes_keeps, State.writeSections_keeps]
@[simp] theorem State.writeNoWindow_keeps (s : State) (adc : Nat) :
    (State.writeNoWindow s adc).pending = s.pending := by
  simp [State.writeNoWindow]
theorem execFatal_keeps (cause src : Nat) (s : State) {t : State} (h : (execFatal cause src s) = .next t) :
    t.mem = s.mem ∧ t.pending = s.pending := by
  cases h; simp
theorem execDumpComplete_keeps (adc : Nat) (s : State) {t : State} (h : (execDumpComplete adc s) = .next t) :
    t.pending = s.pending := by
  unfold execDumpComplete at h; (repeat' split at h) <;> cases h <;> simp
theorem execHostforce_keeps (who : Requester) (s : State) {t : State} (h : (execHostforce who s) = .next t) :
    t.mem = s.mem ∧ t.pending = s.pending := by
  cases h; simp
theorem execDumpClear_keeps (who : Requester) (s : State) {t : State} (h : (execDumpClear who s) = .next t) :
    t.mem = s.mem ∧ t.pending = s.pending := by
  cases h; simp
@[simp] theorem State.strike_keeps (s : State) (u : Nat) (a2 : Option Bool) :
    (State.strike s u a2).mem = s.mem ∧ (State.strike s u a2).pending = s.pending := by
  unfold State.strike; split <;> simp
theorem execHbmPatrol_keeps (h blk : Nat) (event : Option Bool) (s : State) {t : State} (h :
    (execHbmPatrol h blk event s) = .next t) :
    t.mem = s.mem ∧ t.pending = s.pending := by
  cases h; simp

end Sys2Proof.Machine
end

