-- ==== Sys2Proof/Laws/CanonicalAccess.lean ====
section
/-!
SUPPORT. Laws/CanonicalAccess.lean: register accesses, the SMBus target and the dump: the operations and commands that write memory keep it in its canonical form.
-/

namespace Sys2Proof.Machine

/-! ### Access -/

theorem State.writeTrainReg_wf (s : State) (r : Reg) (p j : Nat) (v : Word64) (hwf : Memory.wf s.mem = true) :
    Memory.wf (State.writeTrainReg s r p j v).mem = true := by
  unfold State.writeTrainReg; (repeat' split) <;> simp [hwf, State.gctl_wf, State.stgCtrl_wf]
theorem State.writeHubReg_wf (s : State) (r : Reg) (i j : Nat) (v : Word64) (hwf : Memory.wf s.mem = true) :
    Memory.wf (State.writeHubReg s r i j v).mem = true := by
  unfold State.writeHubReg; (repeat' split) <;> simp [hwf, State.writeBootctl_wf]
theorem State.writeReg_wf (s : State) (who : Requester) (r : Reg) (i j : Nat) (v : Word64)
    (hwf : Memory.wf s.mem = true) :
    Memory.wf (State.writeReg s who r i j v).mem = true := by
  unfold State.writeReg; (repeat' split) <;> simp [hwf, State.writeHubReg_wf, State.writeTrainReg_wf]
theorem State.writeHalf_wf (s : State) (who : Requester) (r : Reg) (i j : Nat) (high : Bool) (x : Word32)
    (hwf : Memory.wf s.mem = true) :
    Memory.wf (State.writeHalf s who r i j high x).mem = true := by
  unfold State.writeHalf; (repeat' split) <;> simp [hwf, State.writeReg_wf]
theorem State.writePlace_wf (s : State) (who : Requester) (p : Place) (x : Word32) (hwf : Memory.wf s.mem = true) :
    Memory.wf (State.writePlace s who p x).mem = true := by
  unfold State.writePlace; (repeat' split) <;> simp [hwf, State.writeHalf_wf, State.writeProgram_wf]
theorem State.write32_wf (s : State) (who : Requester) (a : Nat) (x : Word32) (hwf : Memory.wf s.mem = true) :
    Memory.wf (State.write32 s who a x).mem = true := by
  unfold State.write32; dsimp only; (repeat' split) <;> simp [hwf, State.writePlace_wf]
theorem State.write64_wf (s : State) (who : Requester) (a : Nat) (v : Word64) (hwf : Memory.wf s.mem = true) :
    Memory.wf (State.write64 s who a v).mem = true := by
  unfold State.write64; dsimp only; (repeat' split) <;> simp [hwf, State.write32_wf, State.writeProgram_wf, State.writeReg_wf]
theorem State.writeOther_wf (s : State) (who : Requester) (a n : Nat) (v : Word64) (hwf : Memory.wf s.mem = true) :
    Memory.wf (State.writeOther s who a n v).mem = true := by
  dsimp only [State.writeOther]; (repeat' split) <;> simp [hwf, State.writeProgram_wf]
theorem State.writeAccess_wf (s : State) (who : Requester) (a size : Nat) (v : Word64) (hwf :
    Memory.wf s.mem = true) : Memory.wf (State.writeAccess s who a size v).mem = true := by
  unfold State.writeAccess; (repeat' split) <;> simp [hwf, State.write32_wf, State.write64_wf, State.writeOther_wf]
theorem execRegisterWrite_wf (who : Requester) (addr : Nat) (how : WriteForm) (val : Word64) (s : State)
    (hwf : Memory.wf s.mem = true) {t : State} (h : (execRegisterWrite who addr how val s) = .next t) :
    Memory.wf t.mem = true := by
  cases h; split <;> simp [hwf, State.writeAccess_wf]
theorem execLowWordWrite_wf (who : Requester) (addr : Nat) (val : Word32) (s : State)
    (hwf : Memory.wf s.mem = true) {t : State} (h : (execLowWordWrite who addr val s) = .next t) :
    Memory.wf t.mem = true := by
  cases h; simp [hwf, State.writeAccess_wf]
theorem execHighWordWrite_wf (who : Requester) (addr : Nat) (val : Word32) (s : State)
    (hwf : Memory.wf s.mem = true) {t : State} (h : (execHighWordWrite who addr val s) = .next t) :
    Memory.wf t.mem = true := by
  cases h; simp [hwf, State.write32_wf]
theorem execUndocumentedOffsetAccess_wf (who : Requester) (addr size : Nat) (wr : Option Word64) (s : State) (hwf :
    Memory.wf s.mem = true) {t : State} (h : (execUndocumentedOffsetAccess who addr size wr s) = .next t) : Memory.wf t.mem = true := by
  unfold execUndocumentedOffsetAccess at h; (repeat' split at h) <;> cases h <;> simp [hwf, State.writeAccess_wf]

/-! ### Smbus -/

theorem execWrite32_wf (val : Word32) (pec : Bool) (s : State) (hwf : Memory.wf s.mem = true) {t : State} (h :
    (execWrite32 val pec s) = .next t) :
    Memory.wf t.mem = true := by
  unfold execWrite32 at h; dsimp only [ok] at h; (repeat' split at h) <;> cases h <;> simp [hwf, when_wf, State.write32_wf]
theorem execWrite64_wf (val : Word64) (pec : Bool) (s : State) (hwf : Memory.wf s.mem = true) {t : State} (h :
    (execWrite64 val pec s) = .next t) :
    Memory.wf t.mem = true := by
  unfold execWrite64 at h; dsimp only [ok] at h; (repeat' split at h) <;> cases h <;> simp [hwf, when_wf, State.write64_wf]

/-! ### Dump -/

theorem State.writeSections_wf (s0 : State) (done : Nat) (hwf : Memory.wf s0.mem = true) :
    Memory.wf (State.writeSections s0 done).mem = true := by
  unfold State.writeSections
  dsimp only
  have a : ∀ l : List Nat, Memory.wf ((s0.zeroRange (Config.dumpBase s0.small) (sectionAt (done + 1))).each l fun s id => s.setBytes ((Config.dumpBase s0.small) + sectionAt id) (s0.section id)).mem = true :=
    fun l => each_wf _ _ _ (fun t i ht => State.setBytes_wf _ _ _ ht) (State.zeroRange_wf _ _ _ hwf)
  split
  · exact a _
  · exact State.storeP_wf _ _ _ (a _)
theorem State.dumpEnd_wf (s : State) (hdr : List Byte) (adc : Nat) (hwf : Memory.wf s.mem = true) :
    Memory.wf (State.dumpEnd s hdr adc).mem = true := by
  simp [State.dumpEnd, hwf, mem_wf_ite, State.packageReboot_wf]
theorem State.writeDump_wf (s : State) (adc : Nat) (hwf : Memory.wf s.mem = true) :
    Memory.wf (State.writeDump s adc).mem = true := by
  unfold State.writeDump
  dsimp only
  refine State.dumpEnd_wf _ _ _ ?_
  simp only [State.fput_keeps]
  exact State.setBytes_wf _ _ _ (State.writeSections_wf _ _ (by split <;> simp [hwf]))
theorem State.writeNoWindow_wf (s : State) (adc : Nat) (hwf : Memory.wf s.mem = true) :
    Memory.wf (State.writeNoWindow s adc).mem = true := by
  simp [State.writeNoWindow, hwf, State.dumpEnd_wf]
theorem execDumpComplete_wf (adc : Nat) (s : State) (hwf : Memory.wf s.mem = true) {t : State} (h :
    (execDumpComplete adc s) = .next t) :
    Memory.wf t.mem = true := by
  unfold execDumpComplete at h; (repeat' split at h) <;> cases h <;> simp [hwf, when_wf, State.writeDump_wf, State.writeNoWindow_wf]

end Sys2Proof.Machine
end

