-- ==== Sys2Proof/Laws/Open.lean ====
section
/-!
SUPPORT. Laws/Open.lean: what a guarded register access does where it gets through, and where it does not.
-/

namespace Sys2Proof.Machine

/-- A register write of a bore that gets through and that its requester may make has its effect. -/
theorem State.regAccess_open {s : State} {b : Nat} (h : s.boreOpen b) (who : Requester) (t : State) :
    s.regAccess who b false true t = t.regDone who b := by
  obtain ⟨⟨h1, h2⟩, h3⟩ := h
  simp only [State.regAccess, State.reach, h1, h2, h3]
  by_cases ha : s.pstate b = psActive <;> simp [ha]

/-- The same of the vestibule. -/
theorem State.regAccess_vestibule {s : State} {b : Nat} (h : s.vestibuleOpen b) (who : Requester) (t : State) :
    s.regAccess who b true true t = t.regDone who b := by
  obtain ⟨h1, h2⟩ := h
  simp [State.regAccess, State.reach, h1, h2]

/-- A write that the requester may not make changes nothing of a bore that it reaches. -/
theorem State.regAccess_refused {s : State} {b : Nat} (h : s.boreOpen b) (who : Requester) (t : State) :
    s.regAccess who b false false t = s.regDone who b := by
  obtain ⟨⟨h1, h2⟩, h3⟩ := h
  simp only [State.regAccess, State.reach, h1, h2, h3]
  by_cases ha : s.pstate b = psActive <;> simp [ha]

/-- An access to a bore in DEEP or OFF is a dark access. -/
theorem State.regAccess_dark {s : State} {b : Nat} (h : s.hubOpen = true)
    (hp : s.pstate b = psDeep ∨ s.pstate b = psOff) (who : Requester) (may : Bool) (t : State) :
    s.regAccess who b false may t = s.darkFor who b := by
  rcases hp with hp | hp <;> simp [State.regAccess, State.reach, h, hp, psDeep, psOff, psActive]

theorem State.hubReg_open {s : State} (h : s.hubOpen = true) (t : State) : s.hubReg true t = t := by
  simp [State.hubReg, h]

theorem State.hubReg_refused (s t : State) : s.hubReg false t = s := by simp [State.hubReg]

theorem State.drnReg_open {s : State} (h : s.powered = true) (t : State) : s.drnReg true t = t := by
  simp [State.drnReg, h]

theorem State.drnReg_refused (s t : State) : s.drnReg false t = s := by simp [State.drnReg]

end Sys2Proof.Machine
end

