-- ==== Sys2Proof/Laws/State.lean ====
section
/-!
SUPPORT. Laws/State.lean: what each elementary update leaves alone: one lemma for each field and each reader, true by
computation, so that no proof unfolds a record update.
-/

namespace Sys2Proof.Machine

/-! ### rput -/

@[simp] theorem State.rput_capt (s : State) (r : Reg) (v : Word64) (i j : Nat) :
    (s.rput r v i j).capt = s.capt := rfl
@[simp] theorem State.rput_held (s : State) (r : Reg) (v : Word64) (i j : Nat) :
    (s.rput r v i j).held = s.held := rfl
@[simp] theorem State.rput_rdata (s : State) (r : Reg) (v : Word64) (i j : Nat) :
    (s.rput r v i j).rdata = s.rdata := rfl
@[simp] theorem State.rput_rbytes (s : State) (r : Reg) (v : Word64) (i j : Nat) :
    (s.rput r v i j).rbytes = s.rbytes := rfl
@[simp] theorem State.rput_rstat (s : State) (r : Reg) (v : Word64) (i j : Nat) :
    (s.rput r v i j).rstat = s.rstat := rfl
@[simp] theorem State.rput_mem (s : State) (r : Reg) (v : Word64) (i j : Nat) :
    (s.rput r v i j).mem = s.mem := rfl
@[simp] theorem State.rput_poison (s : State) (r : Reg) (v : Word64) (i j : Nat) :
    (s.rput r v i j).poison = s.poison := rfl
@[simp] theorem State.rput_single (s : State) (r : Reg) (v : Word64) (i j : Nat) :
    (s.rput r v i j).single = s.single := rfl
@[simp] theorem State.rput_double (s : State) (r : Reg) (v : Word64) (i j : Nat) :
    (s.rput r v i j).double = s.double := rfl
@[simp] theorem State.rput_net (s : State) (r : Reg) (v : Word64) (i j : Nat) :
    (s.rput r v i j).net = s.net := rfl
@[simp] theorem State.rput_bores (s : State) (r : Reg) (v : Word64) (i j : Nat) :
    (s.rput r v i j).bores = s.bores := rfl
@[simp] theorem State.rput_sites (s : State) (r : Reg) (v : Word64) (i j : Nat) :
    (s.rput r v i j).sites = s.sites := rfl
@[simp] theorem State.rput_tlb (s : State) (r : Reg) (v : Word64) (i j : Nat) :
    (s.rput r v i j).tlb = s.tlb := rfl
@[simp] theorem State.rput_watches (s : State) (r : Reg) (v : Word64) (i j : Nat) :
    (s.rput r v i j).watches = s.watches := rfl
@[simp] theorem State.rput_bars (s : State) (r : Reg) (v : Word64) (i j : Nat) :
    (s.rput r v i j).bars = s.bars := rfl
@[simp] theorem State.rput_scheds (s : State) (r : Reg) (v : Word64) (i j : Nat) :
    (s.rput r v i j).scheds = s.scheds := rfl
@[simp] theorem State.rput_health (s : State) (r : Reg) (v : Word64) (i j : Nat) :
    (s.rput r v i j).health = s.health := rfl
@[simp] theorem State.rput_ctxs (s : State) (r : Reg) (v : Word64) (i j : Nat) :
    (s.rput r v i j).ctxs = s.ctxs := rfl
@[simp] theorem State.rput_parts (s : State) (r : Reg) (v : Word64) (i j : Nat) :
    (s.rput r v i j).parts = s.parts := rfl
@[simp] theorem State.rput_starts (s : State) (r : Reg) (v : Word64) (i j : Nat) :
    (s.rput r v i j).starts = s.starts := rfl
@[simp] theorem State.rput_cmds (s : State) (r : Reg) (v : Word64) (i j : Nat) :
    (s.rput r v i j).cmds = s.cmds := rfl
@[simp] theorem State.rput_seqno (s : State) (r : Reg) (v : Word64) (i j : Nat) :
    (s.rput r v i j).seqno = s.seqno := rfl
@[simp] theorem State.rput_ports (s : State) (r : Reg) (v : Word64) (i j : Nat) :
    (s.rput r v i j).ports = s.ports := rfl
@[simp] theorem State.rput_hif (s : State) (r : Reg) (v : Word64) (i j : Nat) :
    (s.rput r v i j).hif = s.hif := rfl
@[simp] theorem State.rput_drone (s : State) (r : Reg) (v : Word64) (i j : Nat) :
    (s.rput r v i j).drone = s.drone := rfl
@[simp] theorem State.rput_boot (s : State) (r : Reg) (v : Word64) (i j : Nat) :
    (s.rput r v i j).boot = s.boot := rfl
@[simp] theorem State.rput_emb (s : State) (r : Reg) (v : Word64) (i j : Nat) :
    (s.rput r v i j).emb = s.emb := rfl
@[simp] theorem State.rput_bell (s : State) (r : Reg) (v : Word64) (i j : Nat) :
    (s.rput r v i j).bell = s.bell := rfl
@[simp] theorem State.rput_faults (s : State) (r : Reg) (v : Word64) (i j : Nat) :
    (s.rput r v i j).faults = s.faults := rfl
@[simp] theorem State.rput_flash (s : State) (r : Reg) (v : Word64) (i j : Nat) :
    (s.rput r v i j).flash = s.flash := rfl
@[simp] theorem State.rput_smb (s : State) (r : Reg) (v : Word64) (i j : Nat) :
    (s.rput r v i j).smb = s.smb := rfl
@[simp] theorem State.rput_tap (s : State) (r : Reg) (v : Word64) (i j : Nat) :
    (s.rput r v i j).tap = s.tap := rfl
@[simp] theorem State.rput_freeCtr (s : State) (r : Reg) (v : Word64) (i j : Nat) :
    (s.rput r v i j).freeCtr = s.freeCtr := rfl
@[simp] theorem State.rput_inval (s : State) (r : Reg) (v : Word64) (i j : Nat) :
    (s.rput r v i j).inval = s.inval := rfl
@[simp] theorem State.rput_stashOut (s : State) (r : Reg) (v : Word64) (i j : Nat) :
    (s.rput r v i j).stashOut = s.stashOut := rfl
@[simp] theorem State.rput_stashIn (s : State) (r : Reg) (v : Word64) (i j : Nat) :
    (s.rput r v i j).stashIn = s.stashIn := rfl
@[simp] theorem State.rput_pending (s : State) (r : Reg) (v : Word64) (i j : Nat) :
    (s.rput r v i j).pending = s.pending := rfl
@[simp] theorem State.rput_bore (s : State) (r : Reg) (v : Word64) (i j : Nat) (c : Nat) :
    (s.rput r v i j).bore c = s.bore c := rfl
@[simp] theorem State.rput_ch (s : State) (r : Reg) (v : Word64) (i j : Nat) (c : Nat) :
    (s.rput r v i j).ch c = s.ch c := rfl
@[simp] theorem State.rput_rank (s : State) (r : Reg) (v : Word64) (i j : Nat) (c q : Nat) :
    (s.rput r v i j).rank c q = s.rank c q := rfl
@[simp] theorem State.rput_queue (s : State) (r : Reg) (v : Word64) (i j : Nat) (c q : Nat) :
    (s.rput r v i j).queue c q = s.queue c q := rfl
@[simp] theorem State.rput_sched (s : State) (r : Reg) (v : Word64) (i j : Nat) (q : Nat) :
    (s.rput r v i j).sched q = s.sched q := rfl
@[simp] theorem State.rput_hset (s : State) (r : Reg) (v : Word64) (i j : Nat) (q : Nat) :
    (s.rput r v i j).hset q = s.hset q := rfl
@[simp] theorem State.rput_ctx (s : State) (r : Reg) (v : Word64) (i j : Nat) (c : Nat) :
    (s.rput r v i j).ctx c = s.ctx c := rfl
@[simp] theorem State.rput_part (s : State) (r : Reg) (v : Word64) (i j : Nat) (q : Nat) :
    (s.rput r v i j).part q = s.part q := rfl
@[simp] theorem State.rput_port (s : State) (r : Reg) (v : Word64) (i j : Nat) (q : Nat) :
    (s.rput r v i j).port q = s.port q := rfl
@[simp] theorem State.rput_byteAt (s : State) (r : Reg) (v : Word64) (i j : Nat) (x : Nat) :
    (s.rput r v i j).byteAt x = s.byteAt x := rfl

/-! ### fput -/

@[simp] theorem State.fput_capt (s : State) (f : Field) (v i j : Nat) :
    (s.fput f v i j).capt = s.capt := rfl
@[simp] theorem State.fput_held (s : State) (f : Field) (v i j : Nat) :
    (s.fput f v i j).held = s.held := rfl
@[simp] theorem State.fput_rdata (s : State) (f : Field) (v i j : Nat) :
    (s.fput f v i j).rdata = s.rdata := rfl
@[simp] theorem State.fput_rbytes (s : State) (f : Field) (v i j : Nat) :
    (s.fput f v i j).rbytes = s.rbytes := rfl
@[simp] theorem State.fput_rstat (s : State) (f : Field) (v i j : Nat) :
    (s.fput f v i j).rstat = s.rstat := rfl
@[simp] theorem State.fput_mem (s : State) (f : Field) (v i j : Nat) :
    (s.fput f v i j).mem = s.mem := rfl
@[simp] theorem State.fput_poison (s : State) (f : Field) (v i j : Nat) :
    (s.fput f v i j).poison = s.poison := rfl
@[simp] theorem State.fput_single (s : State) (f : Field) (v i j : Nat) :
    (s.fput f v i j).single = s.single := rfl
@[simp] theorem State.fput_double (s : State) (f : Field) (v i j : Nat) :
    (s.fput f v i j).double = s.double := rfl
@[simp] theorem State.fput_net (s : State) (f : Field) (v i j : Nat) :
    (s.fput f v i j).net = s.net := rfl
@[simp] theorem State.fput_bores (s : State) (f : Field) (v i j : Nat) :
    (s.fput f v i j).bores = s.bores := rfl
@[simp] theorem State.fput_sites (s : State) (f : Field) (v i j : Nat) :
    (s.fput f v i j).sites = s.sites := rfl
@[simp] theorem State.fput_tlb (s : State) (f : Field) (v i j : Nat) :
    (s.fput f v i j).tlb = s.tlb := rfl
@[simp] theorem State.fput_watches (s : State) (f : Field) (v i j : Nat) :
    (s.fput f v i j).watches = s.watches := rfl
@[simp] theorem State.fput_bars (s : State) (f : Field) (v i j : Nat) :
    (s.fput f v i j).bars = s.bars := rfl
@[simp] theorem State.fput_scheds (s : State) (f : Field) (v i j : Nat) :
    (s.fput f v i j).scheds = s.scheds := rfl
@[simp] theorem State.fput_health (s : State) (f : Field) (v i j : Nat) :
    (s.fput f v i j).health = s.health := rfl
@[simp] theorem State.fput_ctxs (s : State) (f : Field) (v i j : Nat) :
    (s.fput f v i j).ctxs = s.ctxs := rfl
@[simp] theorem State.fput_parts (s : State) (f : Field) (v i j : Nat) :
    (s.fput f v i j).parts = s.parts := rfl
@[simp] theorem State.fput_starts (s : State) (f : Field) (v i j : Nat) :
    (s.fput f v i j).starts = s.starts := rfl
@[simp] theorem State.fput_cmds (s : State) (f : Field) (v i j : Nat) :
    (s.fput f v i j).cmds = s.cmds := rfl
@[simp] theorem State.fput_seqno (s : State) (f : Field) (v i j : Nat) :
    (s.fput f v i j).seqno = s.seqno := rfl
@[simp] theorem State.fput_ports (s : State) (f : Field) (v i j : Nat) :
    (s.fput f v i j).ports = s.ports := rfl
@[simp] theorem State.fput_hif (s : State) (f : Field) (v i j : Nat) :
    (s.fput f v i j).hif = s.hif := rfl
@[simp] theorem State.fput_drone (s : State) (f : Field) (v i j : Nat) :
    (s.fput f v i j).drone = s.drone := rfl
@[simp] theorem State.fput_boot (s : State) (f : Field) (v i j : Nat) :
    (s.fput f v i j).boot = s.boot := rfl
@[simp] theorem State.fput_emb (s : State) (f : Field) (v i j : Nat) :
    (s.fput f v i j).emb = s.emb := rfl
@[simp] theorem State.fput_bell (s : State) (f : Field) (v i j : Nat) :
    (s.fput f v i j).bell = s.bell := rfl
@[simp] theorem State.fput_faults (s : State) (f : Field) (v i j : Nat) :
    (s.fput f v i j).faults = s.faults := rfl
@[simp] theorem State.fput_flash (s : State) (f : Field) (v i j : Nat) :
    (s.fput f v i j).flash = s.flash := rfl
@[simp] theorem State.fput_smb (s : State) (f : Field) (v i j : Nat) :
    (s.fput f v i j).smb = s.smb := rfl
@[simp] theorem State.fput_tap (s : State) (f : Field) (v i j : Nat) :
    (s.fput f v i j).tap = s.tap := rfl
@[simp] theorem State.fput_freeCtr (s : State) (f : Field) (v i j : Nat) :
    (s.fput f v i j).freeCtr = s.freeCtr := rfl
@[simp] theorem State.fput_inval (s : State) (f : Field) (v i j : Nat) :
    (s.fput f v i j).inval = s.inval := rfl
@[simp] theorem State.fput_stashOut (s : State) (f : Field) (v i j : Nat) :
    (s.fput f v i j).stashOut = s.stashOut := rfl
@[simp] theorem State.fput_stashIn (s : State) (f : Field) (v i j : Nat) :
    (s.fput f v i j).stashIn = s.stashIn := rfl
@[simp] theorem State.fput_pending (s : State) (f : Field) (v i j : Nat) :
    (s.fput f v i j).pending = s.pending := rfl
@[simp] theorem State.fput_bore (s : State) (f : Field) (v i j : Nat) (c : Nat) :
    (s.fput f v i j).bore c = s.bore c := rfl
@[simp] theorem State.fput_ch (s : State) (f : Field) (v i j : Nat) (c : Nat) :
    (s.fput f v i j).ch c = s.ch c := rfl
@[simp] theorem State.fput_rank (s : State) (f : Field) (v i j : Nat) (c q : Nat) :
    (s.fput f v i j).rank c q = s.rank c q := rfl
@[simp] theorem State.fput_queue (s : State) (f : Field) (v i j : Nat) (c q : Nat) :
    (s.fput f v i j).queue c q = s.queue c q := rfl
@[simp] theorem State.fput_sched (s : State) (f : Field) (v i j : Nat) (q : Nat) :
    (s.fput f v i j).sched q = s.sched q := rfl
@[simp] theorem State.fput_hset (s : State) (f : Field) (v i j : Nat) (q : Nat) :
    (s.fput f v i j).hset q = s.hset q := rfl
@[simp] theorem State.fput_ctx (s : State) (f : Field) (v i j : Nat) (c : Nat) :
    (s.fput f v i j).ctx c = s.ctx c := rfl
@[simp] theorem State.fput_part (s : State) (f : Field) (v i j : Nat) (q : Nat) :
    (s.fput f v i j).part q = s.part q := rfl
@[simp] theorem State.fput_port (s : State) (f : Field) (v i j : Nat) (q : Nat) :
    (s.fput f v i j).port q = s.port q := rfl
@[simp] theorem State.fput_byteAt (s : State) (f : Field) (v i j : Nat) (x : Nat) :
    (s.fput f v i j).byteAt x = s.byteAt x := rfl

/-! ### fsat -/

@[simp] theorem State.fsat_capt (s : State) (f : Field) (n i j : Nat) :
    (s.fsat f n i j).capt = s.capt := rfl
@[simp] theorem State.fsat_held (s : State) (f : Field) (n i j : Nat) :
    (s.fsat f n i j).held = s.held := rfl
@[simp] theorem State.fsat_rdata (s : State) (f : Field) (n i j : Nat) :
    (s.fsat f n i j).rdata = s.rdata := rfl
@[simp] theorem State.fsat_rbytes (s : State) (f : Field) (n i j : Nat) :
    (s.fsat f n i j).rbytes = s.rbytes := rfl
@[simp] theorem State.fsat_rstat (s : State) (f : Field) (n i j : Nat) :
    (s.fsat f n i j).rstat = s.rstat := rfl
@[simp] theorem State.fsat_mem (s : State) (f : Field) (n i j : Nat) :
    (s.fsat f n i j).mem = s.mem := rfl
@[simp] theorem State.fsat_poison (s : State) (f : Field) (n i j : Nat) :
    (s.fsat f n i j).poison = s.poison := rfl
@[simp] theorem State.fsat_single (s : State) (f : Field) (n i j : Nat) :
    (s.fsat f n i j).single = s.single := rfl
@[simp] theorem State.fsat_double (s : State) (f : Field) (n i j : Nat) :
    (s.fsat f n i j).double = s.double := rfl
@[simp] theorem State.fsat_net (s : State) (f : Field) (n i j : Nat) :
    (s.fsat f n i j).net = s.net := rfl
@[simp] theorem State.fsat_bores (s : State) (f : Field) (n i j : Nat) :
    (s.fsat f n i j).bores = s.bores := rfl
@[simp] theorem State.fsat_sites (s : State) (f : Field) (n i j : Nat) :
    (s.fsat f n i j).sites = s.sites := rfl
@[simp] theorem State.fsat_tlb (s : State) (f : Field) (n i j : Nat) :
    (s.fsat f n i j).tlb = s.tlb := rfl
@[simp] theorem State.fsat_watches (s : State) (f : Field) (n i j : Nat) :
    (s.fsat f n i j).watches = s.watches := rfl
@[simp] theorem State.fsat_bars (s : State) (f : Field) (n i j : Nat) :
    (s.fsat f n i j).bars = s.bars := rfl
@[simp] theorem State.fsat_scheds (s : State) (f : Field) (n i j : Nat) :
    (s.fsat f n i j).scheds = s.scheds := rfl
@[simp] theorem State.fsat_health (s : State) (f : Field) (n i j : Nat) :
    (s.fsat f n i j).health = s.health := rfl
@[simp] theorem State.fsat_ctxs (s : State) (f : Field) (n i j : Nat) :
    (s.fsat f n i j).ctxs = s.ctxs := rfl
@[simp] theorem State.fsat_parts (s : State) (f : Field) (n i j : Nat) :
    (s.fsat f n i j).parts = s.parts := rfl
@[simp] theorem State.fsat_starts (s : State) (f : Field) (n i j : Nat) :
    (s.fsat f n i j).starts = s.starts := rfl
@[simp] theorem State.fsat_cmds (s : State) (f : Field) (n i j : Nat) :
    (s.fsat f n i j).cmds = s.cmds := rfl
@[simp] theorem State.fsat_seqno (s : State) (f : Field) (n i j : Nat) :
    (s.fsat f n i j).seqno = s.seqno := rfl
@[simp] theorem State.fsat_ports (s : State) (f : Field) (n i j : Nat) :
    (s.fsat f n i j).ports = s.ports := rfl
@[simp] theorem State.fsat_hif (s : State) (f : Field) (n i j : Nat) :
    (s.fsat f n i j).hif = s.hif := rfl
@[simp] theorem State.fsat_drone (s : State) (f : Field) (n i j : Nat) :
    (s.fsat f n i j).drone = s.drone := rfl
@[simp] theorem State.fsat_boot (s : State) (f : Field) (n i j : Nat) :
    (s.fsat f n i j).boot = s.boot := rfl
@[simp] theorem State.fsat_emb (s : State) (f : Field) (n i j : Nat) :
    (s.fsat f n i j).emb = s.emb := rfl
@[simp] theorem State.fsat_bell (s : State) (f : Field) (n i j : Nat) :
    (s.fsat f n i j).bell = s.bell := rfl
@[simp] theorem State.fsat_faults (s : State) (f : Field) (n i j : Nat) :
    (s.fsat f n i j).faults = s.faults := rfl
@[simp] theorem State.fsat_flash (s : State) (f : Field) (n i j : Nat) :
    (s.fsat f n i j).flash = s.flash := rfl
@[simp] theorem State.fsat_smb (s : State) (f : Field) (n i j : Nat) :
    (s.fsat f n i j).smb = s.smb := rfl
@[simp] theorem State.fsat_tap (s : State) (f : Field) (n i j : Nat) :
    (s.fsat f n i j).tap = s.tap := rfl
@[simp] theorem State.fsat_freeCtr (s : State) (f : Field) (n i j : Nat) :
    (s.fsat f n i j).freeCtr = s.freeCtr := rfl
@[simp] theorem State.fsat_inval (s : State) (f : Field) (n i j : Nat) :
    (s.fsat f n i j).inval = s.inval := rfl
@[simp] theorem State.fsat_stashOut (s : State) (f : Field) (n i j : Nat) :
    (s.fsat f n i j).stashOut = s.stashOut := rfl
@[simp] theorem State.fsat_stashIn (s : State) (f : Field) (n i j : Nat) :
    (s.fsat f n i j).stashIn = s.stashIn := rfl
@[simp] theorem State.fsat_pending (s : State) (f : Field) (n i j : Nat) :
    (s.fsat f n i j).pending = s.pending := rfl
@[simp] theorem State.fsat_bore (s : State) (f : Field) (n i j : Nat) (c : Nat) :
    (s.fsat f n i j).bore c = s.bore c := rfl
@[simp] theorem State.fsat_ch (s : State) (f : Field) (n i j : Nat) (c : Nat) :
    (s.fsat f n i j).ch c = s.ch c := rfl
@[simp] theorem State.fsat_rank (s : State) (f : Field) (n i j : Nat) (c q : Nat) :
    (s.fsat f n i j).rank c q = s.rank c q := rfl
@[simp] theorem State.fsat_queue (s : State) (f : Field) (n i j : Nat) (c q : Nat) :
    (s.fsat f n i j).queue c q = s.queue c q := rfl
@[simp] theorem State.fsat_sched (s : State) (f : Field) (n i j : Nat) (q : Nat) :
    (s.fsat f n i j).sched q = s.sched q := rfl
@[simp] theorem State.fsat_hset (s : State) (f : Field) (n i j : Nat) (q : Nat) :
    (s.fsat f n i j).hset q = s.hset q := rfl
@[simp] theorem State.fsat_ctx (s : State) (f : Field) (n i j : Nat) (c : Nat) :
    (s.fsat f n i j).ctx c = s.ctx c := rfl
@[simp] theorem State.fsat_part (s : State) (f : Field) (n i j : Nat) (q : Nat) :
    (s.fsat f n i j).part q = s.part q := rfl
@[simp] theorem State.fsat_port (s : State) (f : Field) (n i j : Nat) (q : Nat) :
    (s.fsat f n i j).port q = s.port q := rfl
@[simp] theorem State.fsat_byteAt (s : State) (f : Field) (n i j : Nat) (x : Nat) :
    (s.fsat f n i j).byteAt x = s.byteAt x := rfl

/-! ### finc -/

@[simp] theorem State.finc_capt (s : State) (f : Field) (n i j : Nat) :
    (s.finc f n i j).capt = s.capt := rfl
@[simp] theorem State.finc_held (s : State) (f : Field) (n i j : Nat) :
    (s.finc f n i j).held = s.held := rfl
@[simp] theorem State.finc_rdata (s : State) (f : Field) (n i j : Nat) :
    (s.finc f n i j).rdata = s.rdata := rfl
@[simp] theorem State.finc_rbytes (s : State) (f : Field) (n i j : Nat) :
    (s.finc f n i j).rbytes = s.rbytes := rfl
@[simp] theorem State.finc_rstat (s : State) (f : Field) (n i j : Nat) :
    (s.finc f n i j).rstat = s.rstat := rfl
@[simp] theorem State.finc_mem (s : State) (f : Field) (n i j : Nat) :
    (s.finc f n i j).mem = s.mem := rfl
@[simp] theorem State.finc_poison (s : State) (f : Field) (n i j : Nat) :
    (s.finc f n i j).poison = s.poison := rfl
@[simp] theorem State.finc_single (s : State) (f : Field) (n i j : Nat) :
    (s.finc f n i j).single = s.single := rfl
@[simp] theorem State.finc_double (s : State) (f : Field) (n i j : Nat) :
    (s.finc f n i j).double = s.double := rfl
@[simp] theorem State.finc_net (s : State) (f : Field) (n i j : Nat) :
    (s.finc f n i j).net = s.net := rfl
@[simp] theorem State.finc_bores (s : State) (f : Field) (n i j : Nat) :
    (s.finc f n i j).bores = s.bores := rfl
@[simp] theorem State.finc_sites (s : State) (f : Field) (n i j : Nat) :
    (s.finc f n i j).sites = s.sites := rfl
@[simp] theorem State.finc_tlb (s : State) (f : Field) (n i j : Nat) :
    (s.finc f n i j).tlb = s.tlb := rfl
@[simp] theorem State.finc_watches (s : State) (f : Field) (n i j : Nat) :
    (s.finc f n i j).watches = s.watches := rfl
@[simp] theorem State.finc_bars (s : State) (f : Field) (n i j : Nat) :
    (s.finc f n i j).bars = s.bars := rfl
@[simp] theorem State.finc_scheds (s : State) (f : Field) (n i j : Nat) :
    (s.finc f n i j).scheds = s.scheds := rfl
@[simp] theorem State.finc_health (s : State) (f : Field) (n i j : Nat) :
    (s.finc f n i j).health = s.health := rfl
@[simp] theorem State.finc_ctxs (s : State) (f : Field) (n i j : Nat) :
    (s.finc f n i j).ctxs = s.ctxs := rfl
@[simp] theorem State.finc_parts (s : State) (f : Field) (n i j : Nat) :
    (s.finc f n i j).parts = s.parts := rfl
@[simp] theorem State.finc_starts (s : State) (f : Field) (n i j : Nat) :
    (s.finc f n i j).starts = s.starts := rfl
@[simp] theorem State.finc_cmds (s : State) (f : Field) (n i j : Nat) :
    (s.finc f n i j).cmds = s.cmds := rfl
@[simp] theorem State.finc_seqno (s : State) (f : Field) (n i j : Nat) :
    (s.finc f n i j).seqno = s.seqno := rfl
@[simp] theorem State.finc_ports (s : State) (f : Field) (n i j : Nat) :
    (s.finc f n i j).ports = s.ports := rfl
@[simp] theorem State.finc_hif (s : State) (f : Field) (n i j : Nat) :
    (s.finc f n i j).hif = s.hif := rfl
@[simp] theorem State.finc_drone (s : State) (f : Field) (n i j : Nat) :
    (s.finc f n i j).drone = s.drone := rfl
@[simp] theorem State.finc_boot (s : State) (f : Field) (n i j : Nat) :
    (s.finc f n i j).boot = s.boot := rfl
@[simp] theorem State.finc_emb (s : State) (f : Field) (n i j : Nat) :
    (s.finc f n i j).emb = s.emb := rfl
@[simp] theorem State.finc_bell (s : State) (f : Field) (n i j : Nat) :
    (s.finc f n i j).bell = s.bell := rfl
@[simp] theorem State.finc_faults (s : State) (f : Field) (n i j : Nat) :
    (s.finc f n i j).faults = s.faults := rfl
@[simp] theorem State.finc_flash (s : State) (f : Field) (n i j : Nat) :
    (s.finc f n i j).flash = s.flash := rfl
@[simp] theorem State.finc_smb (s : State) (f : Field) (n i j : Nat) :
    (s.finc f n i j).smb = s.smb := rfl
@[simp] theorem State.finc_tap (s : State) (f : Field) (n i j : Nat) :
    (s.finc f n i j).tap = s.tap := rfl
@[simp] theorem State.finc_freeCtr (s : State) (f : Field) (n i j : Nat) :
    (s.finc f n i j).freeCtr = s.freeCtr := rfl
@[simp] theorem State.finc_inval (s : State) (f : Field) (n i j : Nat) :
    (s.finc f n i j).inval = s.inval := rfl
@[simp] theorem State.finc_stashOut (s : State) (f : Field) (n i j : Nat) :
    (s.finc f n i j).stashOut = s.stashOut := rfl
@[simp] theorem State.finc_stashIn (s : State) (f : Field) (n i j : Nat) :
    (s.finc f n i j).stashIn = s.stashIn := rfl
@[simp] theorem State.finc_pending (s : State) (f : Field) (n i j : Nat) :
    (s.finc f n i j).pending = s.pending := rfl
@[simp] theorem State.finc_bore (s : State) (f : Field) (n i j : Nat) (c : Nat) :
    (s.finc f n i j).bore c = s.bore c := rfl
@[simp] theorem State.finc_ch (s : State) (f : Field) (n i j : Nat) (c : Nat) :
    (s.finc f n i j).ch c = s.ch c := rfl
@[simp] theorem State.finc_rank (s : State) (f : Field) (n i j : Nat) (c q : Nat) :
    (s.finc f n i j).rank c q = s.rank c q := rfl
@[simp] theorem State.finc_queue (s : State) (f : Field) (n i j : Nat) (c q : Nat) :
    (s.finc f n i j).queue c q = s.queue c q := rfl
@[simp] theorem State.finc_sched (s : State) (f : Field) (n i j : Nat) (q : Nat) :
    (s.finc f n i j).sched q = s.sched q := rfl
@[simp] theorem State.finc_hset (s : State) (f : Field) (n i j : Nat) (q : Nat) :
    (s.finc f n i j).hset q = s.hset q := rfl
@[simp] theorem State.finc_ctx (s : State) (f : Field) (n i j : Nat) (c : Nat) :
    (s.finc f n i j).ctx c = s.ctx c := rfl
@[simp] theorem State.finc_part (s : State) (f : Field) (n i j : Nat) (q : Nat) :
    (s.finc f n i j).part q = s.part q := rfl
@[simp] theorem State.finc_port (s : State) (f : Field) (n i j : Nat) (q : Nat) :
    (s.finc f n i j).port q = s.port q := rfl
@[simp] theorem State.finc_byteAt (s : State) (f : Field) (n i j : Nat) (x : Nat) :
    (s.finc f n i j).byteAt x = s.byteAt x := rfl

/-! ### warmReg -/

@[simp] theorem State.warmReg_capt (s : State) (r : Reg) (i j : Nat) :
    (s.warmReg r i j).capt = s.capt := rfl
@[simp] theorem State.warmReg_held (s : State) (r : Reg) (i j : Nat) :
    (s.warmReg r i j).held = s.held := rfl
@[simp] theorem State.warmReg_rdata (s : State) (r : Reg) (i j : Nat) :
    (s.warmReg r i j).rdata = s.rdata := rfl
@[simp] theorem State.warmReg_rbytes (s : State) (r : Reg) (i j : Nat) :
    (s.warmReg r i j).rbytes = s.rbytes := rfl
@[simp] theorem State.warmReg_rstat (s : State) (r : Reg) (i j : Nat) :
    (s.warmReg r i j).rstat = s.rstat := rfl
@[simp] theorem State.warmReg_mem (s : State) (r : Reg) (i j : Nat) :
    (s.warmReg r i j).mem = s.mem := rfl
@[simp] theorem State.warmReg_poison (s : State) (r : Reg) (i j : Nat) :
    (s.warmReg r i j).poison = s.poison := rfl
@[simp] theorem State.warmReg_single (s : State) (r : Reg) (i j : Nat) :
    (s.warmReg r i j).single = s.single := rfl
@[simp] theorem State.warmReg_double (s : State) (r : Reg) (i j : Nat) :
    (s.warmReg r i j).double = s.double := rfl
@[simp] theorem State.warmReg_net (s : State) (r : Reg) (i j : Nat) :
    (s.warmReg r i j).net = s.net := rfl
@[simp] theorem State.warmReg_bores (s : State) (r : Reg) (i j : Nat) :
    (s.warmReg r i j).bores = s.bores := rfl
@[simp] theorem State.warmReg_sites (s : State) (r : Reg) (i j : Nat) :
    (s.warmReg r i j).sites = s.sites := rfl
@[simp] theorem State.warmReg_tlb (s : State) (r : Reg) (i j : Nat) :
    (s.warmReg r i j).tlb = s.tlb := rfl
@[simp] theorem State.warmReg_watches (s : State) (r : Reg) (i j : Nat) :
    (s.warmReg r i j).watches = s.watches := rfl
@[simp] theorem State.warmReg_bars (s : State) (r : Reg) (i j : Nat) :
    (s.warmReg r i j).bars = s.bars := rfl
@[simp] theorem State.warmReg_scheds (s : State) (r : Reg) (i j : Nat) :
    (s.warmReg r i j).scheds = s.scheds := rfl
@[simp] theorem State.warmReg_health (s : State) (r : Reg) (i j : Nat) :
    (s.warmReg r i j).health = s.health := rfl
@[simp] theorem State.warmReg_ctxs (s : State) (r : Reg) (i j : Nat) :
    (s.warmReg r i j).ctxs = s.ctxs := rfl
@[simp] theorem State.warmReg_parts (s : State) (r : Reg) (i j : Nat) :
    (s.warmReg r i j).parts = s.parts := rfl
@[simp] theorem State.warmReg_starts (s : State) (r : Reg) (i j : Nat) :
    (s.warmReg r i j).starts = s.starts := rfl
@[simp] theorem State.warmReg_cmds (s : State) (r : Reg) (i j : Nat) :
    (s.warmReg r i j).cmds = s.cmds := rfl
@[simp] theorem State.warmReg_seqno (s : State) (r : Reg) (i j : Nat) :
    (s.warmReg r i j).seqno = s.seqno := rfl
@[simp] theorem State.warmReg_ports (s : State) (r : Reg) (i j : Nat) :
    (s.warmReg r i j).ports = s.ports := rfl
@[simp] theorem State.warmReg_hif (s : State) (r : Reg) (i j : Nat) :
    (s.warmReg r i j).hif = s.hif := rfl
@[simp] theorem State.warmReg_drone (s : State) (r : Reg) (i j : Nat) :
    (s.warmReg r i j).drone = s.drone := rfl
@[simp] theorem State.warmReg_boot (s : State) (r : Reg) (i j : Nat) :
    (s.warmReg r i j).boot = s.boot := rfl
@[simp] theorem State.warmReg_emb (s : State) (r : Reg) (i j : Nat) :
    (s.warmReg r i j).emb = s.emb := rfl
@[simp] theorem State.warmReg_bell (s : State) (r : Reg) (i j : Nat) :
    (s.warmReg r i j).bell = s.bell := rfl
@[simp] theorem State.warmReg_faults (s : State) (r : Reg) (i j : Nat) :
    (s.warmReg r i j).faults = s.faults := rfl
@[simp] theorem State.warmReg_flash (s : State) (r : Reg) (i j : Nat) :
    (s.warmReg r i j).flash = s.flash := rfl
@[simp] theorem State.warmReg_smb (s : State) (r : Reg) (i j : Nat) :
    (s.warmReg r i j).smb = s.smb := rfl
@[simp] theorem State.warmReg_tap (s : State) (r : Reg) (i j : Nat) :
    (s.warmReg r i j).tap = s.tap := rfl
@[simp] theorem State.warmReg_freeCtr (s : State) (r : Reg) (i j : Nat) :
    (s.warmReg r i j).freeCtr = s.freeCtr := rfl
@[simp] theorem State.warmReg_inval (s : State) (r : Reg) (i j : Nat) :
    (s.warmReg r i j).inval = s.inval := rfl
@[simp] theorem State.warmReg_stashOut (s : State) (r : Reg) (i j : Nat) :
    (s.warmReg r i j).stashOut = s.stashOut := rfl
@[simp] theorem State.warmReg_stashIn (s : State) (r : Reg) (i j : Nat) :
    (s.warmReg r i j).stashIn = s.stashIn := rfl
@[simp] theorem State.warmReg_pending (s : State) (r : Reg) (i j : Nat) :
    (s.warmReg r i j).pending = s.pending := rfl
@[simp] theorem State.warmReg_bore (s : State) (r : Reg) (i j : Nat) (c : Nat) :
    (s.warmReg r i j).bore c = s.bore c := rfl
@[simp] theorem State.warmReg_ch (s : State) (r : Reg) (i j : Nat) (c : Nat) :
    (s.warmReg r i j).ch c = s.ch c := rfl
@[simp] theorem State.warmReg_rank (s : State) (r : Reg) (i j : Nat) (c q : Nat) :
    (s.warmReg r i j).rank c q = s.rank c q := rfl
@[simp] theorem State.warmReg_queue (s : State) (r : Reg) (i j : Nat) (c q : Nat) :
    (s.warmReg r i j).queue c q = s.queue c q := rfl
@[simp] theorem State.warmReg_sched (s : State) (r : Reg) (i j : Nat) (q : Nat) :
    (s.warmReg r i j).sched q = s.sched q := rfl
@[simp] theorem State.warmReg_hset (s : State) (r : Reg) (i j : Nat) (q : Nat) :
    (s.warmReg r i j).hset q = s.hset q := rfl
@[simp] theorem State.warmReg_ctx (s : State) (r : Reg) (i j : Nat) (c : Nat) :
    (s.warmReg r i j).ctx c = s.ctx c := rfl
@[simp] theorem State.warmReg_part (s : State) (r : Reg) (i j : Nat) (q : Nat) :
    (s.warmReg r i j).part q = s.part q := rfl
@[simp] theorem State.warmReg_port (s : State) (r : Reg) (i j : Nat) (q : Nat) :
    (s.warmReg r i j).port q = s.port q := rfl
@[simp] theorem State.warmReg_byteAt (s : State) (r : Reg) (i j : Nat) (x : Nat) :
    (s.warmReg r i j).byteAt x = s.byteAt x := rfl

/-! ### upBore -/

@[simp] theorem State.upBore_regs (s : State) (b : Nat) (f : Bore → Bore) :
    (s.upBore b f).regs = s.regs := rfl
@[simp] theorem State.upBore_capt (s : State) (b : Nat) (f : Bore → Bore) :
    (s.upBore b f).capt = s.capt := rfl
@[simp] theorem State.upBore_held (s : State) (b : Nat) (f : Bore → Bore) :
    (s.upBore b f).held = s.held := rfl
@[simp] theorem State.upBore_rdata (s : State) (b : Nat) (f : Bore → Bore) :
    (s.upBore b f).rdata = s.rdata := rfl
@[simp] theorem State.upBore_rbytes (s : State) (b : Nat) (f : Bore → Bore) :
    (s.upBore b f).rbytes = s.rbytes := rfl
@[simp] theorem State.upBore_rstat (s : State) (b : Nat) (f : Bore → Bore) :
    (s.upBore b f).rstat = s.rstat := rfl
@[simp] theorem State.upBore_mem (s : State) (b : Nat) (f : Bore → Bore) :
    (s.upBore b f).mem = s.mem := rfl
@[simp] theorem State.upBore_poison (s : State) (b : Nat) (f : Bore → Bore) :
    (s.upBore b f).poison = s.poison := rfl
@[simp] theorem State.upBore_single (s : State) (b : Nat) (f : Bore → Bore) :
    (s.upBore b f).single = s.single := rfl
@[simp] theorem State.upBore_double (s : State) (b : Nat) (f : Bore → Bore) :
    (s.upBore b f).double = s.double := rfl
@[simp] theorem State.upBore_net (s : State) (b : Nat) (f : Bore → Bore) :
    (s.upBore b f).net = s.net := rfl
@[simp] theorem State.upBore_sites (s : State) (b : Nat) (f : Bore → Bore) :
    (s.upBore b f).sites = s.sites := rfl
@[simp] theorem State.upBore_tlb (s : State) (b : Nat) (f : Bore → Bore) :
    (s.upBore b f).tlb = s.tlb := rfl
@[simp] theorem State.upBore_watches (s : State) (b : Nat) (f : Bore → Bore) :
    (s.upBore b f).watches = s.watches := rfl
@[simp] theorem State.upBore_bars (s : State) (b : Nat) (f : Bore → Bore) :
    (s.upBore b f).bars = s.bars := rfl
@[simp] theorem State.upBore_scheds (s : State) (b : Nat) (f : Bore → Bore) :
    (s.upBore b f).scheds = s.scheds := rfl
@[simp] theorem State.upBore_health (s : State) (b : Nat) (f : Bore → Bore) :
    (s.upBore b f).health = s.health := rfl
@[simp] theorem State.upBore_ctxs (s : State) (b : Nat) (f : Bore → Bore) :
    (s.upBore b f).ctxs = s.ctxs := rfl
@[simp] theorem State.upBore_parts (s : State) (b : Nat) (f : Bore → Bore) :
    (s.upBore b f).parts = s.parts := rfl
@[simp] theorem State.upBore_starts (s : State) (b : Nat) (f : Bore → Bore) :
    (s.upBore b f).starts = s.starts := rfl
@[simp] theorem State.upBore_cmds (s : State) (b : Nat) (f : Bore → Bore) :
    (s.upBore b f).cmds = s.cmds := rfl
@[simp] theorem State.upBore_seqno (s : State) (b : Nat) (f : Bore → Bore) :
    (s.upBore b f).seqno = s.seqno := rfl
@[simp] theorem State.upBore_ports (s : State) (b : Nat) (f : Bore → Bore) :
    (s.upBore b f).ports = s.ports := rfl
@[simp] theorem State.upBore_hif (s : State) (b : Nat) (f : Bore → Bore) :
    (s.upBore b f).hif = s.hif := rfl
@[simp] theorem State.upBore_drone (s : State) (b : Nat) (f : Bore → Bore) :
    (s.upBore b f).drone = s.drone := rfl
@[simp] theorem State.upBore_boot (s : State) (b : Nat) (f : Bore → Bore) :
    (s.upBore b f).boot = s.boot := rfl
@[simp] theorem State.upBore_emb (s : State) (b : Nat) (f : Bore → Bore) :
    (s.upBore b f).emb = s.emb := rfl
@[simp] theorem State.upBore_bell (s : State) (b : Nat) (f : Bore → Bore) :
    (s.upBore b f).bell = s.bell := rfl
@[simp] theorem State.upBore_faults (s : State) (b : Nat) (f : Bore → Bore) :
    (s.upBore b f).faults = s.faults := rfl
@[simp] theorem State.upBore_flash (s : State) (b : Nat) (f : Bore → Bore) :
    (s.upBore b f).flash = s.flash := rfl
@[simp] theorem State.upBore_smb (s : State) (b : Nat) (f : Bore → Bore) :
    (s.upBore b f).smb = s.smb := rfl
@[simp] theorem State.upBore_tap (s : State) (b : Nat) (f : Bore → Bore) :
    (s.upBore b f).tap = s.tap := rfl
@[simp] theorem State.upBore_freeCtr (s : State) (b : Nat) (f : Bore → Bore) :
    (s.upBore b f).freeCtr = s.freeCtr := rfl
@[simp] theorem State.upBore_inval (s : State) (b : Nat) (f : Bore → Bore) :
    (s.upBore b f).inval = s.inval := rfl
@[simp] theorem State.upBore_stashOut (s : State) (b : Nat) (f : Bore → Bore) :
    (s.upBore b f).stashOut = s.stashOut := rfl
@[simp] theorem State.upBore_stashIn (s : State) (b : Nat) (f : Bore → Bore) :
    (s.upBore b f).stashIn = s.stashIn := rfl
@[simp] theorem State.upBore_pending (s : State) (b : Nat) (f : Bore → Bore) :
    (s.upBore b f).pending = s.pending := rfl
@[simp] theorem State.upBore_rget (s : State) (b : Nat) (f : Bore → Bore) (r : Reg) (m n : Nat) :
    (s.upBore b f).rget r m n = s.rget r m n := rfl
@[simp] theorem State.upBore_fget (s : State) (b : Nat) (f : Bore → Bore) (g : Field) (m n : Nat) :
    (s.upBore b f).fget g m n = s.fget g m n := rfl
@[simp] theorem State.upBore_flag (s : State) (b : Nat) (f : Bore → Bore) (g : Field) (m n : Nat) :
    (s.upBore b f).flag g m n = s.flag g m n := rfl
@[simp] theorem State.upBore_sched (s : State) (b : Nat) (f : Bore → Bore) (q : Nat) :
    (s.upBore b f).sched q = s.sched q := rfl
@[simp] theorem State.upBore_hset (s : State) (b : Nat) (f : Bore → Bore) (q : Nat) :
    (s.upBore b f).hset q = s.hset q := rfl
@[simp] theorem State.upBore_ctx (s : State) (b : Nat) (f : Bore → Bore) (c : Nat) :
    (s.upBore b f).ctx c = s.ctx c := rfl
@[simp] theorem State.upBore_part (s : State) (b : Nat) (f : Bore → Bore) (q : Nat) :
    (s.upBore b f).part q = s.part q := rfl
@[simp] theorem State.upBore_port (s : State) (b : Nat) (f : Bore → Bore) (q : Nat) :
    (s.upBore b f).port q = s.port q := rfl
@[simp] theorem State.upBore_byteAt (s : State) (b : Nat) (f : Bore → Bore) (x : Nat) :
    (s.upBore b f).byteAt x = s.byteAt x := rfl

/-! ### upCh -/

@[simp] theorem State.upCh_regs (s : State) (b : Nat) (f : Chanter → Chanter) :
    (s.upCh b f).regs = s.regs := rfl
@[simp] theorem State.upCh_capt (s : State) (b : Nat) (f : Chanter → Chanter) :
    (s.upCh b f).capt = s.capt := rfl
@[simp] theorem State.upCh_held (s : State) (b : Nat) (f : Chanter → Chanter) :
    (s.upCh b f).held = s.held := rfl
@[simp] theorem State.upCh_rdata (s : State) (b : Nat) (f : Chanter → Chanter) :
    (s.upCh b f).rdata = s.rdata := rfl
@[simp] theorem State.upCh_rbytes (s : State) (b : Nat) (f : Chanter → Chanter) :
    (s.upCh b f).rbytes = s.rbytes := rfl
@[simp] theorem State.upCh_rstat (s : State) (b : Nat) (f : Chanter → Chanter) :
    (s.upCh b f).rstat = s.rstat := rfl
@[simp] theorem State.upCh_mem (s : State) (b : Nat) (f : Chanter → Chanter) :
    (s.upCh b f).mem = s.mem := rfl
@[simp] theorem State.upCh_poison (s : State) (b : Nat) (f : Chanter → Chanter) :
    (s.upCh b f).poison = s.poison := rfl
@[simp] theorem State.upCh_single (s : State) (b : Nat) (f : Chanter → Chanter) :
    (s.upCh b f).single = s.single := rfl
@[simp] theorem State.upCh_double (s : State) (b : Nat) (f : Chanter → Chanter) :
    (s.upCh b f).double = s.double := rfl
@[simp] theorem State.upCh_net (s : State) (b : Nat) (f : Chanter → Chanter) :
    (s.upCh b f).net = s.net := rfl
@[simp] theorem State.upCh_sites (s : State) (b : Nat) (f : Chanter → Chanter) :
    (s.upCh b f).sites = s.sites := rfl
@[simp] theorem State.upCh_tlb (s : State) (b : Nat) (f : Chanter → Chanter) :
    (s.upCh b f).tlb = s.tlb := rfl
@[simp] theorem State.upCh_watches (s : State) (b : Nat) (f : Chanter → Chanter) :
    (s.upCh b f).watches = s.watches := rfl
@[simp] theorem State.upCh_bars (s : State) (b : Nat) (f : Chanter → Chanter) :
    (s.upCh b f).bars = s.bars := rfl
@[simp] theorem State.upCh_scheds (s : State) (b : Nat) (f : Chanter → Chanter) :
    (s.upCh b f).scheds = s.scheds := rfl
@[simp] theorem State.upCh_health (s : State) (b : Nat) (f : Chanter → Chanter) :
    (s.upCh b f).health = s.health := rfl
@[simp] theorem State.upCh_ctxs (s : State) (b : Nat) (f : Chanter → Chanter) :
    (s.upCh b f).ctxs = s.ctxs := rfl
@[simp] theorem State.upCh_parts (s : State) (b : Nat) (f : Chanter → Chanter) :
    (s.upCh b f).parts = s.parts := rfl
@[simp] theorem State.upCh_starts (s : State) (b : Nat) (f : Chanter → Chanter) :
    (s.upCh b f).starts = s.starts := rfl
@[simp] theorem State.upCh_cmds (s : State) (b : Nat) (f : Chanter → Chanter) :
    (s.upCh b f).cmds = s.cmds := rfl
@[simp] theorem State.upCh_seqno (s : State) (b : Nat) (f : Chanter → Chanter) :
    (s.upCh b f).seqno = s.seqno := rfl
@[simp] theorem State.upCh_ports (s : State) (b : Nat) (f : Chanter → Chanter) :
    (s.upCh b f).ports = s.ports := rfl
@[simp] theorem State.upCh_hif (s : State) (b : Nat) (f : Chanter → Chanter) :
    (s.upCh b f).hif = s.hif := rfl
@[simp] theorem State.upCh_drone (s : State) (b : Nat) (f : Chanter → Chanter) :
    (s.upCh b f).drone = s.drone := rfl
@[simp] theorem State.upCh_boot (s : State) (b : Nat) (f : Chanter → Chanter) :
    (s.upCh b f).boot = s.boot := rfl
@[simp] theorem State.upCh_emb (s : State) (b : Nat) (f : Chanter → Chanter) :
    (s.upCh b f).emb = s.emb := rfl
@[simp] theorem State.upCh_bell (s : State) (b : Nat) (f : Chanter → Chanter) :
    (s.upCh b f).bell = s.bell := rfl
@[simp] theorem State.upCh_faults (s : State) (b : Nat) (f : Chanter → Chanter) :
    (s.upCh b f).faults = s.faults := rfl
@[simp] theorem State.upCh_flash (s : State) (b : Nat) (f : Chanter → Chanter) :
    (s.upCh b f).flash = s.flash := rfl
@[simp] theorem State.upCh_smb (s : State) (b : Nat) (f : Chanter → Chanter) :
    (s.upCh b f).smb = s.smb := rfl
@[simp] theorem State.upCh_tap (s : State) (b : Nat) (f : Chanter → Chanter) :
    (s.upCh b f).tap = s.tap := rfl
@[simp] theorem State.upCh_freeCtr (s : State) (b : Nat) (f : Chanter → Chanter) :
    (s.upCh b f).freeCtr = s.freeCtr := rfl
@[simp] theorem State.upCh_inval (s : State) (b : Nat) (f : Chanter → Chanter) :
    (s.upCh b f).inval = s.inval := rfl
@[simp] theorem State.upCh_stashOut (s : State) (b : Nat) (f : Chanter → Chanter) :
    (s.upCh b f).stashOut = s.stashOut := rfl
@[simp] theorem State.upCh_stashIn (s : State) (b : Nat) (f : Chanter → Chanter) :
    (s.upCh b f).stashIn = s.stashIn := rfl
@[simp] theorem State.upCh_pending (s : State) (b : Nat) (f : Chanter → Chanter) :
    (s.upCh b f).pending = s.pending := rfl
@[simp] theorem State.upCh_rget (s : State) (b : Nat) (f : Chanter → Chanter) (r : Reg) (m n : Nat) :
    (s.upCh b f).rget r m n = s.rget r m n := rfl
@[simp] theorem State.upCh_fget (s : State) (b : Nat) (f : Chanter → Chanter) (g : Field) (m n : Nat) :
    (s.upCh b f).fget g m n = s.fget g m n := rfl
@[simp] theorem State.upCh_flag (s : State) (b : Nat) (f : Chanter → Chanter) (g : Field) (m n : Nat) :
    (s.upCh b f).flag g m n = s.flag g m n := rfl
@[simp] theorem State.upCh_sched (s : State) (b : Nat) (f : Chanter → Chanter) (q : Nat) :
    (s.upCh b f).sched q = s.sched q := rfl
@[simp] theorem State.upCh_hset (s : State) (b : Nat) (f : Chanter → Chanter) (q : Nat) :
    (s.upCh b f).hset q = s.hset q := rfl
@[simp] theorem State.upCh_ctx (s : State) (b : Nat) (f : Chanter → Chanter) (c : Nat) :
    (s.upCh b f).ctx c = s.ctx c := rfl
@[simp] theorem State.upCh_part (s : State) (b : Nat) (f : Chanter → Chanter) (q : Nat) :
    (s.upCh b f).part q = s.part q := rfl
@[simp] theorem State.upCh_port (s : State) (b : Nat) (f : Chanter → Chanter) (q : Nat) :
    (s.upCh b f).port q = s.port q := rfl
@[simp] theorem State.upCh_byteAt (s : State) (b : Nat) (f : Chanter → Chanter) (x : Nat) :
    (s.upCh b f).byteAt x = s.byteAt x := rfl

/-! ### upArr -/

@[simp] theorem State.upArr_regs (s : State) (b : Nat) (f : MatArray → MatArray) :
    (s.upArr b f).regs = s.regs := rfl
@[simp] theorem State.upArr_capt (s : State) (b : Nat) (f : MatArray → MatArray) :
    (s.upArr b f).capt = s.capt := rfl
@[simp] theorem State.upArr_held (s : State) (b : Nat) (f : MatArray → MatArray) :
    (s.upArr b f).held = s.held := rfl
@[simp] theorem State.upArr_rdata (s : State) (b : Nat) (f : MatArray → MatArray) :
    (s.upArr b f).rdata = s.rdata := rfl
@[simp] theorem State.upArr_rbytes (s : State) (b : Nat) (f : MatArray → MatArray) :
    (s.upArr b f).rbytes = s.rbytes := rfl
@[simp] theorem State.upArr_rstat (s : State) (b : Nat) (f : MatArray → MatArray) :
    (s.upArr b f).rstat = s.rstat := rfl
@[simp] theorem State.upArr_mem (s : State) (b : Nat) (f : MatArray → MatArray) :
    (s.upArr b f).mem = s.mem := rfl
@[simp] theorem State.upArr_poison (s : State) (b : Nat) (f : MatArray → MatArray) :
    (s.upArr b f).poison = s.poison := rfl
@[simp] theorem State.upArr_single (s : State) (b : Nat) (f : MatArray → MatArray) :
    (s.upArr b f).single = s.single := rfl
@[simp] theorem State.upArr_double (s : State) (b : Nat) (f : MatArray → MatArray) :
    (s.upArr b f).double = s.double := rfl
@[simp] theorem State.upArr_net (s : State) (b : Nat) (f : MatArray → MatArray) :
    (s.upArr b f).net = s.net := rfl
@[simp] theorem State.upArr_sites (s : State) (b : Nat) (f : MatArray → MatArray) :
    (s.upArr b f).sites = s.sites := rfl
@[simp] theorem State.upArr_tlb (s : State) (b : Nat) (f : MatArray → MatArray) :
    (s.upArr b f).tlb = s.tlb := rfl
@[simp] theorem State.upArr_watches (s : State) (b : Nat) (f : MatArray → MatArray) :
    (s.upArr b f).watches = s.watches := rfl
@[simp] theorem State.upArr_bars (s : State) (b : Nat) (f : MatArray → MatArray) :
    (s.upArr b f).bars = s.bars := rfl
@[simp] theorem State.upArr_scheds (s : State) (b : Nat) (f : MatArray → MatArray) :
    (s.upArr b f).scheds = s.scheds := rfl
@[simp] theorem State.upArr_health (s : State) (b : Nat) (f : MatArray → MatArray) :
    (s.upArr b f).health = s.health := rfl
@[simp] theorem State.upArr_ctxs (s : State) (b : Nat) (f : MatArray → MatArray) :
    (s.upArr b f).ctxs = s.ctxs := rfl
@[simp] theorem State.upArr_parts (s : State) (b : Nat) (f : MatArray → MatArray) :
    (s.upArr b f).parts = s.parts := rfl
@[simp] theorem State.upArr_starts (s : State) (b : Nat) (f : MatArray → MatArray) :
    (s.upArr b f).starts = s.starts := rfl
@[simp] theorem State.upArr_cmds (s : State) (b : Nat) (f : MatArray → MatArray) :
    (s.upArr b f).cmds = s.cmds := rfl
@[simp] theorem State.upArr_seqno (s : State) (b : Nat) (f : MatArray → MatArray) :
    (s.upArr b f).seqno = s.seqno := rfl
@[simp] theorem State.upArr_ports (s : State) (b : Nat) (f : MatArray → MatArray) :
    (s.upArr b f).ports = s.ports := rfl
@[simp] theorem State.upArr_hif (s : State) (b : Nat) (f : MatArray → MatArray) :
    (s.upArr b f).hif = s.hif := rfl
@[simp] theorem State.upArr_drone (s : State) (b : Nat) (f : MatArray → MatArray) :
    (s.upArr b f).drone = s.drone := rfl
@[simp] theorem State.upArr_boot (s : State) (b : Nat) (f : MatArray → MatArray) :
    (s.upArr b f).boot = s.boot := rfl
@[simp] theorem State.upArr_emb (s : State) (b : Nat) (f : MatArray → MatArray) :
    (s.upArr b f).emb = s.emb := rfl
@[simp] theorem State.upArr_bell (s : State) (b : Nat) (f : MatArray → MatArray) :
    (s.upArr b f).bell = s.bell := rfl
@[simp] theorem State.upArr_faults (s : State) (b : Nat) (f : MatArray → MatArray) :
    (s.upArr b f).faults = s.faults := rfl
@[simp] theorem State.upArr_flash (s : State) (b : Nat) (f : MatArray → MatArray) :
    (s.upArr b f).flash = s.flash := rfl
@[simp] theorem State.upArr_smb (s : State) (b : Nat) (f : MatArray → MatArray) :
    (s.upArr b f).smb = s.smb := rfl
@[simp] theorem State.upArr_tap (s : State) (b : Nat) (f : MatArray → MatArray) :
    (s.upArr b f).tap = s.tap := rfl
@[simp] theorem State.upArr_freeCtr (s : State) (b : Nat) (f : MatArray → MatArray) :
    (s.upArr b f).freeCtr = s.freeCtr := rfl
@[simp] theorem State.upArr_inval (s : State) (b : Nat) (f : MatArray → MatArray) :
    (s.upArr b f).inval = s.inval := rfl
@[simp] theorem State.upArr_stashOut (s : State) (b : Nat) (f : MatArray → MatArray) :
    (s.upArr b f).stashOut = s.stashOut := rfl
@[simp] theorem State.upArr_stashIn (s : State) (b : Nat) (f : MatArray → MatArray) :
    (s.upArr b f).stashIn = s.stashIn := rfl
@[simp] theorem State.upArr_pending (s : State) (b : Nat) (f : MatArray → MatArray) :
    (s.upArr b f).pending = s.pending := rfl
@[simp] theorem State.upArr_rget (s : State) (b : Nat) (f : MatArray → MatArray) (r : Reg) (m n : Nat) :
    (s.upArr b f).rget r m n = s.rget r m n := rfl
@[simp] theorem State.upArr_fget (s : State) (b : Nat) (f : MatArray → MatArray) (g : Field) (m n : Nat) :
    (s.upArr b f).fget g m n = s.fget g m n := rfl
@[simp] theorem State.upArr_flag (s : State) (b : Nat) (f : MatArray → MatArray) (g : Field) (m n : Nat) :
    (s.upArr b f).flag g m n = s.flag g m n := rfl
@[simp] theorem State.upArr_sched (s : State) (b : Nat) (f : MatArray → MatArray) (q : Nat) :
    (s.upArr b f).sched q = s.sched q := rfl
@[simp] theorem State.upArr_hset (s : State) (b : Nat) (f : MatArray → MatArray) (q : Nat) :
    (s.upArr b f).hset q = s.hset q := rfl
@[simp] theorem State.upArr_ctx (s : State) (b : Nat) (f : MatArray → MatArray) (c : Nat) :
    (s.upArr b f).ctx c = s.ctx c := rfl
@[simp] theorem State.upArr_part (s : State) (b : Nat) (f : MatArray → MatArray) (q : Nat) :
    (s.upArr b f).part q = s.part q := rfl
@[simp] theorem State.upArr_port (s : State) (b : Nat) (f : MatArray → MatArray) (q : Nat) :
    (s.upArr b f).port q = s.port q := rfl
@[simp] theorem State.upArr_byteAt (s : State) (b : Nat) (f : MatArray → MatArray) (x : Nat) :
    (s.upArr b f).byteAt x = s.byteAt x := rfl

/-! ### upLig -/

@[simp] theorem State.upLig_regs (s : State) (b : Nat) (f : Lig → Lig) :
    (s.upLig b f).regs = s.regs := rfl
@[simp] theorem State.upLig_capt (s : State) (b : Nat) (f : Lig → Lig) :
    (s.upLig b f).capt = s.capt := rfl
@[simp] theorem State.upLig_held (s : State) (b : Nat) (f : Lig → Lig) :
    (s.upLig b f).held = s.held := rfl
@[simp] theorem State.upLig_rdata (s : State) (b : Nat) (f : Lig → Lig) :
    (s.upLig b f).rdata = s.rdata := rfl
@[simp] theorem State.upLig_rbytes (s : State) (b : Nat) (f : Lig → Lig) :
    (s.upLig b f).rbytes = s.rbytes := rfl
@[simp] theorem State.upLig_rstat (s : State) (b : Nat) (f : Lig → Lig) :
    (s.upLig b f).rstat = s.rstat := rfl
@[simp] theorem State.upLig_mem (s : State) (b : Nat) (f : Lig → Lig) :
    (s.upLig b f).mem = s.mem := rfl
@[simp] theorem State.upLig_poison (s : State) (b : Nat) (f : Lig → Lig) :
    (s.upLig b f).poison = s.poison := rfl
@[simp] theorem State.upLig_single (s : State) (b : Nat) (f : Lig → Lig) :
    (s.upLig b f).single = s.single := rfl
@[simp] theorem State.upLig_double (s : State) (b : Nat) (f : Lig → Lig) :
    (s.upLig b f).double = s.double := rfl
@[simp] theorem State.upLig_net (s : State) (b : Nat) (f : Lig → Lig) :
    (s.upLig b f).net = s.net := rfl
@[simp] theorem State.upLig_sites (s : State) (b : Nat) (f : Lig → Lig) :
    (s.upLig b f).sites = s.sites := rfl
@[simp] theorem State.upLig_tlb (s : State) (b : Nat) (f : Lig → Lig) :
    (s.upLig b f).tlb = s.tlb := rfl
@[simp] theorem State.upLig_watches (s : State) (b : Nat) (f : Lig → Lig) :
    (s.upLig b f).watches = s.watches := rfl
@[simp] theorem State.upLig_bars (s : State) (b : Nat) (f : Lig → Lig) :
    (s.upLig b f).bars = s.bars := rfl
@[simp] theorem State.upLig_scheds (s : State) (b : Nat) (f : Lig → Lig) :
    (s.upLig b f).scheds = s.scheds := rfl
@[simp] theorem State.upLig_health (s : State) (b : Nat) (f : Lig → Lig) :
    (s.upLig b f).health = s.health := rfl
@[simp] theorem State.upLig_ctxs (s : State) (b : Nat) (f : Lig → Lig) :
    (s.upLig b f).ctxs = s.ctxs := rfl
@[simp] theorem State.upLig_parts (s : State) (b : Nat) (f : Lig → Lig) :
    (s.upLig b f).parts = s.parts := rfl
@[simp] theorem State.upLig_starts (s : State) (b : Nat) (f : Lig → Lig) :
    (s.upLig b f).starts = s.starts := rfl
@[simp] theorem State.upLig_cmds (s : State) (b : Nat) (f : Lig → Lig) :
    (s.upLig b f).cmds = s.cmds := rfl
@[simp] theorem State.upLig_seqno (s : State) (b : Nat) (f : Lig → Lig) :
    (s.upLig b f).seqno = s.seqno := rfl
@[simp] theorem State.upLig_ports (s : State) (b : Nat) (f : Lig → Lig) :
    (s.upLig b f).ports = s.ports := rfl
@[simp] theorem State.upLig_hif (s : State) (b : Nat) (f : Lig → Lig) :
    (s.upLig b f).hif = s.hif := rfl
@[simp] theorem State.upLig_drone (s : State) (b : Nat) (f : Lig → Lig) :
    (s.upLig b f).drone = s.drone := rfl
@[simp] theorem State.upLig_boot (s : State) (b : Nat) (f : Lig → Lig) :
    (s.upLig b f).boot = s.boot := rfl
@[simp] theorem State.upLig_emb (s : State) (b : Nat) (f : Lig → Lig) :
    (s.upLig b f).emb = s.emb := rfl
@[simp] theorem State.upLig_bell (s : State) (b : Nat) (f : Lig → Lig) :
    (s.upLig b f).bell = s.bell := rfl
@[simp] theorem State.upLig_faults (s : State) (b : Nat) (f : Lig → Lig) :
    (s.upLig b f).faults = s.faults := rfl
@[simp] theorem State.upLig_flash (s : State) (b : Nat) (f : Lig → Lig) :
    (s.upLig b f).flash = s.flash := rfl
@[simp] theorem State.upLig_smb (s : State) (b : Nat) (f : Lig → Lig) :
    (s.upLig b f).smb = s.smb := rfl
@[simp] theorem State.upLig_tap (s : State) (b : Nat) (f : Lig → Lig) :
    (s.upLig b f).tap = s.tap := rfl
@[simp] theorem State.upLig_freeCtr (s : State) (b : Nat) (f : Lig → Lig) :
    (s.upLig b f).freeCtr = s.freeCtr := rfl
@[simp] theorem State.upLig_inval (s : State) (b : Nat) (f : Lig → Lig) :
    (s.upLig b f).inval = s.inval := rfl
@[simp] theorem State.upLig_stashOut (s : State) (b : Nat) (f : Lig → Lig) :
    (s.upLig b f).stashOut = s.stashOut := rfl
@[simp] theorem State.upLig_stashIn (s : State) (b : Nat) (f : Lig → Lig) :
    (s.upLig b f).stashIn = s.stashIn := rfl
@[simp] theorem State.upLig_pending (s : State) (b : Nat) (f : Lig → Lig) :
    (s.upLig b f).pending = s.pending := rfl
@[simp] theorem State.upLig_rget (s : State) (b : Nat) (f : Lig → Lig) (r : Reg) (m n : Nat) :
    (s.upLig b f).rget r m n = s.rget r m n := rfl
@[simp] theorem State.upLig_fget (s : State) (b : Nat) (f : Lig → Lig) (g : Field) (m n : Nat) :
    (s.upLig b f).fget g m n = s.fget g m n := rfl
@[simp] theorem State.upLig_flag (s : State) (b : Nat) (f : Lig → Lig) (g : Field) (m n : Nat) :
    (s.upLig b f).flag g m n = s.flag g m n := rfl
@[simp] theorem State.upLig_sched (s : State) (b : Nat) (f : Lig → Lig) (q : Nat) :
    (s.upLig b f).sched q = s.sched q := rfl
@[simp] theorem State.upLig_hset (s : State) (b : Nat) (f : Lig → Lig) (q : Nat) :
    (s.upLig b f).hset q = s.hset q := rfl
@[simp] theorem State.upLig_ctx (s : State) (b : Nat) (f : Lig → Lig) (c : Nat) :
    (s.upLig b f).ctx c = s.ctx c := rfl
@[simp] theorem State.upLig_part (s : State) (b : Nat) (f : Lig → Lig) (q : Nat) :
    (s.upLig b f).part q = s.part q := rfl
@[simp] theorem State.upLig_port (s : State) (b : Nat) (f : Lig → Lig) (q : Nat) :
    (s.upLig b f).port q = s.port q := rfl
@[simp] theorem State.upLig_byteAt (s : State) (b : Nat) (f : Lig → Lig) (x : Nat) :
    (s.upLig b f).byteAt x = s.byteAt x := rfl

/-! ### upVest -/

@[simp] theorem State.upVest_regs (s : State) (b : Nat) (f : Vestibule → Vestibule) :
    (s.upVest b f).regs = s.regs := rfl
@[simp] theorem State.upVest_capt (s : State) (b : Nat) (f : Vestibule → Vestibule) :
    (s.upVest b f).capt = s.capt := rfl
@[simp] theorem State.upVest_held (s : State) (b : Nat) (f : Vestibule → Vestibule) :
    (s.upVest b f).held = s.held := rfl
@[simp] theorem State.upVest_rdata (s : State) (b : Nat) (f : Vestibule → Vestibule) :
    (s.upVest b f).rdata = s.rdata := rfl
@[simp] theorem State.upVest_rbytes (s : State) (b : Nat) (f : Vestibule → Vestibule) :
    (s.upVest b f).rbytes = s.rbytes := rfl
@[simp] theorem State.upVest_rstat (s : State) (b : Nat) (f : Vestibule → Vestibule) :
    (s.upVest b f).rstat = s.rstat := rfl
@[simp] theorem State.upVest_mem (s : State) (b : Nat) (f : Vestibule → Vestibule) :
    (s.upVest b f).mem = s.mem := rfl
@[simp] theorem State.upVest_poison (s : State) (b : Nat) (f : Vestibule → Vestibule) :
    (s.upVest b f).poison = s.poison := rfl
@[simp] theorem State.upVest_single (s : State) (b : Nat) (f : Vestibule → Vestibule) :
    (s.upVest b f).single = s.single := rfl
@[simp] theorem State.upVest_double (s : State) (b : Nat) (f : Vestibule → Vestibule) :
    (s.upVest b f).double = s.double := rfl
@[simp] theorem State.upVest_net (s : State) (b : Nat) (f : Vestibule → Vestibule) :
    (s.upVest b f).net = s.net := rfl
@[simp] theorem State.upVest_sites (s : State) (b : Nat) (f : Vestibule → Vestibule) :
    (s.upVest b f).sites = s.sites := rfl
@[simp] theorem State.upVest_tlb (s : State) (b : Nat) (f : Vestibule → Vestibule) :
    (s.upVest b f).tlb = s.tlb := rfl
@[simp] theorem State.upVest_watches (s : State) (b : Nat) (f : Vestibule → Vestibule) :
    (s.upVest b f).watches = s.watches := rfl
@[simp] theorem State.upVest_bars (s : State) (b : Nat) (f : Vestibule → Vestibule) :
    (s.upVest b f).bars = s.bars := rfl
@[simp] theorem State.upVest_scheds (s : State) (b : Nat) (f : Vestibule → Vestibule) :
    (s.upVest b f).scheds = s.scheds := rfl
@[simp] theorem State.upVest_health (s : State) (b : Nat) (f : Vestibule → Vestibule) :
    (s.upVest b f).health = s.health := rfl
@[simp] theorem State.upVest_ctxs (s : State) (b : Nat) (f : Vestibule → Vestibule) :
    (s.upVest b f).ctxs = s.ctxs := rfl
@[simp] theorem State.upVest_parts (s : State) (b : Nat) (f : Vestibule → Vestibule) :
    (s.upVest b f).parts = s.parts := rfl
@[simp] theorem State.upVest_starts (s : State) (b : Nat) (f : Vestibule → Vestibule) :
    (s.upVest b f).starts = s.starts := rfl
@[simp] theorem State.upVest_cmds (s : State) (b : Nat) (f : Vestibule → Vestibule) :
    (s.upVest b f).cmds = s.cmds := rfl
@[simp] theorem State.upVest_seqno (s : State) (b : Nat) (f : Vestibule → Vestibule) :
    (s.upVest b f).seqno = s.seqno := rfl
@[simp] theorem State.upVest_ports (s : State) (b : Nat) (f : Vestibule → Vestibule) :
    (s.upVest b f).ports = s.ports := rfl
@[simp] theorem State.upVest_hif (s : State) (b : Nat) (f : Vestibule → Vestibule) :
    (s.upVest b f).hif = s.hif := rfl
@[simp] theorem State.upVest_drone (s : State) (b : Nat) (f : Vestibule → Vestibule) :
    (s.upVest b f).drone = s.drone := rfl
@[simp] theorem State.upVest_boot (s : State) (b : Nat) (f : Vestibule → Vestibule) :
    (s.upVest b f).boot = s.boot := rfl
@[simp] theorem State.upVest_emb (s : State) (b : Nat) (f : Vestibule → Vestibule) :
    (s.upVest b f).emb = s.emb := rfl
@[simp] theorem State.upVest_bell (s : State) (b : Nat) (f : Vestibule → Vestibule) :
    (s.upVest b f).bell = s.bell := rfl
@[simp] theorem State.upVest_faults (s : State) (b : Nat) (f : Vestibule → Vestibule) :
    (s.upVest b f).faults = s.faults := rfl
@[simp] theorem State.upVest_flash (s : State) (b : Nat) (f : Vestibule → Vestibule) :
    (s.upVest b f).flash = s.flash := rfl
@[simp] theorem State.upVest_smb (s : State) (b : Nat) (f : Vestibule → Vestibule) :
    (s.upVest b f).smb = s.smb := rfl
@[simp] theorem State.upVest_tap (s : State) (b : Nat) (f : Vestibule → Vestibule) :
    (s.upVest b f).tap = s.tap := rfl
@[simp] theorem State.upVest_freeCtr (s : State) (b : Nat) (f : Vestibule → Vestibule) :
    (s.upVest b f).freeCtr = s.freeCtr := rfl
@[simp] theorem State.upVest_inval (s : State) (b : Nat) (f : Vestibule → Vestibule) :
    (s.upVest b f).inval = s.inval := rfl
@[simp] theorem State.upVest_stashOut (s : State) (b : Nat) (f : Vestibule → Vestibule) :
    (s.upVest b f).stashOut = s.stashOut := rfl
@[simp] theorem State.upVest_stashIn (s : State) (b : Nat) (f : Vestibule → Vestibule) :
    (s.upVest b f).stashIn = s.stashIn := rfl
@[simp] theorem State.upVest_pending (s : State) (b : Nat) (f : Vestibule → Vestibule) :
    (s.upVest b f).pending = s.pending := rfl
@[simp] theorem State.upVest_rget (s : State) (b : Nat) (f : Vestibule → Vestibule) (r : Reg) (m n : Nat) :
    (s.upVest b f).rget r m n = s.rget r m n := rfl
@[simp] theorem State.upVest_fget (s : State) (b : Nat) (f : Vestibule → Vestibule) (g : Field) (m n : Nat) :
    (s.upVest b f).fget g m n = s.fget g m n := rfl
@[simp] theorem State.upVest_flag (s : State) (b : Nat) (f : Vestibule → Vestibule) (g : Field) (m n : Nat) :
    (s.upVest b f).flag g m n = s.flag g m n := rfl
@[simp] theorem State.upVest_sched (s : State) (b : Nat) (f : Vestibule → Vestibule) (q : Nat) :
    (s.upVest b f).sched q = s.sched q := rfl
@[simp] theorem State.upVest_hset (s : State) (b : Nat) (f : Vestibule → Vestibule) (q : Nat) :
    (s.upVest b f).hset q = s.hset q := rfl
@[simp] theorem State.upVest_ctx (s : State) (b : Nat) (f : Vestibule → Vestibule) (c : Nat) :
    (s.upVest b f).ctx c = s.ctx c := rfl
@[simp] theorem State.upVest_part (s : State) (b : Nat) (f : Vestibule → Vestibule) (q : Nat) :
    (s.upVest b f).part q = s.part q := rfl
@[simp] theorem State.upVest_port (s : State) (b : Nat) (f : Vestibule → Vestibule) (q : Nat) :
    (s.upVest b f).port q = s.port q := rfl
@[simp] theorem State.upVest_byteAt (s : State) (b : Nat) (f : Vestibule → Vestibule) (x : Nat) :
    (s.upVest b f).byteAt x = s.byteAt x := rfl

/-! ### upPower -/

@[simp] theorem State.upPower_regs (s : State) (b : Nat) (f : Power → Power) :
    (s.upPower b f).regs = s.regs := rfl
@[simp] theorem State.upPower_capt (s : State) (b : Nat) (f : Power → Power) :
    (s.upPower b f).capt = s.capt := rfl
@[simp] theorem State.upPower_held (s : State) (b : Nat) (f : Power → Power) :
    (s.upPower b f).held = s.held := rfl
@[simp] theorem State.upPower_rdata (s : State) (b : Nat) (f : Power → Power) :
    (s.upPower b f).rdata = s.rdata := rfl
@[simp] theorem State.upPower_rbytes (s : State) (b : Nat) (f : Power → Power) :
    (s.upPower b f).rbytes = s.rbytes := rfl
@[simp] theorem State.upPower_rstat (s : State) (b : Nat) (f : Power → Power) :
    (s.upPower b f).rstat = s.rstat := rfl
@[simp] theorem State.upPower_mem (s : State) (b : Nat) (f : Power → Power) :
    (s.upPower b f).mem = s.mem := rfl
@[simp] theorem State.upPower_poison (s : State) (b : Nat) (f : Power → Power) :
    (s.upPower b f).poison = s.poison := rfl
@[simp] theorem State.upPower_single (s : State) (b : Nat) (f : Power → Power) :
    (s.upPower b f).single = s.single := rfl
@[simp] theorem State.upPower_double (s : State) (b : Nat) (f : Power → Power) :
    (s.upPower b f).double = s.double := rfl
@[simp] theorem State.upPower_net (s : State) (b : Nat) (f : Power → Power) :
    (s.upPower b f).net = s.net := rfl
@[simp] theorem State.upPower_sites (s : State) (b : Nat) (f : Power → Power) :
    (s.upPower b f).sites = s.sites := rfl
@[simp] theorem State.upPower_tlb (s : State) (b : Nat) (f : Power → Power) :
    (s.upPower b f).tlb = s.tlb := rfl
@[simp] theorem State.upPower_watches (s : State) (b : Nat) (f : Power → Power) :
    (s.upPower b f).watches = s.watches := rfl
@[simp] theorem State.upPower_bars (s : State) (b : Nat) (f : Power → Power) :
    (s.upPower b f).bars = s.bars := rfl
@[simp] theorem State.upPower_scheds (s : State) (b : Nat) (f : Power → Power) :
    (s.upPower b f).scheds = s.scheds := rfl
@[simp] theorem State.upPower_health (s : State) (b : Nat) (f : Power → Power) :
    (s.upPower b f).health = s.health := rfl
@[simp] theorem State.upPower_ctxs (s : State) (b : Nat) (f : Power → Power) :
    (s.upPower b f).ctxs = s.ctxs := rfl
@[simp] theorem State.upPower_parts (s : State) (b : Nat) (f : Power → Power) :
    (s.upPower b f).parts = s.parts := rfl
@[simp] theorem State.upPower_starts (s : State) (b : Nat) (f : Power → Power) :
    (s.upPower b f).starts = s.starts := rfl
@[simp] theorem State.upPower_cmds (s : State) (b : Nat) (f : Power → Power) :
    (s.upPower b f).cmds = s.cmds := rfl
@[simp] theorem State.upPower_seqno (s : State) (b : Nat) (f : Power → Power) :
    (s.upPower b f).seqno = s.seqno := rfl
@[simp] theorem State.upPower_ports (s : State) (b : Nat) (f : Power → Power) :
    (s.upPower b f).ports = s.ports := rfl
@[simp] theorem State.upPower_hif (s : State) (b : Nat) (f : Power → Power) :
    (s.upPower b f).hif = s.hif := rfl
@[simp] theorem State.upPower_drone (s : State) (b : Nat) (f : Power → Power) :
    (s.upPower b f).drone = s.drone := rfl
@[simp] theorem State.upPower_boot (s : State) (b : Nat) (f : Power → Power) :
    (s.upPower b f).boot = s.boot := rfl
@[simp] theorem State.upPower_emb (s : State) (b : Nat) (f : Power → Power) :
    (s.upPower b f).emb = s.emb := rfl
@[simp] theorem State.upPower_bell (s : State) (b : Nat) (f : Power → Power) :
    (s.upPower b f).bell = s.bell := rfl
@[simp] theorem State.upPower_faults (s : State) (b : Nat) (f : Power → Power) :
    (s.upPower b f).faults = s.faults := rfl
@[simp] theorem State.upPower_flash (s : State) (b : Nat) (f : Power → Power) :
    (s.upPower b f).flash = s.flash := rfl
@[simp] theorem State.upPower_smb (s : State) (b : Nat) (f : Power → Power) :
    (s.upPower b f).smb = s.smb := rfl
@[simp] theorem State.upPower_tap (s : State) (b : Nat) (f : Power → Power) :
    (s.upPower b f).tap = s.tap := rfl
@[simp] theorem State.upPower_freeCtr (s : State) (b : Nat) (f : Power → Power) :
    (s.upPower b f).freeCtr = s.freeCtr := rfl
@[simp] theorem State.upPower_inval (s : State) (b : Nat) (f : Power → Power) :
    (s.upPower b f).inval = s.inval := rfl
@[simp] theorem State.upPower_stashOut (s : State) (b : Nat) (f : Power → Power) :
    (s.upPower b f).stashOut = s.stashOut := rfl
@[simp] theorem State.upPower_stashIn (s : State) (b : Nat) (f : Power → Power) :
    (s.upPower b f).stashIn = s.stashIn := rfl
@[simp] theorem State.upPower_pending (s : State) (b : Nat) (f : Power → Power) :
    (s.upPower b f).pending = s.pending := rfl
@[simp] theorem State.upPower_rget (s : State) (b : Nat) (f : Power → Power) (r : Reg) (m n : Nat) :
    (s.upPower b f).rget r m n = s.rget r m n := rfl
@[simp] theorem State.upPower_fget (s : State) (b : Nat) (f : Power → Power) (g : Field) (m n : Nat) :
    (s.upPower b f).fget g m n = s.fget g m n := rfl
@[simp] theorem State.upPower_flag (s : State) (b : Nat) (f : Power → Power) (g : Field) (m n : Nat) :
    (s.upPower b f).flag g m n = s.flag g m n := rfl
@[simp] theorem State.upPower_sched (s : State) (b : Nat) (f : Power → Power) (q : Nat) :
    (s.upPower b f).sched q = s.sched q := rfl
@[simp] theorem State.upPower_hset (s : State) (b : Nat) (f : Power → Power) (q : Nat) :
    (s.upPower b f).hset q = s.hset q := rfl
@[simp] theorem State.upPower_ctx (s : State) (b : Nat) (f : Power → Power) (c : Nat) :
    (s.upPower b f).ctx c = s.ctx c := rfl
@[simp] theorem State.upPower_part (s : State) (b : Nat) (f : Power → Power) (q : Nat) :
    (s.upPower b f).part q = s.part q := rfl
@[simp] theorem State.upPower_port (s : State) (b : Nat) (f : Power → Power) (q : Nat) :
    (s.upPower b f).port q = s.port q := rfl
@[simp] theorem State.upPower_byteAt (s : State) (b : Nat) (f : Power → Power) (x : Nat) :
    (s.upPower b f).byteAt x = s.byteAt x := rfl

/-! ### upRank -/

@[simp] theorem State.upRank_regs (s : State) (b r : Nat) (f : Rank → Rank) :
    (s.upRank b r f).regs = s.regs := rfl
@[simp] theorem State.upRank_capt (s : State) (b r : Nat) (f : Rank → Rank) :
    (s.upRank b r f).capt = s.capt := rfl
@[simp] theorem State.upRank_held (s : State) (b r : Nat) (f : Rank → Rank) :
    (s.upRank b r f).held = s.held := rfl
@[simp] theorem State.upRank_rdata (s : State) (b r : Nat) (f : Rank → Rank) :
    (s.upRank b r f).rdata = s.rdata := rfl
@[simp] theorem State.upRank_rbytes (s : State) (b r : Nat) (f : Rank → Rank) :
    (s.upRank b r f).rbytes = s.rbytes := rfl
@[simp] theorem State.upRank_rstat (s : State) (b r : Nat) (f : Rank → Rank) :
    (s.upRank b r f).rstat = s.rstat := rfl
@[simp] theorem State.upRank_mem (s : State) (b r : Nat) (f : Rank → Rank) :
    (s.upRank b r f).mem = s.mem := rfl
@[simp] theorem State.upRank_poison (s : State) (b r : Nat) (f : Rank → Rank) :
    (s.upRank b r f).poison = s.poison := rfl
@[simp] theorem State.upRank_single (s : State) (b r : Nat) (f : Rank → Rank) :
    (s.upRank b r f).single = s.single := rfl
@[simp] theorem State.upRank_double (s : State) (b r : Nat) (f : Rank → Rank) :
    (s.upRank b r f).double = s.double := rfl
@[simp] theorem State.upRank_net (s : State) (b r : Nat) (f : Rank → Rank) :
    (s.upRank b r f).net = s.net := rfl
@[simp] theorem State.upRank_sites (s : State) (b r : Nat) (f : Rank → Rank) :
    (s.upRank b r f).sites = s.sites := rfl
@[simp] theorem State.upRank_tlb (s : State) (b r : Nat) (f : Rank → Rank) :
    (s.upRank b r f).tlb = s.tlb := rfl
@[simp] theorem State.upRank_watches (s : State) (b r : Nat) (f : Rank → Rank) :
    (s.upRank b r f).watches = s.watches := rfl
@[simp] theorem State.upRank_bars (s : State) (b r : Nat) (f : Rank → Rank) :
    (s.upRank b r f).bars = s.bars := rfl
@[simp] theorem State.upRank_scheds (s : State) (b r : Nat) (f : Rank → Rank) :
    (s.upRank b r f).scheds = s.scheds := rfl
@[simp] theorem State.upRank_health (s : State) (b r : Nat) (f : Rank → Rank) :
    (s.upRank b r f).health = s.health := rfl
@[simp] theorem State.upRank_ctxs (s : State) (b r : Nat) (f : Rank → Rank) :
    (s.upRank b r f).ctxs = s.ctxs := rfl
@[simp] theorem State.upRank_parts (s : State) (b r : Nat) (f : Rank → Rank) :
    (s.upRank b r f).parts = s.parts := rfl
@[simp] theorem State.upRank_starts (s : State) (b r : Nat) (f : Rank → Rank) :
    (s.upRank b r f).starts = s.starts := rfl
@[simp] theorem State.upRank_cmds (s : State) (b r : Nat) (f : Rank → Rank) :
    (s.upRank b r f).cmds = s.cmds := rfl
@[simp] theorem State.upRank_seqno (s : State) (b r : Nat) (f : Rank → Rank) :
    (s.upRank b r f).seqno = s.seqno := rfl
@[simp] theorem State.upRank_ports (s : State) (b r : Nat) (f : Rank → Rank) :
    (s.upRank b r f).ports = s.ports := rfl
@[simp] theorem State.upRank_hif (s : State) (b r : Nat) (f : Rank → Rank) :
    (s.upRank b r f).hif = s.hif := rfl
@[simp] theorem State.upRank_drone (s : State) (b r : Nat) (f : Rank → Rank) :
    (s.upRank b r f).drone = s.drone := rfl
@[simp] theorem State.upRank_boot (s : State) (b r : Nat) (f : Rank → Rank) :
    (s.upRank b r f).boot = s.boot := rfl
@[simp] theorem State.upRank_emb (s : State) (b r : Nat) (f : Rank → Rank) :
    (s.upRank b r f).emb = s.emb := rfl
@[simp] theorem State.upRank_bell (s : State) (b r : Nat) (f : Rank → Rank) :
    (s.upRank b r f).bell = s.bell := rfl
@[simp] theorem State.upRank_faults (s : State) (b r : Nat) (f : Rank → Rank) :
    (s.upRank b r f).faults = s.faults := rfl
@[simp] theorem State.upRank_flash (s : State) (b r : Nat) (f : Rank → Rank) :
    (s.upRank b r f).flash = s.flash := rfl
@[simp] theorem State.upRank_smb (s : State) (b r : Nat) (f : Rank → Rank) :
    (s.upRank b r f).smb = s.smb := rfl
@[simp] theorem State.upRank_tap (s : State) (b r : Nat) (f : Rank → Rank) :
    (s.upRank b r f).tap = s.tap := rfl
@[simp] theorem State.upRank_freeCtr (s : State) (b r : Nat) (f : Rank → Rank) :
    (s.upRank b r f).freeCtr = s.freeCtr := rfl
@[simp] theorem State.upRank_inval (s : State) (b r : Nat) (f : Rank → Rank) :
    (s.upRank b r f).inval = s.inval := rfl
@[simp] theorem State.upRank_stashOut (s : State) (b r : Nat) (f : Rank → Rank) :
    (s.upRank b r f).stashOut = s.stashOut := rfl
@[simp] theorem State.upRank_stashIn (s : State) (b r : Nat) (f : Rank → Rank) :
    (s.upRank b r f).stashIn = s.stashIn := rfl
@[simp] theorem State.upRank_pending (s : State) (b r : Nat) (f : Rank → Rank) :
    (s.upRank b r f).pending = s.pending := rfl
@[simp] theorem State.upRank_rget (s : State) (b r : Nat) (f : Rank → Rank) (r1 : Reg) (m n : Nat) :
    (s.upRank b r f).rget r1 m n = s.rget r1 m n := rfl
@[simp] theorem State.upRank_fget (s : State) (b r : Nat) (f : Rank → Rank) (g : Field) (m n : Nat) :
    (s.upRank b r f).fget g m n = s.fget g m n := rfl
@[simp] theorem State.upRank_flag (s : State) (b r : Nat) (f : Rank → Rank) (g : Field) (m n : Nat) :
    (s.upRank b r f).flag g m n = s.flag g m n := rfl
@[simp] theorem State.upRank_sched (s : State) (b r : Nat) (f : Rank → Rank) (q : Nat) :
    (s.upRank b r f).sched q = s.sched q := rfl
@[simp] theorem State.upRank_hset (s : State) (b r : Nat) (f : Rank → Rank) (q : Nat) :
    (s.upRank b r f).hset q = s.hset q := rfl
@[simp] theorem State.upRank_ctx (s : State) (b r : Nat) (f : Rank → Rank) (c : Nat) :
    (s.upRank b r f).ctx c = s.ctx c := rfl
@[simp] theorem State.upRank_part (s : State) (b r : Nat) (f : Rank → Rank) (q : Nat) :
    (s.upRank b r f).part q = s.part q := rfl
@[simp] theorem State.upRank_port (s : State) (b r : Nat) (f : Rank → Rank) (q : Nat) :
    (s.upRank b r f).port q = s.port q := rfl
@[simp] theorem State.upRank_byteAt (s : State) (b r : Nat) (f : Rank → Rank) (x : Nat) :
    (s.upRank b r f).byteAt x = s.byteAt x := rfl

/-! ### upReed -/

@[simp] theorem State.upReed_regs (s : State) (b r lane : Nat) (f : Reed → Reed) :
    (s.upReed b r lane f).regs = s.regs := rfl
@[simp] theorem State.upReed_capt (s : State) (b r lane : Nat) (f : Reed → Reed) :
    (s.upReed b r lane f).capt = s.capt := rfl
@[simp] theorem State.upReed_held (s : State) (b r lane : Nat) (f : Reed → Reed) :
    (s.upReed b r lane f).held = s.held := rfl
@[simp] theorem State.upReed_rdata (s : State) (b r lane : Nat) (f : Reed → Reed) :
    (s.upReed b r lane f).rdata = s.rdata := rfl
@[simp] theorem State.upReed_rbytes (s : State) (b r lane : Nat) (f : Reed → Reed) :
    (s.upReed b r lane f).rbytes = s.rbytes := rfl
@[simp] theorem State.upReed_rstat (s : State) (b r lane : Nat) (f : Reed → Reed) :
    (s.upReed b r lane f).rstat = s.rstat := rfl
@[simp] theorem State.upReed_mem (s : State) (b r lane : Nat) (f : Reed → Reed) :
    (s.upReed b r lane f).mem = s.mem := rfl
@[simp] theorem State.upReed_poison (s : State) (b r lane : Nat) (f : Reed → Reed) :
    (s.upReed b r lane f).poison = s.poison := rfl
@[simp] theorem State.upReed_single (s : State) (b r lane : Nat) (f : Reed → Reed) :
    (s.upReed b r lane f).single = s.single := rfl
@[simp] theorem State.upReed_double (s : State) (b r lane : Nat) (f : Reed → Reed) :
    (s.upReed b r lane f).double = s.double := rfl
@[simp] theorem State.upReed_net (s : State) (b r lane : Nat) (f : Reed → Reed) :
    (s.upReed b r lane f).net = s.net := rfl
@[simp] theorem State.upReed_sites (s : State) (b r lane : Nat) (f : Reed → Reed) :
    (s.upReed b r lane f).sites = s.sites := rfl
@[simp] theorem State.upReed_tlb (s : State) (b r lane : Nat) (f : Reed → Reed) :
    (s.upReed b r lane f).tlb = s.tlb := rfl
@[simp] theorem State.upReed_watches (s : State) (b r lane : Nat) (f : Reed → Reed) :
    (s.upReed b r lane f).watches = s.watches := rfl
@[simp] theorem State.upReed_bars (s : State) (b r lane : Nat) (f : Reed → Reed) :
    (s.upReed b r lane f).bars = s.bars := rfl
@[simp] theorem State.upReed_scheds (s : State) (b r lane : Nat) (f : Reed → Reed) :
    (s.upReed b r lane f).scheds = s.scheds := rfl
@[simp] theorem State.upReed_health (s : State) (b r lane : Nat) (f : Reed → Reed) :
    (s.upReed b r lane f).health = s.health := rfl
@[simp] theorem State.upReed_ctxs (s : State) (b r lane : Nat) (f : Reed → Reed) :
    (s.upReed b r lane f).ctxs = s.ctxs := rfl
@[simp] theorem State.upReed_parts (s : State) (b r lane : Nat) (f : Reed → Reed) :
    (s.upReed b r lane f).parts = s.parts := rfl
@[simp] theorem State.upReed_starts (s : State) (b r lane : Nat) (f : Reed → Reed) :
    (s.upReed b r lane f).starts = s.starts := rfl
@[simp] theorem State.upReed_cmds (s : State) (b r lane : Nat) (f : Reed → Reed) :
    (s.upReed b r lane f).cmds = s.cmds := rfl
@[simp] theorem State.upReed_seqno (s : State) (b r lane : Nat) (f : Reed → Reed) :
    (s.upReed b r lane f).seqno = s.seqno := rfl
@[simp] theorem State.upReed_ports (s : State) (b r lane : Nat) (f : Reed → Reed) :
    (s.upReed b r lane f).ports = s.ports := rfl
@[simp] theorem State.upReed_hif (s : State) (b r lane : Nat) (f : Reed → Reed) :
    (s.upReed b r lane f).hif = s.hif := rfl
@[simp] theorem State.upReed_drone (s : State) (b r lane : Nat) (f : Reed → Reed) :
    (s.upReed b r lane f).drone = s.drone := rfl
@[simp] theorem State.upReed_boot (s : State) (b r lane : Nat) (f : Reed → Reed) :
    (s.upReed b r lane f).boot = s.boot := rfl
@[simp] theorem State.upReed_emb (s : State) (b r lane : Nat) (f : Reed → Reed) :
    (s.upReed b r lane f).emb = s.emb := rfl
@[simp] theorem State.upReed_bell (s : State) (b r lane : Nat) (f : Reed → Reed) :
    (s.upReed b r lane f).bell = s.bell := rfl
@[simp] theorem State.upReed_faults (s : State) (b r lane : Nat) (f : Reed → Reed) :
    (s.upReed b r lane f).faults = s.faults := rfl
@[simp] theorem State.upReed_flash (s : State) (b r lane : Nat) (f : Reed → Reed) :
    (s.upReed b r lane f).flash = s.flash := rfl
@[simp] theorem State.upReed_smb (s : State) (b r lane : Nat) (f : Reed → Reed) :
    (s.upReed b r lane f).smb = s.smb := rfl
@[simp] theorem State.upReed_tap (s : State) (b r lane : Nat) (f : Reed → Reed) :
    (s.upReed b r lane f).tap = s.tap := rfl
@[simp] theorem State.upReed_freeCtr (s : State) (b r lane : Nat) (f : Reed → Reed) :
    (s.upReed b r lane f).freeCtr = s.freeCtr := rfl
@[simp] theorem State.upReed_inval (s : State) (b r lane : Nat) (f : Reed → Reed) :
    (s.upReed b r lane f).inval = s.inval := rfl
@[simp] theorem State.upReed_stashOut (s : State) (b r lane : Nat) (f : Reed → Reed) :
    (s.upReed b r lane f).stashOut = s.stashOut := rfl
@[simp] theorem State.upReed_stashIn (s : State) (b r lane : Nat) (f : Reed → Reed) :
    (s.upReed b r lane f).stashIn = s.stashIn := rfl
@[simp] theorem State.upReed_pending (s : State) (b r lane : Nat) (f : Reed → Reed) :
    (s.upReed b r lane f).pending = s.pending := rfl
@[simp] theorem State.upReed_rget (s : State) (b r lane : Nat) (f : Reed → Reed) (r1 : Reg) (m n : Nat) :
    (s.upReed b r lane f).rget r1 m n = s.rget r1 m n := rfl
@[simp] theorem State.upReed_fget (s : State) (b r lane : Nat) (f : Reed → Reed) (g : Field) (m n : Nat) :
    (s.upReed b r lane f).fget g m n = s.fget g m n := rfl
@[simp] theorem State.upReed_flag (s : State) (b r lane : Nat) (f : Reed → Reed) (g : Field) (m n : Nat) :
    (s.upReed b r lane f).flag g m n = s.flag g m n := rfl
@[simp] theorem State.upReed_sched (s : State) (b r lane : Nat) (f : Reed → Reed) (q : Nat) :
    (s.upReed b r lane f).sched q = s.sched q := rfl
@[simp] theorem State.upReed_hset (s : State) (b r lane : Nat) (f : Reed → Reed) (q : Nat) :
    (s.upReed b r lane f).hset q = s.hset q := rfl
@[simp] theorem State.upReed_ctx (s : State) (b r lane : Nat) (f : Reed → Reed) (c : Nat) :
    (s.upReed b r lane f).ctx c = s.ctx c := rfl
@[simp] theorem State.upReed_part (s : State) (b r lane : Nat) (f : Reed → Reed) (q : Nat) :
    (s.upReed b r lane f).part q = s.part q := rfl
@[simp] theorem State.upReed_port (s : State) (b r lane : Nat) (f : Reed → Reed) (q : Nat) :
    (s.upReed b r lane f).port q = s.port q := rfl
@[simp] theorem State.upReed_byteAt (s : State) (b r lane : Nat) (f : Reed → Reed) (x : Nat) :
    (s.upReed b r lane f).byteAt x = s.byteAt x := rfl

/-! ### setQueue -/

@[simp] theorem State.setQueue_regs (s : State) (b q : Nat) (l : List QEntry) :
    (s.setQueue b q l).regs = s.regs := rfl
@[simp] theorem State.setQueue_capt (s : State) (b q : Nat) (l : List QEntry) :
    (s.setQueue b q l).capt = s.capt := rfl
@[simp] theorem State.setQueue_held (s : State) (b q : Nat) (l : List QEntry) :
    (s.setQueue b q l).held = s.held := rfl
@[simp] theorem State.setQueue_rdata (s : State) (b q : Nat) (l : List QEntry) :
    (s.setQueue b q l).rdata = s.rdata := rfl
@[simp] theorem State.setQueue_rbytes (s : State) (b q : Nat) (l : List QEntry) :
    (s.setQueue b q l).rbytes = s.rbytes := rfl
@[simp] theorem State.setQueue_rstat (s : State) (b q : Nat) (l : List QEntry) :
    (s.setQueue b q l).rstat = s.rstat := rfl
@[simp] theorem State.setQueue_mem (s : State) (b q : Nat) (l : List QEntry) :
    (s.setQueue b q l).mem = s.mem := rfl
@[simp] theorem State.setQueue_poison (s : State) (b q : Nat) (l : List QEntry) :
    (s.setQueue b q l).poison = s.poison := rfl
@[simp] theorem State.setQueue_single (s : State) (b q : Nat) (l : List QEntry) :
    (s.setQueue b q l).single = s.single := rfl
@[simp] theorem State.setQueue_double (s : State) (b q : Nat) (l : List QEntry) :
    (s.setQueue b q l).double = s.double := rfl
@[simp] theorem State.setQueue_net (s : State) (b q : Nat) (l : List QEntry) :
    (s.setQueue b q l).net = s.net := rfl
@[simp] theorem State.setQueue_sites (s : State) (b q : Nat) (l : List QEntry) :
    (s.setQueue b q l).sites = s.sites := rfl
@[simp] theorem State.setQueue_tlb (s : State) (b q : Nat) (l : List QEntry) :
    (s.setQueue b q l).tlb = s.tlb := rfl
@[simp] theorem State.setQueue_watches (s : State) (b q : Nat) (l : List QEntry) :
    (s.setQueue b q l).watches = s.watches := rfl
@[simp] theorem State.setQueue_bars (s : State) (b q : Nat) (l : List QEntry) :
    (s.setQueue b q l).bars = s.bars := rfl
@[simp] theorem State.setQueue_scheds (s : State) (b q : Nat) (l : List QEntry) :
    (s.setQueue b q l).scheds = s.scheds := rfl
@[simp] theorem State.setQueue_health (s : State) (b q : Nat) (l : List QEntry) :
    (s.setQueue b q l).health = s.health := rfl
@[simp] theorem State.setQueue_ctxs (s : State) (b q : Nat) (l : List QEntry) :
    (s.setQueue b q l).ctxs = s.ctxs := rfl
@[simp] theorem State.setQueue_parts (s : State) (b q : Nat) (l : List QEntry) :
    (s.setQueue b q l).parts = s.parts := rfl
@[simp] theorem State.setQueue_starts (s : State) (b q : Nat) (l : List QEntry) :
    (s.setQueue b q l).starts = s.starts := rfl
@[simp] theorem State.setQueue_cmds (s : State) (b q : Nat) (l : List QEntry) :
    (s.setQueue b q l).cmds = s.cmds := rfl
@[simp] theorem State.setQueue_seqno (s : State) (b q : Nat) (l : List QEntry) :
    (s.setQueue b q l).seqno = s.seqno := rfl
@[simp] theorem State.setQueue_ports (s : State) (b q : Nat) (l : List QEntry) :
    (s.setQueue b q l).ports = s.ports := rfl
@[simp] theorem State.setQueue_hif (s : State) (b q : Nat) (l : List QEntry) :
    (s.setQueue b q l).hif = s.hif := rfl
@[simp] theorem State.setQueue_drone (s : State) (b q : Nat) (l : List QEntry) :
    (s.setQueue b q l).drone = s.drone := rfl
@[simp] theorem State.setQueue_boot (s : State) (b q : Nat) (l : List QEntry) :
    (s.setQueue b q l).boot = s.boot := rfl
@[simp] theorem State.setQueue_emb (s : State) (b q : Nat) (l : List QEntry) :
    (s.setQueue b q l).emb = s.emb := rfl
@[simp] theorem State.setQueue_bell (s : State) (b q : Nat) (l : List QEntry) :
    (s.setQueue b q l).bell = s.bell := rfl
@[simp] theorem State.setQueue_faults (s : State) (b q : Nat) (l : List QEntry) :
    (s.setQueue b q l).faults = s.faults := rfl
@[simp] theorem State.setQueue_flash (s : State) (b q : Nat) (l : List QEntry) :
    (s.setQueue b q l).flash = s.flash := rfl
@[simp] theorem State.setQueue_smb (s : State) (b q : Nat) (l : List QEntry) :
    (s.setQueue b q l).smb = s.smb := rfl
@[simp] theorem State.setQueue_tap (s : State) (b q : Nat) (l : List QEntry) :
    (s.setQueue b q l).tap = s.tap := rfl
@[simp] theorem State.setQueue_freeCtr (s : State) (b q : Nat) (l : List QEntry) :
    (s.setQueue b q l).freeCtr = s.freeCtr := rfl
@[simp] theorem State.setQueue_inval (s : State) (b q : Nat) (l : List QEntry) :
    (s.setQueue b q l).inval = s.inval := rfl
@[simp] theorem State.setQueue_stashOut (s : State) (b q : Nat) (l : List QEntry) :
    (s.setQueue b q l).stashOut = s.stashOut := rfl
@[simp] theorem State.setQueue_stashIn (s : State) (b q : Nat) (l : List QEntry) :
    (s.setQueue b q l).stashIn = s.stashIn := rfl
@[simp] theorem State.setQueue_pending (s : State) (b q : Nat) (l : List QEntry) :
    (s.setQueue b q l).pending = s.pending := rfl
@[simp] theorem State.setQueue_rget (s : State) (b q : Nat) (l : List QEntry) (r : Reg) (m n : Nat) :
    (s.setQueue b q l).rget r m n = s.rget r m n := rfl
@[simp] theorem State.setQueue_fget (s : State) (b q : Nat) (l : List QEntry) (g : Field) (m n : Nat) :
    (s.setQueue b q l).fget g m n = s.fget g m n := rfl
@[simp] theorem State.setQueue_flag (s : State) (b q : Nat) (l : List QEntry) (g : Field) (m n : Nat) :
    (s.setQueue b q l).flag g m n = s.flag g m n := rfl
@[simp] theorem State.setQueue_sched (s : State) (b q : Nat) (l : List QEntry) (q1 : Nat) :
    (s.setQueue b q l).sched q1 = s.sched q1 := rfl
@[simp] theorem State.setQueue_hset (s : State) (b q : Nat) (l : List QEntry) (q1 : Nat) :
    (s.setQueue b q l).hset q1 = s.hset q1 := rfl
@[simp] theorem State.setQueue_ctx (s : State) (b q : Nat) (l : List QEntry) (c : Nat) :
    (s.setQueue b q l).ctx c = s.ctx c := rfl
@[simp] theorem State.setQueue_part (s : State) (b q : Nat) (l : List QEntry) (q1 : Nat) :
    (s.setQueue b q l).part q1 = s.part q1 := rfl
@[simp] theorem State.setQueue_port (s : State) (b q : Nat) (l : List QEntry) (q1 : Nat) :
    (s.setQueue b q l).port q1 = s.port q1 := rfl
@[simp] theorem State.setQueue_byteAt (s : State) (b q : Nat) (l : List QEntry) (x : Nat) :
    (s.setQueue b q l).byteAt x = s.byteAt x := rfl

/-! ### upSched -/

@[simp] theorem State.upSched_regs (s : State) (p : Nat) (f : Sched → Sched) :
    (s.upSched p f).regs = s.regs := rfl
@[simp] theorem State.upSched_capt (s : State) (p : Nat) (f : Sched → Sched) :
    (s.upSched p f).capt = s.capt := rfl
@[simp] theorem State.upSched_held (s : State) (p : Nat) (f : Sched → Sched) :
    (s.upSched p f).held = s.held := rfl
@[simp] theorem State.upSched_rdata (s : State) (p : Nat) (f : Sched → Sched) :
    (s.upSched p f).rdata = s.rdata := rfl
@[simp] theorem State.upSched_rbytes (s : State) (p : Nat) (f : Sched → Sched) :
    (s.upSched p f).rbytes = s.rbytes := rfl
@[simp] theorem State.upSched_rstat (s : State) (p : Nat) (f : Sched → Sched) :
    (s.upSched p f).rstat = s.rstat := rfl
@[simp] theorem State.upSched_mem (s : State) (p : Nat) (f : Sched → Sched) :
    (s.upSched p f).mem = s.mem := rfl
@[simp] theorem State.upSched_poison (s : State) (p : Nat) (f : Sched → Sched) :
    (s.upSched p f).poison = s.poison := rfl
@[simp] theorem State.upSched_single (s : State) (p : Nat) (f : Sched → Sched) :
    (s.upSched p f).single = s.single := rfl
@[simp] theorem State.upSched_double (s : State) (p : Nat) (f : Sched → Sched) :
    (s.upSched p f).double = s.double := rfl
@[simp] theorem State.upSched_net (s : State) (p : Nat) (f : Sched → Sched) :
    (s.upSched p f).net = s.net := rfl
@[simp] theorem State.upSched_bores (s : State) (p : Nat) (f : Sched → Sched) :
    (s.upSched p f).bores = s.bores := rfl
@[simp] theorem State.upSched_sites (s : State) (p : Nat) (f : Sched → Sched) :
    (s.upSched p f).sites = s.sites := rfl
@[simp] theorem State.upSched_tlb (s : State) (p : Nat) (f : Sched → Sched) :
    (s.upSched p f).tlb = s.tlb := rfl
@[simp] theorem State.upSched_watches (s : State) (p : Nat) (f : Sched → Sched) :
    (s.upSched p f).watches = s.watches := rfl
@[simp] theorem State.upSched_bars (s : State) (p : Nat) (f : Sched → Sched) :
    (s.upSched p f).bars = s.bars := rfl
@[simp] theorem State.upSched_health (s : State) (p : Nat) (f : Sched → Sched) :
    (s.upSched p f).health = s.health := rfl
@[simp] theorem State.upSched_ctxs (s : State) (p : Nat) (f : Sched → Sched) :
    (s.upSched p f).ctxs = s.ctxs := rfl
@[simp] theorem State.upSched_parts (s : State) (p : Nat) (f : Sched → Sched) :
    (s.upSched p f).parts = s.parts := rfl
@[simp] theorem State.upSched_starts (s : State) (p : Nat) (f : Sched → Sched) :
    (s.upSched p f).starts = s.starts := rfl
@[simp] theorem State.upSched_cmds (s : State) (p : Nat) (f : Sched → Sched) :
    (s.upSched p f).cmds = s.cmds := rfl
@[simp] theorem State.upSched_seqno (s : State) (p : Nat) (f : Sched → Sched) :
    (s.upSched p f).seqno = s.seqno := rfl
@[simp] theorem State.upSched_ports (s : State) (p : Nat) (f : Sched → Sched) :
    (s.upSched p f).ports = s.ports := rfl
@[simp] theorem State.upSched_hif (s : State) (p : Nat) (f : Sched → Sched) :
    (s.upSched p f).hif = s.hif := rfl
@[simp] theorem State.upSched_drone (s : State) (p : Nat) (f : Sched → Sched) :
    (s.upSched p f).drone = s.drone := rfl
@[simp] theorem State.upSched_boot (s : State) (p : Nat) (f : Sched → Sched) :
    (s.upSched p f).boot = s.boot := rfl
@[simp] theorem State.upSched_emb (s : State) (p : Nat) (f : Sched → Sched) :
    (s.upSched p f).emb = s.emb := rfl
@[simp] theorem State.upSched_bell (s : State) (p : Nat) (f : Sched → Sched) :
    (s.upSched p f).bell = s.bell := rfl
@[simp] theorem State.upSched_faults (s : State) (p : Nat) (f : Sched → Sched) :
    (s.upSched p f).faults = s.faults := rfl
@[simp] theorem State.upSched_flash (s : State) (p : Nat) (f : Sched → Sched) :
    (s.upSched p f).flash = s.flash := rfl
@[simp] theorem State.upSched_smb (s : State) (p : Nat) (f : Sched → Sched) :
    (s.upSched p f).smb = s.smb := rfl
@[simp] theorem State.upSched_tap (s : State) (p : Nat) (f : Sched → Sched) :
    (s.upSched p f).tap = s.tap := rfl
@[simp] theorem State.upSched_freeCtr (s : State) (p : Nat) (f : Sched → Sched) :
    (s.upSched p f).freeCtr = s.freeCtr := rfl
@[simp] theorem State.upSched_inval (s : State) (p : Nat) (f : Sched → Sched) :
    (s.upSched p f).inval = s.inval := rfl
@[simp] theorem State.upSched_stashOut (s : State) (p : Nat) (f : Sched → Sched) :
    (s.upSched p f).stashOut = s.stashOut := rfl
@[simp] theorem State.upSched_stashIn (s : State) (p : Nat) (f : Sched → Sched) :
    (s.upSched p f).stashIn = s.stashIn := rfl
@[simp] theorem State.upSched_pending (s : State) (p : Nat) (f : Sched → Sched) :
    (s.upSched p f).pending = s.pending := rfl
@[simp] theorem State.upSched_rget (s : State) (p : Nat) (f : Sched → Sched) (r : Reg) (m n : Nat) :
    (s.upSched p f).rget r m n = s.rget r m n := rfl
@[simp] theorem State.upSched_fget (s : State) (p : Nat) (f : Sched → Sched) (g : Field) (m n : Nat) :
    (s.upSched p f).fget g m n = s.fget g m n := rfl
@[simp] theorem State.upSched_flag (s : State) (p : Nat) (f : Sched → Sched) (g : Field) (m n : Nat) :
    (s.upSched p f).flag g m n = s.flag g m n := rfl
@[simp] theorem State.upSched_bore (s : State) (p : Nat) (f : Sched → Sched) (c : Nat) :
    (s.upSched p f).bore c = s.bore c := rfl
@[simp] theorem State.upSched_ch (s : State) (p : Nat) (f : Sched → Sched) (c : Nat) :
    (s.upSched p f).ch c = s.ch c := rfl
@[simp] theorem State.upSched_rank (s : State) (p : Nat) (f : Sched → Sched) (c q : Nat) :
    (s.upSched p f).rank c q = s.rank c q := rfl
@[simp] theorem State.upSched_queue (s : State) (p : Nat) (f : Sched → Sched) (c q : Nat) :
    (s.upSched p f).queue c q = s.queue c q := rfl
@[simp] theorem State.upSched_hset (s : State) (p : Nat) (f : Sched → Sched) (q : Nat) :
    (s.upSched p f).hset q = s.hset q := rfl
@[simp] theorem State.upSched_ctx (s : State) (p : Nat) (f : Sched → Sched) (c : Nat) :
    (s.upSched p f).ctx c = s.ctx c := rfl
@[simp] theorem State.upSched_part (s : State) (p : Nat) (f : Sched → Sched) (q : Nat) :
    (s.upSched p f).part q = s.part q := rfl
@[simp] theorem State.upSched_port (s : State) (p : Nat) (f : Sched → Sched) (q : Nat) :
    (s.upSched p f).port q = s.port q := rfl
@[simp] theorem State.upSched_byteAt (s : State) (p : Nat) (f : Sched → Sched) (x : Nat) :
    (s.upSched p f).byteAt x = s.byteAt x := rfl

/-! ### upHset -/

@[simp] theorem State.upHset_regs (s : State) (h : Nat) (f : Health → Health) :
    (s.upHset h f).regs = s.regs := rfl
@[simp] theorem State.upHset_capt (s : State) (h : Nat) (f : Health → Health) :
    (s.upHset h f).capt = s.capt := rfl
@[simp] theorem State.upHset_held (s : State) (h : Nat) (f : Health → Health) :
    (s.upHset h f).held = s.held := rfl
@[simp] theorem State.upHset_rdata (s : State) (h : Nat) (f : Health → Health) :
    (s.upHset h f).rdata = s.rdata := rfl
@[simp] theorem State.upHset_rbytes (s : State) (h : Nat) (f : Health → Health) :
    (s.upHset h f).rbytes = s.rbytes := rfl
@[simp] theorem State.upHset_rstat (s : State) (h : Nat) (f : Health → Health) :
    (s.upHset h f).rstat = s.rstat := rfl
@[simp] theorem State.upHset_mem (s : State) (h : Nat) (f : Health → Health) :
    (s.upHset h f).mem = s.mem := rfl
@[simp] theorem State.upHset_poison (s : State) (h : Nat) (f : Health → Health) :
    (s.upHset h f).poison = s.poison := rfl
@[simp] theorem State.upHset_single (s : State) (h : Nat) (f : Health → Health) :
    (s.upHset h f).single = s.single := rfl
@[simp] theorem State.upHset_double (s : State) (h : Nat) (f : Health → Health) :
    (s.upHset h f).double = s.double := rfl
@[simp] theorem State.upHset_net (s : State) (h : Nat) (f : Health → Health) :
    (s.upHset h f).net = s.net := rfl
@[simp] theorem State.upHset_bores (s : State) (h : Nat) (f : Health → Health) :
    (s.upHset h f).bores = s.bores := rfl
@[simp] theorem State.upHset_sites (s : State) (h : Nat) (f : Health → Health) :
    (s.upHset h f).sites = s.sites := rfl
@[simp] theorem State.upHset_tlb (s : State) (h : Nat) (f : Health → Health) :
    (s.upHset h f).tlb = s.tlb := rfl
@[simp] theorem State.upHset_watches (s : State) (h : Nat) (f : Health → Health) :
    (s.upHset h f).watches = s.watches := rfl
@[simp] theorem State.upHset_bars (s : State) (h : Nat) (f : Health → Health) :
    (s.upHset h f).bars = s.bars := rfl
@[simp] theorem State.upHset_scheds (s : State) (h : Nat) (f : Health → Health) :
    (s.upHset h f).scheds = s.scheds := rfl
@[simp] theorem State.upHset_ctxs (s : State) (h : Nat) (f : Health → Health) :
    (s.upHset h f).ctxs = s.ctxs := rfl
@[simp] theorem State.upHset_parts (s : State) (h : Nat) (f : Health → Health) :
    (s.upHset h f).parts = s.parts := rfl
@[simp] theorem State.upHset_starts (s : State) (h : Nat) (f : Health → Health) :
    (s.upHset h f).starts = s.starts := rfl
@[simp] theorem State.upHset_cmds (s : State) (h : Nat) (f : Health → Health) :
    (s.upHset h f).cmds = s.cmds := rfl
@[simp] theorem State.upHset_seqno (s : State) (h : Nat) (f : Health → Health) :
    (s.upHset h f).seqno = s.seqno := rfl
@[simp] theorem State.upHset_ports (s : State) (h : Nat) (f : Health → Health) :
    (s.upHset h f).ports = s.ports := rfl
@[simp] theorem State.upHset_hif (s : State) (h : Nat) (f : Health → Health) :
    (s.upHset h f).hif = s.hif := rfl
@[simp] theorem State.upHset_drone (s : State) (h : Nat) (f : Health → Health) :
    (s.upHset h f).drone = s.drone := rfl
@[simp] theorem State.upHset_boot (s : State) (h : Nat) (f : Health → Health) :
    (s.upHset h f).boot = s.boot := rfl
@[simp] theorem State.upHset_emb (s : State) (h : Nat) (f : Health → Health) :
    (s.upHset h f).emb = s.emb := rfl
@[simp] theorem State.upHset_bell (s : State) (h : Nat) (f : Health → Health) :
    (s.upHset h f).bell = s.bell := rfl
@[simp] theorem State.upHset_faults (s : State) (h : Nat) (f : Health → Health) :
    (s.upHset h f).faults = s.faults := rfl
@[simp] theorem State.upHset_flash (s : State) (h : Nat) (f : Health → Health) :
    (s.upHset h f).flash = s.flash := rfl
@[simp] theorem State.upHset_smb (s : State) (h : Nat) (f : Health → Health) :
    (s.upHset h f).smb = s.smb := rfl
@[simp] theorem State.upHset_tap (s : State) (h : Nat) (f : Health → Health) :
    (s.upHset h f).tap = s.tap := rfl
@[simp] theorem State.upHset_freeCtr (s : State) (h : Nat) (f : Health → Health) :
    (s.upHset h f).freeCtr = s.freeCtr := rfl
@[simp] theorem State.upHset_inval (s : State) (h : Nat) (f : Health → Health) :
    (s.upHset h f).inval = s.inval := rfl
@[simp] theorem State.upHset_stashOut (s : State) (h : Nat) (f : Health → Health) :
    (s.upHset h f).stashOut = s.stashOut := rfl
@[simp] theorem State.upHset_stashIn (s : State) (h : Nat) (f : Health → Health) :
    (s.upHset h f).stashIn = s.stashIn := rfl
@[simp] theorem State.upHset_pending (s : State) (h : Nat) (f : Health → Health) :
    (s.upHset h f).pending = s.pending := rfl
@[simp] theorem State.upHset_rget (s : State) (h : Nat) (f : Health → Health) (r : Reg) (m n : Nat) :
    (s.upHset h f).rget r m n = s.rget r m n := rfl
@[simp] theorem State.upHset_fget (s : State) (h : Nat) (f : Health → Health) (g : Field) (m n : Nat) :
    (s.upHset h f).fget g m n = s.fget g m n := rfl
@[simp] theorem State.upHset_flag (s : State) (h : Nat) (f : Health → Health) (g : Field) (m n : Nat) :
    (s.upHset h f).flag g m n = s.flag g m n := rfl
@[simp] theorem State.upHset_bore (s : State) (h : Nat) (f : Health → Health) (c : Nat) :
    (s.upHset h f).bore c = s.bore c := rfl
@[simp] theorem State.upHset_ch (s : State) (h : Nat) (f : Health → Health) (c : Nat) :
    (s.upHset h f).ch c = s.ch c := rfl
@[simp] theorem State.upHset_rank (s : State) (h : Nat) (f : Health → Health) (c q : Nat) :
    (s.upHset h f).rank c q = s.rank c q := rfl
@[simp] theorem State.upHset_queue (s : State) (h : Nat) (f : Health → Health) (c q : Nat) :
    (s.upHset h f).queue c q = s.queue c q := rfl
@[simp] theorem State.upHset_sched (s : State) (h : Nat) (f : Health → Health) (q : Nat) :
    (s.upHset h f).sched q = s.sched q := rfl
@[simp] theorem State.upHset_ctx (s : State) (h : Nat) (f : Health → Health) (c : Nat) :
    (s.upHset h f).ctx c = s.ctx c := rfl
@[simp] theorem State.upHset_part (s : State) (h : Nat) (f : Health → Health) (q : Nat) :
    (s.upHset h f).part q = s.part q := rfl
@[simp] theorem State.upHset_port (s : State) (h : Nat) (f : Health → Health) (q : Nat) :
    (s.upHset h f).port q = s.port q := rfl
@[simp] theorem State.upHset_byteAt (s : State) (h : Nat) (f : Health → Health) (x : Nat) :
    (s.upHset h f).byteAt x = s.byteAt x := rfl

/-! ### upCtx -/

@[simp] theorem State.upCtx_regs (s : State) (c : Nat) (f : Ctx → Ctx) :
    (s.upCtx c f).regs = s.regs := rfl
@[simp] theorem State.upCtx_capt (s : State) (c : Nat) (f : Ctx → Ctx) :
    (s.upCtx c f).capt = s.capt := rfl
@[simp] theorem State.upCtx_held (s : State) (c : Nat) (f : Ctx → Ctx) :
    (s.upCtx c f).held = s.held := rfl
@[simp] theorem State.upCtx_rdata (s : State) (c : Nat) (f : Ctx → Ctx) :
    (s.upCtx c f).rdata = s.rdata := rfl
@[simp] theorem State.upCtx_rbytes (s : State) (c : Nat) (f : Ctx → Ctx) :
    (s.upCtx c f).rbytes = s.rbytes := rfl
@[simp] theorem State.upCtx_rstat (s : State) (c : Nat) (f : Ctx → Ctx) :
    (s.upCtx c f).rstat = s.rstat := rfl
@[simp] theorem State.upCtx_mem (s : State) (c : Nat) (f : Ctx → Ctx) :
    (s.upCtx c f).mem = s.mem := rfl
@[simp] theorem State.upCtx_poison (s : State) (c : Nat) (f : Ctx → Ctx) :
    (s.upCtx c f).poison = s.poison := rfl
@[simp] theorem State.upCtx_single (s : State) (c : Nat) (f : Ctx → Ctx) :
    (s.upCtx c f).single = s.single := rfl
@[simp] theorem State.upCtx_double (s : State) (c : Nat) (f : Ctx → Ctx) :
    (s.upCtx c f).double = s.double := rfl
@[simp] theorem State.upCtx_net (s : State) (c : Nat) (f : Ctx → Ctx) :
    (s.upCtx c f).net = s.net := rfl
@[simp] theorem State.upCtx_bores (s : State) (c : Nat) (f : Ctx → Ctx) :
    (s.upCtx c f).bores = s.bores := rfl
@[simp] theorem State.upCtx_sites (s : State) (c : Nat) (f : Ctx → Ctx) :
    (s.upCtx c f).sites = s.sites := rfl
@[simp] theorem State.upCtx_tlb (s : State) (c : Nat) (f : Ctx → Ctx) :
    (s.upCtx c f).tlb = s.tlb := rfl
@[simp] theorem State.upCtx_watches (s : State) (c : Nat) (f : Ctx → Ctx) :
    (s.upCtx c f).watches = s.watches := rfl
@[simp] theorem State.upCtx_bars (s : State) (c : Nat) (f : Ctx → Ctx) :
    (s.upCtx c f).bars = s.bars := rfl
@[simp] theorem State.upCtx_scheds (s : State) (c : Nat) (f : Ctx → Ctx) :
    (s.upCtx c f).scheds = s.scheds := rfl
@[simp] theorem State.upCtx_health (s : State) (c : Nat) (f : Ctx → Ctx) :
    (s.upCtx c f).health = s.health := rfl
@[simp] theorem State.upCtx_parts (s : State) (c : Nat) (f : Ctx → Ctx) :
    (s.upCtx c f).parts = s.parts := rfl
@[simp] theorem State.upCtx_starts (s : State) (c : Nat) (f : Ctx → Ctx) :
    (s.upCtx c f).starts = s.starts := rfl
@[simp] theorem State.upCtx_cmds (s : State) (c : Nat) (f : Ctx → Ctx) :
    (s.upCtx c f).cmds = s.cmds := rfl
@[simp] theorem State.upCtx_seqno (s : State) (c : Nat) (f : Ctx → Ctx) :
    (s.upCtx c f).seqno = s.seqno := rfl
@[simp] theorem State.upCtx_ports (s : State) (c : Nat) (f : Ctx → Ctx) :
    (s.upCtx c f).ports = s.ports := rfl
@[simp] theorem State.upCtx_hif (s : State) (c : Nat) (f : Ctx → Ctx) :
    (s.upCtx c f).hif = s.hif := rfl
@[simp] theorem State.upCtx_drone (s : State) (c : Nat) (f : Ctx → Ctx) :
    (s.upCtx c f).drone = s.drone := rfl
@[simp] theorem State.upCtx_boot (s : State) (c : Nat) (f : Ctx → Ctx) :
    (s.upCtx c f).boot = s.boot := rfl
@[simp] theorem State.upCtx_emb (s : State) (c : Nat) (f : Ctx → Ctx) :
    (s.upCtx c f).emb = s.emb := rfl
@[simp] theorem State.upCtx_bell (s : State) (c : Nat) (f : Ctx → Ctx) :
    (s.upCtx c f).bell = s.bell := rfl
@[simp] theorem State.upCtx_faults (s : State) (c : Nat) (f : Ctx → Ctx) :
    (s.upCtx c f).faults = s.faults := rfl
@[simp] theorem State.upCtx_flash (s : State) (c : Nat) (f : Ctx → Ctx) :
    (s.upCtx c f).flash = s.flash := rfl
@[simp] theorem State.upCtx_smb (s : State) (c : Nat) (f : Ctx → Ctx) :
    (s.upCtx c f).smb = s.smb := rfl
@[simp] theorem State.upCtx_tap (s : State) (c : Nat) (f : Ctx → Ctx) :
    (s.upCtx c f).tap = s.tap := rfl
@[simp] theorem State.upCtx_freeCtr (s : State) (c : Nat) (f : Ctx → Ctx) :
    (s.upCtx c f).freeCtr = s.freeCtr := rfl
@[simp] theorem State.upCtx_inval (s : State) (c : Nat) (f : Ctx → Ctx) :
    (s.upCtx c f).inval = s.inval := rfl
@[simp] theorem State.upCtx_stashOut (s : State) (c : Nat) (f : Ctx → Ctx) :
    (s.upCtx c f).stashOut = s.stashOut := rfl
@[simp] theorem State.upCtx_stashIn (s : State) (c : Nat) (f : Ctx → Ctx) :
    (s.upCtx c f).stashIn = s.stashIn := rfl
@[simp] theorem State.upCtx_pending (s : State) (c : Nat) (f : Ctx → Ctx) :
    (s.upCtx c f).pending = s.pending := rfl
@[simp] theorem State.upCtx_rget (s : State) (c : Nat) (f : Ctx → Ctx) (r : Reg) (m n : Nat) :
    (s.upCtx c f).rget r m n = s.rget r m n := rfl
@[simp] theorem State.upCtx_fget (s : State) (c : Nat) (f : Ctx → Ctx) (g : Field) (m n : Nat) :
    (s.upCtx c f).fget g m n = s.fget g m n := rfl
@[simp] theorem State.upCtx_flag (s : State) (c : Nat) (f : Ctx → Ctx) (g : Field) (m n : Nat) :
    (s.upCtx c f).flag g m n = s.flag g m n := rfl
@[simp] theorem State.upCtx_bore (s : State) (c : Nat) (f : Ctx → Ctx) (c1 : Nat) :
    (s.upCtx c f).bore c1 = s.bore c1 := rfl
@[simp] theorem State.upCtx_ch (s : State) (c : Nat) (f : Ctx → Ctx) (c1 : Nat) :
    (s.upCtx c f).ch c1 = s.ch c1 := rfl
@[simp] theorem State.upCtx_rank (s : State) (c : Nat) (f : Ctx → Ctx) (c1 q : Nat) :
    (s.upCtx c f).rank c1 q = s.rank c1 q := rfl
@[simp] theorem State.upCtx_queue (s : State) (c : Nat) (f : Ctx → Ctx) (c1 q : Nat) :
    (s.upCtx c f).queue c1 q = s.queue c1 q := rfl
@[simp] theorem State.upCtx_sched (s : State) (c : Nat) (f : Ctx → Ctx) (q : Nat) :
    (s.upCtx c f).sched q = s.sched q := rfl
@[simp] theorem State.upCtx_hset (s : State) (c : Nat) (f : Ctx → Ctx) (q : Nat) :
    (s.upCtx c f).hset q = s.hset q := rfl
@[simp] theorem State.upCtx_part (s : State) (c : Nat) (f : Ctx → Ctx) (q : Nat) :
    (s.upCtx c f).part q = s.part q := rfl
@[simp] theorem State.upCtx_port (s : State) (c : Nat) (f : Ctx → Ctx) (q : Nat) :
    (s.upCtx c f).port q = s.port q := rfl
@[simp] theorem State.upCtx_byteAt (s : State) (c : Nat) (f : Ctx → Ctx) (x : Nat) :
    (s.upCtx c f).byteAt x = s.byteAt x := rfl

/-! ### upPart -/

@[simp] theorem State.upPart_regs (s : State) (p : Nat) (f : Part → Part) :
    (s.upPart p f).regs = s.regs := rfl
@[simp] theorem State.upPart_capt (s : State) (p : Nat) (f : Part → Part) :
    (s.upPart p f).capt = s.capt := rfl
@[simp] theorem State.upPart_held (s : State) (p : Nat) (f : Part → Part) :
    (s.upPart p f).held = s.held := rfl
@[simp] theorem State.upPart_rdata (s : State) (p : Nat) (f : Part → Part) :
    (s.upPart p f).rdata = s.rdata := rfl
@[simp] theorem State.upPart_rbytes (s : State) (p : Nat) (f : Part → Part) :
    (s.upPart p f).rbytes = s.rbytes := rfl
@[simp] theorem State.upPart_rstat (s : State) (p : Nat) (f : Part → Part) :
    (s.upPart p f).rstat = s.rstat := rfl
@[simp] theorem State.upPart_mem (s : State) (p : Nat) (f : Part → Part) :
    (s.upPart p f).mem = s.mem := rfl
@[simp] theorem State.upPart_poison (s : State) (p : Nat) (f : Part → Part) :
    (s.upPart p f).poison = s.poison := rfl
@[simp] theorem State.upPart_single (s : State) (p : Nat) (f : Part → Part) :
    (s.upPart p f).single = s.single := rfl
@[simp] theorem State.upPart_double (s : State) (p : Nat) (f : Part → Part) :
    (s.upPart p f).double = s.double := rfl
@[simp] theorem State.upPart_net (s : State) (p : Nat) (f : Part → Part) :
    (s.upPart p f).net = s.net := rfl
@[simp] theorem State.upPart_bores (s : State) (p : Nat) (f : Part → Part) :
    (s.upPart p f).bores = s.bores := rfl
@[simp] theorem State.upPart_sites (s : State) (p : Nat) (f : Part → Part) :
    (s.upPart p f).sites = s.sites := rfl
@[simp] theorem State.upPart_tlb (s : State) (p : Nat) (f : Part → Part) :
    (s.upPart p f).tlb = s.tlb := rfl
@[simp] theorem State.upPart_watches (s : State) (p : Nat) (f : Part → Part) :
    (s.upPart p f).watches = s.watches := rfl
@[simp] theorem State.upPart_bars (s : State) (p : Nat) (f : Part → Part) :
    (s.upPart p f).bars = s.bars := rfl
@[simp] theorem State.upPart_scheds (s : State) (p : Nat) (f : Part → Part) :
    (s.upPart p f).scheds = s.scheds := rfl
@[simp] theorem State.upPart_health (s : State) (p : Nat) (f : Part → Part) :
    (s.upPart p f).health = s.health := rfl
@[simp] theorem State.upPart_ctxs (s : State) (p : Nat) (f : Part → Part) :
    (s.upPart p f).ctxs = s.ctxs := rfl
@[simp] theorem State.upPart_starts (s : State) (p : Nat) (f : Part → Part) :
    (s.upPart p f).starts = s.starts := rfl
@[simp] theorem State.upPart_cmds (s : State) (p : Nat) (f : Part → Part) :
    (s.upPart p f).cmds = s.cmds := rfl
@[simp] theorem State.upPart_seqno (s : State) (p : Nat) (f : Part → Part) :
    (s.upPart p f).seqno = s.seqno := rfl
@[simp] theorem State.upPart_ports (s : State) (p : Nat) (f : Part → Part) :
    (s.upPart p f).ports = s.ports := rfl
@[simp] theorem State.upPart_hif (s : State) (p : Nat) (f : Part → Part) :
    (s.upPart p f).hif = s.hif := rfl
@[simp] theorem State.upPart_drone (s : State) (p : Nat) (f : Part → Part) :
    (s.upPart p f).drone = s.drone := rfl
@[simp] theorem State.upPart_boot (s : State) (p : Nat) (f : Part → Part) :
    (s.upPart p f).boot = s.boot := rfl
@[simp] theorem State.upPart_emb (s : State) (p : Nat) (f : Part → Part) :
    (s.upPart p f).emb = s.emb := rfl
@[simp] theorem State.upPart_bell (s : State) (p : Nat) (f : Part → Part) :
    (s.upPart p f).bell = s.bell := rfl
@[simp] theorem State.upPart_faults (s : State) (p : Nat) (f : Part → Part) :
    (s.upPart p f).faults = s.faults := rfl
@[simp] theorem State.upPart_flash (s : State) (p : Nat) (f : Part → Part) :
    (s.upPart p f).flash = s.flash := rfl
@[simp] theorem State.upPart_smb (s : State) (p : Nat) (f : Part → Part) :
    (s.upPart p f).smb = s.smb := rfl
@[simp] theorem State.upPart_tap (s : State) (p : Nat) (f : Part → Part) :
    (s.upPart p f).tap = s.tap := rfl
@[simp] theorem State.upPart_freeCtr (s : State) (p : Nat) (f : Part → Part) :
    (s.upPart p f).freeCtr = s.freeCtr := rfl
@[simp] theorem State.upPart_inval (s : State) (p : Nat) (f : Part → Part) :
    (s.upPart p f).inval = s.inval := rfl
@[simp] theorem State.upPart_stashOut (s : State) (p : Nat) (f : Part → Part) :
    (s.upPart p f).stashOut = s.stashOut := rfl
@[simp] theorem State.upPart_stashIn (s : State) (p : Nat) (f : Part → Part) :
    (s.upPart p f).stashIn = s.stashIn := rfl
@[simp] theorem State.upPart_pending (s : State) (p : Nat) (f : Part → Part) :
    (s.upPart p f).pending = s.pending := rfl
@[simp] theorem State.upPart_rget (s : State) (p : Nat) (f : Part → Part) (r : Reg) (m n : Nat) :
    (s.upPart p f).rget r m n = s.rget r m n := rfl
@[simp] theorem State.upPart_fget (s : State) (p : Nat) (f : Part → Part) (g : Field) (m n : Nat) :
    (s.upPart p f).fget g m n = s.fget g m n := rfl
@[simp] theorem State.upPart_flag (s : State) (p : Nat) (f : Part → Part) (g : Field) (m n : Nat) :
    (s.upPart p f).flag g m n = s.flag g m n := rfl
@[simp] theorem State.upPart_bore (s : State) (p : Nat) (f : Part → Part) (c : Nat) :
    (s.upPart p f).bore c = s.bore c := rfl
@[simp] theorem State.upPart_ch (s : State) (p : Nat) (f : Part → Part) (c : Nat) :
    (s.upPart p f).ch c = s.ch c := rfl
@[simp] theorem State.upPart_rank (s : State) (p : Nat) (f : Part → Part) (c q : Nat) :
    (s.upPart p f).rank c q = s.rank c q := rfl
@[simp] theorem State.upPart_queue (s : State) (p : Nat) (f : Part → Part) (c q : Nat) :
    (s.upPart p f).queue c q = s.queue c q := rfl
@[simp] theorem State.upPart_sched (s : State) (p : Nat) (f : Part → Part) (q : Nat) :
    (s.upPart p f).sched q = s.sched q := rfl
@[simp] theorem State.upPart_hset (s : State) (p : Nat) (f : Part → Part) (q : Nat) :
    (s.upPart p f).hset q = s.hset q := rfl
@[simp] theorem State.upPart_ctx (s : State) (p : Nat) (f : Part → Part) (c : Nat) :
    (s.upPart p f).ctx c = s.ctx c := rfl
@[simp] theorem State.upPart_port (s : State) (p : Nat) (f : Part → Part) (q : Nat) :
    (s.upPart p f).port q = s.port q := rfl
@[simp] theorem State.upPart_byteAt (s : State) (p : Nat) (f : Part → Part) (x : Nat) :
    (s.upPart p f).byteAt x = s.byteAt x := rfl

/-! ### upPort -/

@[simp] theorem State.upPort_regs (s : State) (k : Nat) (f : Port → Port) :
    (s.upPort k f).regs = s.regs := rfl
@[simp] theorem State.upPort_capt (s : State) (k : Nat) (f : Port → Port) :
    (s.upPort k f).capt = s.capt := rfl
@[simp] theorem State.upPort_held (s : State) (k : Nat) (f : Port → Port) :
    (s.upPort k f).held = s.held := rfl
@[simp] theorem State.upPort_rdata (s : State) (k : Nat) (f : Port → Port) :
    (s.upPort k f).rdata = s.rdata := rfl
@[simp] theorem State.upPort_rbytes (s : State) (k : Nat) (f : Port → Port) :
    (s.upPort k f).rbytes = s.rbytes := rfl
@[simp] theorem State.upPort_rstat (s : State) (k : Nat) (f : Port → Port) :
    (s.upPort k f).rstat = s.rstat := rfl
@[simp] theorem State.upPort_mem (s : State) (k : Nat) (f : Port → Port) :
    (s.upPort k f).mem = s.mem := rfl
@[simp] theorem State.upPort_poison (s : State) (k : Nat) (f : Port → Port) :
    (s.upPort k f).poison = s.poison := rfl
@[simp] theorem State.upPort_single (s : State) (k : Nat) (f : Port → Port) :
    (s.upPort k f).single = s.single := rfl
@[simp] theorem State.upPort_double (s : State) (k : Nat) (f : Port → Port) :
    (s.upPort k f).double = s.double := rfl
@[simp] theorem State.upPort_net (s : State) (k : Nat) (f : Port → Port) :
    (s.upPort k f).net = s.net := rfl
@[simp] theorem State.upPort_bores (s : State) (k : Nat) (f : Port → Port) :
    (s.upPort k f).bores = s.bores := rfl
@[simp] theorem State.upPort_sites (s : State) (k : Nat) (f : Port → Port) :
    (s.upPort k f).sites = s.sites := rfl
@[simp] theorem State.upPort_tlb (s : State) (k : Nat) (f : Port → Port) :
    (s.upPort k f).tlb = s.tlb := rfl
@[simp] theorem State.upPort_watches (s : State) (k : Nat) (f : Port → Port) :
    (s.upPort k f).watches = s.watches := rfl
@[simp] theorem State.upPort_bars (s : State) (k : Nat) (f : Port → Port) :
    (s.upPort k f).bars = s.bars := rfl
@[simp] theorem State.upPort_scheds (s : State) (k : Nat) (f : Port → Port) :
    (s.upPort k f).scheds = s.scheds := rfl
@[simp] theorem State.upPort_health (s : State) (k : Nat) (f : Port → Port) :
    (s.upPort k f).health = s.health := rfl
@[simp] theorem State.upPort_ctxs (s : State) (k : Nat) (f : Port → Port) :
    (s.upPort k f).ctxs = s.ctxs := rfl
@[simp] theorem State.upPort_parts (s : State) (k : Nat) (f : Port → Port) :
    (s.upPort k f).parts = s.parts := rfl
@[simp] theorem State.upPort_starts (s : State) (k : Nat) (f : Port → Port) :
    (s.upPort k f).starts = s.starts := rfl
@[simp] theorem State.upPort_cmds (s : State) (k : Nat) (f : Port → Port) :
    (s.upPort k f).cmds = s.cmds := rfl
@[simp] theorem State.upPort_seqno (s : State) (k : Nat) (f : Port → Port) :
    (s.upPort k f).seqno = s.seqno := rfl
@[simp] theorem State.upPort_hif (s : State) (k : Nat) (f : Port → Port) :
    (s.upPort k f).hif = s.hif := rfl
@[simp] theorem State.upPort_drone (s : State) (k : Nat) (f : Port → Port) :
    (s.upPort k f).drone = s.drone := rfl
@[simp] theorem State.upPort_boot (s : State) (k : Nat) (f : Port → Port) :
    (s.upPort k f).boot = s.boot := rfl
@[simp] theorem State.upPort_emb (s : State) (k : Nat) (f : Port → Port) :
    (s.upPort k f).emb = s.emb := rfl
@[simp] theorem State.upPort_bell (s : State) (k : Nat) (f : Port → Port) :
    (s.upPort k f).bell = s.bell := rfl
@[simp] theorem State.upPort_faults (s : State) (k : Nat) (f : Port → Port) :
    (s.upPort k f).faults = s.faults := rfl
@[simp] theorem State.upPort_flash (s : State) (k : Nat) (f : Port → Port) :
    (s.upPort k f).flash = s.flash := rfl
@[simp] theorem State.upPort_smb (s : State) (k : Nat) (f : Port → Port) :
    (s.upPort k f).smb = s.smb := rfl
@[simp] theorem State.upPort_tap (s : State) (k : Nat) (f : Port → Port) :
    (s.upPort k f).tap = s.tap := rfl
@[simp] theorem State.upPort_freeCtr (s : State) (k : Nat) (f : Port → Port) :
    (s.upPort k f).freeCtr = s.freeCtr := rfl
@[simp] theorem State.upPort_inval (s : State) (k : Nat) (f : Port → Port) :
    (s.upPort k f).inval = s.inval := rfl
@[simp] theorem State.upPort_stashOut (s : State) (k : Nat) (f : Port → Port) :
    (s.upPort k f).stashOut = s.stashOut := rfl
@[simp] theorem State.upPort_stashIn (s : State) (k : Nat) (f : Port → Port) :
    (s.upPort k f).stashIn = s.stashIn := rfl
@[simp] theorem State.upPort_pending (s : State) (k : Nat) (f : Port → Port) :
    (s.upPort k f).pending = s.pending := rfl
@[simp] theorem State.upPort_rget (s : State) (k : Nat) (f : Port → Port) (r : Reg) (m n : Nat) :
    (s.upPort k f).rget r m n = s.rget r m n := rfl
@[simp] theorem State.upPort_fget (s : State) (k : Nat) (f : Port → Port) (g : Field) (m n : Nat) :
    (s.upPort k f).fget g m n = s.fget g m n := rfl
@[simp] theorem State.upPort_flag (s : State) (k : Nat) (f : Port → Port) (g : Field) (m n : Nat) :
    (s.upPort k f).flag g m n = s.flag g m n := rfl
@[simp] theorem State.upPort_bore (s : State) (k : Nat) (f : Port → Port) (c : Nat) :
    (s.upPort k f).bore c = s.bore c := rfl
@[simp] theorem State.upPort_ch (s : State) (k : Nat) (f : Port → Port) (c : Nat) :
    (s.upPort k f).ch c = s.ch c := rfl
@[simp] theorem State.upPort_rank (s : State) (k : Nat) (f : Port → Port) (c q : Nat) :
    (s.upPort k f).rank c q = s.rank c q := rfl
@[simp] theorem State.upPort_queue (s : State) (k : Nat) (f : Port → Port) (c q : Nat) :
    (s.upPort k f).queue c q = s.queue c q := rfl
@[simp] theorem State.upPort_sched (s : State) (k : Nat) (f : Port → Port) (q : Nat) :
    (s.upPort k f).sched q = s.sched q := rfl
@[simp] theorem State.upPort_hset (s : State) (k : Nat) (f : Port → Port) (q : Nat) :
    (s.upPort k f).hset q = s.hset q := rfl
@[simp] theorem State.upPort_ctx (s : State) (k : Nat) (f : Port → Port) (c : Nat) :
    (s.upPort k f).ctx c = s.ctx c := rfl
@[simp] theorem State.upPort_part (s : State) (k : Nat) (f : Port → Port) (q : Nat) :
    (s.upPort k f).part q = s.part q := rfl
@[simp] theorem State.upPort_byteAt (s : State) (k : Nat) (f : Port → Port) (x : Nat) :
    (s.upPort k f).byteAt x = s.byteAt x := rfl

/-! ### send -/

@[simp] theorem State.send_regs (s : State) (c : XClass) (x y : Endpoint) (p : Packet) :
    (s.send c x y p).regs = s.regs := rfl
@[simp] theorem State.send_capt (s : State) (c : XClass) (x y : Endpoint) (p : Packet) :
    (s.send c x y p).capt = s.capt := rfl
@[simp] theorem State.send_held (s : State) (c : XClass) (x y : Endpoint) (p : Packet) :
    (s.send c x y p).held = s.held := rfl
@[simp] theorem State.send_rdata (s : State) (c : XClass) (x y : Endpoint) (p : Packet) :
    (s.send c x y p).rdata = s.rdata := rfl
@[simp] theorem State.send_rbytes (s : State) (c : XClass) (x y : Endpoint) (p : Packet) :
    (s.send c x y p).rbytes = s.rbytes := rfl
@[simp] theorem State.send_rstat (s : State) (c : XClass) (x y : Endpoint) (p : Packet) :
    (s.send c x y p).rstat = s.rstat := rfl
@[simp] theorem State.send_mem (s : State) (c : XClass) (x y : Endpoint) (p : Packet) :
    (s.send c x y p).mem = s.mem := rfl
@[simp] theorem State.send_poison (s : State) (c : XClass) (x y : Endpoint) (p : Packet) :
    (s.send c x y p).poison = s.poison := rfl
@[simp] theorem State.send_single (s : State) (c : XClass) (x y : Endpoint) (p : Packet) :
    (s.send c x y p).single = s.single := rfl
@[simp] theorem State.send_double (s : State) (c : XClass) (x y : Endpoint) (p : Packet) :
    (s.send c x y p).double = s.double := rfl
@[simp] theorem State.send_bores (s : State) (c : XClass) (x y : Endpoint) (p : Packet) :
    (s.send c x y p).bores = s.bores := rfl
@[simp] theorem State.send_sites (s : State) (c : XClass) (x y : Endpoint) (p : Packet) :
    (s.send c x y p).sites = s.sites := rfl
@[simp] theorem State.send_tlb (s : State) (c : XClass) (x y : Endpoint) (p : Packet) :
    (s.send c x y p).tlb = s.tlb := rfl
@[simp] theorem State.send_watches (s : State) (c : XClass) (x y : Endpoint) (p : Packet) :
    (s.send c x y p).watches = s.watches := rfl
@[simp] theorem State.send_bars (s : State) (c : XClass) (x y : Endpoint) (p : Packet) :
    (s.send c x y p).bars = s.bars := rfl
@[simp] theorem State.send_scheds (s : State) (c : XClass) (x y : Endpoint) (p : Packet) :
    (s.send c x y p).scheds = s.scheds := rfl
@[simp] theorem State.send_health (s : State) (c : XClass) (x y : Endpoint) (p : Packet) :
    (s.send c x y p).health = s.health := rfl
@[simp] theorem State.send_ctxs (s : State) (c : XClass) (x y : Endpoint) (p : Packet) :
    (s.send c x y p).ctxs = s.ctxs := rfl
@[simp] theorem State.send_parts (s : State) (c : XClass) (x y : Endpoint) (p : Packet) :
    (s.send c x y p).parts = s.parts := rfl
@[simp] theorem State.send_starts (s : State) (c : XClass) (x y : Endpoint) (p : Packet) :
    (s.send c x y p).starts = s.starts := rfl
@[simp] theorem State.send_cmds (s : State) (c : XClass) (x y : Endpoint) (p : Packet) :
    (s.send c x y p).cmds = s.cmds := rfl
@[simp] theorem State.send_seqno (s : State) (c : XClass) (x y : Endpoint) (p : Packet) :
    (s.send c x y p).seqno = s.seqno := rfl
@[simp] theorem State.send_ports (s : State) (c : XClass) (x y : Endpoint) (p : Packet) :
    (s.send c x y p).ports = s.ports := rfl
@[simp] theorem State.send_hif (s : State) (c : XClass) (x y : Endpoint) (p : Packet) :
    (s.send c x y p).hif = s.hif := rfl
@[simp] theorem State.send_drone (s : State) (c : XClass) (x y : Endpoint) (p : Packet) :
    (s.send c x y p).drone = s.drone := rfl
@[simp] theorem State.send_boot (s : State) (c : XClass) (x y : Endpoint) (p : Packet) :
    (s.send c x y p).boot = s.boot := rfl
@[simp] theorem State.send_emb (s : State) (c : XClass) (x y : Endpoint) (p : Packet) :
    (s.send c x y p).emb = s.emb := rfl
@[simp] theorem State.send_bell (s : State) (c : XClass) (x y : Endpoint) (p : Packet) :
    (s.send c x y p).bell = s.bell := rfl
@[simp] theorem State.send_faults (s : State) (c : XClass) (x y : Endpoint) (p : Packet) :
    (s.send c x y p).faults = s.faults := rfl
@[simp] theorem State.send_flash (s : State) (c : XClass) (x y : Endpoint) (p : Packet) :
    (s.send c x y p).flash = s.flash := rfl
@[simp] theorem State.send_smb (s : State) (c : XClass) (x y : Endpoint) (p : Packet) :
    (s.send c x y p).smb = s.smb := rfl
@[simp] theorem State.send_tap (s : State) (c : XClass) (x y : Endpoint) (p : Packet) :
    (s.send c x y p).tap = s.tap := rfl
@[simp] theorem State.send_freeCtr (s : State) (c : XClass) (x y : Endpoint) (p : Packet) :
    (s.send c x y p).freeCtr = s.freeCtr := rfl
@[simp] theorem State.send_inval (s : State) (c : XClass) (x y : Endpoint) (p : Packet) :
    (s.send c x y p).inval = s.inval := rfl
@[simp] theorem State.send_stashOut (s : State) (c : XClass) (x y : Endpoint) (p : Packet) :
    (s.send c x y p).stashOut = s.stashOut := rfl
@[simp] theorem State.send_stashIn (s : State) (c : XClass) (x y : Endpoint) (p : Packet) :
    (s.send c x y p).stashIn = s.stashIn := rfl
@[simp] theorem State.send_pending (s : State) (c : XClass) (x y : Endpoint) (p : Packet) :
    (s.send c x y p).pending = s.pending := rfl
@[simp] theorem State.send_rget (s : State) (c : XClass) (x y : Endpoint) (p : Packet) (r : Reg) (m n : Nat) :
    (s.send c x y p).rget r m n = s.rget r m n := rfl
@[simp] theorem State.send_fget (s : State) (c : XClass) (x y : Endpoint) (p : Packet) (g : Field) (m n : Nat) :
    (s.send c x y p).fget g m n = s.fget g m n := rfl
@[simp] theorem State.send_flag (s : State) (c : XClass) (x y : Endpoint) (p : Packet) (g : Field) (m n : Nat) :
    (s.send c x y p).flag g m n = s.flag g m n := rfl
@[simp] theorem State.send_bore (s : State) (c : XClass) (x y : Endpoint) (p : Packet) (c1 : Nat) :
    (s.send c x y p).bore c1 = s.bore c1 := rfl
@[simp] theorem State.send_ch (s : State) (c : XClass) (x y : Endpoint) (p : Packet) (c1 : Nat) :
    (s.send c x y p).ch c1 = s.ch c1 := rfl
@[simp] theorem State.send_rank (s : State) (c : XClass) (x y : Endpoint) (p : Packet) (c1 q : Nat) :
    (s.send c x y p).rank c1 q = s.rank c1 q := rfl
@[simp] theorem State.send_queue (s : State) (c : XClass) (x y : Endpoint) (p : Packet) (c1 q : Nat) :
    (s.send c x y p).queue c1 q = s.queue c1 q := rfl
@[simp] theorem State.send_sched (s : State) (c : XClass) (x y : Endpoint) (p : Packet) (q : Nat) :
    (s.send c x y p).sched q = s.sched q := rfl
@[simp] theorem State.send_hset (s : State) (c : XClass) (x y : Endpoint) (p : Packet) (q : Nat) :
    (s.send c x y p).hset q = s.hset q := rfl
@[simp] theorem State.send_ctx (s : State) (c : XClass) (x y : Endpoint) (p : Packet) (c1 : Nat) :
    (s.send c x y p).ctx c1 = s.ctx c1 := rfl
@[simp] theorem State.send_part (s : State) (c : XClass) (x y : Endpoint) (p : Packet) (q : Nat) :
    (s.send c x y p).part q = s.part q := rfl
@[simp] theorem State.send_port (s : State) (c : XClass) (x y : Endpoint) (p : Packet) (q : Nat) :
    (s.send c x y p).port q = s.port q := rfl
@[simp] theorem State.send_byteAt (s : State) (c : XClass) (x y : Endpoint) (p : Packet) (x1 : Nat) :
    (s.send c x y p).byteAt x1 = s.byteAt x1 := rfl

/-! ### setBytes -/

@[simp] theorem State.setBytes_regs (s : State) (a : Nat) (l : List Byte) :
    (s.setBytes a l).regs = s.regs := rfl
@[simp] theorem State.setBytes_capt (s : State) (a : Nat) (l : List Byte) :
    (s.setBytes a l).capt = s.capt := rfl
@[simp] theorem State.setBytes_held (s : State) (a : Nat) (l : List Byte) :
    (s.setBytes a l).held = s.held := rfl
@[simp] theorem State.setBytes_rdata (s : State) (a : Nat) (l : List Byte) :
    (s.setBytes a l).rdata = s.rdata := rfl
@[simp] theorem State.setBytes_rbytes (s : State) (a : Nat) (l : List Byte) :
    (s.setBytes a l).rbytes = s.rbytes := rfl
@[simp] theorem State.setBytes_rstat (s : State) (a : Nat) (l : List Byte) :
    (s.setBytes a l).rstat = s.rstat := rfl
@[simp] theorem State.setBytes_poison (s : State) (a : Nat) (l : List Byte) :
    (s.setBytes a l).poison = s.poison := rfl
@[simp] theorem State.setBytes_single (s : State) (a : Nat) (l : List Byte) :
    (s.setBytes a l).single = s.single := rfl
@[simp] theorem State.setBytes_double (s : State) (a : Nat) (l : List Byte) :
    (s.setBytes a l).double = s.double := rfl
@[simp] theorem State.setBytes_net (s : State) (a : Nat) (l : List Byte) :
    (s.setBytes a l).net = s.net := rfl
@[simp] theorem State.setBytes_bores (s : State) (a : Nat) (l : List Byte) :
    (s.setBytes a l).bores = s.bores := rfl
@[simp] theorem State.setBytes_sites (s : State) (a : Nat) (l : List Byte) :
    (s.setBytes a l).sites = s.sites := rfl
@[simp] theorem State.setBytes_tlb (s : State) (a : Nat) (l : List Byte) :
    (s.setBytes a l).tlb = s.tlb := rfl
@[simp] theorem State.setBytes_watches (s : State) (a : Nat) (l : List Byte) :
    (s.setBytes a l).watches = s.watches := rfl
@[simp] theorem State.setBytes_bars (s : State) (a : Nat) (l : List Byte) :
    (s.setBytes a l).bars = s.bars := rfl
@[simp] theorem State.setBytes_scheds (s : State) (a : Nat) (l : List Byte) :
    (s.setBytes a l).scheds = s.scheds := rfl
@[simp] theorem State.setBytes_health (s : State) (a : Nat) (l : List Byte) :
    (s.setBytes a l).health = s.health := rfl
@[simp] theorem State.setBytes_ctxs (s : State) (a : Nat) (l : List Byte) :
    (s.setBytes a l).ctxs = s.ctxs := rfl
@[simp] theorem State.setBytes_parts (s : State) (a : Nat) (l : List Byte) :
    (s.setBytes a l).parts = s.parts := rfl
@[simp] theorem State.setBytes_starts (s : State) (a : Nat) (l : List Byte) :
    (s.setBytes a l).starts = s.starts := rfl
@[simp] theorem State.setBytes_cmds (s : State) (a : Nat) (l : List Byte) :
    (s.setBytes a l).cmds = s.cmds := rfl
@[simp] theorem State.setBytes_seqno (s : State) (a : Nat) (l : List Byte) :
    (s.setBytes a l).seqno = s.seqno := rfl
@[simp] theorem State.setBytes_ports (s : State) (a : Nat) (l : List Byte) :
    (s.setBytes a l).ports = s.ports := rfl
@[simp] theorem State.setBytes_hif (s : State) (a : Nat) (l : List Byte) :
    (s.setBytes a l).hif = s.hif := rfl
@[simp] theorem State.setBytes_drone (s : State) (a : Nat) (l : List Byte) :
    (s.setBytes a l).drone = s.drone := rfl
@[simp] theorem State.setBytes_boot (s : State) (a : Nat) (l : List Byte) :
    (s.setBytes a l).boot = s.boot := rfl
@[simp] theorem State.setBytes_emb (s : State) (a : Nat) (l : List Byte) :
    (s.setBytes a l).emb = s.emb := rfl
@[simp] theorem State.setBytes_bell (s : State) (a : Nat) (l : List Byte) :
    (s.setBytes a l).bell = s.bell := rfl
@[simp] theorem State.setBytes_faults (s : State) (a : Nat) (l : List Byte) :
    (s.setBytes a l).faults = s.faults := rfl
@[simp] theorem State.setBytes_flash (s : State) (a : Nat) (l : List Byte) :
    (s.setBytes a l).flash = s.flash := rfl
@[simp] theorem State.setBytes_smb (s : State) (a : Nat) (l : List Byte) :
    (s.setBytes a l).smb = s.smb := rfl
@[simp] theorem State.setBytes_tap (s : State) (a : Nat) (l : List Byte) :
    (s.setBytes a l).tap = s.tap := rfl
@[simp] theorem State.setBytes_freeCtr (s : State) (a : Nat) (l : List Byte) :
    (s.setBytes a l).freeCtr = s.freeCtr := rfl
@[simp] theorem State.setBytes_inval (s : State) (a : Nat) (l : List Byte) :
    (s.setBytes a l).inval = s.inval := rfl
@[simp] theorem State.setBytes_stashOut (s : State) (a : Nat) (l : List Byte) :
    (s.setBytes a l).stashOut = s.stashOut := rfl
@[simp] theorem State.setBytes_stashIn (s : State) (a : Nat) (l : List Byte) :
    (s.setBytes a l).stashIn = s.stashIn := rfl
@[simp] theorem State.setBytes_pending (s : State) (a : Nat) (l : List Byte) :
    (s.setBytes a l).pending = s.pending := rfl
@[simp] theorem State.setBytes_rget (s : State) (a : Nat) (l : List Byte) (r : Reg) (m n : Nat) :
    (s.setBytes a l).rget r m n = s.rget r m n := rfl
@[simp] theorem State.setBytes_fget (s : State) (a : Nat) (l : List Byte) (g : Field) (m n : Nat) :
    (s.setBytes a l).fget g m n = s.fget g m n := rfl
@[simp] theorem State.setBytes_flag (s : State) (a : Nat) (l : List Byte) (g : Field) (m n : Nat) :
    (s.setBytes a l).flag g m n = s.flag g m n := rfl
@[simp] theorem State.setBytes_bore (s : State) (a : Nat) (l : List Byte) (c : Nat) :
    (s.setBytes a l).bore c = s.bore c := rfl
@[simp] theorem State.setBytes_ch (s : State) (a : Nat) (l : List Byte) (c : Nat) :
    (s.setBytes a l).ch c = s.ch c := rfl
@[simp] theorem State.setBytes_rank (s : State) (a : Nat) (l : List Byte) (c q : Nat) :
    (s.setBytes a l).rank c q = s.rank c q := rfl
@[simp] theorem State.setBytes_queue (s : State) (a : Nat) (l : List Byte) (c q : Nat) :
    (s.setBytes a l).queue c q = s.queue c q := rfl
@[simp] theorem State.setBytes_sched (s : State) (a : Nat) (l : List Byte) (q : Nat) :
    (s.setBytes a l).sched q = s.sched q := rfl
@[simp] theorem State.setBytes_hset (s : State) (a : Nat) (l : List Byte) (q : Nat) :
    (s.setBytes a l).hset q = s.hset q := rfl
@[simp] theorem State.setBytes_ctx (s : State) (a : Nat) (l : List Byte) (c : Nat) :
    (s.setBytes a l).ctx c = s.ctx c := rfl
@[simp] theorem State.setBytes_part (s : State) (a : Nat) (l : List Byte) (q : Nat) :
    (s.setBytes a l).part q = s.part q := rfl
@[simp] theorem State.setBytes_port (s : State) (a : Nat) (l : List Byte) (q : Nat) :
    (s.setBytes a l).port q = s.port q := rfl

/-! ### free -/

@[simp] theorem State.free_regs (s : State) (w : Nat) :
    (s.free w).2.regs = s.regs := rfl
@[simp] theorem State.free_capt (s : State) (w : Nat) :
    (s.free w).2.capt = s.capt := rfl
@[simp] theorem State.free_held (s : State) (w : Nat) :
    (s.free w).2.held = s.held := rfl
@[simp] theorem State.free_rdata (s : State) (w : Nat) :
    (s.free w).2.rdata = s.rdata := rfl
@[simp] theorem State.free_rbytes (s : State) (w : Nat) :
    (s.free w).2.rbytes = s.rbytes := rfl
@[simp] theorem State.free_rstat (s : State) (w : Nat) :
    (s.free w).2.rstat = s.rstat := rfl
@[simp] theorem State.free_mem (s : State) (w : Nat) :
    (s.free w).2.mem = s.mem := rfl
@[simp] theorem State.free_poison (s : State) (w : Nat) :
    (s.free w).2.poison = s.poison := rfl
@[simp] theorem State.free_single (s : State) (w : Nat) :
    (s.free w).2.single = s.single := rfl
@[simp] theorem State.free_double (s : State) (w : Nat) :
    (s.free w).2.double = s.double := rfl
@[simp] theorem State.free_net (s : State) (w : Nat) :
    (s.free w).2.net = s.net := rfl
@[simp] theorem State.free_bores (s : State) (w : Nat) :
    (s.free w).2.bores = s.bores := rfl
@[simp] theorem State.free_sites (s : State) (w : Nat) :
    (s.free w).2.sites = s.sites := rfl
@[simp] theorem State.free_tlb (s : State) (w : Nat) :
    (s.free w).2.tlb = s.tlb := rfl
@[simp] theorem State.free_watches (s : State) (w : Nat) :
    (s.free w).2.watches = s.watches := rfl
@[simp] theorem State.free_bars (s : State) (w : Nat) :
    (s.free w).2.bars = s.bars := rfl
@[simp] theorem State.free_scheds (s : State) (w : Nat) :
    (s.free w).2.scheds = s.scheds := rfl
@[simp] theorem State.free_health (s : State) (w : Nat) :
    (s.free w).2.health = s.health := rfl
@[simp] theorem State.free_ctxs (s : State) (w : Nat) :
    (s.free w).2.ctxs = s.ctxs := rfl
@[simp] theorem State.free_parts (s : State) (w : Nat) :
    (s.free w).2.parts = s.parts := rfl
@[simp] theorem State.free_starts (s : State) (w : Nat) :
    (s.free w).2.starts = s.starts := rfl
@[simp] theorem State.free_cmds (s : State) (w : Nat) :
    (s.free w).2.cmds = s.cmds := rfl
@[simp] theorem State.free_seqno (s : State) (w : Nat) :
    (s.free w).2.seqno = s.seqno := rfl
@[simp] theorem State.free_ports (s : State) (w : Nat) :
    (s.free w).2.ports = s.ports := rfl
@[simp] theorem State.free_hif (s : State) (w : Nat) :
    (s.free w).2.hif = s.hif := rfl
@[simp] theorem State.free_drone (s : State) (w : Nat) :
    (s.free w).2.drone = s.drone := rfl
@[simp] theorem State.free_boot (s : State) (w : Nat) :
    (s.free w).2.boot = s.boot := rfl
@[simp] theorem State.free_emb (s : State) (w : Nat) :
    (s.free w).2.emb = s.emb := rfl
@[simp] theorem State.free_bell (s : State) (w : Nat) :
    (s.free w).2.bell = s.bell := rfl
@[simp] theorem State.free_faults (s : State) (w : Nat) :
    (s.free w).2.faults = s.faults := rfl
@[simp] theorem State.free_flash (s : State) (w : Nat) :
    (s.free w).2.flash = s.flash := rfl
@[simp] theorem State.free_smb (s : State) (w : Nat) :
    (s.free w).2.smb = s.smb := rfl
@[simp] theorem State.free_tap (s : State) (w : Nat) :
    (s.free w).2.tap = s.tap := rfl
@[simp] theorem State.free_inval (s : State) (w : Nat) :
    (s.free w).2.inval = s.inval := rfl
@[simp] theorem State.free_stashOut (s : State) (w : Nat) :
    (s.free w).2.stashOut = s.stashOut := rfl
@[simp] theorem State.free_stashIn (s : State) (w : Nat) :
    (s.free w).2.stashIn = s.stashIn := rfl
@[simp] theorem State.free_pending (s : State) (w : Nat) :
    (s.free w).2.pending = s.pending := rfl
@[simp] theorem State.free_rget (s : State) (w : Nat) (r : Reg) (m n : Nat) :
    (s.free w).2.rget r m n = s.rget r m n := rfl
@[simp] theorem State.free_fget (s : State) (w : Nat) (g : Field) (m n : Nat) :
    (s.free w).2.fget g m n = s.fget g m n := rfl
@[simp] theorem State.free_flag (s : State) (w : Nat) (g : Field) (m n : Nat) :
    (s.free w).2.flag g m n = s.flag g m n := rfl
@[simp] theorem State.free_bore (s : State) (w : Nat) (c : Nat) :
    (s.free w).2.bore c = s.bore c := rfl
@[simp] theorem State.free_ch (s : State) (w : Nat) (c : Nat) :
    (s.free w).2.ch c = s.ch c := rfl
@[simp] theorem State.free_rank (s : State) (w : Nat) (c q : Nat) :
    (s.free w).2.rank c q = s.rank c q := rfl
@[simp] theorem State.free_queue (s : State) (w : Nat) (c q : Nat) :
    (s.free w).2.queue c q = s.queue c q := rfl
@[simp] theorem State.free_sched (s : State) (w : Nat) (q : Nat) :
    (s.free w).2.sched q = s.sched q := rfl
@[simp] theorem State.free_hset (s : State) (w : Nat) (q : Nat) :
    (s.free w).2.hset q = s.hset q := rfl
@[simp] theorem State.free_ctx (s : State) (w : Nat) (c : Nat) :
    (s.free w).2.ctx c = s.ctx c := rfl
@[simp] theorem State.free_part (s : State) (w : Nat) (q : Nat) :
    (s.free w).2.part q = s.part q := rfl
@[simp] theorem State.free_port (s : State) (w : Nat) (q : Nat) :
    (s.free w).2.port q = s.port q := rfl
@[simp] theorem State.free_byteAt (s : State) (w : Nat) (x : Nat) :
    (s.free w).2.byteAt x = s.byteAt x := rfl

end Sys2Proof.Machine
end

