-- ==== Sys2Proof/WellFormed.lean ====
section
/-!
DEFINITION. WellFormed.lean: which commands name a unit that the device has.  Each bound is the number of units that the
spec gives: 64 bores and 12 crook ports (R20, R22), 16 partitions (R23), stage schedulers (R360), health sets (R403) and
TDM ports (R615), 1,024 contexts (R439), 80 ranks of 64 reeds (R209), 32 queues and 256 channels (R284), 64 handles (R260), 4,096
barriers (R330), 16,384 pool counters and 48 local counters (R356), 16,384 streams (R618), 4 pipes (R653), 2 DisplayPort
links, and 256 PCIe functions (R508).
-/

namespace Sys2Proof

/-- A requester that exists. -/
def Requester.wf : Requester → Bool
  | .fn n => n < 256
  | .bore b => b < 64
  | .resmgr | .drone | .smbus => true

/-- A hub unit that exists (R287). -/
def HubUnit.wf : HubUnit → Bool
  | .stage p => p < 16
  | .health h => h < 16
  | .hostMsg | .doorbells | .emb | .bell | .sync | .resmgr | .stash | .drone => true

/-- An endpoint that exists (R26). -/
def Endpoint.wf : Endpoint → Bool
  | .bore b => b < 64
  | .hbm h => h < 8
  | .crook k => k < 12
  | .unit u => u.wf
  | .host => true

/-- A reset scope that exists (R586). -/
def ResetScope.wf : ResetScope → Bool
  | .bore b => b < 64
  | .partition p => p < 16
  | .package => true

/-- An INIT flit of a port that exists, with a grant for each lane (R493, R498). -/
def InitFlit.wf (i : InitFlit) : Bool := decide (i.port < 12) && decide (i.grants.length = 4) && decide (i.crvl < 4)

/-- A command whose operands name units that exist. -/
def Instr.wf : Instr → Bool
  | .coldReset strap => decide (strap < 8)
  | .porstNAssert => true
  | .warmReset scope => scope.wf
  | .registerWrite who _ _ _ => who.wf
  | .rcFieldRead who _ _ => who.wf
  | .lowWordRead who _ => who.wf
  | .highWordRead who _ => who.wf
  | .lowWordWrite who _ _ => who.wf
  | .highWordWrite who _ _ => who.wf
  | .undocumentedOffsetAccess who _ _ _ => who.wf
  | .windwayWriteArrival src dst => src.wf && dst.wf
  | .windwayReadArrival src dst => src.wf && dst.wf
  | .readCompletionArrival src dst => src.wf && dst.wf
  | .writeAcknowledgement src dst => src.wf && dst.wf
  | .boreClockStartForAccess b => decide (b < 64)
  | .fabricRestart q => decide (q < 4)
  | .fabricIdleStop q => decide (q < 4)
  | .translationWalk b => decide (b < 64)
  | .programStoreWrite who _ _ => who.wf
  | .registerWindowAccess who b _ _ => who.wf && decide (b < 64)
  | .chnPcWrite who b _ => who.wf && decide (b < 64)
  | .go who b => who.wf && decide (b < 64)
  | .step who b => who.wf && decide (b < 64)
  | .chnCtrlHalt who b => who.wf && decide (b < 64)
  | .clrfault who b => who.wf && decide (b < 64)
  | .clrcnt who b => who.wf && decide (b < 64)
  | .bundleIssue b => decide (b < 64)
  | .waitTimeout b => decide (b < 64)
  | .registerWriteback b _ => decide (b < 64)
  | .loadCompletion b _ => decide (b < 64)
  | .impreciseFault b => decide (b < 64)
  | .chanterHaltComplete b => decide (b < 64)
  | .dmaRequestStart b => decide (b < 64)
  | .dmaCompletion b _ => decide (b < 64)
  | .feedTileComplete b => decide (b < 64)
  | .arrayInstructionBegin b => decide (b < 64)
  | .arrayInstructionFinish o => decide (o.bore < 64)
  | .drainCompletion b => decide (b < 64)
  | .vkloadComplete b => decide (b < 64)
  | .launchStart b r => decide (b < 64) && decide (r < 80)
  | .launchFinish b _ => decide (b < 64)
  | .rankStopComplete b r => decide (b < 64) && decide (r < 80)
  | .arrivalSend b => decide (b < 64)
  | .columnTest who b => who.wf && decide (b < 64)
  | .columnTestDone b _ _ => decide (b < 64)
  | .bypassCommit who b _ => who.wf && decide (b < 64)
  | .bypassCommitDone b _ _ => decide (b < 64)
  | .reedIssue b r lane => decide (b < 64) && decide (r < 80) && decide (lane < 64)
  | .reedLoadReturn b r lane => decide (b < 64) && decide (r < 80) && decide (lane < 64)
  | .rankBarrierComplete b r scope => decide (b < 64) && decide (r < 80) && decide (scope < 2)
  | .rankArrivalSend b r => decide (b < 64) && decide (r < 80)
  | .reedDebugWindowAccess who b _ _ => who.wf && decide (b < 64)
  | .alloc who b h => who.wf && decide (b < 64) && decide (h < 64)
  | .allocLock who b h => who.wf && decide (b < 64) && decide (h < 64)
  | .release who b h => who.wf && decide (b < 64) && decide (h < 64)
  | .releaseScrub who b h => who.wf && decide (b < 64) && decide (h < 64)
  | .handleCommandEffect b => decide (b < 64)
  | .scrubStart b => decide (b < 64)
  | .scrubEnd b => decide (b < 64)
  | .wchClear who b => who.wf && decide (b < 64)
  | .wchFreeze who b _ => who.wf && decide (b < 64)
  | .messageArrival src b => src.wf && decide (b < 64)
  | .channelIncrementArrival src b => src.wf && decide (b < 64)
  | .nackMessageArrival src b => src.wf && decide (b < 64)
  | .creditReturn src dst => src.wf && dst.wf
  | .reservationRelease src dst => src.wf && dst.wf
  | .orphanMarkArrival src dst => src.wf && dst.wf
  | .routeWrite who tbl owner entry _ _ => who.wf && decide (owner < if tbl = .queue then 64 else 16) &&
      decide (entry < if tbl = .queue then 256 else 64)
  | .queueConfigWrite who b q _ => who.wf && decide (b < 64) && decide (q < 32)
  | .qctlOpen who b q => who.wf && decide (b < 64) && decide (q < 32)
  | .qctlClose who b q => who.wf && decide (b < 64) && decide (q < 32)
  | .newepoch who b q => who.wf && decide (b < 64) && decide (q < 32)
  | .channelAudit who b ch => who.wf && decide (b < 64) && decide (ch < 256)
  | .auditMarkerArrival src b => src.wf && decide (b < 64)
  | .auditReplyArrival src b => src.wf && decide (b < 64)
  | .poolIncrementArrival src => src.wf
  | .watchArrival src => src.wf
  | .watchAnswerArrival b => decide (b < 64)
  | .barrierArrival src => src.wf
  | .barrierCompletionArrival b => decide (b < 64)
  | .abort who bid => who.wf && decide (bid < 4096)
  | .poolBlockWrite who blk _ => who.wf && decide (blk < 1024)
  | .barrierConfigWrite who bid _ => who.wf && decide (bid < 4096)
  | .counterValueWrite who bore n _ => who.wf && bore.elim (decide (n < 16384)) fun b => decide (b < 64 ∧ n < 48)
  | .counterArmWrite who b n _ => who.wf && decide (b < 64) && decide (n < 48)
  | .stgStart who p => who.wf && decide (p < 16)
  | .stgStop who p => who.wf && decide (p < 16)
  | .nextstep who p => who.wf && decide (p < 16)
  | .stgInject who p _ => who.wf && decide (p < 16)
  | .tagMessageArrival p => decide (p < 16)
  | .doneReport src p => src.wf && decide (p < 16)
  | .controlMessage src p => src.wf && decide (p < 16)
  | .dispatch p => decide (p < 16)
  | .stepend p => decide (p < 16)
  | .emission p => decide (p < 16)
  | .stashChunk p _ => decide (p < 16)
  | .stashOutComplete p => decide (p < 16)
  | .restoreRequest p => decide (p < 16)
  | .restoreComplete p => decide (p < 16)
  | .amaxReport src h => src.wf && decide (h < 16)
  | .lossReport src h => src.wf && decide (h < 16)
  | .gateRequest src h => src.wf && decide (h < 16)
  | .gateRelease who h => who.wf && decide (h < 16)
  | .gateSkip who h => who.wf && decide (h < 16)
  | .holdnext who h => who.wf && decide (h < 16)
  | .verdictSend h => decide (h < 16)
  | .roundCompletion h slot => decide (h < 16) && decide (slot < 4)
  | .rebuild who p subst => who.wf && decide (p < 16) && (subst.elim true fun b => decide (b < 64))
  | .rebuildComplete p fails => decide (p < 16) && fails.all fun b => b < 64
  | .create who c => who.wf && decide (c < 1024)
  | .load who c => who.wf && decide (c < 1024)
  | .contextBinding c => decide (c < 1024)
  | .evict who c => who.wf && decide (c < 1024)
  | .evictionSave c => decide (c < 1024)
  | .prtStart who c => who.wf && decide (c < 1024)
  | .prtEnd who c => who.wf && decide (c < 1024)
  | .endingRelease c => decide (c < 1024)
  | .prtReset who c => who.wf && decide (c < 1024)
  | .destroy who c => who.wf && decide (c < 1024)
  | .contextStartDispatch b => decide (b < 64)
  | .residencyArrival src => src.wf
  | .ctxInval who c => who.wf && decide (c < 1024)
  | .invalidationComplete c => decide (c < 1024)
  | .crkEnable who k _ => who.wf && decide (k < 12)
  | .crkRetrain who k => who.wf && decide (k < 12)
  | .crkReset who k => who.wf && decide (k < 12)
  | .trainingComplete k init => decide (k < 12) && init.wf
  | .trainingTimeout k => decide (k < 12)
  | .retrainComplete k init => decide (k < 12) && init.wf
  | .retrainTimeout k => decide (k < 12)
  | .laneLockLoss k => decide (k < 12)
  | .initFlitReceived k init => decide (k < 12) && init.wf
  | .flitReceived k flit => decide (k < 12) && decide (flit.bytes.length = 256)
  | .replayTimeout k => decide (k < 12)
  | .flitTransmit k => decide (k < 12)
  | .putCommand src k => src.wf && decide (k < 12)
  | .redCommand src k => src.wf && decide (k < 12)
  | .transferStart k dq => decide (k < 12) && decide (dq < 3)
  | .putArrival k => decide (k < 12)
  | .putComplete k => decide (k < 12)
  | .redArrival k => decide (k < 12)
  | .ackArrival k => decide (k < 12)
  | .msgTransfer k => decide (k < 12)
  | .incTransfer k => decide (k < 12)
  | .retTransfer k => decide (k < 12)
  | .tagTransfer k => decide (k < 12)
  | .auditTransfer k => decide (k < 12)
  | .windowWrite who k w _ _ => who.wf && decide (k < 12) && decide (w < 8)
  | .doorbell fn _ words _ _ => decide (fn < 256) && decide (1 ≤ words.length ∧ words.length ≤ 4)
  | .doorbellForward fn => decide (fn < 256)
  | .doorbellStatusClear fn _ _ => decide (fn < 256)
  | .headWrite fn _ _ => decide (fn < 256)
  | .armWrite fn _ _ => decide (fn < 256)
  | .hostMessageArrival src => src.wf
  | .vfLoad vf _ => decide (vf < 256)
  | .vfEvict vf _ => decide (vf < 256)
  | .vfStart vf _ => decide (vf < 256)
  | .vfEnd vf _ => decide (vf < 256)
  | .vfReset vf _ => decide (vf < 256)
  | .vfmapWrite who vf _ => who.wf && decide (1 ≤ vf ∧ vf < 256)
  | .dbrWrite who r _ => who.wf && decide (r < 8192)
  | .hringWrite who r _ => who.wf && decide (r < 2048)
  | .ctxhWrite who c _ => who.wf && decide (c < 1024)
  | .bar4Access _ _ _ => true
  | .configRequest fn _ => decide (fn < 256)
  | .flr vf => decide (vf < 256)
  | .hostReset _ => true
  | .linkUp _ _ _ => true
  | .hostReadCompletion dst _ _ => dst.wf
  | .completionTimeout dst => dst.wf
  | .bpcmdWake who b => who.wf && decide (b < 64)
  | .bpcmdSleep who b => who.wf && decide (b < 64)
  | .bpcmdDeep who b => who.wf && decide (b < 64)
  | .bpcmdOff who b => who.wf && decide (b < 64)
  | .bpcmdOn who b => who.wf && decide (b < 64)
  | .quietTimeout b => decide (b < 64)
  | .idleTimeout b => decide (b < 64)
  | .sleepTimeout b => decide (b < 64)
  | .powerStateEntryComplete b => decide (b < 64)
  | .wakeTrigger b => decide (b < 64)
  | .wakeComplete b => decide (b < 64)
  | .bellowsPeriod => true
  | .tokenCredit => true
  | .thermalReading temps => decide (temps.length = 16)
  | .powerSum => true
  | .pmbusPoll reads => reads.all fun x => x.slot < 16
  | .pmbAlert reads => reads.all fun x => x.slot < 16
  | .fanFail f _ => decide (f < 4)
  | .refclkLoss => true
  | .refclkRestore => true
  | .blwLimitWrite who _ => who.wf
  | .retirementDrained b => decide (b < 64)
  | .retirementAbandon b => decide (b < 64)
  | .drainIntervalEnd b => decide (b < 64)
  | .stubAnswer src b => src.wf && decide (b < 64)
  | .leaveOffComplete b => decide (b < 64)
  | .wakefail b => decide (b < 64)
  | .railSequence => true
  | .railSequenceTimeout => true
  | .firmwareVerify => true
  | .fuseApply => true
  | .hbmTraining trained => trained.all fun h => h < 8
  | .hostready => true
  | .selfTest results _ => results.all fun x => x.site < 68
  | .capabilityPublish => true
  | .reboot who => who.wf
  | .svnlock who _ _ => who.wf
  | .challenge who => who.wf
  | .submit who => who.wf
  | .relock who => who.wf
  | .nonceExpiry => true
  | .consoleRelease => true
  | .embEnable who s => who.wf && decide (s < 16384)
  | .embDisable who s => who.wf && decide (s < 16384)
  | .embGaincommit who s => who.wf && decide (s < 16384)
  | .query who s => who.wf && decide (s < 16384)
  | .gainSetRead s => decide (s < 16384)
  | .boreGaincommit src => src.wf
  | .portEnable who p => who.wf && decide (p < 16)
  | .portDisable who p => who.wf && decide (p < 16)
  | .rateAck who p => who.wf && decide (p < 16)
  | .frameSync p _ _ _ => decide (p < 16)
  | .holdoverEntry p => decide (p < 16)
  | .portFrameStart p => decide (p < 16)
  | .captureFrameEnd s => decide (s < 16384)
  | .statisticsRecordWrite s => decide (s < 16384)
  | .frameReadyMessage s => decide (s < 16384)
  | .playbackFetch s => decide (s < 16384)
  | .playbackFrameEnd s => decide (s < 16384)
  | .ringFrameEnd s => decide (s < 16384)
  | .agcCommit s => decide (s < 16384)
  | .frouteWrite who bell r _ => who.wf && decide (r < if bell then 4 else 256)
  | .pipeEnable who p => who.wf && decide (p < 4)
  | .pipeDisable who p => who.wf && decide (p < 4)
  | .commit who p => who.wf && decide (p < 4)
  | .flush who p => who.wf && decide (p < 4)
  | .timingCommit who p => who.wf && decide (p < 4)
  | .matrixPresetLoad who p _ => who.wf && decide (p < 4)
  | .boreCommitMessage src => src.wf
  | .boreFlushMessage src => src.wf
  | .frameStart p => decide (p < 4)
  | .latch p _ => decide (p < 4)
  | .flattenCacheFillComplete p => decide (p < 4)
  | .frameDoneMessage p => decide (p < 4)
  | .dpTrain who d => who.wf && decide (d < 2)
  | .linkTrainingDone d _ => decide (d < 2)
  | .hpdDeassert d => decide (d < 2)
  | .irqHpd d => decide (d < 2)
  | .hpdAssert d => decide (d < 2)
  | .auxTransaction who d _ => who.wf && decide (d < 2)
  | .auxReply d code _ => decide (d < 2) && decide (1 ≤ code ∧ code ≤ 3)
  | .auxTimeout d => decide (d < 2)
  | .partitionError p _ _ => decide (p < 16)
  | .fatal cause _ => decide (cause = 1 ∨ cause = 2 ∨ cause = 4)
  | .dumpComplete _ => true
  | .hostforce who => who.wf
  | .dumpClear who => who.wf
  | .restart who p => who.wf && decide (p < 16)
  | .partitionRestartComplete p => decide (p < 16)
  | .keepRead who _ => who.wf
  | .keepProgram who _ _ => who.wf
  | .keepErase who _ _ => who.wf
  | .keepOperationComplete _ _ => true
  | .logPageProgram _ => true
  | .logPageRetry _ => true
  | .pwrFail _ => true
  | .hbmPatrol h _ _ => decide (h < 8)
  | .setaddr addr _ => decide (addr < 2 ^ 48)
  | .read32 => true
  | .read64 => true
  | .write32 _ _ => true
  | .write64 _ _ => true
  | .lastst => true
  | .smbusTimeout => true
  | .mainRailLoss => true
  | .alwaysOnRailLoss => true
  | .pwrFailRelease => true
  | .hostResetComplete => true
  | .flrComplete vf => decide (vf < 256)
  | .fllRetargetComplete b => decide (b < 64)
  | .droneTick => true
  | .boundaryScan _ => true
  | .msixVectorUnmask fn _ => decide (fn < 256)

end Sys2Proof
end

