-- ==== Sys2Proof/Tests/Slice0.lean ====
section
/-!
SUPPORT. Tests/Slice0.lean: ill-formed operands that WellFormed refuses, worked cases of the spec, and for each obligation a state
and operands that meet its hypotheses.
-/

namespace Sys2Proof.Machine

open Sys2Proof

set_option maxRecDepth 100000
set_option linter.unusedVariables false
set_option Elab.async false

/-- After reset with the hub on its main rails and every fabric clock running. -/
def w0 : State := { State.reset.rput .DRN_FAB 0x01010101 with boot := { State.reset.boot with hubOn := true } }
/-- The same with bore `b` ACTIVE. -/
def wb (b : Nat) : State := w0.fput Fld.DRN_BPST_STATE psActive 0 b
/-- A message of one word from bore 1. -/
def wMsg : Message := ⟨[7], 1, 0, .here (.bore 1 0), 0, false, 0, none, 1024⟩
/-- A copy request of a bore. -/
def wDma : DmaReq :=
  ⟨0, false, -1, -1, none, none, 0, 0, 0, 0, 0, 0, 1024, 0, false, false⟩
/-- Bore 3 waits in a YWAIT with a timeout. -/
def wTimed : State :=
  ((((wb 3).setBytes (slotAddr 3 0 7) (leBytes 8 0x0020000040400000)).regPut 3 (.g 1) 1).fput Fld.CHN_STATUS_STATE csWaiting 3).upCh 3
    fun c => { c with met := true }

/-- Scheduler 1 RUNNING, tag 7 in FWD_IN, its one dispatch route valid with one credit. -/
def w1 : State :=
  (((w0.fput Fld.STG_STATUS_STATE sgRunning 1).upSched 1 fun d => { d with fwdIn := [7] }).rtPut (.stage 1 0) Fld.QUE_ROUTEA_VALID 1).rtPut
    (.stage 1 0) Fld.QUE_RSTAT_CRED 1
/-- The same with tag 7 in BWD_IN. -/
def w1b : State := (w1.upSched 1 fun d => { d with fwdIn := [], bwdIn := [7] }).fput Fld.STG_CFG_MODE 1 1
/-- Scheduler 0 with a finished stash-out, and a stage context whose first page is mapped. -/
def wStash : State :=
  ({ (w0.fput Fld.PRT_PSTAT_SCTXV 1 0 0).fput Fld.PRT_PSTAT_SCTX 5 0 0 with
      tlb := [⟨5, 1, 0, 0⟩, ⟨5, 2, 0, 0xC000800000000000⟩] }).upSched 0 fun d => { d with outs := [⟨7, 0, 0, 0, false, true⟩] }
/-- An image of one variant with one bore record of one bundle; its CRC-32 is computed from R448 by hand of another program. -/
def wImage : List Byte :=
  leBytes 4 0x4D49474C ++ leBytes 2 1 ++ [1, 0] ++ leBytes 4 192 ++ leBytes 4 0x4c1f89b8 ++ leBytes 4 64 ++ List.replicate 44 0 ++ 1 :: List.replicate 63 0 ++
    [0xFF, 0, 0, 0, 0, 0, 0, 0, 1, 0, 0, 0, 0xFF, 0xFF, 0, 0] ++ List.replicate 48 0
/-- Context 9 LOADING, its binding the next operation. -/
def wBind : State :=
  ({ w0.putCx 9 cxLoading with cmds := [⟨.bind, 9, false⟩] }).upCtx 9 fun x => { x with image := wImage }
/-- The stage after start-up is over, every HBM quadrant usable, partition 2 UP and its own leader. -/
def wUp : State :=
  (((((w0.fput Fld.DRN_BOOT_STAGE 7).fput Fld.DRN_BOOT_HBMOK 0xFF).fput Fld.PRT_PCFG_LEADER 2 0 2).fput Fld.PRT_PSTAT_LEADER 2 0 2)).fput
    Fld.PRT_PSTAT_STATE ptUp 0 2
/-- The same, with a restart of partition 2 under way. -/
def wRst : State := { wUp with faults := { wUp.faults with restart := some 2 } }
/-- Port 1 in a state. -/
def wPort (st : Nat) : State := w0.fput Fld.CRK_STATUS_STATE st 1
/-- A window captured for a PUT: valid, local, at the start of context 9. -/
def wWin : WinCap := ⟨true, false, 9, 0, 0, 0, 0x100000⟩
/-- Port 1 UP with one transfer in a lane's buffer. -/
def wRx (vl : Nat) (x : XferBody) : State :=
  (wPort ckUp).upPort 1 fun p => { p with rx := [⟨vl, ⟨true, 1, 0, [1]⟩, some (x, wWin), false⟩] }
/-- An INIT flit of a peer. -/
def wInit : InitFlit := ⟨0, 2, [512, 512, 512, 512], 5, 0, 0, 0⟩
/-- A transfer flit of SEQ 0 whose CRC is right. -/
def wFlit : List Byte := flitBytes ⟨0, 0, 0, false, tyXfer, 0, 0⟩ ⟨true, 1, 0, []⟩
/-- Virtual functions 1 to 4 exist; function 2 owns contexts 16 to 79. -/
def wVf : State := (w0.fput Fld.HIF_LINK_NUMVF 4).rput .HIF_VFMAP 0x400010 0 2
/-- Bore 3 entering a power state. -/
def wGo (p : Option Nat) : State := (wb 3).upPower 3 fun w => { w with entering := p }
/-- The package after a cold reset, with a board record of 16 bytes in the keep flash. -/
def wBoard : State := State.reset.flashPut boardBase (leBytes 4 0 ++ leBytes 4 16 ++ leBytes 4 0x2144df1c ++ leBytes 4 0)
/-- Self-test may run. -/
def wReady : State :=
  { State.reset.fput Fld.DRN_BOOT_STAGE bsHostready with hif := { State.reset.hif with ready := true } }
/-- A stream entry of a kind: context 0, port 0, slot 0, buffers of two frames. -/
def wEntry (kind : Byte) : List Byte := [0, 0, kind, 0, 0, 0, 2, 0] ++ List.replicate 56 0
/-- HBM usable, context 0 IDLE, port 0 LOCKED, and stream 0 of a kind running where the kind is not capture; its entry is in memory. -/
def wEmb (kind : Byte) : State :=
  let s := { ((wUp.setBytes 0 (wEntry kind)).putCx 0 cxIdle).putEp 0 epLocked with tlb := [⟨0, 1, 0, 0⟩, ⟨0, 2, 0, 0xC000000000000000⟩] }
  if kind = 0 then s else s.upStrm 0 fun x => { x with state := smRun, entry := wEntry kind }
/-- A playback stream whose first buffer slot holds a valid frame. -/
def wPlay : State := (wEmb 1).setBytes 0 [0, 0, 0, 0, 0, 0, 0, 0x80]
/-- The samples of a slot read. -/
def wSamples (x : SlotRead × State) : List Int := match x.1 with
  | .samples l => l
  | _ => []
/-- A frame that has ended. -/
def wOut (written : Bool) : FrameOut := ⟨3, 0x1000, List.replicate 64 0, written, flDone, 0, 0, 0, 0, 5⟩
/-- Pipe 2 OFF with shadow timing of 64 by 64 pixels; context 0 IDLE. -/
def wBell : State :=
  ((((wUp.putCx 0 cxIdle).rput .BEL_HTIM 0x0040002000200020 2).rput .BEL_VTIM 0x0040000200020002 2).rput .BEL_PCLK 25000 2)
/-- Pipe 2 running between frames. -/
def wRun : State := (wUp.putCx 0 cxIdle).fput Fld.BEL_PSTAT_STATE 1 2
/-- One page of the log waits, and the sector ahead is erased. -/
def wPage : State := { wUp with faults := { wUp.faults with pages := [[(0, [])]], erased := true } }
/-- The pointer of the tray controller at the first hub register. -/
def wSmb : State := { wUp with smb := { wUp.smb with ptr := 0xA000000000 } }

/-! WellFormed: for each kind of check a term that breaks it, and a term at the largest value that it admits. -/

theorem test_wf_requesters :
    Instr.wf (.go (.fn 256) 0) = false ∧ Instr.wf (.go (.bore 64) 0) = false ∧
    Instr.wf (.go (.fn 255) 63) = true ∧ Instr.wf (.reboot (.fn 256)) = false := by decide

theorem test_wf_endpoints :
    Instr.wf (.windwayWriteArrival (.bore 64) (.hbm 0)) = false ∧ Instr.wf (.windwayWriteArrival (.bore 63) (.hbm 8)) = false ∧
    Instr.wf (.windwayReadArrival (.crook 12) (.hbm 7)) = false ∧ Instr.wf (.writeAcknowledgement (.hbm 7) (.crook 11)) = true ∧
    Instr.wf (.messageArrival (.unit (.stage 16)) 0) = false ∧ Instr.wf (.messageArrival (.unit (.health 16)) 0) = false ∧
    Instr.wf (.messageArrival (.unit (.stage 15)) 63) = true ∧ Instr.wf (.messageArrival .host 64) = false := by decide

theorem test_wf_bore_indices :
    Instr.wf (.bundleIssue 64) = false ∧ Instr.wf (.launchStart 63 80) = false ∧ Instr.wf (.launchStart 63 79) = true ∧
    Instr.wf (.reedIssue 0 0 64) = false ∧ Instr.wf (.rankBarrierComplete 0 0 2) = false ∧
    Instr.wf (.alloc .resmgr 0 64) = false ∧ Instr.wf (.qctlOpen .resmgr 0 32) = false ∧
    Instr.wf (.channelAudit .resmgr 0 256) = false ∧ Instr.wf (.routeWrite .resmgr .queue 63 255 false 0) = true ∧
    Instr.wf (.routeWrite .resmgr .queue 63 256 false 0) = false ∧ Instr.wf (.routeWrite .resmgr .dispatch 16 0 false 0) = false ∧
    Instr.wf (.routeWrite .resmgr .verdict 15 64 false 0) = false := by decide

theorem test_wf_hub_indices :
    Instr.wf (.warmReset (.bore 64)) = false ∧ Instr.wf (.warmReset (.partition 16)) = false ∧ Instr.wf (.coldReset 8) = false ∧
    Instr.wf (.fabricRestart 4) = false ∧ Instr.wf (.abort .resmgr 4096) = false ∧ Instr.wf (.poolBlockWrite .resmgr 1024 0) = false ∧
    Instr.wf (.barrierConfigWrite .resmgr 4096 0) = false ∧ Instr.wf (.counterValueWrite .resmgr none 16384 0) = false ∧
    Instr.wf (.counterValueWrite .resmgr (some 0) 48 0) = false ∧ Instr.wf (.counterArmWrite .resmgr 64 0 0) = false ∧
    Instr.wf (.stgStart .resmgr 16) = false ∧ Instr.wf (.verdictSend 16) = false ∧ Instr.wf (.roundCompletion 0 4) = false ∧
    Instr.wf (.rebuild .resmgr 16 none) = false ∧ Instr.wf (.rebuild .resmgr 0 (some 64)) = false ∧
    Instr.wf (.rebuildComplete 0 [64]) = false ∧ Instr.wf (.create .resmgr 1024) = false := by decide

theorem test_wf_ports_and_host :
    Instr.wf (.crkReset .resmgr 12) = false ∧ Instr.wf (.trainingComplete 0 { wInit with port := 12 }) = false ∧
    Instr.wf (.transferStart 0 3) = false ∧
    Instr.wf (.retrainComplete 0 { wInit with grants := [512] }) = false ∧ Instr.wf (.initFlitReceived 0 { wInit with crvl := 4 }) = false ∧
    Instr.wf (.flitReceived 11 ⟨wFlit.tail, 0, 0⟩) = false ∧ Instr.wf (.flitReceived 11 ⟨wFlit, 0, 0⟩) = true ∧ Instr.wf (.vfmapWrite .resmgr 0 0) = false ∧
    Instr.wf (.windowWrite .resmgr 0 8 0 0) = false ∧ Instr.wf (.doorbell 0 0 [] 0 false) = false ∧
    Instr.wf (.doorbell 0 0 [1, 2, 3, 4, 5] 0 false) = false ∧ Instr.wf (.doorbell 256 0 [1] 0 false) = false ∧
    Instr.wf (.vfmapWrite .resmgr 256 0) = false ∧ Instr.wf (.dbrWrite .resmgr 8192 0) = false ∧ Instr.wf (.hringWrite .resmgr 2048 0) = false ∧
    Instr.wf (.flr 256) = false ∧ Instr.wf (.fanFail 4 0) = false ∧ Instr.wf (.thermalReading []) = false ∧
    Instr.wf (.pmbusPoll [⟨16, true, 0, 0, 0, 0, 0⟩]) = false ∧ Instr.wf (.hbmTraining [8]) = false ∧
    Instr.wf (.selfTest [⟨68, 0, false⟩] 0) = false ∧ Instr.wf (.fatal 3 0) = false ∧ Instr.wf (.setaddr (2 ^ 48) false) = false := by decide +kernel

theorem test_wf_media :
    Instr.wf (.embEnable .resmgr 16384) = false ∧ Instr.wf (.portEnable .resmgr 16) = false ∧
    Instr.wf (.frouteWrite .resmgr true 4 0) = false ∧ Instr.wf (.frouteWrite .resmgr false 255 0) = true ∧
    Instr.wf (.pipeEnable .resmgr 4) = false ∧ Instr.wf (.dpTrain .resmgr 2) = false ∧ Instr.wf (.auxReply 0 0 []) = false ∧
    Instr.wf (.auxReply 0 4 []) = false := by decide

/-! Worked cases of the spec: each expected value stands in the paragraph "Worked case" of the chapter named. -/

/-- Chapter 2: DRN_DEVID of a YK-A64-288 reads 0xA642_0200. -/
theorem test_devid : State.reset.rget .DRN_DEVID = 0xA6420200 := by decide +kernel

/-- Chapter 4: QUE of bore 37 starts at 0x0090_0256_0000; offset 0x2090 of QUE is QUE_ROUTEA of channel 9. -/
theorem test_que_address :
    homeOf false (fun _ => false) 0x009002560000 = .boreReg 37 6 0 ∧ w0.place .resmgr 0x009002562090 = .reg .QUE_ROUTEA 37 9 false := by decide +kernel

/-- R8, R35: the ends of HBM and of a region on YK-A64-144. -/
theorem test_small_map :
    homeOf true (fun _ => false) 0x0023FFFFFFFF = .hbm ∧ homeOf true (fun _ => false) 0x002400000000 = .unbacked ∧
    stackOf true 0x000900001000 = 3 ∧ stackOf false 0x000900001000 = 1 := by decide

/-- Chapter 14: QUE_ROUTEA of channel 9 of bore 36 is at BAR0 + 0x193_2090. -/
theorem test_bar0_route : w0.place (.fn 0) 0x1932090 = .reg .QUE_ROUTEA 36 9 false := by decide +kernel

/-- Chapter 2: the FP32 value 0x3E99_999A in BF16, to nearest-even and toward zero. -/
theorem test_fp32_to_bf16 :
    (fenc bf16 rne false (f32 0x3E99999A)).code = 0x3E9A ∧ (fenc bf16 ⟨2, 0⟩ false (f32 0x3E99999A)).code = 0x3E99 := by decide +kernel

/-- Chapter 2: a block with 20.0, 13.0, −0.0 and NaN in FP4 E2M1: scale 0x81, codes 6, 5, 0 and 8. -/
theorem test_fp4_block :
    let l := [FVal.fin false 20 0, .fin false 13 0, .fin true 0 0, .nan]
    blockScale 7 l = 0x81 ∧ l.map (fun v => (elemEnc 7 rne false (fscale v (-2))).code) = [6, 5, 0, 8] := by decide +kernel

/-- Chapter 3: BORE_CAP with three bypassed columns. -/
theorem test_capability : ({ w0 with boot := { w0.boot with masks := [(5, 7)] } }).capWord 5 false = 0x01907D3050402000 := by decide +kernel

/-- Chapter 4, "(!p2) ADDI g6, g1, -8": the slot word writes g1 − 8 to g6 unless p2 is 1. -/
theorem test_addi_word :
    (let s := wb 3; s.scalar 3 0 0xA10181FFFFFFFFF8).1 = some (.g 6, 2 ^ 64 - 8) := by decide +kernel

/-- Chapter 5: −224 / 64 in INT8 is −3.5, a tie that goes to −4; 9,000 / 64 clamps to 127. -/
theorem test_requantise :
    (elemEnc 8 rne false (ofInt (-224) (-6) false)).code = 0xFC ∧ (elemEnc 8 rne false (ofInt 5000 (-6) false)).code = 78 ∧
    elemEnc 8 rne false (ofInt 9000 (-6) false) = ⟨127, true, false⟩ := by decide +kernel

/-- Chapter 7: handle 12 of B37, offset 0x1_2345 and the offset 0x1FF_FF00 beyond SIZE. -/
theorem test_handle_mapping :
    HMap.addr ⟨12, 256, 0xFF00⟩ 37 0x12345 = 0x00804A490B45 ∧
    HMap.offset ⟨12, 256, 0xFF00⟩ 0x1FFFF00 = 255 * 16384 + 15 * 256 := by decide +kernel

/-- Chapter 8: channel 40 refused CLOSED at EPOCH 3 with SEQ 0x457: the first two words of the NACK message. -/
theorem test_nack_words :
    (nackWords 3 2 { wMsg with words := [5, 6], seq := 0x457 }) = [0x00030102, 0x457, 5, 6] := by decide +kernel

/-- Chapter 8: fields of QUE_ROUTEA 0x8094_A009_0003_0010. -/
theorem test_route_fields :
    let s := w0.rput .QUE_ROUTEA 0x8094A00900030010 36 9
    s.fget Fld.QUE_ROUTEA_VALID 36 9 = 1 ∧ s.fget Fld.QUE_ROUTEA_DID 36 9 = 37 ∧ s.fget Fld.QUE_ROUTEA_DQ 36 9 = 5 ∧
    s.fget Fld.QUE_ROUTEA_TAG 36 9 = 9 ∧ s.fget Fld.QUE_ROUTEA_DEPOCH 36 9 = 3 ∧ s.fget Fld.QUE_ROUTEA_GRANT 36 9 = 16 := by decide +kernel

/-- Chapter 9: the modular compare of a ring near wrap-around. -/
theorem test_modular_compare : reached 0xFFFFFFFE 1 = false ∧ reached 1 1 = true := by decide

/-- Chapter 9: SYN_BCFG at 0x2_0A00 written 0x8012_0007_0000_0000 leaves 0x0100_A001 in SYN_CFGST. -/
theorem test_barrier_config :
    ((w0.fput Fld.CTX_QUOTA_BARS 4 0 0x12).writeBarrier 0xA0 0x8012000700000000).rget .SYN_CFGST = 0x0100A001 := by decide +kernel

/-- Chapter 10: fields of STG_CFG 0x7007_0300_CC90_0000. -/
theorem test_stage_config :
    let s := w0.rput .STG_CFG 0x70070300CC900000 4
    s.fget Fld.STG_CFG_ROLE 4 = 1 ∧ s.fget Fld.STG_CFG_MODE 4 = 1 ∧ s.fget Fld.STG_CFG_AUTOINJ 4 = 1 ∧ s.fget Fld.STG_CFG_NMB 4 = 7 ∧
    s.fget Fld.STG_CFG_WARMUP 4 = 3 ∧ s.fget Fld.STG_CFG_DWIN 4 = 0 ∧ s.fget Fld.STG_CFG_NCHAN 4 = 3 ∧ s.fget Fld.STG_CFG_SBUF 4 = 3 ∧
    s.fget Fld.STG_CFG_RBUF 4 = 1 ∧ s.fget Fld.STG_CFG_PFDIST 4 = 1 := by decide +kernel

/-- Chapter 11: the largest value 3.9 in FP8 E4M3 has T = 6, and the entry reads 0x830C_3020_1000_0005 with mirror word 0x8305. -/
theorem test_scale_entry :
    scaleExp 3 0x79999A (-21) = 6 ∧
    (let s := w0.rput .OVB_SENT 0x830C302010000005 2 17
     s.mirrorWord 2 17 = 0x8305 ∧ s.hcount 2 17 = 4 ∧ s.fget Fld.OVB_SENT_HLEN 2 17 = 3 ∧ s.fget Fld.OVB_SENT_MARGIN 2 17 = 1 ∧
       s.fget Fld.OVB_SENT_S 2 17 = 5) := by decide +kernel

/-- Chapter 12: context address 0x00_8060_1234 through L1 entry 1 and L2 entry 3. -/
theorem test_translation :
    let s := { (wUp.fput Fld.CTX_ROOT_ROOT 1 0 9) with
      mem := ((wUp.setBytes 0x1008 (leBytes 8 0x8000000000004000)).setBytes (8192 * 2 + 0x18) (leBytes 8 0xC000002480000000)).mem }
    (s.xlate 9 true 0x80601234).1 = some 0x002480001234 := by decide +kernel

/-- Chapter 12: the result register of the failed load. -/
theorem test_load_result : (w0.ldres 7 0x13 1 2 38 100).rget .CTX_LDRES 0 7 = 0x1342980000000064 := by decide +kernel

/-- Chapter 14: HIF_DBR of context 300, doorbell 2, is at offset 0x1_4B10 of HIF. -/
theorem test_doorbell_register : w0.place (.fn 0) 0x914B10 = .reg .HIF_DBR 0 2402 false := by decide +kernel

/-- Chapter 15: fields of BLW_BORE 0xC240_5020. -/
theorem test_bellows_register :
    let s := w0.rput .BLW_BORE 0xC2405020 0 5
    s.fget Fld.BLW_BORE_FMAX 0 5 = 24 ∧ s.fget Fld.BLW_BORE_STEP 0 5 = 9 ∧ s.fget Fld.BLW_BORE_DEMAND 0 5 = 80 ∧
    s.fget Fld.BLW_BORE_HOLD 0 5 = 32 := by decide +kernel

/-- Chapter 18: a white glyph pixel of alpha 200 over (40, 80, 120). -/
theorem test_blend : Px.above (Px.premul ⟨200, 255, 255, 255⟩) ⟨255, 40, 80, 120⟩ = ⟨255, 209, 217, 226⟩ := by decide

/-- Chapter 19: the energy of a bank of 100,000 µF above 6 V at the ADC codes 2,457 and 1,638. -/
theorem test_holdup : holdupEnergy 100000 6000 2457 = 5396484 ∧ holdupEnergy 100000 6000 1638 = 1398437 := by decide

/-- Chapter 20: the tray controller writes 0xE000_1575 at 0x00A0_0000_0078: position 6, K3 miswired. -/
theorem test_tray_write :
    let s := { State.reset with smb := { State.reset.smb with ptr := 0x00A000000078 } }
    let t := s.write32 .smbus s.smb.ptr 0xE0001575
    t.rget .DRN_TRAY = 0xE0001575 ∧ t.fget Fld.DRN_TRAY_POS = 6 := by decide +kernel



/-! Witnesses: for each obligation that has hypotheses, operands and a state that meet them together; a hypothesis that only names a
value (`u = …`) is met by the `let` that names it. -/

theorem fabcfg_no_program : ∀ b d, w0.place (.fn 0) 0x38 ≠ .program b d := by
  intro b d h
  rw [show w0.place (.fn 0) 0x38 = .reg .DRN_FABCFG 0 0 false by decide +kernel] at h
  cases h

theorem witness_EmptyQueueIdles :
    let s : State := State.reset; s.pending = [] := by
  and_intros <;> decide +kernel

theorem witness_MemoryStaysCanonical :
    let s : State := { w0.setBytes 64 [1, 2] with pending := [.smbusTimeout] }; let t : State := w0.setBytes 64 [1, 2]; Memory.wf s.mem = true ∧ step s = .next t := ⟨by decide +kernel, rfl⟩

theorem witness_StepTakesOneCommand :
    let s : State := { w0 with pending := [.smbusTimeout, .lastst] }; let t : State := { w0 with pending := [.lastst] }; step s = .next t := rfl

theorem witness_StorelessCommandsKeepMemory :
    let i : Instr := .lastst; let s : State := w0; let t : State := w0.upSmb fun x => { x with data := leBytes 1 x.last }; mayStore i = false ∧ exec i s = .next t := ⟨rfl, rfl⟩

theorem witness_UndocumentedOffsetReadsZero :
    (let who : Requester := .fn 0; let a : Nat := 0xFFFF8; let s : State := w0; a % 4 = 0 ∧ s.place who a = .nothing ∧ a % 8 = 0 ∧ s.place who (a + 4) = .nothing) ∧
    (let who : Requester := .fn 0; let a : Nat := 0x10C0080; let b : Nat := 3; let vestibule : Bool := false; let s : State := wb 3; a % 4 = 0 ∧ s.place who a = .hole b vestibule ∧ s.meet who (.hole b vestibule) = .go ∧ a % 8 = 0 ∧ b < 64 ∧ s.place who (a + 4) = .hole b vestibule) := by
  and_intros <;> decide +kernel

theorem witness_RequestNeverPassesPosted :
    let s : State := w0.send .request (.bore 1) (.bore 2) (.read (.chanter 1) 0 0 64 8); (s.oldest .request (.bore 1) (.bore 2)).isSome = true := by
  and_intros <;> decide +kernel

theorem witness_StoppedFabricHoldsTransfers :
    let s : State := State.reset; (s.fabOk (.bore 1) = false ∨ s.fabOk (.bore 2) = false) := by
  and_intros <;> decide +kernel

theorem witness_DarkAccessCountsAndRecords :
    (let who : Requester := .fn 0; let a : Nat := 0x10C0000; let b : Nat := 3; let s : State := w0.fput Fld.DRN_BPST_STATE psDeep 0 3; a % 4 = 0 ∧ b < 64 ∧ s.meet who (s.place who a) = .dark b ∧ isHost who = true) ∧
    (let who : Requester := .resmgr; let a : Nat := 0x9000340000; let b : Nat := 3; let s : State := w0.fput Fld.DRN_BPST_STATE psOff 0 3; a % 4 = 0 ∧ b < 64 ∧ s.meet who (s.place who a) = .dark b ∧ isHost who = false) := by
  and_intros <;> decide +kernel

theorem witness_ChnCtrlBitPriority :
    (let v : Word64 := 0xB; v.getLsbD 1 = true) ∧
    (let v : Word64 := 0x9; v.getLsbD 1 = false ∧ v.getLsbD 0 = true) ∧
    (let s : State := w0.fput Fld.CHN_STATUS_STATE csFaulted 3; s.chState 3 = csFaulted) := by
  and_intros <;> decide +kernel

theorem witness_ChanterStoresShutWhileRunning :
    (let who : Requester := .fn 0; let b : Nat := 0; let a : Nat := 0x9000080000; let o : Nat := 0; let off : Nat := 0x1008; let data : List Byte := [1, 2, 3, 4]; let s : State := (wb 0).fput Fld.CHN_STATUS_STATE csRunning 0; s.boreOpen b ∧ mayHostRm who = true ∧ s.home a = .pstore b o ∧ s.running b = true ∧ progAccess data.length a = true ∧ s.chState b ≠ csHalted ∧ (s.winRead b off).isSome = true) ∧
    (let who : Requester := .fn 0; let b : Nat := 0; let a : Nat := 0x9000080000; let o : Nat := 0; let off : Nat := 0x1300; let data : List Byte := [1, 2, 3]; let s : State := wb 0; s.boreOpen b ∧ mayHostRm who = true ∧ s.home a = .pstore b o ∧ progAccess data.length a = false ∧ s.winRead b off = none) ∧
    (let who : Requester := .fn 0; let b : Nat := 3; let n : Nat := 63; let s : State := wb 3; s.boreOpen b ∧ mayHostRm who = true ∧ s.chState b = csHalted ∧ b < 64 ∧ s.running b = false ∧ n < 64) := by
  and_intros <;> decide +kernel

theorem witness_FillDrainEligibility :
    (let s : State := (w1.fput Fld.STG_STATUS_FDONE 1 1).upSched 1 fun d => { d with bwdIn := [3] }; s.flag Fld.STG_CFG_MODE 1 = false ∧ s.bwdNext 1 = some 3) ∧
    (let s : State := w1; s.flag Fld.STG_CFG_MODE 1 = false ∧ s.fwdNext 1 = some 7 ∧ s.fget Fld.STG_STATUS_FCNT 1 < s.stgN Fld.STG_CFG_NMB 1 ∧ s.windowOk 1 = true ∧ s.nent 1 = 0) := by
  and_intros <;> decide +kernel

theorem witness_LossReportsAddInOrder :
    let h : Nat := 1; let m : Message := { wMsg with words := [2, 0x3F800000, 0] }; let s : State := w0.send .posted (.bore 1) (.unit (.health 1)) (.message 70 0 m); let u : State := w0; let v : State := u.sendReturn (.unit (.health 1)) m.origin 1; h < 16 ∧ s.oldest .posted (.bore 1) (.unit (.health 1)) = some (⟨.posted, .bore 1, .unit (.health 1), .message 70 0 m⟩, u) ∧ ovbKind 0 m = 2 ∧ v.healthOf 1 = 1 ∧ (m.words.getD 2 0).toNat = v.stgStep 1 ∧ v.lateNow 1 = false := by
  and_intros <;> decide +kernel

theorem witness_VadHangover :
    let x : Stream := Stream.reset; x.hang = 0 := by
  and_intros <;> decide +kernel

theorem witness_UncreditedFrameMessageCounted :
    (let s : State := w0.upStrm 0 fun x => { x with out := [wOut true] }; s.faults.frozen = false ∧ (s.strm 0).out = [wOut true] ∧ (wOut true).route ≤ 255 ∧ s.fget Fld.EMB_FRSTAT_CRED 0 (wOut true).route = 0) ∧
    (let s : State := (w0.fput Fld.BEL_FROUTE_VALID 1 2).upPipe 2 fun x => { x with done := [⟨9, 0, 0, 0⟩] }; s.faults.frozen = false ∧ (s.pipe 2).done = [⟨9, 0, 0, 0⟩] ∧ s.flag Fld.BEL_FROUTE_VALID 2 = true ∧ s.fget Fld.BEL_FRSTAT_CRED 2 = 0) := by
  and_intros <;> decide +kernel

theorem witness_CommandsBusyBeforeReady :
    let s : State := w0; s.fget Fld.DRN_BOOT_STAGE < 7 ∧ s.powered = true ∧ mayTray (.fn 0) = true ∧ s.flag Fld.DRN_BPCMDST_PENDING = false ∧ s.hubOpen = true ∧ mayPf (.fn 0) = true ∧ s.flag Fld.PRT_CMDST_PENDING = false := by
  and_intros <;> decide +kernel

theorem witness_BpcmdOutcomes :
    (let s : State := w0.fput Fld.DRN_BPCMDST_PENDING 1; s.powered = true ∧ mayTray (.fn 0) = true ∧ s.flag Fld.DRN_BPCMDST_PENDING = true) ∧
    (let s : State := (wb 3).fput Fld.DRN_BOOT_STAGE 7; s.flag Fld.DRN_BPCMDST_PENDING = false ∧ s.fget Fld.DRN_BOOT_STAGE = 7 ∧ s.pstate 3 = psActive ∧ (s.bore 3).power.entering = none ∧ s.pstate 3 ≠ psOff) ∧
    (let s : State := (w0.fput Fld.DRN_BOOT_STAGE 7).fput Fld.DRN_BPST_STATE psOff 0 3; s.powered = true ∧ s.flag Fld.DRN_BPCMDST_PENDING = false ∧ s.fget Fld.DRN_BOOT_STAGE = 7 ∧ s.pstate 3 = psOff) ∧
    (let s : State := ((w0.fput Fld.DRN_BOOT_STAGE 7).fput Fld.DRN_BPST_STATE psOff 0 3).upPower 3 fun w => { w with leaving := some 0 }; s.pstate 3 = psOff ∧ (s.bore 3).power.leaving.isSome = true) := by
  and_intros <;> decide +kernel

theorem witness_LimitWritesChecked :
    (let s : State := w0; let v : Word64 := 1399; s.hubOpen = true ∧ mayTray (.fn 0) = true ∧ bits v.toNat 0 16 < 1400) ∧
    (let s : State := w0; let v : Word64 := 6000; s.hubOpen = true ∧ mayTray (.fn 0) = true ∧ 1400 ≤ bits v.toNat 0 16 ∧ bits v.toNat 0 16 ≤ 6000 ∧ s.minBudget ≤ bits v.toNat 0 16) := by
  and_intros <;> decide +kernel

theorem witness_FrozenDeviceReach :
    (let s : State := { w0 with faults := { w0.faults with frozen := true } }; s.faults.frozen = true ∧ s.place (.fn 0) 0x200108 = .reg .PRT_CMDST 0 0 false ∧ Reg.PRT_CMDST.info.blk ∉ [Block.DRN, .KEEP, .LOG, .DMP]) ∧
    (let s : State := { w0 with faults := { w0.faults with frozen := true } }; s.faults.frozen = true ∧ s.place (.fn 0) 0x4000000 = .bar2 0 0) := by
  and_intros <;> decide +kernel

theorem witness_SecondPackageErrorOnlyLogged :
    let s : State := wUp.fput Fld.DMP_STATUS_STATE dsComplete; s.fget Fld.DMP_STATUS_STATE ≠ dsNone ∧ pkHubUe ∈ [pkHubUe, pkHbmFatal, pkWindway] := by
  and_intros <;> decide +kernel

theorem witness_StageControlCombinedActsAsStop :
    let a : Nat := 0x410008; let p : Nat := 1; let s : State := w1; let v : Word64 := 3; s.hubOpen = true ∧ a % 4 = 0 ∧ s.place (.fn 0) a = .reg .STG_CTRL p 0 false ∧ s.stg p ≠ sgCoupled ∧ 1 < b2n (v.getLsbD 0) + b2n (v.getLsbD 1) + b2n (v.getLsbD 2) := by
  and_intros <;> decide +kernel

theorem witness_ContextCommandsJudged :
    (let s : State := w0.fput Fld.PRT_CMDST_PENDING 1; s.hubOpen = true ∧ mayPf (.fn 0) = true ∧ s.flag Fld.PRT_CMDST_PENDING = true) ∧
    (let s : State := w0.putCx 5 cxLoading; s.hubOpen = true ∧ s.flag Fld.PRT_CMDST_PENDING = false ∧ s.cxState 5 ≠ cxFree ∧ s.cxState 5 ≠ cxIdle ∧ s.cxState 5 ≠ cxResident ∧ s.cxState 5 ≠ cxEnded) := by
  and_intros <;> decide +kernel

theorem witness_InterruptAndLinkDownMessages :
    (let s : State := w0; msixSize 0 ≤ 2048 ∧ 3 < msixSize 1 ∧ s.msixOpen 1 3 = false ∧ s.hif.linkUp = false) ∧
    (let s : State := { w0 with hif := { w0.hif with unmasked := [4099], linkUp := true, cfg := { w0.hif.cfg with msixEn := [1] } } }; 3 < msixSize 1 ∧ s.msixOpen 1 3 = true ∧ s.hif.linkUp = true) ∧
    (let s : State := { w0 with hif := { w0.hif with unmasked := [4099], linkUp := false, cfg := { w0.hif.cfg with msixEn := [1] } } }; 3 < msixSize 1 ∧ s.msixOpen 1 3 = true ∧ s.hif.linkUp = false) := by
  and_intros <;> decide +kernel

theorem witness_PipeCommandsRefused :
    (let s : State := wRun; s.hubOpen = true ∧ mayPf (.fn 0) = true ∧ s.bpRun 2 = true) ∧
    (let s : State := wUp; s.hubOpen = true ∧ mayPf (.fn 0) = true ∧ s.ctxLives (s.pipeCtx 2) = false ∧ s.bpRun 2 = false) ∧
    (let s : State := (wBell.fput Fld.BEL_GCTL_EN 1 2 0).fput Fld.BEL_GCTL_FMT 1 2 0; s.hubOpen = true ∧ s.bpRun 2 = false ∧ s.ctxLives (s.pipeCtx 2) = true ∧ timingOk (s.shadowSet 2 timingRegs) (s.dpen 2) = true ∧ compositionOk (s.shadowSet 2 compositionRegs) (s.shadowSet 2 timingRegs) = false) := by
  and_intros <;> decide +kernel

theorem witness_ColourMatrixAndPresets :
    (let s : State := w0; let v : Word64 := 0x303; s.hubOpen = true ∧ mayPf (.fn 0) = true ∧ bits v.toNat 0 3 = 3) ∧
    (let v0 : Word64 := 0x300; let v1 : Word64 := 0x301; let v2 : Word64 := 0x302; bits v0.toNat 0 3 = 0 ∧ bits v1.toNat 0 3 = 1 ∧ bits v2.toNat 0 3 = 2) := by
  and_intros <;> decide +kernel

theorem witness_SmbusAccessJudged :
    (let s : State := wUp; s.smb.ptr < 0x00A000000000 ∧ s.boot.alwaysOn = true ∧ s.smbJudge 4 true ≠ 0 ∧ s.smbJudge 8 true ≠ 0) ∧
    (let s : State := wSmb; let a := s.smb.ptr; 0x00A000000000 ≤ a ∧ a < 0x00A002000000 ∧ a % 4 = 0 ∧ s.smbAvailable 0 = true ∧ a % 0x2000000 / 0x100000 = 0 ∧ drnShut (a % 0x2000000) 4 = false) ∧
    (let s : State := { wSmb with smb := { wSmb.smb with ptr := 0xA000200000 } }; let a := s.smb.ptr; 0x00A000000000 ≤ a ∧ a < 0x00A002000000 ∧ a % 4 = 0 ∧ s.smbAvailable (a % 0x2000000 / 0x100000) = true ∧ a % 0x2000000 / 0x100000 ∉ [0, 1, 8]) ∧
    (let s : State := { wSmb with smb := { wSmb.smb with ptr := 0xA000000058 } }; let a := s.smb.ptr; 0x00A000000000 ≤ a ∧ a < 0x00A002000000 ∧ a % 4 = 0 ∧ s.smbAvailable 0 = true ∧ drnShut (a % 0x2000000) 4 = true) ∧
    (let s : State := { State.reset with smb := { State.reset.smb with ptr := 0xA000200000 } }; let a := s.smb.ptr; 0x00A000000000 ≤ a ∧ a < 0x00A002000000 ∧ a % 4 = 0 ∧ s.smbAvailable (a % 0x2000000 / 0x100000) = false) := by
  and_intros <;> decide +kernel

theorem witness_BoundaryScanIdcode :
    (let s : State := w0; let tdi : List Bool := List.replicate 32 false; s.tap.inst = .idcode ∧ tdi.length = 32 ∧ bit (s.fget Fld.DRN_DBG_PERM) 0 = false) ∧
    (let s : State := w0.fput Fld.DRN_DBG_PERM 1; bit (s.fget Fld.DRN_DBG_PERM) 0 = true) := by
  and_intros <;> decide +kernel

theorem witness_AlertPinFollowsDrnAlert :
    let s : State := w0.rput .DRN_ALERT 0x20; (s.rget .DRN_ALERT).getLsbD 5 = true := by
  and_intros <;> decide +kernel

theorem witness_AccessCodesOfAPlainWrite :
    Reg.DRN_CLKST.writable.getLsbD 0 = false ∧ Reg.BLW_LIMIT.writable.getLsbD 3 = true ∧ Reg.BEL_PEVT.info.w1c.getLsbD 2 = true ∧ Reg.BEL_PCTL.info.wo.getLsbD 0 = true := by
  and_intros <;> decide +kernel

theorem witness_RcFieldsClearWhenRead :
    (let s : State := w0; 0x10 % 4 = 0 ∧ s.place (.fn 0) 0x10 = .reg .DRN_DARKACC 0 0 false ∧ s.meet (.fn 0) (.reg .DRN_DARKACC 0 0 false) = .go ∧ Reg.DRN_DARKACC.info.wide = false ∧ Reg.DRN_DARKACC.info.rc = 0xFFFF ∧ (s.through (.fn 0) (.reg .DRN_DARKACC 0 0 false)).winShut .DRN_DARKACC 0 = false) ∧
    (let s : State := w0; 0xB10028 % 8 = 0 ∧ s.place (.fn 0) 0xB10028 = .reg .BEL_PCNT 0 0 false ∧ s.meet (.fn 0) (.reg .BEL_PCNT 0 0 false) = .go ∧ Reg.BEL_PCNT.info.wide = true ∧ Reg.BEL_PCNT.info.rc ≠ 0 ∧ (s.through (.fn 0) (.reg .BEL_PCNT 0 0 false)).winShut .BEL_PCNT 0 = false) := by
  and_intros <;> decide +kernel

theorem witness_LowThenHighWriteCommitsBoth :
    let who : Requester := .fn 0; let a : Nat := 0xA00000; let r : Reg := .EMB_STBASE; let i : Nat := 0; let j : Nat := 0; let s : State := w0; a % 8 = 0 ∧ r.info.wide = true ∧ s.place who a = .reg r i j false ∧ s.place who (a + 4) = .reg r i j true ∧ s.meet who (.reg r i j false) = .go ∧ (s.through who (.reg r i j false)).winShut r i = false := by
  and_intros <;> decide +kernel

theorem witness_TagMoveKeepsCountsBalanced :
    let p : Nat := 1; let t : Nat := 7; let v : Nat := 4; let s : State := w0; p < 16 ∧ t < 256 ∧ v < 5 ∧ s.tag p t < 5 ∧ 0 < s.fget (tagCnt (s.tag p t)) p ∧ s.fget Fld.STG_TAGCNT_FREE p + s.fget Fld.STG_TAGCNT_FWDP p + s.fget Fld.STG_TAGCNT_FWDD p + s.fget Fld.STG_TAGCNT_BWDP p + s.fget Fld.STG_TAGCNT_RET p = 256 := by
  and_intros <;> decide +kernel

theorem witness_ScalarIntegersAreBitVectors :
    (let b : Word64 := 0; b = 0) ∧
    (let b : Word64 := 3; b ≠ 0) := by
  and_intros <;> decide +kernel

theorem witness_RegisterAccessesComplete :
    (let who : Requester := .fn 0; let addr : Nat := 0x38; let r : Reg := .DRN_FABCFG; let i : Nat := 0; let j : Nat := 0; let s : State := w0; addr % 4 = 0 ∧ s.place who addr = .reg r i j false ∧ s.meet who (.reg r i j false) = .go ∧ r ∈ plainNarrow ∧ mayWrite who r = true) ∧
    (let who : Requester := .fn 0; let addr : Nat := 0x200; let r : Reg := .DRN_FAN; let i : Nat := 0; let j : Nat := 0; let s : State := w0; addr % 8 = 0 ∧ s.place who addr = .reg r i j false ∧ s.meet who (.reg r i j false) = .go ∧ r.info.wide = true ∧ heldFor s.held who r i j = none) ∧
    (let who : Requester := .fn 0; let addr : Nat := 0x38; let size : Nat := 2; let s : State := w0; size ≠ 4 ∧ size ≠ 8 ∧ (∀ b d, s.place who addr ≠ .program b d)) ∧
    (let who : Requester := .fn 0; let addr : Nat := 0x1800; let r : Reg := .DRN_STUB; let i : Nat := 0; let j : Nat := 0; let s : State := w0; let t : State := s.through who (.reg r i j false); addr % 8 = 0 ∧ s.place who addr = .reg r i j false ∧ s.meet who (.reg r i j false) = .go ∧ r.info.wide = true ∧ t.winShut r i = false) ∧
    (let who : Requester := .fn 0; let addr : Nat := 0x10; let r : Reg := .DRN_DARKACC; let i : Nat := 0; let j : Nat := 0; let s : State := w0; let t : State := s.through who (.reg r i j false); addr % 4 = 0 ∧ s.place who addr = .reg r i j false ∧ s.meet who (.reg r i j false) = .go ∧ r.info.wide = false ∧ t.winShut r i = false) ∧
    (let who : Requester := .fn 0; let addr : Nat := 0x38; let size : Nat := 16; let s : State := w0; size ≠ 4 ∧ size ≠ 8 ∧ (∀ b d, s.place who addr ≠ .program b d)) ∧
    (let who : Requester := .fn 0; let addr : Nat := 0x20; let r : Reg := .DRN_TIME; let i : Nat := 0; let j : Nat := 0; let s : State := w0; let t : State := s.through who (.reg r i j false); addr % 4 = 0 ∧ s.place who addr = .reg r i j false ∧ s.meet who (.reg r i j false) = .go ∧ r.info.wide = true ∧ t.winShut r i = false) ∧
    (let who : Requester := .fn 0; let addr : Nat := 0x24; let r : Reg := .DRN_TIME; let i : Nat := 0; let j : Nat := 0; let x : Word32 := 5; let s : State := { w0 with capt := [⟨.fn 0, .DRN, 0, .DRN_TIME, 0, 5⟩] }; let t : State := s.through who (.reg r i j true); addr % 4 = 0 ∧ s.place who addr = .reg r i j true ∧ s.meet who (.reg r i j true) = .go ∧ r.info.wide = true ∧ t.winShut r i = false ∧ heldFor s.capt who r i j = some x) ∧
    (let who : Requester := .fn 0; let addr : Nat := 0x24; let r : Reg := .DRN_TIME; let i : Nat := 0; let j : Nat := 0; let s : State := w0; let t : State := s.through who (.reg r i j true); addr % 4 = 0 ∧ s.place who addr = .reg r i j true ∧ s.meet who (.reg r i j true) = .go ∧ r.info.wide = true ∧ t.winShut r i = false ∧ heldFor s.capt who r i j = none) ∧
    (let who : Requester := .fn 0; let addr : Nat := 0x200; let r : Reg := .DRN_FAN; let i : Nat := 0; let j : Nat := 0; let s : State := w0; let t : State := s.through who (.reg r i j false); addr % 4 = 0 ∧ s.place who addr = .reg r i j false ∧ s.meet who (.reg r i j false) = .go ∧ r.info.wide = true ∧ t.winShut r i = false) ∧
    (let who : Requester := .fn 0; let addr : Nat := 0x204; let r : Reg := .DRN_FAN; let i : Nat := 0; let j : Nat := 0; let x : Word32 := 6; let s : State := { w0 with held := [⟨.fn 0, .DRN, 0, .DRN_FAN, 0, 6⟩] }; let t : State := s.through who (.reg r i j true); addr % 4 = 0 ∧ s.place who addr = .reg r i j true ∧ s.meet who (.reg r i j true) = .go ∧ r.info.wide = true ∧ t.winShut r i = false ∧ heldFor s.held who r i j = some x) ∧
    (let who : Requester := .fn 0; let addr : Nat := 0x204; let r : Reg := .DRN_FAN; let i : Nat := 0; let j : Nat := 0; let s : State := w0; let t : State := s.through who (.reg r i j true); addr % 4 = 0 ∧ s.place who addr = .reg r i j true ∧ s.meet who (.reg r i j true) = .go ∧ r.info.wide = true ∧ t.winShut r i = false ∧ heldFor s.held who r i j = none) ∧
    (let who : Requester := .fn 0; let addr : Nat := 0x80; let s : State := w0; addr % 4 = 0 ∧ s.place who addr = .nothing) ∧
    (let who : Requester := .fn 0; let addr : Nat := 0x80; let s : State := w0; addr % 4 = 0 ∧ s.place who addr = .nothing) := by
  and_intros <;> first | decide +kernel | exact fabcfg_no_program

theorem witness_WindwayCommandsComplete :
    (let src : Endpoint := .bore 1; let dst : Endpoint := .hbm 0; let c : XClass := .posted; let e : Endpoint := .bore 1; let d : Endpoint := .hbm 0; let who : Accessor := .chanter 1; let id : Nat := 0; let ctx : Nat := 0; let addr : Nat := 64; let data : List Byte := [1]; let pois : Bool := false; let u : State := w0; let s : State := w0.send .posted (.bore 1) (.hbm 0) (.write (.chanter 1) 0 0 64 [1] false); s.waits dst = false ∧ s.oldest .posted src dst = some (⟨c, e, d, .write who id ctx addr data pois⟩, u)) ∧
    (let src : Endpoint := .bore 1; let dst : Endpoint := .hbm 0; let c : XClass := .request; let e : Endpoint := .bore 1; let d : Endpoint := .hbm 0; let who : Accessor := .chanter 1; let id : Nat := 0; let ctx : Nat := 0; let addr : Nat := 64; let len : Nat := 8; let u : State := w0; let s : State := w0.send .request (.bore 1) (.hbm 0) (.read (.chanter 1) 0 0 64 8); s.waits dst = false ∧ dst ≠ .host ∧ s.oldest .request src dst = some (⟨c, e, d, .read who id ctx addr len⟩, u)) ∧
    (let src : Endpoint := .bore 1; let c : XClass := .request; let e : Endpoint := .bore 1; let d : Endpoint := .host; let who : Accessor := .chanter 1; let id : Nat := 0; let ctx : Nat := 0; let addr : Nat := 0x800000001000; let len : Nat := 8; let u : State := { w0 with hif := { w0.hif with linkUp := true } }; let s : State := ({ w0 with hif := { w0.hif with linkUp := true } } : State).send .request (.bore 1) .host (.read (.chanter 1) 0 0 0x800000001000 8); let h : Nat := addr % 0x800000000000; let k : Nat := (tlps u.hif.cfg.mrrs h len).length; let v : State := u.hostReadReq (u.ctxFn ctx) h len; s.oldest .request src .host = some (⟨c, e, d, .read who id ctx addr len⟩, u) ∧ u.hif.linkUp = true ∧ u.hostOut + k ≤ 768) ∧
    (let src : Endpoint := .bore 1; let c : XClass := .request; let e : Endpoint := .bore 1; let d : Endpoint := .host; let who : Accessor := .chanter 1; let id : Nat := 0; let ctx : Nat := 0; let addr : Nat := 0x800000001000; let len : Nat := 8; let u : State := w0; let s : State := (w0 : State).send .request (.bore 1) .host (.read (.chanter 1) 0 0 0x800000001000 8); s.oldest .request src .host = some (⟨c, e, d, .read who id ctx addr len⟩, u) ∧ u.hif.linkUp = false) ∧
    (let src : Endpoint := .hbm 0; let dst : Endpoint := .bore 1; let c : XClass := .completion; let e : Endpoint := .hbm 0; let d : Endpoint := .bore 1; let b : Nat := 1; let id : Nat := 0; let addr : Nat := 64; let data : List Byte := [1]; let st : AccStatus := .ok; let u : State := w0; let s : State := w0.send .completion (.hbm 0) (.bore 1) (.readData (.chanter 1) 0 64 [1] .ok); s.oldest .completion src dst = some (⟨c, e, d, .readData (.chanter b) id addr data st⟩, u)) ∧
    (let src : Endpoint := .hbm 0; let dst : Endpoint := .bore 1; let c : XClass := .completion; let e : Endpoint := .hbm 0; let d : Endpoint := .bore 1; let b : Nat := 1; let id : Nat := 0; let ctx : Nat := 0; let addr : Nat := 64; let w : StoreWait := ⟨0, none, 5⟩; let u : State := w0.upCh 1 fun c => { c with stores := [⟨0, none, 5⟩] }; let s : State := (w0.upCh 1 fun c => { c with stores := [⟨0, none, 5⟩] }).send .completion (.hbm 0) (.bore 1) (.writeAck (.chanter 1) 0 0 64 .ok); s.oldest .completion src dst = some (⟨c, e, d, .writeAck (.chanter b) id ctx addr .ok⟩, u) ∧ ((u.ch b).stores.find? (fun w => w.id = id) = some w)) ∧
    (let b : Nat := 2; let c : XClass := .posted; let src : Endpoint := .bore 1; let e : Endpoint := .bore 1; let d : Endpoint := .bore 2; let who : Accessor := .chanter 1; let id : Nat := 0; let ctx : Nat := 0; let addr : Nat := 0x8004000000; let data : List Byte := [1]; let pois : Bool := false; let u : State := w0.fput Fld.DRN_BPST_STATE psIdle 0 2; let s : State := (w0.fput Fld.DRN_BPST_STATE psIdle 0 2).send .posted (.bore 1) (.bore 2) (.write (.chanter 1) 0 0 0x8004000000 [1] false); s.faults.frozen = false ∧ s.reach b false = .wait ∧ s.firstWaiting b = some (.posted, src) ∧ s.oldest .posted src (.bore b) = some (⟨c, e, d, .write who id ctx addr data pois⟩, u)) ∧
    (let b : Nat := 2; let c : XClass := .request; let src : Endpoint := .bore 1; let e : Endpoint := .bore 1; let d : Endpoint := .bore 2; let who : Accessor := .chanter 1; let id : Nat := 0; let ctx : Nat := 0; let addr : Nat := 0x8004000000; let len : Nat := 8; let u : State := w0.fput Fld.DRN_BPST_STATE psIdle 0 2; let s : State := (w0.fput Fld.DRN_BPST_STATE psIdle 0 2).send .request (.bore 1) (.bore 2) (.read (.chanter 1) 0 0 0x8004000000 8); s.faults.frozen = false ∧ s.reach b false = .wait ∧ s.firstWaiting b = some (.request, src) ∧ s.oldest .request src (.bore b) = some (⟨c, e, d, .read who id ctx addr len⟩, u)) ∧
    (let q : Nat := 0; let s : State := (State.reset).send .posted (.bore 1) (.hbm 0) (.poolInc 0 0 0); q < 4 ∧ s.fabRun q = false ∧ s.fabHeld q = true) ∧
    (let q : Nat := 0; let s : State := w0; q < 4 ∧ s.fabRun q = true ∧ s.fabHeld q = false ∧ ((∀ b ∈ quadBores q, s.pstate b ≠ psActive ∧ s.pstate b ≠ psIdle))) ∧
    (let b : Nat := 1; let x : ChXlate := ⟨0, true, 8, [], 64, 3, 0⟩; let rest : List ChXlate := []; let s : State := w0.upCh 1 fun c => { c with xlate := [⟨0, true, 8, [], 64, 3, 0⟩] }; s.faults.frozen = false ∧ (s.ch b).xlate = x :: rest) := by
  and_intros <;> decide +kernel

theorem witness_ChanterControlCompletes :
    (let who : Requester := .fn 0; let b : Nat := 3; let s : State := wb 3; s.boreOpen b ∧ mayHostRm who = true ∧ b < 64 ∧ s.chState b = csHalted ∧ s.flag Fld.REED_FAULT_HELD b = false) ∧
    (let who : Requester := .resmgr; let b : Nat := 3; let s : State := wb 3; s.boreOpen b ∧ mayHostRm who = true ∧ b < 64 ∧ s.chState b = csHalted ∧ s.flag Fld.REED_FAULT_HELD b = false) ∧
    (let who : Requester := .fn 0; let b : Nat := 3; let s : State := (wb 3).putState 3 csRunning; s.boreOpen b ∧ mayHostRm who = true ∧ s.running b = true ∧ (s.ch b).stop = none) ∧
    (let who : Requester := .fn 0; let b : Nat := 3; let s : State := (wb 3).putState 3 csFaulted; s.boreOpen b ∧ mayHostRm who = true ∧ b < 64 ∧ s.chState b = csFaulted) ∧
    (let who : Requester := .fn 0; let b : Nat := 3; let s : State := (wb 3).putState 3 csRunning; s.boreOpen b ∧ mayHostRm who = true) ∧
    (let who : Requester := .fn 0; let b : Nat := 3; let s : State := wb 3; s.boreOpen b ∧ mayHostRm who = true ∧ s.chState b = csHalted) ∧
    (let who : Requester := .fn 0; let addr : Nat := 0x9000380040; let data : List Byte := [1, 2, 3, 4]; let b : Nat := 3; let off : Nat := 64; let s : State := wb 3; s.home addr = .pstore b off ∧ s.boreOpen b ∧ mayHostRm who = true ∧ s.running b = false ∧ progAccess data.length addr = true) ∧
    (let b : Nat := 3; let s : State := wb 3; s.boreOpen b ∧ s.running b = false) ∧
    (let who : Requester := .fn 0; let b : Nat := 3; let off : Nat := 0x1008; let s : State := wb 3; s.boreOpen b ∧ s.running b = false ∧ mayHostRm who = true ∧ (s.winRead b off).isSome = true) := by
  and_intros <;> decide +kernel

theorem witness_ChanterRunCompletes :
    (let b : Nat := 3; let s : State := (wb 3).putState 3 csRunning; let u : State := s.fsat Fld.CHN_CYCLES_CYCLES 1 b; let pc : Nat := u.fget Fld.CHN_PC_PC b; let ws : List Nat := u.words b pc; let v : State := u.firstMet b pc ws; s.faults.frozen = false ∧ s.running b = true ∧ s.clocked b = true ∧ (u.ch b).stop = none ∧ (u.ch b).imp = [] ∧ (u.ch b).bubble = 0 ∧ u.fetchFaults b pc ws = [] ∧ u.needsMet b ws = true ∧ v.holds b pc ws 6 = false ∧ v.holds b pc ws 7 = false ∧ (v.fetchCorr b pc).gateFaults b ws = []) ∧
    (let b : Nat := 3; let k : Nat := 64; let s : State := wTimed; let u : State := s.expire b (((s.timers b).filter fun x => x.2 = k).map (·.1)); s.faults.frozen = false ∧ s.chState b = csWaiting ∧ (s.ch b).stop = none ∧ (s.ch b).met = true ∧ ((s.timers b).map (·.2)).min? = some k ∧ u.clocked b = true) ∧
    (let b : Nat := 3; let k : Nat := 64; let s : State := wTimed.fput Fld.DRN_BPST_STATE psIdle 0 3; let u : State := s.expire b (((s.timers b).filter fun x => x.2 = k).map (·.1)); s.faults.frozen = false ∧ s.chState b = csWaiting ∧ (s.ch b).stop = none ∧ (s.ch b).met = true ∧ ((s.timers b).map (·.2)).min? = some k ∧ u.clocked b = false) ∧
    (let b : Nat := 3; let k : Nat := 0; let x : PendWrite := ⟨.g 5, 9⟩; let s : State := (wb 3).upCh 3 fun c => { c with pend := [⟨.g 5, 9⟩] }; s.faults.frozen = false ∧ (s.ch b).pend[k]? = some x) ∧
    (let b : Nat := 3; let id : Nat := 0; let x : ChLoad := ⟨0, .g 5, 8, .handle ⟨1, 0, 1⟩ 0, 4, none⟩; let m : HMap := ⟨1, 0, 1⟩; let off : Nat := 0; let data : List Byte := [0, 0, 0, 0, 0, 0, 0, 0]; let u : State := (wb 3).upCh 3 fun c => { c with loads := [⟨0, .g 5, 8, .handle ⟨1, 0, 1⟩ 0, 4, none⟩] }; let s : State := (wb 3).upCh 3 fun c => { c with loads := [⟨0, .g 5, 8, .handle ⟨1, 0, 1⟩ 0, 4, none⟩] }; s.faults.frozen = false ∧ ((s.ch b).loads.find? (fun x => x.id = id) = some x) ∧ x.tgt = .handle m off ∧ s.selfStore b = false ∧ s.hRead b m off x.len = (data, false, u)) ∧
    (let b : Nat := 3; let id : Nat := 0; let x : ChLoad := ⟨0, .g 5, 1, .ctxAddr 64, 4, some ([7], .ok, 64)⟩; let a : Nat := 64; let addr : Nat := 64; let data : List Byte := [7]; let s : State := (wb 3).upCh 3 fun c => { c with loads := [⟨0, .g 5, 1, .ctxAddr 64, 4, some ([7], .ok, 64)⟩] }; s.faults.frozen = false ∧ ((s.ch b).loads.find? (fun x => x.id = id) = some x) ∧ x.tgt = .ctxAddr a ∧ x.back = some (data, .ok, addr)) ∧
    (let b : Nat := 3; let f : ImpFault := ⟨cUnmapped, 3, 4, 0⟩; let rest : List ImpFault := []; let s : State := ((wb 3).putState 3 csRunning).upCh 3 fun c => { c with imp := [⟨cUnmapped, 3, 4, 0⟩] }; s.faults.frozen = false ∧ (s.ch b).imp = f :: rest ∧ s.running b = true ∧ (s.ch b).stop = none) ∧
    (let b : Nat := 3; let r : Nat := 3; let pc : Nat := 12; let s : State := ((wb 3).putState 3 csRunning).upCh 3 fun c => { c with stop := some (.halted 3 12) }; s.faults.frozen = false ∧ s.outstanding b = false ∧ s.running b = true ∧ (s.ch b).stop = some (.halted r pc) ∧ (s.ch b).imp = []) ∧
    (let b : Nat := 3; let f : ImpFault := ⟨cUnmapped, 3, 4, 0⟩; let p : Bool := true; let m : Bool := false; let h : Nat := 12; let s : State := ((wb 3).putState 3 csRunning).upCh 3 fun c => { c with stop := some (.faulted ⟨cUnmapped, 3, 4, 0⟩ true false 12) }; s.faults.frozen = false ∧ s.outstanding b = false ∧ s.running b = true ∧ (s.ch b).stop = some (.faulted f p m h)) ∧
    (let b : Nat := 3; let r : DmaReq := wDma; let s : State := (wb 3).upCh 3 fun c => { c with dma := [wDma] }; s.faults.frozen = false ∧ ((s.ch b).dma.find? (fun r => !r.moving) = some r) ∧ (((s.ch b).dma.filter fun r => r.moving && !r.copied).length < 4) ∧ tEmpty r.dd.toNat = false) ∧
    (let b : Nat := 3; let r : DmaReq := { wDma with dd := 0 }; let s : State := (wb 3).upCh 3 fun c => { c with dma := [{ wDma with dd := 0 }] }; s.faults.frozen = false ∧ ((s.ch b).dma.find? (fun r => !r.moving) = some r) ∧ (((s.ch b).dma.filter fun r => r.moving && !r.copied).length < 4) ∧ tEmpty r.dd.toNat = true) ∧
    (let b : Nat := 3; let id : Nat := 0; let r : DmaReq := { wDma with dd := 0, moving := true }; let s : State := (wb 3).upCh 3 fun c => { c with dma := [{ wDma with dd := 0, moving := true }] }; s.faults.frozen = false ∧ ((s.ch b).dma.find? (fun r => r.id = id && r.moving) = some r) ∧ r.copied = false ∧ s.dmaBehind b r = false ∧ (s.dmaMove b r).stop = none) ∧
    (let b : Nat := 3; let id : Nat := 0; let r : DmaReq := { wDma with ck := 2, moving := true, copied := true }; let u : State := ((wb 3).upCh 3 fun c => { c with dma := [{ wDma with ck := 2, moving := true, copied := true }] }).countOrphan (.here (.bore 3 0)); let s : State := (wb 3).upCh 3 fun c => { c with dma := [{ wDma with ck := 2, moving := true, copied := true }] }; s.faults.frozen = false ∧ ((s.ch b).dma.find? (fun r => r.id = id && r.moving) = some r) ∧ r.copied = true ∧ bit r.ck 1 = true ∧ s.completionMsg b r.ch r.tag = some u) := by
  and_intros <;> decide +kernel

theorem witness_MatrixArrayCommandsComplete :
    (let b : Nat := 3; let f : FeedReq := ⟨0, 0, ⟨1, 0, 1⟩, 1, 0⟩; let rest : List FeedReq := []; let s : State := (wb 3).upCh 3 fun c => { c with feeds := [⟨0, 0, ⟨1, 0, 1⟩, 1, 0⟩] }; let u : State := (s.fillFeed b f).upCh b fun c => { c with feeds := rest }; s.faults.frozen = false ∧ (s.ch b).feeds = f :: rest ∧ (s.ch b).arrq.any (·.reads f.fb) = false) ∧
    (let b : Nat := 3; let before : List ArrOp := []; let after : List ArrOp := []; let o : ArrOp := ⟨0x0040000000000000, 0, none, 0, 0, .waits⟩; let s : State := (wb 3).upCh 3 fun c => { c with arrq := [⟨0x0040000000000000, 0, none, 0, 0, .waits⟩] }; s.faults.frozen = false ∧ (s.ch b).arrq = before ++ o :: after ∧ o.phase = .waits ∧ mayBegin before o = true) ∧
    (let b : Nat := 3; let before : List ArrOp := []; let after : List ArrOp := []; let o : ArrOp := ⟨0x0020000000000000, 0, none, 0, 0, .runs⟩; let s : State := (wb 3).upCh 3 fun c => { c with arrq := [⟨0x0020000000000000, 0, none, 0, 0, .runs⟩] }; s.faults.frozen = false ∧ (s.ch b).arrq = before ++ o :: after ∧ o.phase = .runs ∧ (opc o.word.toNat = 2 ∨ opc o.word.toNat = 3)) ∧
    (let b : Nat := 3; let before : List ArrOp := [⟨0x0020000000000000, 0, none, 0, 0, .runs⟩]; let after : List ArrOp := []; let o : ArrOp := ⟨0x0010000000000000, 0, none, 0, 0, .runs⟩; let s : State := (wb 3).upCh 3 fun c => { c with arrq := [⟨0x0020000000000000, 0, none, 0, 0, .runs⟩, ⟨0x0010000000000000, 0, none, 0, 0, .runs⟩] }; s.faults.frozen = false ∧ (s.ch b).arrq = before ++ o :: after ∧ ((o.phase = .runs ∧ opc o.word.toNat ≠ 2 ∧ opc o.word.toNat ≠ 3) ∨ (o.phase = .tail ∧ (before.any fun x => opc x.word.toNat = opc o.word.toNat) = false))) ∧
    (let b : Nat := 3; let n : Nat := 4; let h : Nat := 1; let rest : List DrainWait := []; let s : State := (wb 3).upCh 3 fun c => { c with drains := [⟨some 4, 1⟩] }; s.faults.frozen = false ∧ (s.ch b).drains = ⟨some n, h⟩ :: rest) ∧
    (let b : Nat := 3; let h : Nat := 1; let rest : List DrainWait := []; let s : State := (wb 3).upCh 3 fun c => { c with drains := [⟨none, 1⟩] }; s.faults.frozen = false ∧ (s.ch b).drains = ⟨none, h⟩ :: rest) ∧
    (let who : Requester := .fn 0; let b : Nat := 3; let s : State := wb 3; s.boreOpen b ∧ mayPf who = true ∧ s.mayCtest b = true) ∧
    (let b : Nat := 3; let s : State := (wb 3).upArr 3 fun A => { A with testing := true }; s.faults.frozen = false ∧ (s.bore b).arr.testing = true ∧ b < 64) ∧
    (let who : Requester := .fn 0; let b : Nat := 3; let s : State := wb 3; s.boreOpen b ∧ mayPf who = true ∧ (s.bore b).arr.testing = false ∧ (s.bore b).arr.committing = false ∧ maskCount (s.maskPair .MXA_BYPPEND b) ≤ 8) ∧
    (let b : Nat := 3; let mask : Nat := 5; let rest : List FlashOp := []; let s : State := { wb 3 with faults := { (wb 3).faults with flash := [.bypass 3 5] } }; s.faults.flash = .bypass b mask :: rest) ∧
    (let b : Nat := 3; let k : KLoad := ⟨[2], ⟨1, 0, 1⟩, 0, 0, 0, some 4⟩; let rest : List KLoad := []; let n : Nat := 4; let data : List Byte := []; let p : Bool := false; let u : State := (wb 3).upBore 3 fun B => { B with kloads := [⟨[2], ⟨1, 0, 1⟩, 0, 0, 0, some 4⟩] }; let s : State := (wb 3).upBore 3 fun B => { B with kloads := [⟨[2], ⟨1, 0, 1⟩, 0, 0, 0, some 4⟩] }; s.faults.frozen = false ∧ (s.bore b).kloads = k :: rest ∧ k.cn = some n ∧ s.hRead b k.m (k.off / 4 * 4) (4 * k.count) = (data, p, u)) ∧
    (let b : Nat := 3; let k : KLoad := ⟨[2], ⟨1, 0, 1⟩, 0, 0, 0, none⟩; let rest : List KLoad := []; let data : List Byte := []; let p : Bool := false; let u : State := (wb 3).upBore 3 fun B => { B with kloads := [⟨[2], ⟨1, 0, 1⟩, 0, 0, 0, none⟩] }; let s : State := (wb 3).upBore 3 fun B => { B with kloads := [⟨[2], ⟨1, 0, 1⟩, 0, 0, 0, none⟩] }; s.faults.frozen = false ∧ (s.bore b).kloads = k :: rest ∧ k.cn = none ∧ s.hRead b k.m (k.off / 4 * 4) (4 * k.count) = (data, p, u)) := by
  and_intros <;> decide +kernel

theorem witness_LigatureCommandsComplete :
    (let who : Requester := .fn 0; let b : Nat := 3; let s : State := wb 3; s.boreOpen b ∧ mayHostRm who = true ∧ (s.bore b).lig.cmd = none) ∧
    (let who : Requester := .resmgr; let b : Nat := 3; let s : State := wb 3; s.boreOpen b ∧ mayHostRm who = true ∧ (s.bore b).lig.cmd = none) ∧
    (let who : Requester := .fn 0; let b : Nat := 3; let s : State := wb 3; s.boreOpen b ∧ mayHostRm who = true ∧ (s.bore b).lig.cmd = none) ∧
    (let who : Requester := .fn 0; let b : Nat := 3; let s : State := wb 3; s.boreOpen b ∧ mayHostRm who = true ∧ (s.bore b).lig.cmd = none) ∧
    (let b : Nat := 3; let c : LigCmd := ⟨1, 5, 16, 1, true⟩; let u : State := ((wb 3).upLig 3 fun l => { l with cmd := some ⟨1, 5, 16, 1, true⟩ }).hAlloc 3 5 hAllocated 16 1; let s : State := (wb 3).upLig 3 fun l => { l with cmd := some ⟨1, 5, 16, 1, true⟩ }; s.faults.frozen = false ∧ (s.bore b).lig.cmd = some c ∧ s.ligDo b c = (u, ligOk)) ∧
    (let b : Nat := 3; let h : Nat := 5; let rest : List Nat := []; let s : State := (wb 3).upLig 3 fun l => { l with scrubs := [5] }; s.faults.frozen = false ∧ (s.bore b).lig.scrubs = h :: rest ∧ (s.bore b).lig.active = false ∧ s.fget Fld.LIG_HDESC_INFLIGHT b h = 0) ∧
    (let b : Nat := 3; let h : Nat := 5; let rest : List Nat := []; let s : State := (wb 3).upLig 3 fun l => { l with scrubs := [5], active := true }; s.faults.frozen = false ∧ (s.bore b).lig.scrubs = h :: rest ∧ (s.bore b).lig.active = true) ∧
    (let who : Requester := .fn 0; let b : Nat := 3; let s : State := wb 3; s.boreOpen b ∧ mayHostRm who = true) ∧
    (let who : Requester := .fn 0; let b : Nat := 3; let s : State := wb 3; s.boreOpen b ∧ mayHostRm who = true) ∧
    (let b : Nat := 3; let a : ArrWait := ⟨0, 7, 1, [], [], 0⟩; let rest : List ArrWait := []; let s : State := (wb 3).upVest 3 fun v => { v with arrs := [⟨0, 7, 1, [], [], 0⟩] }; s.faults.frozen = false ∧ (s.bore b).vest.arrs = a :: rest ∧ (s.ch b).arrReady a = true) := by
  and_intros <;> decide +kernel

theorem witness_ReedCommandsComplete :
    (let b : Nat := 3; let r : Nat := 2; let x : Launch := ⟨7, [2], 0, 0, 0, none, 0, [2], false⟩; let s : State := ((wb 3).upBore 3 fun B => { B with launches := [⟨7, [2], 0, 0, 0, none, 0, [2], false⟩] }).upRank 3 2 fun k => { k with pendl := some 7 }; s.faults.frozen = false ∧ s.rkState b r = rkIdle ∧ (s.rank b r).pendl.bind (s.launch b) = some x) ∧
    (let b : Nat := 3; let id : Nat := 7; let x : Launch := ⟨7, [2], 0, 0, 0, some 4, 0, [], false⟩; let n : Nat := 4; let s : State := (wb 3).upBore 3 fun B => { B with launches := [⟨7, [2], 0, 0, 0, some 4, 0, [], false⟩] }; s.faults.frozen = false ∧ s.launch b id = some x ∧ x.left = [] ∧ x.cn = some n ∧ x.dead = false) ∧
    (let b : Nat := 3; let id : Nat := 7; let x : Launch := ⟨7, [2], 0, 0, 0, none, 0, [], false⟩; let s : State := (wb 3).upBore 3 fun B => { B with launches := [⟨7, [2], 0, 0, 0, none, 0, [], false⟩] }; s.faults.frozen = false ∧ s.launch b id = some x ∧ x.left = [] ∧ ((x.cn = none ∨ x.dead = true))) ∧
    (let b : Nat := 3; let r : Nat := 2; let s : State := (wb 3).upRank 3 2 fun k => { k with stopping := true }; s.faults.frozen = false ∧ (s.rank b r).stopping = true) ∧
    (let b : Nat := 3; let r : Nat := 2; let lane : Nat := 5; let s : State := ((wb 3).upReed 3 2 5 fun d => { d with mode := .running }).upBore 3 fun B => { B with kstore := [(8192, 0xA0000000)] }; let w : Nat := s.kinsn b r (s.reed b r lane).pc; s.faults.frozen = false ∧ (s.reed b r lane).mode = .running ∧ s.clocked b = true ∧ ksKey b r (s.reed b r lane).pc ∉ s.double ∧ ksKey b r (s.reed b r lane).pc ∉ s.single ∧ reedIllegal w = false ∧ s.reedHeld b r lane w = false ∧ s.reedCheck b r lane w = none) ∧
    (let b : Nat := 3; let r : Nat := 2; let lane : Nat := 5; let x : ReedLoad := ⟨4, 0, ⟨1, 0, 1⟩, 0, 0, 0, 0⟩; let rest : List ReedLoad := []; let data : List Byte := [0, 0, 0, 0]; let u : State := (wb 3).upReed 3 2 5 fun d => { d with loads := [⟨4, 0, ⟨1, 0, 1⟩, 0, 0, 0, 0⟩] }; let s : State := (wb 3).upReed 3 2 5 fun d => { d with loads := [⟨4, 0, ⟨1, 0, 1⟩, 0, 0, 0, 0⟩] }; s.faults.frozen = false ∧ (s.reed b r lane).loads = x :: rest ∧ s.hRead b x.m x.off (4 * 2 ^ x.sz) = (data, false, u)) ∧
    (let b : Nat := 3; let r : Nat := 2; let scope : Nat := 0; let ranks : List Nat := [2]; let s : State := (wb 3).upReed 3 2 5 fun d => { d with mode := .rbar 0 }; s.faults.frozen = false ∧ s.rbarRanks b r scope = some ranks ∧ s.rbarMet b scope ranks = true) ∧
    (let b : Nat := 3; let r : Nat := 2; let bid : Nat := 9; let s : State := (wb 3).upReed 3 2 5 fun d => { d with mode := .rgbar 9 }; s.faults.frozen = false ∧ s.rankArrival b r = some bid ∧ (s.rank b r).gsent = none) ∧
    (let who : Requester := .fn 0; let b : Nat := 3; let off : Nat := 0x1404; let s : State := wb 3; s.boreOpen b ∧ mayPf who = true ∧ s.fget Fld.REED_DBGSEL_RANK b ≤ 79 ∧ s.rkState b (s.fget Fld.REED_DBGSEL_RANK b) = rkIdle ∧ 0x1400 ≤ off ∧ off < 0x1480) := by
  and_intros <;> decide +kernel

theorem witness_QueueCommandsComplete :
    (let src : Endpoint := .unit .drone; let b : Nat := 3; let c : XClass := .posted; let e : Endpoint := .unit .drone; let d : Endpoint := .bore 3; let did : Nat := 3; let q : Nat := 2; let m : Message := wMsg; let u : State := (wb 3).fput Fld.QUE_QCFG_DEPTH 4 3 2 |>.fput Fld.QUE_QCFG_MODE 1 3 2 |>.fput Fld.QUE_QSTAT_READER 0 3 2 |>.fput Fld.QUE_QCFG_CRES 2 3 2; let s : State := ((wb 3).fput Fld.QUE_QCFG_DEPTH 4 3 2 |>.fput Fld.QUE_QCFG_MODE 1 3 2 |>.fput Fld.QUE_QSTAT_READER 0 3 2 |>.fput Fld.QUE_QCFG_CRES 2 3 2).send .posted (.unit .drone) (.bore 3) (.message 3 2 wMsg); s.pstate b ≠ psOff ∧ s.oldest .posted src (.bore b) = some (⟨c, e, d, .message did q m⟩, u) ∧ u.judge b q m.stamp m.origin m.nack false = none) ∧
    (let src : Endpoint := .unit .drone; let b : Nat := 3; let c : XClass := .posted; let e : Endpoint := .unit .drone; let d : Endpoint := .bore 3; let did : Nat := 3; let q : Nat := 2; let i : ChanInc := ⟨5, ⟨false, 4⟩, 0, .here (.bore 1 0), 0, 1024⟩; let u : State := (wb 3).fput Fld.QUE_QCFG_DEPTH 4 3 2 |>.fput Fld.QUE_QCFG_MODE 1 3 2 |>.fput Fld.QUE_QSTAT_READER 0 3 2; let s : State := ((wb 3).fput Fld.QUE_QCFG_DEPTH 4 3 2 |>.fput Fld.QUE_QCFG_MODE 1 3 2 |>.fput Fld.QUE_QSTAT_READER 0 3 2).send .posted (.unit .drone) (.bore 3) (.chanInc 3 2 ⟨5, ⟨false, 4⟩, 0, .here (.bore 1 0), 0, 1024⟩); s.pstate b ≠ psOff ∧ s.oldest .posted src (.bore b) = some (⟨c, e, d, .chanInc did q i⟩, u) ∧ u.judge b q i.stamp i.origin false true = none ∧ i.ctr.pool = false ∧ i.ctr.idx ≤ 47) ∧
    (let src : Endpoint := .unit .drone; let b : Nat := 3; let c : XClass := .posted; let e : Endpoint := .unit .drone; let d : Endpoint := .bore 3; let did : Nat := 3; let q : Nat := 2; let i : ChanInc := ⟨5, ⟨true, 4⟩, 0, .here (.bore 1 0), 0, 1024⟩; let u : State := (wb 3).fput Fld.QUE_QCFG_DEPTH 4 3 2 |>.fput Fld.QUE_QCFG_MODE 1 3 2 |>.fput Fld.QUE_QSTAT_READER 0 3 2; let s : State := ((wb 3).fput Fld.QUE_QCFG_DEPTH 4 3 2 |>.fput Fld.QUE_QCFG_MODE 1 3 2 |>.fput Fld.QUE_QSTAT_READER 0 3 2).send .posted (.unit .drone) (.bore 3) (.chanInc 3 2 ⟨5, ⟨true, 4⟩, 0, .here (.bore 1 0), 0, 1024⟩); s.pstate b ≠ psOff ∧ s.oldest .posted src (.bore b) = some (⟨c, e, d, .chanInc did q i⟩, u) ∧ u.judge b q i.stamp i.origin false true = none ∧ i.ctr.pool = true) ∧
    (let src : Endpoint := .unit .drone; let b : Nat := 3; let c : XClass := .posted; let e : Endpoint := .unit .drone; let d : Endpoint := .bore 3; let o : Origin := .here (.bore 3 0); let n : NackMsg := ⟨[1], 0, 2⟩; let u : State := wb 3; let s : State := (wb 3).send .posted (.unit .drone) (.bore 3) (.nackMsg (.here (.bore 3 0)) ⟨[1], 0, 2⟩); s.pstate b ≠ psOff ∧ s.oldest .posted src (.bore b) = some (⟨c, e, d, .nackMsg o n⟩, u)) ∧
    (let src : Endpoint := .unit .drone; let dst : Endpoint := .bore 3; let c : XClass := .posted; let e : Endpoint := .unit .drone; let d : Endpoint := .bore 3; let o : Origin := .here (.bore 3 0); let orphan : Bool := false; let u : State := wb 3; let s : State := (wb 3).send .posted (.unit .drone) (.bore 3) (.creditRet (.here (.bore 3 0)) false); s.atStub dst = false ∧ s.oldest .posted src dst = some (⟨c, e, d, .creditRet o orphan⟩, u)) ∧
    (let src : Endpoint := .unit .drone; let dst : Endpoint := .bore 3; let c : XClass := .posted; let e : Endpoint := .unit .drone; let d : Endpoint := .bore 3; let o : Origin := .here (.bore 3 0); let u : State := wb 3; let s : State := (wb 3).send .posted (.unit .drone) (.bore 3) (.release (.here (.bore 3 0))); s.atStub dst = false ∧ s.oldest .posted src dst = some (⟨c, e, d, .release o⟩, u)) ∧
    (let src : Endpoint := .unit .drone; let dst : Endpoint := .bore 3; let c : XClass := .posted; let e : Endpoint := .unit .drone; let d : Endpoint := .bore 3; let o : Origin := .here (.bore 3 0); let u : State := wb 3; let s : State := (wb 3).send .posted (.unit .drone) (.bore 3) (.orphanMark (.here (.bore 3 0))); s.atStub dst = false ∧ s.oldest .posted src dst = some (⟨c, e, d, .orphanMark o⟩, u)) ∧
    (let who : Requester := .fn 0; let owner : Nat := 3; let entry : Nat := 4; let second : Bool := true; let val : Word64 := 0; let u : State := ((wb 3).writeRoute (.bore 3 4) true 0).1; let s : State := wb 3; s.vestibuleOpen owner ∧ mayHostRm who = true ∧ s.writeRoute (.bore owner entry) second val = (u, 1)) ∧
    (let who : Requester := .fn 0; let s : State := w0; s.hubOpen = true ∧ mayHostRm who = true) ∧
    (let who : Requester := .fn 0; let s : State := w0; s.hubOpen = true ∧ mayHostRm who = true) ∧
    (let who : Requester := .fn 0; let b : Nat := 3; let q : Nat := 4; let val : Word64 := 2; let u : State := ((wb 3).writeQcfg 3 4 2).1; let s : State := wb 3; s.vestibuleOpen b ∧ mayHostRm who = true ∧ s.writeQcfg b q val = (u, 1)) ∧
    (let who : Requester := .fn 0; let b : Nat := 3; let s : State := wb 3; s.vestibuleOpen b ∧ mayHostRm who = true) ∧
    (let who : Requester := .fn 0; let b : Nat := 3; let s : State := wb 3; s.vestibuleOpen b ∧ mayHostRm who = true) ∧
    (let who : Requester := .fn 0; let b : Nat := 3; let s : State := wb 3; s.vestibuleOpen b ∧ mayHostRm who = true) ∧
    (let who : Requester := .fn 0; let b : Nat := 3; let ch : Nat := 4; let s : State := (wb 3).fput Fld.QUE_ROUTEA_VALID 1 3 4; s.vestibuleOpen b ∧ mayHostRm who = true ∧ b < 64 ∧ ch < 256 ∧ (s.bore b).vest.audit = none ∧ s.rtValid (.bore b ch) = true ∧ s.rt (.bore b ch) Fld.QUE_ROUTEA_KIND = 0 ∧ s.rt (.bore b ch) Fld.QUE_ROUTEA_DTYPE = 0) ∧
    (let src : Endpoint := .bore 1; let b : Nat := 3; let c : XClass := .posted; let e : Endpoint := .bore 1; let d : Endpoint := .bore 3; let did : Nat := 3; let q : Nat := 2; let o : Origin := .here (.bore 1 0); let u : State := wb 3; let s : State := (wb 3).send .posted (.bore 1) (.bore 3) (.auditMarker 3 2 (.here (.bore 1 0))); s.pstate b ≠ psOff ∧ s.oldest .posted src (.bore b) = some (⟨c, e, d, .auditMarker did q o⟩, u)) ∧
    (let src : Endpoint := .bore 1; let b : Nat := 3; let c : XClass := .posted; let e : Endpoint := .bore 1; let d : Endpoint := .bore 3; let oc : Nat := 1; let o : Origin := .here (.bore 3 0); let a : Audit := ⟨0, 0⟩; let u : State := (wb 3).upVest 3 fun v => { v with audit := some ⟨0, 0⟩ }; let s : State := ((wb 3).upVest 3 fun v => { v with audit := some ⟨0, 0⟩ }).send .posted (.bore 1) (.bore 3) (.auditReply (.here (.bore 3 0)) 1); s.pstate b ≠ psOff ∧ s.oldest .posted src (.bore b) = some (⟨c, e, d, .auditReply o oc⟩, u) ∧ (u.bore b).vest.audit = some a ∧ a.ch = srcCh o ∧ a.ch ∉ (u.bore b).vest.orphanAud) := by
  and_intros <;> decide +kernel

theorem witness_SynchronisationCommandsComplete :
    (let src : Endpoint := .bore 1; let c : XClass := .posted; let e : Endpoint := .bore 1; let d : Endpoint := .unit .sync; let idx : Nat := 17; let amt : Nat := 4; let ctx : Nat := 9; let u : State := (w0.fput Fld.SYN_PBLK_VALID 1 0 1).fput Fld.SYN_PBLK_CTX 9 0 1; let s : State := ((w0.fput Fld.SYN_PBLK_VALID 1 0 1).fput Fld.SYN_PBLK_CTX 9 0 1).send .posted (.bore 1) (.unit .sync) (.poolInc 17 4 9); s.oldest .posted src (.unit .sync) = some (⟨c, e, d, .poolInc idx amt ctx⟩, u) ∧ u.poolOwned ctx idx = true) ∧
    (let src : Endpoint := .bore 1; let c : XClass := .posted; let e : Endpoint := .bore 1; let d : Endpoint := .unit .sync; let b : Nat := 1; let idx : Nat := 17; let ctx : Nat := 9; let target : Word32 := 4; let u : State := (w0.fput Fld.SYN_PBLK_VALID 1 0 1).fput Fld.SYN_PBLK_CTX 9 0 1; let s : State := ((w0.fput Fld.SYN_PBLK_VALID 1 0 1).fput Fld.SYN_PBLK_CTX 9 0 1).send .posted (.bore 1) (.unit .sync) (.watch 1 17 4 9); s.oldest .posted src (.unit .sync) = some (⟨c, e, d, .watch b idx target ctx⟩, u) ∧ u.poolOwned ctx idx = true) ∧
    (let b : Nat := 3; let c : XClass := .posted; let e : Endpoint := .unit .sync; let d : Endpoint := .bore 3; let n : Nat := 3; let met : Bool := true; let u : State := wb 3; let s : State := (wb 3).send .posted (.unit .sync) (.bore 3) (.watchAns 3 true); s.pstate b ≠ psOff ∧ s.oldest .posted (.unit .sync) (.bore b) = some (⟨c, e, d, .watchAns n met⟩, u)) ∧
    (let src : Endpoint := .bore 1; let c : XClass := .posted; let e : Endpoint := .bore 1; let d : Endpoint := .unit .sync; let p : Participant := .chanter 1; let bid : Nat := 9; let ctx : Nat := 0; let u : State := w0.fput Fld.SYN_BCFG_VALID 1 0 9; let s : State := (w0.fput Fld.SYN_BCFG_VALID 1 0 9).send .posted (.bore 1) (.unit .sync) (.barArrive (.chanter 1) 9 0); let v : State := ({ u with bars := mput [] u.bars bid (mget [] u.bars bid ++ [p]) }).finc Fld.SYN_BSTAT_ARRIVED 1 0 bid; s.oldest .posted src (.unit .sync) = some (⟨c, e, d, .barArrive p bid ctx⟩, u) ∧ u.flag Fld.SYN_BCFG_VALID 0 bid = true ∧ u.fget Fld.SYN_BCFG_CTX 0 bid = ctx) ∧
    (let b : Nat := 3; let c : XClass := .posted; let e : Endpoint := .unit .sync; let d : Endpoint := .bore 3; let p : Participant := .chanter 3; let bid : Nat := 9; let phase : Word32 := 0; let aborted : Bool := false; let u : State := wb 3; let s : State := (wb 3).send .posted (.unit .sync) (.bore 3) (.barDone (.chanter 3) 9 0 false); s.pstate b ≠ psOff ∧ s.oldest .posted (.unit .sync) (.bore b) = some (⟨c, e, d, .barDone p bid phase aborted⟩, u)) ∧
    (let who : Requester := .fn 0; let bid : Nat := 9; let s : State := w0.fput Fld.SYN_BCFG_VALID 1 0 9; s.hubOpen = true ∧ mayHostRm who = true ∧ s.flag Fld.SYN_BCFG_VALID 0 bid = true) ∧
    (let who : Requester := .fn 0; let blk : Nat := 9; let val : Word64 := 0x80000007; let s : State := w0.fput Fld.CTX_QUOTA_PBLK 4 0 7; let u : State := s.rput .SYN_PBLK (Reg.SYN_PBLK.merge (s.rget .SYN_PBLK 0 blk) val) 0 blk; s.hubOpen = true ∧ mayHostRm who = true ∧ s.flag Fld.SYN_PBLK_VALID 0 blk = false ∧ u.flag Fld.SYN_PBLK_VALID 0 blk = true ∧ longer (quota (s.fget Fld.CTX_QUOTA_PBLK 0 (u.fget Fld.SYN_PBLK_CTX 0 blk))) (u.blocksOf (u.fget Fld.SYN_PBLK_CTX 0 blk)) = false) ∧
    (let who : Requester := .fn 0; let blk : Nat := 9; let val : Word64 := 7; let s : State := w0.rput .SYN_PBLK 0x80000007 0 9; let u : State := s.rput .SYN_PBLK (Reg.SYN_PBLK.merge (s.rget .SYN_PBLK 0 blk) val) 0 blk; s.hubOpen = true ∧ mayHostRm who = true ∧ s.flag Fld.SYN_PBLK_VALID 0 blk = true ∧ u.flag Fld.SYN_PBLK_VALID 0 blk = false) ∧
    (let who : Requester := .fn 0; let bid : Nat := 9; let val : Word64 := 0; let s : State := w0; let u : State := s.rput .SYN_BCFG (Reg.SYN_BCFG.merge (s.rget .SYN_BCFG 0 bid) val) 0 bid; s.hubOpen = true ∧ mayHostRm who = true ∧ s.fget Fld.SYN_BSTAT_ARRIVED 0 bid = 0 ∧ u.flag Fld.SYN_BCFG_VALID 0 bid = false) ∧
    (let who : Requester := .fn 0; let bid : Nat := 9; let val : Word64 := 0x8007000200000000; let s : State := w0.fput Fld.CTX_QUOTA_BARS 4 0 7; let u : State := s.rput .SYN_BCFG (Reg.SYN_BCFG.merge (s.rget .SYN_BCFG 0 bid) val) 0 bid; s.hubOpen = true ∧ mayHostRm who = true ∧ s.fget Fld.SYN_BSTAT_ARRIVED 0 bid = 0 ∧ s.flag Fld.SYN_BCFG_VALID 0 bid = false ∧ u.flag Fld.SYN_BCFG_VALID 0 bid = true ∧ 1 ≤ u.fget Fld.SYN_BCFG_PCOUNT 0 bid ∧ u.fget Fld.SYN_BCFG_PCOUNT 0 bid ≤ 4096 ∧ longer (quota (s.fget Fld.CTX_QUOTA_BARS 0 (u.fget Fld.SYN_BCFG_CTX 0 bid))) (u.barsOf (u.fget Fld.SYN_BCFG_CTX 0 bid)) = false) ∧
    (let who : Requester := .fn 0; let b : Nat := 3; let s : State := wb 3; s.vestibuleOpen b ∧ mayHostRm who = true) ∧
    (let who : Requester := .fn 0; let s : State := w0; s.hubOpen = true ∧ mayHostRm who = true) ∧
    (let who : Requester := .fn 0; let b : Nat := 3; let s : State := wb 3; s.vestibuleOpen b ∧ mayHostRm who = true) := by
  and_intros <;> decide +kernel

theorem witness_StageSchedulerCommandsComplete :
    (let who : Requester := .fn 0; let p : Nat := 1; let s : State := (w0.fput Fld.STG_STATUS_STATE sgStopped 1).upSched 1 fun d => { d with resume := sgRunning }; s.hubOpen = true ∧ mayHostRm who = true ∧ s.stg p = sgStopped) ∧
    (let who : Requester := .fn 0; let p : Nat := 1; let s : State := w0; s.hubOpen = true ∧ mayHostRm who = true ∧ s.stg p = sgOff) ∧
    (let who : Requester := .fn 0; let p : Nat := 1; let s : State := w0.fput Fld.STG_STATUS_STATE sgRunning 1; s.hubOpen = true ∧ mayHostRm who = true ∧ (s.stg p = sgRunning ∨ s.stg p = sgStepEnd)) ∧
    (let who : Requester := .fn 0; let p : Nat := 1; let s : State := w0.fput Fld.STG_STATUS_STATE sgStepEnd 1; s.hubOpen = true ∧ mayHostRm who = true ∧ s.stg p ≠ sgCoupled) ∧
    (let who : Requester := .fn 0; let p : Nat := 1; let s : State := w0.fput Fld.STG_STATUS_STATE sgStepEnd 1; s.hubOpen = true ∧ mayHostRm who = true ∧ s.stg p = sgStepEnd) ∧
    (let who : Requester := .fn 0; let p : Nat := 1; let val : Word64 := 9; let s : State := w0.fput Fld.STG_STATUS_STATE sgRunning 1; s.hubOpen = true ∧ mayHostRm who = true ∧ s.fget Fld.STG_CFG_ROLE p < 2 ∧ s.stg p = sgRunning ∧ s.tag p (val.toNat % 256) = tgFree) ∧
    (let p : Nat := 1; let m : TagMsg := ⟨false, 7, 0⟩; let rest : List TagMsg := []; let s : State := w0.upSched 1 fun d => { d with inbox := [⟨false, 7, 0⟩] }; (s.sched p).inbox = m :: rest) ∧
    (let src : Endpoint := .bore 1; let p : Nat := 1; let c : XClass := .posted; let e : Endpoint := .bore 1; let d : Endpoint := .unit (.stage 1); let x : Nat := 17; let m : Message := wMsg; let u : State := w0; let s : State := w0.send .posted (.bore 1) (.unit (.stage 1)) (.message 17 0 wMsg); s.oldest .posted src (.unit (.stage p)) = some (⟨c, e, d, .message x 0 m⟩, u)) ∧
    (let src : Endpoint := .bore 1; let p : Nat := 1; let c : XClass := .posted; let e : Endpoint := .bore 1; let d : Endpoint := .unit (.stage 1); let x : Nat := 17; let m : Message := { wMsg with words := [1] }; let u : State := w0; let s : State := w0.send .posted (.bore 1) (.unit (.stage 1)) (.message 17 1 { wMsg with words := [1] }); s.oldest .posted src (.unit (.stage p)) = some (⟨c, e, d, .message x 1 m⟩, u) ∧ (m.words.getD 0 0).toNat % 256 = 1) ∧
    (let p : Nat := 1; let x : Nat := 7; let u : State := (w1.sendAll 1 (w1.dispatchWords 1 0 0 7 0)).getD w1; let s : State := w1; let f : Nat := s.fget Fld.STG_STATUS_FCNT p; s.faults.frozen = false ∧ s.stg p = sgRunning ∧ s.bwdNext p = none ∧ s.fwdNext p = some x ∧ s.sendAll p (s.dispatchWords p (f % s.stgN Fld.STG_CFG_SBUF p) 0 x f) = some u) ∧
    (let p : Nat := 1; let x : Nat := 7; let u : State := (w1b.sendAll 1 (w1b.dispatchWords 1 0 1 7 0)).getD w1b; let s : State := w1b; let j : Nat := s.fget Fld.STG_TAG_ORD p x; s.faults.frozen = false ∧ s.stg p = sgRunning ∧ s.bwdNext p = some x ∧ (s.nent p = 0 ∨ s.flag Fld.STG_TAG_RESTORED p x = true) ∧ s.sendAll p (s.dispatchWords p (j % s.stgN Fld.STG_CFG_RBUF p) 1 x j) = some u) ∧
    (let p : Nat := 1; let u : State := ((w1.fput Fld.STG_STATUS_BDONE 1 1).sendAll 1 (w1.dispatchWords 1 0 2 0 1)).getD w1; let s : State := w1.fput Fld.STG_STATUS_BDONE 1 1; s.faults.frozen = false ∧ s.stepOver p = true ∧ s.sendAll p (s.dispatchWords p 0 2 0 (s.stgN Fld.STG_CFG_NMB p)) = some u) ∧
    (let p : Nat := 1; let x : Nat := 7; let rest : List Nat := []; let s : State := ((w1.upSched 1 fun d => { d with fwdOut := [7] }).fput Fld.STG_BROUTE_FVALID 1 1).fput Fld.CRK_STATUS_STATE 3 0; s.faults.frozen = false ∧ s.stg p = sgRunning ∧ (s.sched p).fwdOut = x :: rest ∧ s.flag Fld.STG_BROUTE_FVALID p = true ∧ s.portShut (s.fget Fld.STG_BROUTE_FKPORT p) = false) ∧
    (let p : Nat := 1; let x : Nat := 7; let rest : List Nat := []; let s : State := ((w1.upSched 1 fun d => { d with bwdOut := [7] }).fput Fld.STG_BROUTE_BVALID 1 1).fput Fld.CRK_STATUS_STATE 3 0; s.faults.frozen = false ∧ s.stg p = sgRunning ∧ (s.sched p).fwdOut = [] ∧ (s.sched p).bwdOut = x :: rest ∧ s.flag Fld.STG_BROUTE_BVALID p = true ∧ s.portShut (s.fget Fld.STG_BROUTE_BKPORT p) = false) := by
  and_intros <;> decide +kernel

theorem witness_StashAndTrainingCommandsComplete :
    (let p : Nat := 0; let j : StashJob := ⟨7, 0, 0, 0, false, true⟩; let rest : List StashJob := []; let s : State := ((wStash.fput Fld.STH_NENT_NENT 1 0).fput Fld.STH_ELEN_BYTES 64 0 0).upSched 0 fun d => { d with outs := [⟨7, 0, 0, 0, false, true⟩] }; s.faults.frozen = false ∧ (s.sched p).outs = j :: rest ∧ s.jobDone p j = false ∧ s.stashTurn p true = true) ∧
    (let p : Nat := 0; let j : StashJob := ⟨7, 0, 0, 0, false, true⟩; let rest : List StashJob := []; let s : State := ((wStash.fput Fld.STH_NENT_NENT 1 0).fput Fld.STH_ELEN_BYTES 64 0 0).upSched 0 fun d => { d with ins := [⟨7, 0, 0, 0, false, true⟩] }; s.faults.frozen = false ∧ (s.sched p).ins = j :: rest ∧ s.jobDone p j = false ∧ s.stashTurn p false = true) ∧
    (let p : Nat := 0; let j : StashJob := ⟨7, 0, 0, 0, false, true⟩; let rest : List StashJob := []; let u : State := (wStash.stashWrite 0 (wStash.slotOff 0 7 0) ((wStash.slotHeader 0 7 1).map fun x => (x, false))).2; let s : State := wStash; s.faults.frozen = false ∧ (s.sched p).outs = j :: rest ∧ s.jobDone p j = true ∧ j.open1 = true ∧ (s.stashWrite p (s.slotOff p j.tag 0) ((s.slotHeader p j.tag (1 + 2 * b2n j.poison)).map fun x => (x, false)) = (true, u))) ∧
    (let p : Nat := 0; let j : StashJob := ⟨7, 0, 0, 0, false, false⟩; let rest : List StashJob := []; let s : State := wStash.upSched 0 fun d => { d with outs := [⟨7, 0, 0, 0, false, false⟩] }; let v : State := (s.openOut 0 j).2; let u : State := (v.stashWrite p (v.slotOff p j.tag 0) ((v.slotHeader p j.tag 1).map fun x => (x, false))).2; s.faults.frozen = false ∧ (s.sched p).outs = j :: rest ∧ s.jobDone p j = true ∧ j.open1 = false ∧ s.openOut p j = (true, v) ∧ (v.stashWrite p (v.slotOff p j.tag 0) ((v.slotHeader p j.tag (1 + 2 * b2n j.poison)).map fun x => (x, false)) = (true, u))) ∧
    (let p : Nat := 1; let x : Nat := 7; let s : State := ((w1.putTag 1 7 tgFwdD).fput Fld.STG_TAG_STASHED 1 1 7).fput Fld.STH_NENT_NENT 1 1; s.faults.frozen = false ∧ s.stg p = sgRunning ∧ s.restorable p = some x) ∧
    (let p : Nat := 1; let j : StashJob := ⟨7, 0, 0, 0, false, true⟩; let rest : List StashJob := []; let s : State := w1.upSched 1 fun d => { d with ins := [⟨7, 0, 0, 0, false, true⟩] }; s.faults.frozen = false ∧ (s.sched p).ins = j :: rest ∧ s.jobDone p j = true ∧ j.open1 = true) ∧
    (let src : Endpoint := .bore 1; let h : Nat := 1; let c : XClass := .posted; let e : Endpoint := .bore 1; let d : Endpoint := .unit (.health 1); let x : Nat := 33; let m : Message := { wMsg with words := [1] }; let u : State := w0; let s : State := w0.send .posted (.bore 1) (.unit (.health 1)) (.message 33 0 { wMsg with words := [1] }); s.oldest .posted src (.unit (.health h)) = some (⟨c, e, d, .message x 0 m⟩, u) ∧ (m.words.getD 0 0).toNat % 256 = 1) ∧
    (let src : Endpoint := .bore 1; let h : Nat := 1; let c : XClass := .posted; let e : Endpoint := .bore 1; let d : Endpoint := .unit (.health 1); let x : Nat := 33; let m : Message := { wMsg with words := [2] }; let u : State := w0; let s : State := w0.send .posted (.bore 1) (.unit (.health 1)) (.message 33 0 { wMsg with words := [2] }); s.oldest .posted src (.unit (.health h)) = some (⟨c, e, d, .message x 0 m⟩, u) ∧ (m.words.getD 0 0).toNat % 256 = 2) ∧
    (let src : Endpoint := .bore 1; let h : Nat := 1; let c : XClass := .posted; let e : Endpoint := .bore 1; let d : Endpoint := .unit (.health 1); let x : Nat := 33; let m : Message := { wMsg with words := [3] }; let u : State := w0; let s : State := w0.send .posted (.bore 1) (.unit (.health 1)) (.message 33 0 { wMsg with words := [3] }); s.oldest .posted src (.unit (.health h)) = some (⟨c, e, d, .message x 0 m⟩, u) ∧ (m.words.getD 0 0).toNat % 256 = 3) ∧
    (let who : Requester := .fn 0; let h : Nat := 1; let s : State := w0.fput Fld.OVB_GATE_STATE gtHeld 1; s.hubOpen = true ∧ mayHostRm who = true ∧ (s.gate h = gtHeld ∨ s.gate h = gtReady)) ∧
    (let who : Requester := .fn 0; let h : Nat := 1; let s : State := w0.fput Fld.OVB_GATE_STATE gtReady 1; s.hubOpen = true ∧ mayHostRm who = true ∧ (s.gate h = gtHeld ∨ s.gate h = gtReady)) ∧
    (let who : Requester := .fn 0; let s : State := w0; s.hubOpen = true ∧ mayHostRm who = true) ∧
    (let h : Nat := 1; let commit : Bool := true; let s : State := (((w0.fput Fld.OVB_GATE_STATE gtPublish 1).upHset 1 fun x => { x with verdict := some true }).rtPut (.verdict 1 0) Fld.QUE_ROUTEA_VALID 1).rtPut (.verdict 1 0) Fld.QUE_RSTAT_CRED 1; let ws : List Word32 := [BitVec.ofNat 32 ((if commit then 1 else 2) + 2 ^ 8 * s.fget Fld.OVB_GATE_REASON h), BitVec.ofNat 32 (s.fget Fld.OVB_GATE_STEP h), BitVec.ofNat 32 (s.fget Fld.OVB_CKPT_EPOCH h)]; s.faults.frozen = false ∧ (s.hset h).verdict = some commit ∧ s.gate h = gtPublish ∧ ((s.vRoutes h).all (fun l => s.rtValid l && s.rt l Fld.QUE_RSTAT_CRED ≠ 0) = true)) ∧
    (let h : Nat := 1; let slot : Nat := 2; let s : State := w0.upHset 1 fun x => { x with rounds := [2] }; s.faults.frozen = false ∧ slot ∈ (s.hset h).rounds) := by
  and_intros <;> decide +kernel

theorem witness_ContextCommandsComplete :
    (let who : Requester := .fn 0; let p : Nat := 2; let subst : Option Nat := none; let s : State := wUp; let u : State := (((s.fput Fld.PRT_CMDST_OP 1).fput Fld.PRT_CMDST_CTX 0).fput Fld.PRT_CMDST_STATUS 0).fput Fld.PRT_CMDST_PENDING 1; let v : State := u.upPart p fun x => { x with rebuild := some ⟨subst, false, false, []⟩ }; s.hubOpen = true ∧ mayPf who = true ∧ s.flag Fld.PRT_CMDST_PENDING = false ∧ s.fget Fld.DRN_BOOT_STAGE = 7 ∧ ((s.rebuildSet p false).any (fun q => s.hbmDead (q / 4)) = false) ∧ s.rebuildBad p = false ∧ s.rebuildBusy (s.rebuildSet p false) = false ∧ s.noSpare (s.rebuildSet p false) subst = false) ∧
    (let p : Nat := 2; let fails : List Nat := [8, 9, 10, 11]; let r : Rebuild := ⟨none, false, true, [2]⟩; let s : State := w0.upPart 2 fun x => { x with rebuild := some ⟨none, false, true, [2]⟩ }; s.faults.frozen = false ∧ (s.part p).rebuild = some r ∧ r.begun = true ∧ s.bypassWaits (boresOf r.parts) = false ∧ (((boresOf r.parts).filter fun b => !(b ∈ fails)).any (fun b => s.pstate b ≠ psActive || s.inTransit b) = false)) ∧
    (let who : Requester := .fn 0; let c : Nat := 9; let s : State := w0; s.hubOpen = true ∧ mayPf who = true ∧ s.flag Fld.PRT_CMDST_PENDING = false ∧ s.cxState c = cxFree ∧ s.leader (s.homeOfCtx c) = s.homeOfCtx c ∧ s.homeFull (s.homeOfCtx c) = false) ∧
    (let who : Requester := .fn 0; let c : Nat := 9; let s : State := (w0.putCx 9 cxIdle).fput Fld.PRT_PSTAT_STATE ptUp 0 0; s.hubOpen = true ∧ mayPf who = true ∧ s.flag Fld.PRT_CMDST_PENDING = false ∧ s.cxState c = cxIdle ∧ s.homeUp (s.homeOfCtx c) = true) ∧
    (let c : Nat := 9; let vs : List Variant := (parseImage wImage).getD []; let u : State := wBind; let s : State := wBind; let v : Variant := vs.getD (s.ctx c).variant ⟨false, 0, [], []⟩; s.faults.frozen = false ∧ s.isNext .bind c = true ∧ s.allActive (s.boundBores c) = true ∧ ((s.boundBores c).any (fun b => s.running b) = false) ∧ parseImage (s.ctx c).image = some vs ∧ s.bindCopy c v = (none, u)) ∧
    (let who : Requester := .fn 0; let c : Nat := 9; let s : State := w0.putCx 9 cxResident; s.hubOpen = true ∧ mayPf who = true ∧ s.flag Fld.PRT_CMDST_PENDING = false ∧ s.cxState c = cxResident ∧ s.cxBusy c = false) ∧
    (let c : Nat := 9; let s : State := { w0.putCx 9 cxEvicting with cmds := [⟨.evictRun, 9, false⟩] }; s.faults.frozen = false ∧ s.isNext .evictRun c = true ∧ s.cxState c = cxEvicting ∧ s.quiet c = true ∧ s.allActive (s.boundBores c) = true) ∧
    (let who : Requester := .fn 0; let c : Nat := 9; let s : State := w0.putCx 9 cxResident; s.hubOpen = true ∧ mayPf who = true ∧ s.flag Fld.PRT_CMDST_PENDING = false ∧ s.cxState c = cxResident) ∧
    (let who : Requester := .fn 0; let c : Nat := 9; let s : State := w0.putCx 9 cxResident; s.hubOpen = true ∧ mayPf who = true ∧ s.flag Fld.PRT_CMDST_PENDING = false ∧ ((s.cxState c = cxLoading ∨ s.cxState c = cxResident) ∨ s.cxState c = cxEvicting)) ∧
    (let c : Nat := 9; let s : State := { w0.putCx 9 cxEnding with cmds := [⟨.endRun, 9, false⟩] }; s.faults.frozen = false ∧ s.isNext .endRun c = true ∧ s.cxState c = cxEnding ∧ s.quiet c = true ∧ s.allActive (s.boundBores c) = true) ∧
    (let who : Requester := .fn 0; let c : Nat := 9; let s : State := w0.putCx 9 cxEnded; s.hubOpen = true ∧ mayPf who = true ∧ s.flag Fld.PRT_CMDST_PENDING = false ∧ s.cxState c = cxEnded) ∧
    (let who : Requester := .fn 0; let c : Nat := 9; let s : State := w0.putCx 9 cxEnded; s.hubOpen = true ∧ mayPf who = true ∧ s.flag Fld.PRT_CMDST_PENDING = false ∧ (s.cxState c = cxIdle ∨ s.cxState c = cxEnded)) ∧
    (let b : Nat := 3; let c : Nat := 9; let s : State := { wb 3 with starts := [(3, 9)] }; s.faults.frozen = false ∧ (s.starts.find? (fun x => x.1 = b) = some (b, c)) ∧ s.chState b = csHalted ∧ s.fget Fld.CHN_STATUS_HREASON b ∈ [0, 1, 5] ∧ s.dispatchHeld b = false ∧ s.pstate b = psActive) ∧
    (let src : Endpoint := .bore 1; let c : XClass := .posted; let e : Endpoint := .bore 1; let d : Endpoint := .unit .resmgr; let ib : Nat := 0; let dq : Nat := 0; let m : Message := wMsg; let u : State := w0; let s : State := w0.send .posted (.bore 1) (.unit .resmgr) (.message 0 0 wMsg); s.oldest .posted src (.unit .resmgr) = some (⟨c, e, d, .message ib dq m⟩, u)) ∧
    (let who : Requester := .fn 0; let s : State := w0; s.hubOpen = true ∧ mayPf who = true ∧ s.flag Fld.CTX_INVST_PENDING = false) ∧
    (let c : Nat := 9; let s : State := (w0.fput Fld.CTX_INVST_PENDING 1).fput Fld.CTX_INVST_CTX 9; s.faults.frozen = false ∧ s.flag Fld.CTX_INVST_PENDING = true ∧ s.fget Fld.CTX_INVST_CTX = c ∧ s.accessing = false) ∧
    (let who : Requester := .fn 0; let p : Nat := 2; let s : State := wUp; let u : State := (s.prstSt p 0).fput Fld.DMP_PRSTST_PENDING 1; s.hubOpen = true ∧ mayPf who = true ∧ s.flag Fld.DMP_PRSTST_PENDING = false ∧ s.homeUp p = true ∧ (s.groupParts p).all s.schedQuiet = true ∧ (s.groupCtxs (s.groupParts p)).any s.cxActive = false ∧ s.groupWorks p = false) ∧
    (let p : Nat := 2; let s : State := wRst; let u : State := (s.each (s.groupParts p) State.warmPart).prstSt p 1; s.faults.frozen = false ∧ s.faults.restart = some p ∧ ((boresOf (s.groupParts p)).all (fun b => s.pstate b = psOff || (s.pstate b = psActive && !s.inTransit b)) = true)) := by
  and_intros <;> decide +kernel

theorem witness_CrookLinkCommandsComplete :
    (let who : Requester := .fn 0; let k : Nat := 1; let s : State := w0; s.hubOpen = true ∧ mayCrk who = true ∧ s.ck k = ckDisabled ∧ k < 12) ∧
    (let who : Requester := .fn 0; let s : State := w0; s.hubOpen = true ∧ mayCrk who = true) ∧
    (let who : Requester := .fn 0; let k : Nat := 1; let s : State := (wPort ckUp).fput Fld.CRK_CTRL_ENABLE 1 1; s.hubOpen = true ∧ mayCrk who = true ∧ s.fget Fld.CRK_CTRL_ENABLE k = 1 ∧ s.ck k ≠ ckDisabled ∧ k < 12) ∧
    (let who : Requester := .fn 0; let k : Nat := 1; let s : State := (wPort ckFailed).fput Fld.CRK_CTRL_ENABLE 1 1; s.hubOpen = true ∧ mayCrk who = true ∧ s.fget Fld.CRK_CTRL_ENABLE k = 1 ∧ s.ck k = ckFailed ∧ k < 12) ∧
    (let k : Nat := 1; let init : InitFlit := wInit; let s : State := wPort ckTraining; let u : State := ((s.putPeer k init).lockLanes k).each (List.range 4) fun s vl => s.fput (vlCred vl) (init.grants.getD vl 0) k; s.ck k = ckTraining) ∧
    (let k : Nat := 1; let s : State := wPort ckTraining; s.ck k = ckTraining) ∧
    (let k : Nat := 1; let init : InitFlit := wInit; let s : State := wPort ckRetrain; let u : State := (((s.putPeer k init).takeInit k init).ackTo k init.expected).2; s.ck k = ckRetrain ∧ s.peerChanged k init = false) ∧
    (let k : Nat := 1; let s : State := wPort ckRetrain; s.ck k = ckRetrain) ∧
    (let k : Nat := 1; let s : State := wPort ckUp; s.ck k = ckUp) ∧
    (let k : Nat := 1; let s : State := wPort ckTraining; s.ck k = ckTraining) ∧
    (let k : Nat := 1; let init : InitFlit := wInit; let s : State := wPort ckUp; let u : State := (s.takeInit k init).ckRetrainGo k; (s.ck k = ckUp ∨ s.ck k = ckRetrain) ∧ u.peerChanged k init = false) ∧
    (let k : Nat := 1; let init : InitFlit := wInit; let s : State := ((wPort ckUp).fput Fld.CRK_PEER_VALID 1 1).fput Fld.CRK_PEER_ID 9 1; let u : State := (s.takeInit k init).ckRetrainGo k; (s.ck k = ckUp ∨ s.ck k = ckRetrain) ∧ u.peerChanged k init = true) ∧
    (let k : Nat := 1; let flit : RxFlit := ⟨wFlit, 0, 0⟩; let s : State := wPort ckUp; let l : Link := linkOf flit.bytes; let u : State := (s.fecCount k flit.cor flit.uncor).takeLink k l; s.ck k = ckUp ∧ crcGood flit.bytes = true ∧ l.type = tyXfer ∧ u.faults.frozen = false ∧ l.seq = u.fget Fld.CRK_REPLAY_EXPSEQ k) ∧
    (let k : Nat := 1; let flit : RxFlit := ⟨[1], 0, 0⟩; let s : State := wPort ckUp; s.ck k = ckUp ∧ crcGood flit.bytes = false) ∧
    (let k : Nat := 1; let x : Flit := ⟨0, 0, ⟨true, 1, 0, [1]⟩, none⟩; let rest : List Flit := []; let s : State := (wPort ckUp).upPort 1 fun p => { p with held := [⟨0, 0, ⟨true, 1, 0, [1]⟩, none⟩] }; s.faults.frozen = false ∧ s.ck k = ckUp ∧ (s.port k).held = x :: rest) ∧
    (let k : Nat := 1; let vl : Nat := 0; let rot : Nat := 1; let s : State := ((wPort ckUp).upPort 1 fun p => { p with txq := [⟨0, [⟨true, 1, 0, [1]⟩], false, .tag 2 ⟨false, 7, 0⟩⟩] }).fput Fld.CRK_VLCRED_VL0 1 1; s.faults.frozen = false ∧ s.ck k = ckUp ∧ (s.port k).resend = 0 ∧ (s.port k).held.length < 4096 ∧ s.pickVl k = some (vl, rot)) ∧
    (let k : Nat := 1; let n : Nat := 0; let f : Flit := ⟨0, 0, ⟨true, 1, 0, [1]⟩, none⟩; let before : List Flit := []; let after : List Flit := []; let s : State := (wPort ckUp).upPort 1 fun p => { p with held := [⟨0, 0, ⟨true, 1, 0, [1]⟩, none⟩], resend := 1 }; s.faults.frozen = false ∧ s.ck k = ckUp ∧ (s.port k).held = before ++ f :: after ∧ (s.port k).resend = n + 1 ∧ after.length = n) ∧
    (let k : Nat := 1; let s : State := wPort ckUp; s.faults.frozen = false ∧ s.ck k = ckUp ∧ (s.port k).resend = 0 ∧ (4096 ≤ (s.port k).held.length ∨ s.pickVl k = none)) ∧
    (let k : Nat := 1; let s : State := wPort ckTraining; s.faults.frozen = false ∧ (s.ck k = ckTraining ∨ s.ck k = ckRetrain)) := by
  and_intros <;> decide +kernel

theorem witness_CrookTransferCommandsComplete :
    (let src : Endpoint := .bore 1; let k : Nat := 1; let c : XClass := .posted; let e : Endpoint := .bore 1; let d : Endpoint := .crook 1; let x : Nat := 49; let q : Nat := 0; let b : Nat := 1; let ch : Nat := 0; let m : Message := wMsg; let u : State := wPort ckUp; let s : State := (wPort ckUp).send .posted (.bore 1) (.crook 1) (.message 49 0 wMsg); s.faults.frozen = false ∧ s.oldest .posted src (.crook k) = some (⟨c, e, d, .message x q m⟩, u) ∧ m.nack = false ∧ m.origin = .here (.bore b ch) ∧ q ≤ 1 ∧ s.ck k = ckUp) ∧
    (let src : Endpoint := .bore 1; let k : Nat := 1; let c : XClass := .posted; let e : Endpoint := .bore 1; let d : Endpoint := .crook 1; let x : Nat := 49; let b : Nat := 1; let ch : Nat := 0; let m : Message := wMsg; let u : State := wPort ckUp; let s : State := (wPort ckUp).send .posted (.bore 1) (.crook 1) (.message 49 2 wMsg); s.faults.frozen = false ∧ s.oldest .posted src (.crook k) = some (⟨c, e, d, .message x 2 m⟩, u) ∧ m.nack = false ∧ m.origin = .here (.bore b ch) ∧ s.ck k = ckUp) ∧
    (let k : Nat := 1; let dq : Nat := 1; let c : CrkCmd := ⟨[0], 1, 0⟩; let rest : List CrkCmd := []; let s : State := (wPort ckUp).upPort 1 fun p => { p with dq1 := [⟨[0], 1, 0⟩] }; s.faults.frozen = false ∧ (s.port k).dq dq = c :: rest ∧ s.ck k = ckUp ∧ (s.port k).waits.length < 1024 ∧ s.xferBehind k c = false) ∧
    (let k : Nat := 1; let s : State := wRx 0 (.put false 0 5 64 0 0); let u : State := (s.putStep 1 0).getD s; s.faults.frozen = false ∧ s.putStep k 0 = some u) ∧
    (let k : Nat := 1; let s : State := wRx 1 (.put true 0 5 64 0 0); let u : State := (s.putStep 1 1).getD s; s.faults.frozen = false ∧ s.putStep k 0 = none ∧ s.putStep k 1 = some u) ∧
    (let k : Nat := 1; let vl : Nat := 0; let win : Nat := 0; let putid : Nat := 5; let len : Nat := 64; let off : Nat := 0; let rinc : Nat := 0; let back : Bool := false; let owed : Bool := false; let x : Share := ⟨true, 8, 0, List.replicate 80 7⟩; let w : WinCap := { wWin with base := 16 }; let st : AccStatus := .ok; let s : State := (wUp.fput Fld.CRK_STATUS_STATE ckUp 1).upPort 1 fun p => { p with rx := [⟨0, ⟨true, 8, 0, List.replicate 80 7⟩, some (.put false 0 5 64 0 0, { wWin with base := 16 }), false⟩] }; let u : State := (s.spaceWrite .device 0x10000 x.data).2; s.faults.frozen = false ∧ vl ≤ 1 ∧ (s.port k).rx = [⟨vl, x, some (.put back win putid len off rinc, w), owed⟩] ∧ s.mayLeave k vl = true ∧ s.behind k (s.headBound k vl) = false ∧ w.valid = true ∧ w.fwd = false ∧ off + len ≤ 4096 * w.size ∧ x.ends = false ∧ len ≤ x.data.length ∧ s.spaceWrite .device (4096 * w.base + off) x.data = (st, u) ∧ st.bad = false) ∧
    (let k : Nat := 1; let w : PutIn := ⟨false, 5, 0, 9⟩; let rest : List PutIn := []; let s : State := (wPort ckUp).upPort 1 fun p => { p with putsIn := [⟨false, 5, 0, 9⟩] }; s.faults.frozen = false ∧ s.ck k ≠ ckRetrain ∧ (s.port k).putsIn = w :: rest ∧ s.behind k (w.local1.toList.map fun x => .bore x.1) = false) ∧
    (let s : State := (wRx 3 (.red 6 5 64 0)).fput Fld.OVB_BCFG_VALID 1 1 2; s.faults.frozen = false) ∧
    (let k : Nat := 1; let slot : Nat := 6; let putid : Nat := 5; let len : Nat := 64; let eidx : Nat := 0; let owed : Bool := false; let x : Share := ⟨true, 8, 0, List.replicate 80 7⟩; let w : WinCap := wWin; let s : State := ((wPort ckUp).fput Fld.OVB_BCFG_VALID 1 1 2).upPort 1 fun p => { p with rx := [⟨3, ⟨true, 8, 0, List.replicate 80 7⟩, some (.red 6 5 64 0, wWin), false⟩] }; let u : State := (if (poisonWords x.data).isEmpty then s else s.poisonedSlot slot); s.faults.frozen = false ∧ (s.port k).rx = [⟨3, x, some (.red slot putid len eidx, w), owed⟩] ∧ s.mayLeave k 3 = true ∧ s.behind k (s.headBound k 3) = false ∧ s.flag Fld.OVB_BCFG_VALID (slot / 4) (slot % 4) = true ∧ x.ends = false ∧ len ≤ x.data.length) ∧
    (let k : Nat := 1; let good : Bool := true; let putid : Nat := 5; let reason : Nat := 0; let u : State := ((wRx 2 (.ack true 5 0)).rxTake 1 2 isAck).elim w0 (·.2); let s : State := wRx 2 (.ack true 5 0); s.faults.frozen = false ∧ s.behind k (s.headBound k 2) = false ∧ s.rxTake k 2 isAck = some (.ack good putid reason, u)) ∧
    (let k : Nat := 1; let did : Nat := 2; let q : Nat := 0; let m : Message := wMsg; let u : State := ((wRx 2 (.msg 2 0 wMsg)).rxTake 1 2 isMsg).elim w0 (·.2); let s : State := wRx 2 (.msg 2 0 wMsg); s.faults.frozen = false ∧ s.rxTake k 2 isMsg = some (.msg did q m, u)) ∧
    (let k : Nat := 1; let did : Nat := 2; let n : NackMsg := ⟨[1], 0, 2⟩; let s : State := wRx 2 (.nackm 2 ⟨[1], 0, 2⟩); let u : State := (s.rxTake 1 2 isMsg).elim s (·.2); s.faults.frozen = false ∧ s.rxTake k 2 isMsg = some (.nackm did n, u)) ∧
    (let k : Nat := 1; let did : Nat := 2; let q : Nat := 0; let i : ChanInc := ⟨1, ⟨true, 7⟩, 0, .here (.bore 1 0), 0, 9⟩; let u : State := ((wRx 2 (.inc 2 0 ⟨1, ⟨true, 7⟩, 0, .here (.bore 1 0), 0, 9⟩)).rxTake 1 2 isInc).elim w0 (·.2); let s : State := wRx 2 (.inc 2 0 ⟨1, ⟨true, 7⟩, 0, .here (.bore 1 0), 0, 9⟩); s.faults.frozen = false ∧ s.rxTake k 2 isInc = some (.inc did q i, u)) ∧
    (let k : Nat := 1; let rkind : Nat := 1; let b : Nat := 2; let ch : Nat := 5; let oc : Nat := 0; let p : Packet := .creditRet (.here (.bore 2 5)) false; let u : State := ((wRx 2 (.ret 1 2 5 0)).rxTake 1 2 isRet).elim w0 (·.2); let s : State := wRx 2 (.ret 1 2 5 0); s.faults.frozen = false ∧ s.rxTake k 2 isRet = some (.ret rkind b ch oc, u) ∧ retPacket rkind b ch oc = some p) ∧
    (let k : Nat := 1; let p : Nat := 2; let m : TagMsg := ⟨false, 7, 0⟩; let u : State := ((wRx 0 (.tag 2 ⟨false, 7, 0⟩)).rxTake01 1 isTag).elim w0 (·.2); let s : State := wRx 0 (.tag 2 ⟨false, 7, 0⟩); s.faults.frozen = false ∧ s.rxTake01 k isTag = some (.tag p m, u)) ∧
    (let k : Nat := 1; let did : Nat := 2; let q : Nat := 0; let b : Nat := 1; let ch : Nat := 5; let u : State := ((wRx 2 (.audit 2 0 1 5)).rxTake 1 2 isAudit).elim w0 (·.2); let s : State := wRx 2 (.audit 2 0 1 5); s.faults.frozen = false ∧ s.rxTake k 2 isAudit = some (.audit did q b ch, u)) ∧
    (let who : Requester := .fn 0; let k : Nat := 1; let w : Nat := 2; let second : Bool := true; let val : Word64 := 0; let s : State := w0; let u : State := s.rput (if second then .CRK_IWINB else .CRK_IWINA) (Reg.merge (if second then .CRK_IWINB else .CRK_IWINA) (s.rget (if second then .CRK_IWINB else .CRK_IWINA) k w) val) k w; s.hubOpen = true ∧ mayCrk who = true ∧ winRange u.small (4096 * u.fget Fld.CRK_IWINA_BASE k w) (4096 * u.fget Fld.CRK_IWINB_SIZE k w) = true) ∧
    (let who : Requester := .fn 0; let k : Nat := 1; let w : Nat := 2; let second : Bool := true; let val : Word64 := 0xFFFFFFF; let s : State := w0; let u : State := s.rput (if second then .CRK_IWINB else .CRK_IWINA) (Reg.merge (if second then .CRK_IWINB else .CRK_IWINA) (s.rget (if second then .CRK_IWINB else .CRK_IWINA) k w) val) k w; s.hubOpen = true ∧ mayCrk who = true ∧ winRange u.small (4096 * u.fget Fld.CRK_IWINA_BASE k w) (4096 * u.fget Fld.CRK_IWINB_SIZE k w) = false) := by
  and_intros <;> decide +kernel

theorem witness_HostRingCommandsComplete :
    (let fn : Nat := 0; let off : Nat := 0x9100; let words : List Word32 := [5, 6]; let c : Nat := 9; let d : Nat := 1; let s : State := (w0.fput Fld.HIF_DBR_VALID 1 0 73).upBell 73 fun _ => ⟨4, false, 0⟩; let u : State := s.upBell (8 * c + d) fun x => { x with cred := x.cred - 1 }; s.pageCtx fn off = some c ∧ s.ctxFn c ∉ s.hif.flr ∧ s.hubOpen = true ∧ off % 4096 = 256 * d ∧ d < 8 ∧ 1 ≤ words.length ∧ words.length ≤ 4 ∧ s.flag Fld.HIF_DBR_VALID 0 (8 * c + d) = true ∧ 0 < (s.bell1 (8 * c + d)).cred) ∧
    (let fn : Nat := 0; let x : DbMsg := ⟨0, 9, 1, wMsg⟩; let s : State := { w0 with hif := { w0.hif with dbq := [⟨0, 9, 1, wMsg⟩] } }; s.faults.frozen = false ∧ (s.hif.dbq.find? (fun x => x.fn = fn) = some x)) ∧
    (let fn : Nat := 0; let off : Nat := 0x9108; let val : Word32 := 1; let c : Nat := 9; let d : Nat := 1; let s : State := w0; s.pageCtx fn off = some c ∧ s.ctxFn c ∉ s.hif.flr ∧ s.hubOpen = true ∧ off % 4096 = 256 * d + 8 ∧ d < 8 ∧ val.getLsbD 0 = true) ∧
    (let fn : Nat := 0; let off : Nat := 0x9840; let c : Nat := 9; let q : Nat := 1; let r : Nat := 1; let s : State := w0.fput Fld.HIF_CTXH_RCOUNT 2 0 9; s.pageCtx fn off = some c ∧ s.ctxFn c ∉ s.hif.flr ∧ s.hubOpen = true ∧ off % 4096 = 0x800 + 0x40 * q ∧ s.ringOf c q = some r) ∧
    (let fn : Nat := 0; let off : Nat := 0x9848; let val : Word32 := 1; let c : Nat := 9; let q : Nat := 1; let r : Nat := 1; let s : State := w0.fput Fld.HIF_CTXH_RCOUNT 2 0 9; s.pageCtx fn off = some c ∧ s.ctxFn c ∉ s.hif.flr ∧ s.hubOpen = true ∧ off % 4096 = 0x808 + 0x40 * q ∧ s.ringOf c q = some r ∧ val.getLsbD 0 = true) ∧
    (let src : Endpoint := .bore 1; let c : XClass := .posted; let e : Endpoint := .bore 1; let d : Endpoint := .unit .hostMsg; let x : Nat := 0; let q : Nat := 0; let m : Message := wMsg; let u : State := w0; let s : State := w0.send .posted (.bore 1) (.unit .hostMsg) (.message 0 0 wMsg); s.oldest .posted src (.unit .hostMsg) = some (⟨c, e, d, .message x q m⟩, u)) ∧
    (let vf : Nat := 2; let i : Nat := 1; let c : Nat := 17; let s : State := (wVf.putCx 17 cxIdle).fput Fld.PRT_PSTAT_STATE ptUp 0 0; s.faults.frozen = false ∧ vf ≠ 0 ∧ s.fnExists vf = true ∧ s.flag Fld.HIF_VCMDST_PENDING vf = false ∧ s.vfCtx vf i = some c ∧ s.cxState c = cxIdle ∧ s.homeUp (s.homeOfCtx c) = true) ∧
    (let vf : Nat := 2; let i : Nat := 1; let c : Nat := 17; let s : State := wVf.putCx 17 cxResident; s.faults.frozen = false ∧ vf ≠ 0 ∧ s.fnExists vf = true ∧ s.flag Fld.HIF_VCMDST_PENDING vf = false ∧ s.vfCtx vf i = some c ∧ s.cxState c = cxResident ∧ s.cxBusy c = false) ∧
    (let vf : Nat := 2; let i : Nat := 1; let c : Nat := 17; let s : State := wVf.putCx 17 cxResident; s.faults.frozen = false ∧ vf ≠ 0 ∧ s.fnExists vf = true ∧ s.flag Fld.HIF_VCMDST_PENDING vf = false ∧ s.vfCtx vf i = some c ∧ s.cxState c = cxResident) ∧
    (let vf : Nat := 2; let i : Nat := 1; let c : Nat := 17; let s : State := wVf.putCx 17 cxResident; s.faults.frozen = false ∧ vf ≠ 0 ∧ s.fnExists vf = true ∧ s.flag Fld.HIF_VCMDST_PENDING vf = false ∧ s.vfCtx vf i = some c ∧ ((s.cxState c = cxLoading ∨ s.cxState c = cxResident) ∨ s.cxState c = cxEvicting)) ∧
    (let vf : Nat := 2; let i : Nat := 1; let c : Nat := 17; let s : State := wVf.putCx 17 cxEnded; s.faults.frozen = false ∧ vf ≠ 0 ∧ s.fnExists vf = true ∧ s.flag Fld.HIF_VCMDST_PENDING vf = false ∧ s.vfCtx vf i = some c ∧ s.cxState c = cxEnded) ∧
    (let who : Requester := .fn 0; let vf : Nat := 2; let val : Word64 := 0x400010; let s : State := w0; let new : Nat × Nat := vfRange val; let old : Nat × Nat := vfRange (s.rget .HIF_VFMAP 0 vf); s.hubOpen = true ∧ mayPf who = true ∧ vf ≠ 0 ∧ ((∀ i, i < old.2 → s.cxActive (old.1 + i) = false)) ∧ ((∀ i, i < new.2 → s.cxActive (new.1 + i) = false)) ∧ vf ∉ s.hif.flr ∧ new.1 + new.2 ≤ 1024 ∧ new.2 ≤ 64 ∧ ((∀ u, u < 256 → u ≠ vf → u ≠ 0 → overlaps new (vfRange (s.rget .HIF_VFMAP 0 u)) = false))) ∧
    (let who : Requester := .fn 0; let r : Nat := 73; let val : Word64 := 0x8000000000000004; let s : State := w0; let u : State := s.rput .HIF_DBR (Reg.HIF_DBR.merge (s.rget .HIF_DBR 0 r) val) 0 r; s.hubOpen = true ∧ mayPf who = true ∧ (s.flag Fld.HIF_DBR_VALID 0 r = false ∨ (s.bell1 r).cred = s.fget Fld.HIF_DBR_GRANT 0 r)) ∧
    (let who : Requester := .fn 0; let r : Nat := 7; let val : Word64 := 0x8000000000000000; let s : State := w0; let u : State := s.rput .HIF_HRING (Reg.HIF_HRING.merge (s.rget .HIF_HRING 0 r) val) 0 r; s.hubOpen = true ∧ mayPf who = true ∧ s.flag Fld.HIF_HRING_VALID 0 r = false) ∧
    (let who : Requester := .fn 0; let c : Nat := 9; let val : Word64 := 0x20000; let s : State := w0; s.hubOpen = true ∧ mayPf who = true ∧ (s.cxState c = cxFree ∨ s.cxState c = cxIdle ∨ s.cxState c = cxEnded) ∧ bits val.toNat 32 11 + bits val.toNat 16 6 ≤ 2048) := by
  and_intros <;> decide +kernel

theorem witness_HostLinkCommandsComplete :
    (let n : Nat := 4; let s : State := { w0 with hif := { w0.hif with ready := true } }; s.cfgReady = true ∧ n ≤ 255 ∧ s.fget Fld.DRN_BOOT_STAGE ≠ 8) ∧
    (let fn : Nat := 0; let s : State := { w0 with hif := { w0.hif with ready := true } }; s.cfgReady = true ∧ s.fnExists fn = true) ∧
    (let fn : Nat := 5; let s : State := { w0 with hif := { w0.hif with ready := true } }; s.cfgReady = true ∧ s.fnExists fn = false) ∧
    (let s : State := w0; s.cfgReady = false) ∧
    (let vf : Nat := 2; let s : State := wVf; let u : State := ({ s with hif := { s.hif with flr := sinsert vf s.hif.flr } }.each (s.owned vf) fun s c => s.beginEnding c endHost none); vf ≠ 0 ∧ s.fnExists vf = true) ∧
    (let s : State := { w0 with hif := { w0.hif with inReset := true } }; s.hif.inReset = true) ∧
    (let flit : Bool := true; let speed : Nat := 6; let s : State := w0; let u : State := ((s.fput Fld.HIF_LINK_UP 1).fput Fld.HIF_LINK_FLIT (b2n flit)).fput Fld.HIF_LINK_SPEED speed; s.powered = true ∧ s.fget Fld.DRN_BOOT_STAGE ≠ 9) ∧
    (let dst : Endpoint := .bore 3; let x : HostRead := ⟨.chanter 3, 0, 0, 0, 0x800000000000, 8, 1⟩; let rest : List HostRead := []; let s : State := { w0 with hif := { w0.hif with reads := [⟨.chanter 3, 0, 0, 0, 0x800000000000, 8, 1⟩] } }; firstOut dst s.hif.reads = some (x, rest)) ∧
    (let dst : Endpoint := .bore 3; let x : HostRead := ⟨.chanter 3, 0, 0, 0, 0x800000000000, 8, 1⟩; let rest : List HostRead := []; let st : HostCpl := .ur; let s : State := { w0 with hif := { w0.hif with reads := [⟨.chanter 3, 0, 0, 0, 0x800000000000, 8, 1⟩] } }; firstOut dst s.hif.reads = some (x, rest) ∧ st ≠ .ok) ∧
    (let dst : Endpoint := .bore 3; let x : HostRead := ⟨.chanter 3, 0, 0, 0, 0x800000000000, 8, 1⟩; let rest : List HostRead := []; let s : State := { w0 with hif := { w0.hif with reads := [⟨.chanter 3, 0, 0, 0, 0x800000000000, 8, 1⟩] } }; firstOut dst s.hif.reads = some (x, rest)) ∧
    (let fn : Nat := 0; let vec : Nat := 7; let s : State := w0; let u : State := { s with hif := { s.hif with unmasked := sinsert (4096 * fn + vec) s.hif.unmasked } }; vec < msixSize fn ∧ s.fnExists fn = true) ∧
    (let fn : Nat := 0; let vec : Nat := 7; let s : State := w0; vec < msixSize fn ∧ s.fnExists fn = true) ∧
    (let fn : Nat := 0; let vec : Nat := 7; let s : State := w0; vec < msixSize fn ∧ s.fnExists fn = true) := by
  and_intros <;> decide +kernel

theorem witness_PowerStateCommandsComplete :
    (let m : TokenMove := ⟨5, some 3⟩; let rest : List TokenMove := []; let s : State := { w0 with drone := { w0.drone with moves := [⟨5, some 3⟩] } }; s.faults.frozen = false ∧ s.drone.moves = m :: rest) ∧
    (let b : Nat := 3; let s : State := wb 3; s.faults.frozen = false ∧ s.pstate b ≠ psOff) ∧
    (let b : Nat := 3; let s : State := wb 3; s.faults.frozen = false ∧ s.pstate b = psActive ∧ s.inTransit b = false ∧ s.boreQuiet b = true) ∧
    (let b : Nat := 3; let s : State := ((wb 3).fput Fld.DRN_BPST_STATE psIdle 0 3).fput Fld.DRN_BPCFG_SLEEPT 9 0 3; s.faults.frozen = false ∧ s.pstate b = psIdle ∧ s.inTransit b = false ∧ s.fget Fld.DRN_BPCFG_SLEEPT 0 b ≠ 0) ∧
    (let b : Nat := 3; let s : State := ((wb 3).fput Fld.DRN_BPST_STATE psSleep 0 3).fput Fld.DRN_BPCFG_DEEPT 9 0 3; s.faults.frozen = false ∧ s.pstate b = psSleep ∧ s.inTransit b = false ∧ s.fget Fld.DRN_BPCFG_DEEPT 0 b ≠ 0) ∧
    (let b : Nat := 3; let p : Nat := psSleep; let s : State := wGo (some psSleep); let u : State := (s.upPower b fun w => { w with entering := none }).fput Fld.DRN_BPST_STATE p 0 b; s.faults.frozen = false ∧ (s.bore b).power.entering = some p ∧ (s.bore b).power.retReq = false ∧ (s.bore b).power.goal = none ∧ (s.bore b).power.held = none) ∧
    (let b : Nat := 3; let code : Nat := 1; let rest : List (Nat × Nat) := []; let s : State := (wb 3).wake 3 1; s.faults.frozen = false ∧ takeTrigger b s.drone.wakeq = some (code, rest)) ∧
    (let b : Nat := 3; let s : State := (wb 3).upPower 3 fun w => { w with waking := true }; s.faults.frozen = false ∧ (s.bore b).power.waking = true) ∧
    (let who : Requester := .fn 0; let b : Nat := 3; let s : State := wUp.fput Fld.DRN_BPST_STATE psSleep 0 3; s.powered = true ∧ mayTray who = true ∧ s.flag Fld.DRN_BPCMDST_PENDING = false ∧ s.fget Fld.DRN_BOOT_STAGE = 7 ∧ s.pstate b ≠ psOff ∧ s.pstate b ≠ psActive) ∧
    (let who : Requester := .fn 0; let b : Nat := 3; let s : State := wUp.fput Fld.DRN_BPST_STATE psActive 0 3; b < 64 ∧ s.powered = true ∧ mayTray who = true ∧ s.flag Fld.DRN_BPCMDST_PENDING = false ∧ s.fget Fld.DRN_BOOT_STAGE = 7 ∧ s.pstate b = psActive ∧ s.inTransit b = false ∧ s.boreQuiet b = true) ∧
    (let who : Requester := .fn 0; let b : Nat := 3; let s : State := wUp.fput Fld.DRN_BPST_STATE psActive 0 3; b < 64 ∧ s.powered = true ∧ mayTray who = true ∧ s.flag Fld.DRN_BPCMDST_PENDING = false ∧ s.fget Fld.DRN_BOOT_STAGE = 7 ∧ s.pstate b = psActive ∧ s.inTransit b = false ∧ s.boreQuiet b = true) ∧
    (let who : Requester := .fn 0; let b : Nat := 3; let s : State := wUp.fput Fld.DRN_BPST_STATE psActive 0 3; s.powered = true ∧ mayTray who = true ∧ s.flag Fld.DRN_BPCMDST_PENDING = false ∧ s.fget Fld.DRN_BOOT_STAGE = 7 ∧ s.pstate b ≠ psOff ∧ (s.ctxs.any (fun x => s.cxActive x.1 && (s.boundOn x.1 b).isSome) = false) ∧ (s.bore b).power.entering = none ∧ (s.bore b).power.waking = false) ∧
    (let who : Requester := .fn 0; let b : Nat := 3; let s : State := wUp.fput Fld.DRN_BPST_STATE psOff 0 3; s.powered = true ∧ mayTray who = true ∧ s.flag Fld.DRN_BPCMDST_PENDING = false ∧ s.fget Fld.DRN_BOOT_STAGE = 7 ∧ s.pstate b = psOff ∧ (s.bore b).power.leaving = none) ∧
    (let b : Nat := 3; let s : State := (wb 3).upPower 3 fun w => { w with retire := .waitWork }; s.faults.frozen = false ∧ (s.bore b).power.retire = .waitWork ∧ s.workDone b = true) ∧
    (let b : Nat := 3; let s : State := ((wb 3).upPower 3 fun w => { w with retire := .waitWork }).fput Fld.CHN_UNITS_MQ 1 3; s.faults.frozen = false ∧ (s.bore b).power.retire = .waitWork ∧ s.workDone b = false) ∧
    (let b : Nat := 3; let s : State := (wb 3).upPower 3 fun w => { w with retire := .drain }; s.faults.frozen = false ∧ (s.bore b).power.retire = .drain) ∧
    (let src : Endpoint := .unit .sync; let b : Nat := 3; let x : Transfer := ⟨.posted, .unit .sync, .bore 3, .watchAns 3 true⟩; let u : State := w0.fput Fld.DRN_BPST_STATE psOff 0 3; let v : State := w0.fput Fld.DRN_BPST_STATE psOff 0 3; let f : Field := Fld.DRN_STUB_OTHER; let s : State := (w0.fput Fld.DRN_BPST_STATE psOff 0 3).send .posted (.unit .sync) (.bore 3) (.watchAns 3 true); s.pstate b = psOff ∧ s.oldest .posted src (.bore b) = some (x, u) ∧ u.stub b x.pkt = some (v, f)) ∧
    (let b : Nat := 3; let code : Nat := 7; let s : State := w0.upPower 3 fun w => { w with leaving := some 7, powered := true }; s.faults.frozen = false ∧ (s.bore b).power.leaving = some code ∧ (s.bore b).power.powered = true ∧ (s.drone.moves.any (fun m => m.dst = some b) = false)) ∧
    (let b : Nat := 3; let s : State := (wb 3).upPower 3 fun w => { w with waking := true }; s.faults.frozen = false ∧ ((s.bore b).power.waking = true ∨ (s.bore b).power.leaving.isSome = true)) := by
  and_intros <;> decide +kernel

theorem witness_DroneCommandsComplete :
    (let s : State := w0; s.faults.frozen = false) ∧
    (let who : Requester := .fn 0; let val : Word64 := 6000; let s : State := w0; let n : Nat := bits val.toNat 0 16; let u : State := (s.fput Fld.BLW_LIMIT_LIMIT n).fput Fld.BLW_CFGST_STATUS 1; s.hubOpen = true ∧ mayTray who = true ∧ 1400 ≤ n ∧ n ≤ 6000 ∧ s.minBudget ≤ n) ∧
    (let temps : List (Option Int) := List.replicate 16 none; let s : State := w0; let u : State := temps.zipIdx.foldl (fun s x => s.putDiode x.2 x.1) s; let hot : Option (Nat × Int) := hottest temps; let c : Nat × Nat := u.capStep u.drone.thermCap u.drone.coolMs (hot.any fun x => 4 * (u.fget Fld.DRN_TCFG_TTHROT : Int) < x.2) (hot.all fun x => x.2 < 4 * ((u.fget Fld.DRN_TCFG_TTHROT : Int) - u.fget Fld.DRN_TCFG_THYST)); let v : State := { u with drone := { u.drone with thermCap := c.1, coolMs := c.2 } }; let w : State := (if c.1 < u.drone.thermCap then (v.fput Fld.DRN_ALERT_THROT 1).log srcDrone 0x0070 none 0 (leBytes 2 (hot.elim 0 (·.1)) ++ leBytes 2 (hot.elim 0 fun x => uint 16 x.2) ++ leBytes 2 c.1) else v).each (List.range 4) (State.driveFan · (hot.map (·.2))); s.droneOn = true ∧ temps.length = 16 ∧ (hot.all (fun x => x.2 < 4 * (w.fget Fld.DRN_TCFG_TSHUT : Int)) = true)) ∧
    (let s : State := w0; let n : Nat := (if 2 * s.fget Fld.BLW_LIMIT_LIMIT < s.powerDrawn then s.drone.overs + 1 else 0); let c : Nat × Nat := s.capStep s.drone.powerCap s.drone.lowMs (n = 5) (s.powerDrawn < 2 * s.fget Fld.BLW_LIMIT_LIMIT); let u : State := { s with drone := { s.drone with powerCap := c.1, lowMs := c.2, overs := if n = 5 then 0 else n } }; s.droneOn = true) ∧
    (let reads : List PmbRead := []; let s : State := w0; s.droneOn = true) ∧
    (let reads : List PmbRead := []; let s : State := w0; s.droneOn = true) ∧
    (let f : Nat := 2; let rpm : Nat := 5; let s : State := w0.fput Fld.DRN_FAN_MINRPM 900 0 2; s.droneOn = true ∧ f < 4 ∧ rpm < s.fget Fld.DRN_FAN_MINRPM 0 f) ∧
    (let s : State := w0; s.droneOn = true) ∧
    (let s : State := w0; s.droneOn = true) ∧
    (let s : State := w0; s.droneOn = true) := by
  and_intros <;> decide +kernel

theorem witness_ColdStartCommandsComplete :
    (let s : State := wBoard; s.booting = true ∧ s.stage < 2 ∧ s.recordOk boardBase = true) ∧
    (let s : State := State.reset; let u : State := ((s.fput Fld.DRN_ALERT_PMBFLT 1).bootStatus bsRailfail).fput Fld.DRN_BOOT_STAGE bsHalted; s.booting = true ∧ s.stage < 2) ∧
    (let s : State := State.reset.fput Fld.DRN_BOOT_STAGE bsImage; s.booting = true ∧ s.stage = bsImage) ∧
    (let s : State := State.reset.fput Fld.DRN_BOOT_STAGE bsFuses; s.faults.frozen = false ∧ s.booting = true ∧ s.stage = bsFuses) ∧
    (let s : State := State.reset.fput Fld.DRN_BOOT_STAGE bsHbm; let trained : List Nat := List.range 8; let u : State := s.fput Fld.DRN_BOOT_HBMOK 0xFF; s.faults.frozen = false ∧ s.booting = true ∧ s.stage = bsHbm) ∧
    (let s : State := State.reset.fput Fld.DRN_BOOT_STAGE bsHostready; s.booting = true ∧ (s.stage = bsHostready ∨ s.stage = bsRecovery)) ∧
    (let results : List SiteTest := []; let s : State := wReady; let u : State := results.foldl State.siteResult { s with boot := { s.boot with sites := [] } }; s.faults.frozen = false ∧ s.booting = true ∧ s.stage = bsHostready ∧ s.hif.ready = true ∧ u.boot.masks = s.boot.masks) ∧
    (let s : State := wReady.fput Fld.DRN_BOOT_STAGE bsSelftest; let u : State := s.each (List.range 64) fun s b => s.publishCap b false; s.faults.frozen = false ∧ s.booting = true ∧ s.stage = bsSelftest) ∧
    (let who : Requester := .fn 0; let s : State := w0; s.powered = true ∧ mayPf who = true) ∧
    (let who : Requester := .fn 0; let adc : Nat := 4095; let u : State := (w0.holdup 5 4095).2; let s : State := w0; s.powered = true ∧ mayPf who = true ∧ s.holdup 5 adc = (true, u)) ∧
    (let who : Requester := .fn 0; let s : State := w0; s.powered = true ∧ mayPf who = true) ∧
    (let who : Requester := .fn 0; let s : State := w0; s.powered = true ∧ mayPf who = true) ∧
    (let who : Requester := .fn 0; let s : State := w0; s.powered = true ∧ mayPf who = true) := by
  and_intros <;> decide +kernel

theorem witness_EmbouchureCommandsComplete :
    (let who : Requester := .fn 0; let n : Nat := 0; let l : List Byte := wEntry 0; let s : State := wEmb 0; let v : State := (s.fput Fld.EMB_SCMDST_OP 1).fput Fld.EMB_SCMDST_STREAM n; let u : State := (v.devRead 1024 (v.entryAddr 0) 64).2.2; let x : Stream := { Stream.reset with entry := l, gain := gainOf ((l.drop 32).take 16), out := (u.strm n).out }; s.hubOpen = true ∧ mayPf who = true ∧ s.flag Fld.EMB_SCMDST_PENDING = false ∧ (v.strm n).state = smOff ∧ v.devRead 1024 (v.entryAddr n) 64 = (.ok, l, u) ∧ u.entryBad n x = false ∧ x.isTdm = true ∧ u.ep x.port = epLocked) ∧
    (let who : Requester := .fn 0; let n : Nat := 5; let s : State := w0.upStrm 5 fun x => { x with state := smWait }; let u : State := (s.fput Fld.EMB_SCMDST_OP 2).fput Fld.EMB_SCMDST_STREAM n; s.hubOpen = true ∧ mayPf who = true ∧ s.flag Fld.EMB_SCMDST_PENDING = false ∧ (u.strm n).state = smWait ∧ (u.strm n).cur = none ∧ (u.strm n).ended = []) ∧
    (let who : Requester := .fn 0; let n : Nat := 5; let s : State := w0.upStrm 5 fun x => { x with state := smRun }; let u : State := (s.fput Fld.EMB_SCMDST_OP 3).fput Fld.EMB_SCMDST_STREAM n; s.hubOpen = true ∧ mayPf who = true ∧ s.flag Fld.EMB_SCMDST_PENDING = false ∧ (u.strm n).state = smRun) ∧
    (let who : Requester := .fn 0; let n : Nat := 5; let s : State := w0; let u : State := (s.fput Fld.EMB_SCMDST_OP 4).fput Fld.EMB_SCMDST_STREAM n; s.hubOpen = true ∧ mayPf who = true ∧ s.flag Fld.EMB_SCMDST_PENDING = false) ∧
    (let n : Nat := 0; let l : List Byte := List.replicate 16 0; let s : State := (wEmb 0).scmdPend 3 0; let u : State := (s.devRead 1024 (s.entryAddr 0 + 32) 16).2.2; s.faults.frozen = false ∧ s.emb.cmd = some (3, n) ∧ s.devRead 1024 (s.entryAddr n + 32) 16 = (.ok, l, u)) ∧
    (let src : Endpoint := .bore 1; let c : XClass := .posted; let e : Endpoint := .bore 1; let d : Endpoint := .unit .emb; let x : Nat := 60; let b : Nat := 1; let ch : Nat := 0; let m : Message := { wMsg with words := [1, 5] }; let v : State := (w0.fput Fld.PRT_BCUR_VALID 1 0 1).upStrm 5 fun x => { x with state := smRun }; let s : State := ((w0.fput Fld.PRT_BCUR_VALID 1 0 1).upStrm 5 fun x => { x with state := smRun }).send .posted (.bore 1) (.unit .emb) (.message 60 0 { wMsg with words := [1, 5] }); let n : Nat := (m.words.getD 1 0).toNat % 2 ^ 14; let u : State := v.hubTaken (.unit .emb) m; s.oldest .posted src (.unit .emb) = some (⟨c, e, d, .message x 0 m⟩, v) ∧ 2 ≤ m.words.length ∧ (m.words.getD 0 0).toNat % 256 = 1 ∧ m.origin = .here (.bore b ch) ∧ u.boreCtx b = (u.strm n).ctx ∧ (u.strm n).state = smRun) ∧
    (let who : Requester := .fn 0; let p : Nat := 2; let s : State := w0; let v : State := s.upTdm p fun _ => TdmPort.reset; let u : State := (v.fput Fld.EMB_PSTAT_RATE (v.fget Fld.EMB_PCFG_RATE 0 p) 0 p).rput .EMB_PFRAME 0 0 p; s.hubOpen = true ∧ mayPf who = true ∧ s.ep p = epOff ∧ u.flag Fld.EMB_PCFG_MASTER 0 p = false) ∧
    (let who : Requester := .fn 0; let p : Nat := 2; let s : State := w0.putEp 2 epLocked; s.hubOpen = true ∧ mayPf who = true ∧ s.ep p ≠ epOff ∧ s.epStreams p = []) ∧
    (let who : Requester := .fn 0; let p : Nat := 2; let s : State := w0.putEp 2 epRatewait; s.hubOpen = true ∧ mayPf who = true ∧ s.ep p = epRatewait) ∧
    (let p : Nat := 2; let s : State := (w0.putEp 2 epLocked).fput Fld.EMB_PCFG_MASTER 1 0 2; s.faults.frozen = false ∧ s.ep p ≠ epOff ∧ s.flag Fld.EMB_PCFG_MASTER 0 p = true) ∧
    (let p : Nat := 2; let period : Nat := 50000; let s : State := w0.putEp 2 epLocked; let u : State := s.countRate p period; s.faults.frozen = false ∧ s.ep p = epLocked ∧ s.flag Fld.EMB_PCFG_MASTER 0 p = false ∧ s.flag Fld.DRN_CLKST_REFLOST = false) ∧
    (let p : Nat := 2; let s : State := w0.putEp 2 epLocked; s.faults.frozen = false ∧ s.ep p = epLocked ∧ s.flag Fld.EMB_PCFG_MASTER 0 p = false) ∧
    (let p : Nat := 2; let s : State := w0.putEp 2 epLocked; s.faults.frozen = false ∧ s.ep p = epLocked ∧ ((s.tdm p).began = false ∨ s.epN p ≤ (s.tdm p).pos)) ∧
    (let n : Nat := 0; let f : Frame := ⟨0, [], 0, 0, 0, 0, 0, .reset, 0⟩; let rest : List Frame := []; let s : State := (wEmb 0).upStrm 0 fun x => { x with ended := [⟨0, [], 0, 0, 0, 0, 0, .reset, 0⟩] }; let u : State := s.upStrm n fun x => { x with ended := rest }; s.faults.frozen = false ∧ (s.strm n).ended = f :: rest ∧ (s.strm n).kind = kdCapture ∧ s.ctxLives (s.strm n).ctx = true ∧ u.epRate (s.strm n).port = (s.strm n).srate) ∧
    (let n : Nat := 0; let o : FrameOut := wOut false; let s : State := w0.upStrm 0 fun x => { x with out := [wOut false] }; s.faults.frozen = false ∧ ((s.strm n).out.find? (fun o => !o.written) = some o)) ∧
    (let n : Nat := 0; let o : FrameOut := wOut true; let rest : List FrameOut := []; let s : State := w0.upStrm 0 fun x => { x with out := [wOut true] }; let u : State := s.upStrm n fun x => { x with out := rest }; s.faults.frozen = false ∧ (s.strm n).out = o :: rest ∧ o.written = true ∧ o.route ≤ 255) ∧
    (let n : Nat := 0; let l : List Int := wSamples (wPlay.readSlot (wPlay.strm 0) 0 0); let u : State := (wPlay.readSlot (wPlay.strm 0) 0 0).2; let s : State := wPlay; s.faults.frozen = false ∧ (s.strm n).kind = kdPlayback ∧ (s.strm n).state = smRun ∧ (s.strm n).stopAt = false ∧ s.ep (s.strm n).port = epLocked ∧ s.ctxLives (s.strm n).ctx = true ∧ (s.tdm (s.strm n).port).began = false ∧ s.readSlot (s.strm n) ((s.strm n).bufSlot 0) 0 = (.samples l, u) ∧ u.epRate (s.strm n).port = (s.strm n).srate) ∧
    (let n : Nat := 0; let f : Frame := ⟨0, [], 0, 0, 0, 0, 0, .reset, 0⟩; let rest : List Frame := []; let k : Nat := 80; let vad : Bool := true; let hang : Nat := 0; let s : State := (wEmb 1).upStrm 0 fun x => { x with ended := [⟨0, [], 0, 0, 0, 0, 0, .reset, 0⟩] }; let u : State := s.upStrm n fun x => { x.total f with ended := rest, hang := hang }; s.faults.frozen = false ∧ (s.strm n).ended = f :: rest ∧ (s.strm n).kind = kdPlayback ∧ s.ctxLives (s.strm n).ctx = true ∧ s.epN (s.strm n).port = k ∧ (s.strm n).vad (energyOf f.gain.pgain f.xs) k = (vad, hang)) ∧
    (let n : Nat := 0; let s : State := wEmb 2; s.faults.frozen = false ∧ (s.strm n).isTdm = false ∧ (s.strm n).state = smRun ∧ s.ctxLives (s.strm n).ctx = true) ∧
    (let n : Nat := 0; let k : Nat := 7; let e : Nat := 0; let m : Nat := 80; let s : State := (wEmb 0).upStrm 0 fun x => { x with agc := some (7, 0, 80), gain := ⟨256, 0, true, 128, 255, 1, 1000, 5, 9⟩ }; let g : Nat := agcGain (s.strm n).gain e m; let u : State := s.upStrm n fun x => { x with agc := none }; s.faults.frozen = false ∧ (s.strm n).agc = some (k, e, m) ∧ s.strmNow (s.strm n) ≠ k ∧ (s.strm n).isTdm = true ∧ (s.strm n).gainNx = none ∧ g ≠ (s.strm n).gain.cgain) ∧
    (let who : Requester := .fn 0; let r : Nat := 1; let val : Word64 := 4; let s : State := w0; s.hubOpen = true ∧ mayPf who = true ∧ (s.fget Fld.EMB_FROUTE_VALID 0 r = 0 ∨ s.fget Fld.EMB_FRSTAT_CRED 0 r = s.fget Fld.EMB_FROUTE_GRANT 0 r) ∧ 1 ≤ bits val.toNat 0 10 ∧ bits val.toNat 0 10 ≤ 512 ∧ val.getLsbD 63 = false) ∧
    (let who : Requester := .fn 0; let r : Nat := 1; let val : Word64 := 4; let s : State := w0; s.hubOpen = true ∧ mayPf who = true ∧ (s.fget Fld.BEL_FROUTE_VALID r = 0 ∨ s.fget Fld.BEL_FRSTAT_CRED r = s.fget Fld.BEL_FROUTE_GRANT r) ∧ 1 ≤ bits val.toNat 0 10 ∧ bits val.toNat 0 10 ≤ 512 ∧ val.getLsbD 63 = false) := by
  and_intros <;> decide +kernel

theorem witness_BellPipeCommandsComplete :
    (let who : Requester := .fn 0; let p : Nat := 2; let s : State := wBell; let u : State := s.upPipe p (fun _ => { Pipe.reset with active := s.shadowSet p compositionRegs, timing := s.shadowSet p timingRegs, done := (s.pipe p).done }); s.hubOpen = true ∧ mayPf who = true ∧ s.bpRun p = false ∧ s.ctxLives (s.pipeCtx p) = true ∧ timingOk (s.shadowSet p timingRegs) (s.dpen p) = true ∧ compositionOk (s.shadowSet p compositionRegs) (s.shadowSet p timingRegs) = true) ∧
    (let who : Requester := .fn 0; let p : Nat := 2; let s : State := wRun; s.hubOpen = true ∧ mayPf who = true ∧ s.bpRun p = true) ∧
    (let who : Requester := .fn 0; let p : Nat := 2; let s : State := wRun; s.hubOpen = true ∧ mayPf who = true ∧ s.bpRun p = true) ∧
    (let who : Requester := .fn 0; let p : Nat := 2; let s : State := w0; s.hubOpen = true ∧ mayPf who = true ∧ s.bpRun p = false) ∧
    (let who : Requester := .fn 0; let p : Nat := 2; let s : State := wRun; s.hubOpen = true ∧ mayPf who = true ∧ s.bpRun p = true) ∧
    (let who : Requester := .fn 0; let p : Nat := 2; let s : State := wBell.fput Fld.BEL_PSTAT_STATE 1 2; s.hubOpen = true ∧ mayPf who = true ∧ s.bpRun p = true ∧ timingOk (s.shadowSet p timingRegs) (s.dpen p) = true) ∧
    (let who : Requester := .fn 0; let val : Word64 := 0x300; let s : State := w0; s.hubOpen = true ∧ mayPf who = true ∧ bits val.toNat 0 3 = 0) ∧
    (let who : Requester := .fn 0; let val : Word64 := 0x301; let s : State := w0; s.hubOpen = true ∧ mayPf who = true ∧ bits val.toNat 0 3 = 1) ∧
    (let src : Endpoint := .bore 1; let c : XClass := .posted; let e : Endpoint := .bore 1; let d : Endpoint := .unit .bell; let x : Nat := 62; let b : Nat := 1; let ch : Nat := 0; let m : Message := { wMsg with words := [1, 2] }; let v : State := wRun.fput Fld.PRT_BCUR_VALID 1 0 1; let s : State := (wRun.fput Fld.PRT_BCUR_VALID 1 0 1).send .posted (.bore 1) (.unit .bell) (.message 62 0 { wMsg with words := [1, 2] }); let p : Nat := (m.words.getD 1 0).toNat % 4; let u : State := v.hubTaken (.unit .bell) m; s.oldest .posted src (.unit .bell) = some (⟨c, e, d, .message x 0 m⟩, v) ∧ 2 ≤ m.words.length ∧ (m.words.getD 0 0).toNat % 256 = 1 ∧ m.origin = .here (.bore b ch) ∧ u.boreCtx b = u.pipeCtx p ∧ u.bpRun p = true) ∧
    (let src : Endpoint := .bore 1; let c : XClass := .posted; let e : Endpoint := .bore 1; let d : Endpoint := .unit .bell; let x : Nat := 62; let b : Nat := 1; let ch : Nat := 0; let m : Message := { wMsg with words := [2, 2] }; let v : State := wRun.fput Fld.PRT_BCUR_VALID 1 0 1; let s : State := (wRun.fput Fld.PRT_BCUR_VALID 1 0 1).send .posted (.bore 1) (.unit .bell) (.message 62 0 { wMsg with words := [2, 2] }); let p : Nat := (m.words.getD 1 0).toNat % 4; let u : State := v.hubTaken (.unit .bell) m; s.oldest .posted src (.unit .bell) = some (⟨c, e, d, .message x 0 m⟩, v) ∧ 2 ≤ m.words.length ∧ (m.words.getD 0 0).toNat % 256 = 2 ∧ m.origin = .here (.bore b ch) ∧ u.boreCtx b = u.pipeCtx p ∧ u.bpRun p = true) ∧
    (let p : Nat := 2; let s : State := wRun; s.faults.frozen = false ∧ s.bpRun p = true ∧ (s.pipe p).framing = false) ∧
    (let p : Nat := 2; let late : List Nat := []; let s : State := wRun.upPipe 2 fun x => { x with framing := true }; let u : State := s.endFrame p late; s.faults.frozen = false ∧ s.bpRun p = true ∧ (s.pipe p).framing = true ∧ (u.pipe p).stopAt = false ∧ (u.pipe p).tpend = none ∧ (u.pipe p).flushed = false ∧ u.ctxLives (u.pipeCtx p) = true ∧ (u.pipe p).pend = none) ∧
    (let p : Nat := 2; let late : List Nat := []; let s : State := wRun.upPipe 2 fun x => { x with framing := true, stopAt := true }; let u : State := s.endFrame p late; s.faults.frozen = false ∧ s.bpRun p = true ∧ (s.pipe p).framing = true ∧ (u.pipe p).stopAt = true) ∧
    (let p : Nat := 2; let s : State := wRun.upPipe 2 fun x => { x with filling := true }; s.faults.frozen = false ∧ (s.pipe p).filling = true) ∧
    (let p : Nat := 2; let f : FrameDone := ⟨9, 0, 0, 0⟩; let l : List FrameDone := []; let s : State := (w0.fput Fld.BEL_FROUTE_VALID 1 2).upPipe 2 fun x => { x with done := [⟨9, 0, 0, 0⟩] }; let u : State := s.upPipe p (fun x => { x with done := l }); s.faults.frozen = false ∧ (s.pipe p).done = f :: l ∧ u.flag Fld.BEL_FROUTE_VALID p = true) := by
  and_intros <;> decide +kernel

theorem witness_DisplayPortCommandsComplete :
    (let who : Requester := .fn 0; let d : Nat := 1; let s : State := (w0.fput Fld.BEL_PSTAT_STATE 1 1).fput Fld.BEL_PCFG_DPEN 1 1; s.hubOpen = true ∧ mayPf who = true ∧ s.bpRun d = true ∧ s.dpen d = true) ∧
    (let d : Nat := 1; let s : State := w0.putLink 1 lkTraining; let t : Map Word64 := (s.pipe d).timing; s.faults.frozen = false ∧ s.link d = lkTraining) ∧
    (let d : Nat := 1; let s : State := w0.putLink 1 lkTraining; s.faults.frozen = false ∧ s.link d = lkTraining) ∧
    (let d : Nat := 1; let s : State := w0.putLink 1 lkUp; let u : State := ((s.fput Fld.BEL_DPSTAT_HPD 0 d).upDp d fun x => { x with unplugged := true }).dpEvent d Fld.BEL_DPSTAT_UNPLUG; s.faults.frozen = false ∧ s.powered = true ∧ u.link d ≠ lkOff) ∧
    (let d : Nat := 1; let s : State := w0; let u : State := ((s.fput Fld.BEL_DPSTAT_HPD 0 d).upDp d fun x => { x with unplugged := true }).dpEvent d Fld.BEL_DPSTAT_UNPLUG; s.faults.frozen = false ∧ s.powered = true ∧ u.link d = lkOff) ∧
    (let d : Nat := 1; let s : State := w0; s.faults.frozen = false ∧ s.powered = true ∧ s.flag Fld.BEL_DPSTAT_IRQHPD d = false) ∧
    (let d : Nat := 1; let s : State := w0.upDp 1 fun x => { x with unplugged := true }; let u : State := s.fput Fld.BEL_DPSTAT_HPD 1 d; s.faults.frozen = false ∧ s.powered = true ∧ (u.dp d).unplugged = true) ∧
    (let who : Requester := .fn 0; let d : Nat := 1; let s : State := w0; s.hubOpen = true ∧ mayPf who = true ∧ s.flag Fld.BEL_AUXST_PENDING d = false ∧ s.link d ≠ lkTraining) ∧
    (let d : Nat := 1; let code : Nat := 2; let data : List Byte := []; let v : Nat := 5; let s : State := w0.upDp 1 fun x => { x with aux := some 5 }; let u : State := (if code = 1 then s.putAux d (data.take (bits v 0 4 + 1)) else s); s.faults.frozen = false ∧ (s.dp d).aux = some v ∧ (code = 1 ∨ code = 2 ∨ code = 3)) ∧
    (let d : Nat := 1; let v : Nat := 5; let s : State := w0.upDp 1 fun x => { x with aux := some 5 }; s.faults.frozen = false ∧ (s.dp d).aux = some v) := by
  and_intros <;> decide +kernel

theorem witness_FaultCommandsComplete :
    (let cause : Nat := pkHubUe; let src : Nat := 0x2000; let s : State := wUp; (cause = pkHubUe ∨ cause = pkHbmFatal ∨ cause = pkWindway) ∧ s.fget Fld.DMP_STATUS_STATE = dsNone ∧ 2 < s.fget Fld.DRN_BOOT_STAGE ∧ s.fget Fld.DRN_BOOT_STAGE < 8 ∧ s.noWindow cause (src % 0x10000) = false) ∧
    (let s : State := wUp.freeze dsWriting pkHubUe 0x2000; s.faults.frozen = true ∧ s.fget Fld.DMP_STATUS_STATE = dsWriting) ∧
    (let who : Requester := .fn 0; let s : State := wUp; mayPf who = true ∧ s.blockOpen who .DMP = true ∧ s.fget Fld.DMP_STATUS_STATE = dsNone ∧ 2 < s.fget Fld.DRN_BOOT_STAGE ∧ s.fget Fld.DRN_BOOT_STAGE < 8 ∧ (s.noWindow pkForce srcHif = false)) ∧
    (let who : Requester := .fn 0; let s : State := wUp.fput Fld.DMP_STATUS_STATE dsComplete; mayPf who = true ∧ s.blockOpen who .DMP = true ∧ s.fget Fld.DMP_STATUS_STATE ≠ dsWriting) ∧
    (let who : Requester := .fn 0; let addr : Nat := 0x10100; let s : State := wUp; let u : State := ((s.fput Fld.KEEP_ST_STATUS 0).fput Fld.KEEP_ST_PENDING 0).fput Fld.KEEP_ST_PENDING 1; mayPf who = true ∧ s.powered = true ∧ s.flag Fld.KEEP_ST_PENDING = false ∧ s.faults.pwrFail = false ∧ addr % 0x100 = 0 ∧ s.faults.flash = []) ∧
    (let who : Requester := .fn 0; let addr : Nat := 0x10100; let adc : Nat := 4095; let s : State := wUp; let u : State := ((s.fput Fld.KEEP_ST_STATUS 0).fput Fld.KEEP_ST_PENDING 0).fput Fld.KEEP_ST_PENDING 1; let v : State := (({ u with faults := { u.faults with flash := [.program addr wUp.keepBuf] } } : State).holdup 1 adc).2; mayPf who = true ∧ s.powered = true ∧ s.flag Fld.KEEP_ST_PENDING = false ∧ s.faults.pwrFail = false ∧ addr % 0x100 = 0 ∧ keepOpen addr = true ∧ s.faults.flash = [] ∧ ({ u with faults := { u.faults with flash := [.program addr s.keepBuf] } } : State).holdup 1 adc = (true, v)) ∧
    (let who : Requester := .fn 0; let addr : Nat := 0x100000; let adc : Nat := 4095; let s : State := wUp; let u : State := ((s.fput Fld.KEEP_ST_STATUS 0).fput Fld.KEEP_ST_PENDING 0).fput Fld.KEEP_ST_PENDING 1; let v : State := (({ u with faults := { u.faults with flash := [.erase addr] } } : State).holdup 2 adc).2; mayPf who = true ∧ s.powered = true ∧ s.flag Fld.KEEP_ST_PENDING = false ∧ s.faults.pwrFail = false ∧ addr % 0x10000 = 0 ∧ keepOpen addr = true ∧ s.faults.flash = [] ∧ ({ u with faults := { u.faults with flash := [.erase addr] } } : State).holdup 2 adc = (true, v)) ∧
    (let a : Nat := 0x100000; let s : State := { wUp with faults := { wUp.faults with flash := [.erase 0x100000] } }; s.faults.flash = [.erase a]) ∧
    (let a : Nat := 0x100000; let l : List Byte := [1, 2]; let s : State := { wUp with faults := { wUp.faults with flash := [.program 0x100000 [1, 2]] } }; s.faults.flash = [.program a l]) ∧
    (let adc : List Nat := [4095]; let p : List (Nat × List Byte) := [(0, [])]; let u : State := (wPage.holdup 1 4095).2; let s : State := wPage; let rest : List (List (Nat × List Byte)) := []; s.faults.flash = [] ∧ s.faults.pages = p :: rest ∧ s.faults.erased = true ∧ s.holdup 1 (codeAt adc 1) = (true, u)) ∧
    (let adc : List Nat := [4095]; let p : List (Nat × List Byte) := [(0, [])]; let u : State := (wPage.holdup 1 4095).2; let s : State := wPage; let rest : List (List (Nat × List Byte)) := []; s.faults.flash = [] ∧ s.faults.pages = p :: rest ∧ s.faults.erased = true ∧ s.holdup 1 (codeAt adc 1) = (true, u)) ∧
    (let adc : List Nat := [4095]; let s : State := wUp; let u : State := ({ s with faults := { s.faults with pwrFail := true } } : State).log srcDrone 0x0090 none 0 (leBytes 4 (codeAt adc 0) ++ leBytes 4 (holdupEnergy s.holdupBank.1 s.holdupBank.2 (codeAt adc 0 % 4096))); s.drone.trip = false ∧ s.fget Fld.DMP_STATUS_STATE ≠ dsWriting ∧ s.faults.truncate = false ∧ u.faults.flash = []) ∧
    (let h : Nat := 3; let blk : Nat := 5; let s : State := wUp; let u : Nat := patrolAddr s.small h blk; h < 8 ∧ u < Config.hbmEnd s.small ∧ stackOf s.small u = h ∧ s.home u = .hbm ∧ s.hubOpen = true ∧ s.fabRun (h / 2) = true) := by
  and_intros <;> decide +kernel

theorem witness_TrayCommandsComplete :
    (let s : State := w0; s.boot.alwaysOn = true) ∧
    (let s : State := w0; s.boot.alwaysOn = true) ∧
    (let v : Word32 := (wSmb.read32 .smbus 0xA000000000).1; let u : State := (wSmb.read32 .smbus 0xA000000000).2; let s : State := wSmb; s.boot.alwaysOn = true ∧ s.smbJudge 4 false = 0 ∧ s.read32 .smbus s.smb.ptr = (v, u)) ∧
    (let v : Word64 := (wSmb.read64 .smbus 0xA000000000).1; let u : State := (wSmb.read64 .smbus 0xA000000000).2; let s : State := wSmb; s.boot.alwaysOn = true ∧ s.smbJudge 8 false = 0 ∧ s.read64 .smbus s.smb.ptr = (v, u)) ∧
    (let val : Word32 := 5; let s : State := wSmb; let u : State := s.write32 .smbus s.smb.ptr val; s.boot.alwaysOn = true ∧ s.smbJudge 4 true = 0) ∧
    (let val : Word64 := 5; let s : State := wSmb; let u : State := s.write64 .smbus s.smb.ptr val; s.boot.alwaysOn = true ∧ s.smbJudge 8 true = 0) ∧
    (let s : State := w0; s.boot.alwaysOn = true) ∧
    (let i : TapInstr := .extest; let s : State := w0; i ∈ [TapInstr.bypass, .idcode, .samplePreload, .extest, .highz, .clamp]) ∧
    (let balls : List Bool := []; let tdi : List Bool := [true]; let out : List Bool := [true]; let l : List Bool := (tapShift .idcode [] [true]).2; let s : State := w0; tapShift s.tap.inst balls tdi = (out, l)) ∧
    (let s : State := w0.upTap fun x => { x with inst := .extest }; tapBoundary s.tap.inst = true) := by
  and_intros <;> decide +kernel

end Sys2Proof.Machine
end

section
/-!
PROOFS. The register rules of the scope chapter (R9 to R18): what an access code lets a write do, how a register is
read and cleared, how a 64-bit register is written by halves, and what the registers hold after reset.
-/

namespace Sys2Proof.Machine

/-! ### The register map and the access codes (R9, R10, R17) -/

/-- No register of the map has a bit that is both set by a write and cleared by writing 1. -/
theorem Reg.writable_and_w1c (r : Reg) : r.writable &&& r.info.w1c = 0 := by
  cases r <;> rfl

/-- The windows of the chanter's own registers have no WO bit. -/
theorem Reg.wo_of_chnWindow {r : Reg} (h : chnWindow r = true) : r.info.wo = 0 := by
  simp only [chnWindow, Bool.or_eq_true, decide_eq_true_eq] at h
  rcases h with ((rfl | rfl) | rfl) | rfl <;> rfl

theorem Reg.writable_and_w1c_bit (r : Reg) (n : Nat) : (r.writable.getLsbD n && r.info.w1c.getLsbD n) = false := by
  rw [← BitVec.getLsbD_and, r.writable_and_w1c]
  exact BitVec.getLsbD_zero

/-- One bit of the write rule: written where it is RW or RWS, cleared by 1 where it is W1C, and left as it is elsewhere. -/
theorem Reg.getLsbD_merge (r : Reg) (old v : Word64) (n : Nat) :
    (r.merge old v).getLsbD n =
      if r.writable.getLsbD n then v.getLsbD n
      else if r.info.w1c.getLsbD n then old.getLsbD n && !v.getLsbD n else old.getLsbD n := by
  by_cases hn : n < 64
  · have hboth := r.writable_and_w1c_bit n
    cases hw : r.writable.getLsbD n <;> cases hc : r.info.w1c.getLsbD n <;>
      simp_all [-BitVec.getLsbD_eq_getElem, Reg.merge]
  · simp [BitVec.getLsbD_of_ge _ n (Nat.le_of_not_lt hn)]

/-- A WO bit reads 0 (R10); the registers left out show bits of another place. -/
theorem State.getLsbD_regValue_of_wo (s : State) (who : Requester) {r : Reg} (i j : Nat) {n : Nat}
    (hr : r ∉ [Reg.QUE_STATUS, .LIG_STAGE, .LIG_STAGEMASK]) (hn : r.info.wo.getLsbD n = true) :
    (s.regValue who r i j).getLsbD n = false := by
  simp only [List.mem_cons, List.not_mem_nil, or_false, not_or] at hr
  obtain ⟨hque, hstage, hmask⟩ := hr
  have hwin : chnWindow r = false := by
    by_contra h
    simp [Reg.wo_of_chnWindow (Bool.of_not_eq_false h)] at hn
  unfold State.regValue
  split
  · simp
  · simp [hwin, hque, hstage, hmask, hn]

/-- Settles O31: the codes of the register map exclude each other, so the write rule can be read bit by bit. -/
theorem accessCodesOfAPlainWrite : Obligations.AccessCodesOfAPlainWrite := by
  unfold Obligations.AccessCodesOfAPlainWrite
  intro r old v n
  refine ⟨r.writable_and_w1c, fun hw => ?_, fun hc => ?_, fun hw hc => ?_, fun s who i j hr hn => ?_⟩
  · simp [Reg.getLsbD_merge, hw]
  · have hw : r.writable.getLsbD n = false := by simpa [hc] using r.writable_and_w1c_bit n
    simp [Reg.getLsbD_merge, hw, hc]
  · simp [Reg.getLsbD_merge, hw, hc]
  · exact s.getLsbD_regValue_of_wo who i j hr hn

/-! ### Reads, and the RC fields that they clear (R13, R15) -/

/-- A 32-bit read that gets through. -/
theorem State.read32_go {s : State} {who : Requester} {a : Nat} {p : Place} (ha : a % 4 = 0) (hp : s.place who a = p)
    (hm : s.meet who p = .go) : s.read32 who a = (s.through who p).readPlace who p := by
  simp [State.read32, ha, hp, hm]

/-- A whole read of a 64-bit register that gets through, and that no running chanter shuts. -/
theorem State.read64_wide {s : State} {who : Requester} {a : Nat} {r : Reg} {i j : Nat} (ha : a % 8 = 0)
    (hp : s.place who a = .reg r i j false) (hm : s.meet who (.reg r i j false) = .go) (hr : r.info.wide = true)
    (hw : (s.through who (.reg r i j false)).winShut r i = false) :
    s.read64 who a = ((s.through who (.reg r i j false)).regValue who r i j,
      (s.through who (.reg r i j false)).clearRc r i j) := by
  simp [State.read64, ha, hp, hm, hr, hw]

/-- A read of a 32-bit register. -/
theorem State.readHalf_narrow {s : State} {r : Reg} {i : Nat} (who : Requester) (j : Nat) (high : Bool)
    (hr : r.info.wide = false) (hw : s.winShut r i = false) :
    s.readHalf who r i j high = ((s.regValue who r i j).setWidth 32, s.clearRc r i j) := by
  simp [State.readHalf, hr, hw, half]

/-- After the read the register holds what it held but for its RC bits. -/
theorem State.rget_clearRc_self (s : State) (r : Reg) (i j : Nat) :
    (s.clearRc r i j).rget r i j = s.rget r i j &&& ~~~r.info.rc := by
  unfold State.clearRc
  split
  next h => rw [h]; exact BitVec.and_allOnes.symm
  next => exact s.rget_rput_self _ _ _ _

theorem exec_rcFieldRead (who : Requester) (addr size : Nat) (s : State) :
    exec (.rcFieldRead who addr size) s = .next (s.readAccess who addr size) := rfl

/-- Settles O32: the read of a register, narrow or wide, is its value and then `clearRc`. -/
theorem rcFieldsClearWhenRead : Obligations.RcFieldsClearWhenRead := by
  unfold Obligations.RcFieldsClearWhenRead
  intro who a r i j s hp hm t hw
  refine ⟨fun ha hr => ?_, fun ha hr => ?_, t.rget_clearRc_self r i j⟩
  · have hread : s.read32 who a = t.readHalf who r i j false := State.read32_go ha hp hm
    simp [exec_rcFieldRead, State.readAccess, hread, State.readHalf_narrow who j false hr hw]
  · have hread := State.read64_wide ha hp hm hr hw
    simp [exec_rcFieldRead, State.readAccess, hread, t]

/-! ### What decides how an access ends

An access crosses its fabric before its effect, which may write DRN_FAB (R33).  That register lies before those that
decide what an address names and whether an access gets through, so a second access finds these as the first did. -/

/-- Two states that agree on all that decides what an address names and how an access to it ends. -/
structure State.SameAccess (s t : State) : Prop where
  boot : t.boot = s.boot
  faults : t.faults = s.faults
  rget : ∀ r i j, Reg.DRN_FAB.ctorIdx < r.ctorIdx → t.rget r i j = s.rget r i j

namespace State.SameAccess

variable {s t u : State}

theorem trans (h : s.SameAccess t) (h' : t.SameAccess u) : s.SameAccess u where
  boot := h'.boot.trans h.boot
  faults := h'.faults.trans h.faults
  rget r i j hr := (h'.rget r i j hr).trans (h.rget r i j hr)

theorem fget (h : s.SameAccess t) (f : Field) (i j : Nat) (hf : Reg.DRN_FAB.ctorIdx < f.reg.ctorIdx) :
    t.fget f i j = s.fget f i j := by
  rw [State.fget, State.fget, h.rget _ _ _ hf]

theorem fnExists (h : s.SameAccess t) (v : Nat) : t.fnExists v = s.fnExists v := by
  rw [State.fnExists, State.fnExists, h.fget _ _ _ (by decide)]

theorem vfCtx (h : s.SameAccess t) (v n : Nat) : t.vfCtx v n = s.vfCtx v n := by
  rw [State.vfCtx, State.vfCtx, h.fget Fld.HIF_VFMAP_COUNT _ _ (by decide),
    h.fget Fld.HIF_VFMAP_FIRST _ _ (by decide)]

/-- An address names the same word. -/
theorem place (h : s.SameAccess t) (who : Requester) (a : Nat) : t.place who a = s.place who a := by
  cases who <;> simp [State.place, State.vfPlace, h.fnExists, h.vfCtx]

theorem hubOpen (h : s.SameAccess t) : t.hubOpen = s.hubOpen := by
  rw [State.hubOpen, State.hubOpen, State.powered, State.powered, h.boot, h.faults, h.fget _ _ _ (by decide)]

theorem blockOpen (h : s.SameAccess t) (who : Requester) (blk : Block) : t.blockOpen who blk = s.blockOpen who blk := by
  unfold State.blockOpen State.powered
  rw [h.hubOpen, h.boot, h.fget _ _ _ (by decide)]

theorem meetBore (h : s.SameAccess t) (b : Nat) (v : Bool) : t.meetBore b v = s.meetBore b v := by
  rw [State.meetBore, State.meetBore, State.reach, State.reach, State.pstate, State.pstate, h.hubOpen,
    h.fget _ _ _ (by decide)]

/-- An access to a place ends in the same way. -/
theorem meet (h : s.SameAccess t) (who : Requester) (p : Place) : t.meet who p = s.meet who p := by
  cases p <;> simp [State.meet, h.meetBore, h.blockOpen, h.hubOpen]

/-- The same windows of running chanters are shut. -/
theorem winShut (h : s.SameAccess t) (r : Reg) (i : Nat) : t.winShut r i = s.winShut r i := by
  rw [State.winShut, State.winShut, State.running, State.running, State.chState, State.chState,
    h.fget _ _ _ (by decide)]

end State.SameAccess

theorem State.rget_putFab (s : State) (q : Nat) (run : Bool) {r : Reg} (i j : Nat)
    (hr : Reg.DRN_FAB.ctorIdx < r.ctorIdx) : (s.putFab q run).rget r i j = s.rget r i j := by
  refine s.rget_rput_key _ _ _ _ _ _ _ (Nat.ne_of_gt ?_)
  simp only [regKey]
  omega

theorem State.sameAccess_openFab (s : State) (q : Nat) : s.SameAccess (s.openFab q) := by
  unfold State.openFab
  split
  · exact ⟨rfl, rfl, fun _ _ _ _ => rfl⟩
  · exact ⟨rfl, rfl, fun _ i j hr => s.rget_putFab q true i j hr⟩

theorem State.sameAccess_status (s : State) (who : Requester) (st : AccStatus) : s.SameAccess (s.status who st) := by
  unfold State.status
  split <;> exact ⟨rfl, rfl, fun _ _ _ _ => rfl⟩

/-- An access to a register has its status, and one to a bore has crossed its fabric first (R33). -/
theorem State.through_reg (s : State) (who : Requester) (r : Reg) (i j : Nat) (high : Bool) :
    s.through who (.reg r i j high) =
      (if r.info.blk ∈ boreBlocks then s.openFab (quadOf i) else s).status who .ok := by
  by_cases h : r.info.blk ∈ boreBlocks <;> simp [State.through, Place.bore?, h]

theorem State.sameAccess_through (s : State) (who : Requester) (r : Reg) (i j : Nat) (high : Bool) :
    s.SameAccess (s.through who (.reg r i j high)) := by
  rw [State.through_reg]
  split
  · exact (s.sameAccess_openFab _).trans (State.sameAccess_status _ _ _)
  · exact s.sameAccess_status _ _

theorem State.sameAccess_held (s : State) (l : List HeldWord) : s.SameAccess { s with held := l } :=
  ⟨rfl, rfl, fun _ _ _ _ => rfl⟩

/-! ### The shadows of halves (R12) -/

theorem State.openFab_with_held (s : State) (l : List HeldWord) (q : Nat) :
    ({ s with held := l } : State).openFab q = { s.openFab q with held := l } := by
  have hrun : ({ s with held := l } : State).fabRun q = s.fabRun q := rfl
  unfold State.openFab
  rw [hrun]
  split <;> rfl

theorem State.status_with_held (s : State) (l : List HeldWord) (who : Requester) (st : AccStatus) :
    ({ s with held := l } : State).status who st = { s.status who st with held := l } := by
  unfold State.status
  split <;> rfl

/-- Crossing the fabric neither reads nor changes what is held. -/
theorem State.through_with_held (s : State) (l : List HeldWord) (who : Requester) (r : Reg) (i j : Nat) (high : Bool) :
    ({ s with held := l } : State).through who (.reg r i j high) =
      { s.through who (.reg r i j high) with held := l } := by
  rw [State.through_reg, State.through_reg]
  split
  · rw [State.openFab_with_held, State.status_with_held]
  · exact s.status_with_held l who .ok

/-- The record that a held word of a register is kept in lies in the shadow of that register's block. -/
theorem shadowOf_mk (who : Requester) (r : Reg) (i n : Nat) (x : Word32) :
    shadowOf who r i ⟨who, r.info.blk, if r.info.blk ∈ boreBlocks then i else 0, r, n, x⟩ = true := by
  simp [shadowOf]

/-- The word that is taken is the one held for its register. -/
theorem heldFor_takeHalf (l : List HeldWord) (who : Requester) (r : Reg) (i j : Nat) (x : Word32) :
    heldFor (takeHalf l who r i j x) who r i j = some x := by
  have hold : (loseHalf l who r i).find? (fun h => shadowOf who r i h && h.reg = r && h.idx = 2 ^ 16 * i + j) = none := by
    simp +contextual [loseHalf]
  rw [heldFor, takeHalf, List.find?_append, hold]
  simp [shadowOf_mk]

/-- Emptying a shadow also drops the word that was taken into it. -/
theorem loseHalf_takeHalf (l : List HeldWord) (who : Requester) (r : Reg) (i j : Nat) (x : Word32) :
    loseHalf (takeHalf l who r i j x) who r i = loseHalf l who r i := by
  simp [takeHalf, loseHalf, shadowOf_mk]

/-! ### Writes by halves (R12) -/

/-- A 32-bit write that gets through. -/
theorem State.write32_go {s : State} {who : Requester} {a : Nat} {p : Place} (x : Word32) (ha : a % 4 = 0)
    (hp : s.place who a = p) (hm : s.meet who p = .go) :
    s.write32 who a x = (s.through who p).writePlace who p x := by
  simp [State.write32, ha, hp, hm]

/-- The low word of a 64-bit register is held. -/
theorem State.writeHalf_low {s : State} {r : Reg} {i : Nat} (who : Requester) (j : Nat) (x : Word32)
    (hr : r.info.wide = true) (hw : s.winShut r i = false) :
    s.writeHalf who r i j false x = { s with held := takeHalf s.held who r i j x } := by
  simp [State.writeHalf, hr, hw]

/-- The high word of a 64-bit register whose low word is held: one whole write. -/
theorem State.writeHalf_high {s : State} {who : Requester} {r : Reg} {i j : Nat} {low : Word32} (x : Word32)
    (hr : r.info.wide = true) (hw : s.winShut r i = false) (hl : heldFor s.held who r i j = some low) :
    s.writeHalf who r i j true x =
      ({ s with held := loseHalf s.held who r i } : State).writeReg who r i j (joinHalves low x) := by
  simp [State.writeHalf, hr, hw, hl]

theorem half_setWidth (x : Word32) : half (x.setWidth 64) false = x := by
  simp [half]

theorem exec_lowWordWrite (who : Requester) (addr : Nat) (val : Word32) (s : State) :
    exec (.lowWordWrite who addr val) s = .next (s.write32 who addr val) := by
  have h : exec (.lowWordWrite who addr val) s = .next (s.writeAccess who addr 4 (val.setWidth 64)) := rfl
  simp [h, State.writeAccess, half_setWidth]

theorem exec_highWordWrite (who : Requester) (addr : Nat) (val : Word32) (s : State) :
    exec (.highWordWrite who addr val) s = .next (s.write32 who addr val) := rfl

/-- A high-word write that gets through to a register whose low word is held commits both halves. -/
theorem State.write32_high_held {s : State} {who : Requester} {a : Nat} {r : Reg} {i j : Nat} {l : List HeldWord}
    (lo hi : Word32) (ha : a % 4 = 0) (hr : r.info.wide = true) (hp : s.place who a = .reg r i j true)
    (hm : s.meet who (.reg r i j true) = .go) (hw : s.winShut r i = false) (hh : s.held = takeHalf l who r i j lo) :
    s.write32 who a hi =
      (({ s with held := loseHalf l who r i } : State).through who (.reg r i j true)).writeReg who r i j
        (joinHalves lo hi) := by
  have hheld : (s.through who (.reg r i j true)).held = takeHalf l who r i j lo := by
    have h := congrArg State.held (s.through_with_held s.held who r i j true)
    exact h.trans hh
  have hcross : (s.through who (.reg r i j true)).winShut r i = false :=
    ((s.sameAccess_through who r i j true).winShut r i).trans hw
  have hlow : heldFor (s.through who (.reg r i j true)).held who r i j = some lo := by
    rw [hheld, heldFor_takeHalf]
  calc s.write32 who a hi
      = (s.through who (.reg r i j true)).writeHalf who r i j true hi := State.write32_go hi ha hp hm
    _ = ({ s.through who (.reg r i j true) with held := loseHalf (takeHalf l who r i j lo) who r i } : State).writeReg
          who r i j (joinHalves lo hi) := by rw [State.writeHalf_high hi hr hcross hlow, hheld]
    _ = _ := by rw [loseHalf_takeHalf, ← State.through_with_held]

/-- Settles O33: the low word changes nothing but the shadow, so the high word's address still names the register and
gets through, and it finds the low word held. -/
theorem lowThenHighWriteCommitsBoth : Obligations.LowThenHighWriteCommitsBoth := by
  unfold Obligations.LowThenHighWriteCommitsBoth
  intro who a r i j lo hi s ha hr hp hp' hm t hw
  constructor
  · have hwrite : s.write32 who a lo = t.writeHalf who r i j false lo := State.write32_go lo (by omega) hp hm
    rw [exec_lowWordWrite, hwrite, State.writeHalf_low who j lo hr hw]
  · have same : s.SameAccess { t with held := takeHalf t.held who r i j lo } :=
      (s.sameAccess_through who r i j false).trans (t.sameAccess_held _)
    rw [exec_highWordWrite]
    exact congrArg _ (State.write32_high_held lo hi (by omega) hr ((same.place who _).trans hp')
      ((same.meet who _).trans hm) hw rfl)

/-! ### The reset state (R16 to R18) -/

/-- The registers whose reset value depends on the element: a partition's own number (R472), a clock step's cost (R554). -/
def Reg.numbered : List Reg := [.PRT_PCFG, .PRT_PSTAT, .BLW_FTAB]

/-- Every element of any other register starts at the reset value of its row of the map. -/
theorem Reg.resetVal_eq_rst {r : Reg} (h : r ∉ Reg.numbered) (j : Nat) : r.resetVal j = r.info.rst := by
  unfold Reg.resetVal
  split <;> simp_all [Reg.numbered]

/-- A field of such a register after a cold reset. -/
theorem State.fget_reset {f : Field} (h : f.reg ∉ Reg.numbered) (i j : Nat) :
    State.reset.fget f i j = bits f.reg.info.rst.toNat f.lo f.w := by
  have hget : State.reset.rget f.reg i j = f.reg.resetVal j := rfl
  rw [State.fget, hget, Reg.resetVal_eq_rst h]

/-- Every partition starts as its own leader (R472). -/
theorem State.reset_leader : ∀ {p : Nat}, p < 16 →
    State.reset.fget Fld.PRT_PCFG_LEADER 0 p = p ∧ State.reset.fget Fld.PRT_PSTAT_LEADER 0 p = p := by
  decide

/-- Settles O34: but for the partitions' leaders, the fields are those of the rows of the register map. -/
theorem resetValues : Obligations.ResetValues := by
  simp (disch := decide) only [Obligations.ResetValues, State.fget_reset]
  exact ⟨⟨rfl, rfl⟩, fun b _ => ⟨rfl, rfl, rfl, rfl, rfl, rfl, fun q _ => rfl⟩, rfl,
    fun p hp => ⟨rfl, State.reset_leader hp⟩, fun k _ => ⟨rfl, rfl, rfl⟩, ⟨rfl, rfl, rfl⟩,
    ⟨rfl, rfl, rfl, rfl, rfl⟩, ⟨rfl, rfl, rfl, rfl⟩, ⟨rfl, rfl⟩, rfl, rfl, rfl, rfl, rfl, rfl⟩

end Sys2Proof.Machine
end

section
/-!
PROOFS. The windway and the access rules of the anatomy chapter (R29, R33, R41, R48): which transfer a path gives up, what
a stopped fabric holds, and what a dark access leaves behind.
-/

namespace Sys2Proof.Machine

/-! ### The transfer that a path gives up (R28, R29) -/

/-- `takeFirst` cuts the list at the first transfer that `P` picks. -/
theorem takeFirst_eq_some {P : Transfer → Bool} {l rest : List Transfer} {x : Transfer}
    (h : takeFirst P l = some (x, rest)) :
    P x = true ∧ ∃ before after, l = before ++ x :: after ∧ rest = before ++ after ∧ ∀ y ∈ before, P y = false := by
  induction l generalizing rest with
  | nil => simp [takeFirst] at h
  | cons t l ih =>
    by_cases ht : P t = true
    · obtain ⟨rfl, rfl⟩ : t = x ∧ l = rest := by simpa [takeFirst, ht] using h
      exact ⟨ht, [], l, rfl, rfl, by simp⟩
    · cases hl : takeFirst P l with
      | none => simp [takeFirst, ht, hl] at h
      | some p =>
        obtain ⟨y, rest'⟩ := p
        obtain ⟨rfl, rfl⟩ : y = x ∧ t :: rest' = rest := by simpa [takeFirst, ht, hl] using h
        obtain ⟨hx, before, after, rfl, rfl, hb⟩ := ih hl
        exact ⟨hx, t :: before, after, rfl, rfl, by simpa [ht] using hb⟩

/-- What a path of any class gives up: a transfer of its own, before which none of its class stands, nor, on a path of
REQUESTs, a POSTED one. -/
theorem State.oldest_eq_some {s u : State} {cls : XClass} {src dst : Endpoint} {x : Transfer}
    (h : s.oldest cls src dst = some (x, u)) :
    x.cls = cls ∧ x.src = src ∧ x.dst = dst ∧
    ∃ before after, s.net = before ++ x :: after ∧ u = { s with net := before ++ after } ∧
      ∀ y ∈ before, ¬(y.src = src ∧ y.dst = dst ∧ (y.cls = cls ∨ cls = .request ∧ y.cls = .posted)) := by
  unfold State.oldest at h
  split at h
  · cases h
  split at h
  · cases h
  next t rest htake =>
    split at h
    next hcls =>
      cases h
      obtain ⟨hpath, before, after, hnet, rfl, hbefore⟩ := takeFirst_eq_some htake
      simp only [Bool.and_eq_true, decide_eq_true_eq] at hpath
      obtain ⟨⟨hsrc, hdst⟩, -⟩ := hpath
      refine ⟨hcls, hsrc, hdst, before, after, hnet, rfl, fun y hy => ?_⟩
      simpa using hbefore y hy
    next => cases h

/-- Settles O8: the first transfer in the way of a REQUEST is the REQUEST itself. -/
theorem requestNeverPassesPosted : Obligations.RequestNeverPassesPosted := by
  unfold Obligations.RequestNeverPassesPosted
  intro s u src dst x h
  simpa [or_comm] using State.oldest_eq_some h

/-! ### Stopped fabrics (R33) -/

/-- A stopped fabric at either end of a path holds its transfers. -/
theorem State.oldest_of_fabric_stopped {s : State} {src dst : Endpoint}
    (h : s.fabOk src = false ∨ s.fabOk dst = false) (cls : XClass) : s.oldest cls src dst = none := by
  rcases h with h | h <;> simp [State.oldest, h]

theorem exec_messageArrival (src : Endpoint) (b : Nat) (s : State) :
    exec (.messageArrival src b) s = execMessageArrival src b s := rfl

theorem exec_channelIncrementArrival (src : Endpoint) (b : Nat) (s : State) :
    exec (.channelIncrementArrival src b) s = execChannelIncrementArrival src b s := rfl

/-- No message arrives on a path that gives up no POSTED transfer. -/
theorem execMessageArrival_of_oldest_none {s : State} {src : Endpoint} {b : Nat}
    (h : s.oldest .posted src (.bore b) = none) : execMessageArrival src b s = .next s := by
  simp [execMessageArrival, h, ok]

/-- Nor does a channel increment. -/
theorem execChannelIncrementArrival_of_oldest_none {s : State} {src : Endpoint} {b : Nat}
    (h : s.oldest .posted src (.bore b) = none) : execChannelIncrementArrival src b s = .next s := by
  simp [execChannelIncrementArrival, h, ok]

/-- Settles O9: the arrivals at a bore take the oldest POSTED transfer, and a path over a stopped fabric has none to give. -/
theorem stoppedFabricHoldsTransfers : Obligations.StoppedFabricHoldsTransfers := by
  unfold Obligations.StoppedFabricHoldsTransfers
  intro s cls src dst h
  refine ⟨State.oldest_of_fabric_stopped h cls, ?_⟩
  rintro b rfl
  have hposted : s.oldest .posted src (.bore b) = none := State.oldest_of_fabric_stopped h .posted
  exact ⟨(exec_messageArrival src b s).trans (execMessageArrival_of_oldest_none hposted),
    (exec_channelIncrementArrival src b s).trans (execChannelIncrementArrival_of_oldest_none hposted)⟩

/-! ### Dark accesses (R41, R48)

An access to the vestibule of a bore that is OFF also ends dark (R572), and one that crosses a stopped fabric restarts it in
the same step (log 78), so that DRN_DARKACC is written after DRN_FAB. -/

/-- A 32-bit read that meets a dark bore. -/
theorem State.read32_dark {s : State} {who : Requester} {a b : Nat} (ha : a % 4 = 0)
    (hm : s.meet who (s.place who a) = .dark b) : s.read32 who a = (0, s.darkFor who b) := by
  simp [State.read32, ha, hm]

/-- A 32-bit write that meets a dark bore. -/
theorem State.write32_dark {s : State} {who : Requester} {a b : Nat} (x : Word32) (ha : a % 4 = 0)
    (hm : s.meet who (s.place who a) = .dark b) : s.write32 who a x = s.darkFor who b := by
  simp [State.write32, ha, hm]

theorem exec_registerWrite_word (who : Requester) (a : Nat) (x : Word64) (s : State) :
    exec (.registerWrite who a ⟨4, false⟩ x) s = .next (s.write32 who a (half x false)) := rfl

/-- Crossing a fabric writes no register but DRN_FAB. -/
theorem State.fget_openFab (s : State) (q : Nat) {f : Field} {i j : Nat} (hf : f.reg ≠ .DRN_FAB) (hi : i < 256)
    (hj : j < 65536) : (s.openFab q).fget f i j = s.fget f i j := by
  unfold State.openFab
  split
  · rfl
  · exact s.fget_rput_reg _ f _ hf (by decide) hi (by decide) hj

@[simp] theorem State.fget_status (s : State) (who : Requester) (st : AccStatus) (f : Field) (i j : Nat) :
    (s.status who st).fget f i j = s.fget f i j := by
  unfold State.status
  split <;> rfl

/-- The status of an access to a requester inside the device. -/
theorem State.rstat_status (s : State) {who : Requester} (st : AccStatus) (h : isHost who = false) :
    (s.status who st).rstat = st := by
  simp [State.status, h]

theorem b2n_mod_two (c : Bool) : b2n c % 2 = b2n c := by
  cases c <;> rfl

/-- A counter field holds at all ones. -/
theorem State.fget_fsat_self (s : State) (f : Field) (n i j : Nat) (h : f.lo + f.w ≤ 64) :
    (s.fsat f n i j).fget f i j = min (s.fget f i j + n) (2 ^ f.w - 1) := by
  have hw : 0 < 2 ^ f.w := Nat.two_pow_pos _
  rw [State.fsat, State.fget_fput_self _ _ _ _ _ h, Nat.mod_eq_of_lt (by omega)]

/-- Counting in one field leaves another field of the same register alone. -/
theorem State.fget_fsat_disj (s : State) (f g : Field) (n i j : Nat) (hr : g.reg = f.reg) (h : f.lo + f.w ≤ 64)
    (hd : g.lo + g.w ≤ f.lo ∨ f.lo + f.w ≤ g.lo) : (s.fsat f n i j).fget g i j = s.fget g i j :=
  s.fget_fput_disj f g _ i j hr h hd

/-- What DRN_DARKACC holds after a dark access: the last one's bore, whether it was OFF, whose access it was, and the
count. -/
theorem State.darkAccess_record (s : State) {b : Nat} (host : Bool) (hb : b < 64) :
    (s.darkAccess b host).fget Fld.DRN_DARKACC_LAST_BORE = b ∧
    (s.darkAccess b host).fget Fld.DRN_DARKACC_LAST_OFF = b2n (s.pstate b = psOff) ∧
    (s.darkAccess b host).fget Fld.DRN_DARKACC_LAST_HOST = b2n host ∧
    (s.darkAccess b host).fget Fld.DRN_DARKACC_COUNT = min (s.fget Fld.DRN_DARKACC_COUNT + 1) 0xFFFF := by
  simp (disch := decide) [State.darkAccess, State.fget_fsat_self, State.fget_fsat_disj, State.fget_fput_self,
    State.fget_fput_disj, b2n_mod_two, Nat.mod_eq_of_lt hb]

/-- Settles O10: a dark access is `darkFor` and no more, and neither the fabric that it crosses nor its status touches
DRN_DARKACC. -/
theorem darkAccessCountsAndRecords : Obligations.DarkAccessCountsAndRecords := by
  unfold Obligations.DarkAccessCountsAndRecords
  intro who a x b s ha hb hm t
  have hread : s.read32 who a = (0, t) := State.read32_dark ha hm
  have hwrite : s.write32 who a (half x false) = t := State.write32_dark _ ha hm
  have hfield (f : Field) : t.fget f = ((s.openFab (quadOf b)).darkAccess b (isHost who)).fget f :=
    State.fget_status _ _ _ f 0 0
  have hoff : (s.openFab (quadOf b)).pstate b = s.pstate b :=
    s.fget_openFab _ (by decide) (by decide) (by omega)
  have hcount : (s.openFab (quadOf b)).fget Fld.DRN_DARKACC_COUNT = s.fget Fld.DRN_DARKACC_COUNT :=
    s.fget_openFab _ (by decide) (by decide) (by decide)
  obtain ⟨hbore, hlastOff, hhost, hcnt⟩ := (s.openFab (quadOf b)).darkAccess_record (isHost who) hb
  refine ⟨?_, ?_, ?_, ?_, ?_, ?_, State.rstat_status _ .dark⟩
  · simp [exec_rcFieldRead, State.readAccess, hread]
  · rw [exec_registerWrite_word, hwrite]
  · rw [hfield, hbore]
  · rw [hfield, hlastOff, hoff]
  · rw [hfield, hhost]
  · rw [hfield, hcnt, hcount]

end Sys2Proof.Machine
end

section
/-!
PROOFS. The chanter's control register (R106), and what a running chanter does not let be written: its program store
(R87), CHN_PC (R108) and its register windows (R116).
-/

namespace Sys2Proof.Machine

/-! ### The bits of one CHN_CTRL write (R106, R121) -/

theorem bit_toNat {w : Nat} (v : BitVec w) (n : Nat) : bit v.toNat n = v.getLsbD n := by
  rw [bit, BitVec.getLsbD, Nat.testBit_eq_decide_div_mod_eq]

/-- A write with HALT set is the write of its CLRFAULT and CLRCNT bits alone, and then the halt. -/
theorem State.chnCtrl_of_halt (s : State) (b : Nat) {v : Word64} (h : v.getLsbD 1 = true) :
    s.chnCtrl b v = (s.chnCtrl b (v &&& 0x14)).haltChanter b := by
  simp [State.chnCtrl, bit_toNat, h, -BitVec.toNat_and, -BitVec.getLsbD_eq_getElem]

/-- A write with GO set and HALT clear is the write of its CLRFAULT and CLRCNT bits alone, and then GO. -/
theorem State.chnCtrl_of_go (s : State) (b : Nat) {v : Word64} (hhalt : v.getLsbD 1 = false)
    (hgo : v.getLsbD 0 = true) : s.chnCtrl b v = (s.chnCtrl b (v &&& 0x14)).goStart b false := by
  simp [State.chnCtrl, bit_toNat, hhalt, hgo, -BitVec.toNat_and, -BitVec.getLsbD_eq_getElem]

/-- GO and STEP start a HALTED chanter only. -/
theorem State.goStart_of_not_halted {s : State} {b : Nat} (h : s.chState b ≠ csHalted) (step : Bool) :
    s.goStart b step = s := by
  simp [State.goStart, h]

/-- Settles O11: GO, STEP and HALT come after the clears, which a mask of GO or STEP leaves as they were. -/
theorem chnCtrlBitPriority : Obligations.ChnCtrlBitPriority := by
  unfold Obligations.ChnCtrlBitPriority
  intro b v s
  refine ⟨fun hhalt => ?_, fun hhalt hgo => ?_, fun hfault => ?_, ?_⟩
  · have hclears : v &&& ~~~0x9 &&& 0x14 = v &&& 0x14 := BitVec.and_assoc ..
    have hhalt' : (v &&& ~~~0x9).getLsbD 1 = true := by simp [hhalt]
    rw [s.chnCtrl_of_halt b hhalt, s.chnCtrl_of_halt b hhalt', hclears]
  · have hclears : v &&& ~~~0x8 &&& 0x14 = v &&& 0x14 := BitVec.and_assoc ..
    have hhalt' : (v &&& ~~~0x8).getLsbD 1 = false := by rw [BitVec.getLsbD_and, hhalt, Bool.false_and]
    have hgo' : (v &&& ~~~0x8).getLsbD 0 = true := by simp [hgo]
    rw [s.chnCtrl_of_go b hhalt hgo, s.chnCtrl_of_go b hhalt' hgo', hclears]
  · have hne : s.chState b ≠ csHalted := by rw [hfault]; decide
    have hgo : s.chnCtrl b 0x1 = s.goStart b false := rfl
    have hstep : s.chnCtrl b 0x8 = s.goStart b true := rfl
    rw [hgo, hstep]
    exact ⟨State.goStart_of_not_halted hne false, State.goStart_of_not_halted hne true⟩
  · have hclears : s.chnCtrl b (0x5 &&& 0x14) = s.clrFault b := rfl
    rw [s.chnCtrl_of_go b (v := 0x5) (by decide) (by decide), hclears]

/-! ### The program-store window (R44, R87) -/

theorem exec_programStoreWrite (who : Requester) (a : Nat) (data : List Byte) (s : State) :
    exec (.programStoreWrite who a data) s = execProgramStoreWrite who a data s := rfl

/-- A write that the window does not accept. -/
theorem execProgramStoreWrite_malformed {s : State} {a b o : Nat} {data : List Byte} (hp : s.home a = .pstore b o)
    (hd : progAccess data.length a = false) (who : Requester) :
    execProgramStoreWrite who a data s = .next (s.status who .unmapped) := by
  simp [execProgramStoreWrite, hp, hd, ok]

/-- A well-formed write of a requester that may make it, to a bore that it reaches. -/
theorem execProgramStoreWrite_open {s : State} {who : Requester} {a b o : Nat} {data : List Byte}
    (hb : s.boreOpen b) (hw : mayHostRm who = true) (hp : s.home a = .pstore b o)
    (hd : progAccess data.length a = true) :
    execProgramStoreWrite who a data s = .next ((s.writeProgram b a data).regDone who b) := by
  simp [execProgramStoreWrite, hp, hd, hw, State.regAccess_open hb, ok]

theorem State.writeProgram_of_running {s : State} {b : Nat} (h : s.running b = true) (a : Nat) (data : List Byte) :
    s.writeProgram b a data = s.fput Fld.CHN_STATUS_PSWR_DROP 1 b := by
  simp [State.writeProgram, h]

/-! ### CHN_PC (R108) -/

/-- A write of CHN_PC that gets through. -/
theorem exec_chnPcWrite_open {s : State} {who : Requester} {b : Nat} (hb : s.boreOpen b) (hw : mayHostRm who = true)
    (v : Word64) : exec (.chnPcWrite who b v) s = .next ((s.writePc b v).regDone who b) := by
  have h : exec (.chnPcWrite who b v) s = .next (s.regAccess who b false (mayHostRm who) (s.writePc b v)) := rfl
  rw [h, hw, State.regAccess_open hb]

theorem State.writePc_of_not_halted {s : State} {b : Nat} (h : s.chState b ≠ csHalted) (v : Word64) :
    s.writePc b v = s := by
  simp [State.writePc, h]

theorem State.fget_writePc_of_halted {s : State} {b : Nat} (h : s.chState b = csHalted) (v : Word64) :
    (s.writePc b v).fget Fld.CHN_PC_PC b = v.toNat % 2 ^ Fld.CHN_PC_PC.w := by
  have hput : (s.writePc b v).fget Fld.CHN_PC_PC b = (s.fput Fld.CHN_PC_PC v.toNat b).fget Fld.CHN_PC_PC b := by
    simp [State.writePc, h]
  rw [hput, State.fget_fput_self _ _ _ _ _ (by decide)]

/-- An access that has reached its bore leaves behind what it wrote, but for DRN_FAB. -/
theorem State.fget_regDone (s : State) (who : Requester) (b : Nat) {f : Field} {i j : Nat} (hf : f.reg ≠ .DRN_FAB)
    (hi : i < 256) (hj : j < 65536) : (s.regDone who b).fget f i j = s.fget f i j := by
  rw [State.regDone, State.fget_status, s.fget_openFab _ hf hi hj]

/-! ### The register windows (R116, R127) -/

theorem State.reach_of_boreOpen {s : State} {b : Nat} (h : s.boreOpen b) :
    s.reach b false = .done ∨ s.reach b false = .wait := by
  obtain ⟨⟨-, hoff⟩, hdeep⟩ := h
  by_cases hact : s.pstate b = psActive
  · have hne : psActive ≠ psOff := hact ▸ hoff
    exact .inl (by simp [State.reach, hact, hne])
  · exact .inr (by simp [State.reach, hoff, hdeep, hact])

/-- A window access to a bore that it reaches. -/
theorem exec_registerWindowAccess_open {s : State} {b : Nat} (hb : s.boreOpen b) (who : Requester) (off : Nat)
    (wr : Option Word64) :
    exec (.registerWindowAccess who b off wr) s = .next ((s.window b off (mayHostRm who) wr).regDone who b) := by
  have h : exec (.registerWindowAccess who b off wr) s = execRegisterWindowAccess who b off wr s := rfl
  have hreach := State.reach_of_boreOpen hb
  obtain ⟨⟨hhub, -⟩, -⟩ := hb
  rcases hreach with hreach | hreach <;> simp [h, execRegisterWindowAccess, hhub, hreach, ok]

/-- While the chanter runs, an access to a word of the windows leaves the drop flag and no more. -/
theorem State.window_of_running {s : State} {b off : Nat} (hoff : (s.winRead b off).isSome = true)
    (hrun : s.running b = true) (may : Bool) (wr : Option Word64) :
    s.window b off may wr =
      ({ s with rdata := if wr.isNone then 0 else s.rdata } : State).fput Fld.CHN_STATUS_REGWIN_DROP 1 b := by
  obtain ⟨x, hx⟩ := Option.isSome_iff_exists.mp hoff
  simp [State.window, hx, hrun]

/-- An access at an offset that no window has. -/
theorem State.window_of_unlisted {s : State} {b off : Nat} (hoff : s.winRead b off = none) (may : Bool)
    (wr : Option Word64) : s.window b off may wr = { s with rdata := if wr.isNone then 0 else s.rdata } := by
  simp [State.window, hoff]

/-- A write of a word of the windows while the chanter does not run. -/
theorem State.window_write_of_not_running {s : State} {b off x : Nat} (hoff : s.winRead b off = some x)
    (hrun : s.running b = false) (v : Word64) : s.window b off true (some v) = s.winWrite b off v.toNat := by
  simp [State.window, hoff, hrun]

/-- The word of G register `n` lies in the first window, at place `n`. -/
theorem gWord_offset {n : Nat} (hn : n < 64) :
    0x1000 ≤ (0x1000 + 8 * n) / 8 * 8 ∧ (0x1000 + 8 * n) / 8 * 8 < 0x1200 ∧
      (0x1000 + 8 * n) / 8 * 8 % 0x1000 / 8 = n := by
  omega

theorem State.winRead_g (s : State) (b : Nat) {n : Nat} (hn : n < 64) :
    s.winRead b (0x1000 + 8 * n) = some (s.gn b n) := by
  obtain ⟨hlo, hhi, hidx⟩ := gWord_offset hn
  simp [State.winRead, hlo, hhi, hidx]

theorem State.winWrite_g (s : State) (b : Nat) {n : Nat} (hn : n < 64) (v : Nat) :
    s.winWrite b (0x1000 + 8 * n) v = s.regPut b (.g n) v := by
  obtain ⟨hlo, hhi, hidx⟩ := gWord_offset hn
  simp [State.winWrite, hlo, hhi, hidx]

/-- Settles O12: each access gets through to its bore, and the operation that it makes there is shut, or its effect
is that of the chanter's state. -/
theorem chanterStoresShutWhileRunning : Obligations.ChanterStoresShutWhileRunning := by
  unfold Obligations.ChanterStoresShutWhileRunning
  intro who b a o off n data v s hb hw
  refine ⟨fun hp hrun hd => ?_, fun hp hd => ?_, fun hst => ?_, fun hst hlt => ?_, fun hoff hrun => ?_,
    fun hoff => ?_, fun hrun hn => ?_⟩
  · rw [exec_programStoreWrite, execProgramStoreWrite_open hb hw hp hd, State.writeProgram_of_running hrun]
  · rw [exec_programStoreWrite, execProgramStoreWrite_malformed hp hd]
  · rw [exec_chnPcWrite_open hb hw, State.writePc_of_not_halted hst]
  · refine ⟨_, exec_chnPcWrite_open hb hw v, ?_⟩
    calc ((s.writePc b v).regDone who b).fget Fld.CHN_PC_PC b
        = (s.writePc b v).fget Fld.CHN_PC_PC b := State.fget_regDone _ _ _ (by decide) (by omega) (by decide)
      _ = _ := State.fget_writePc_of_halted hst v
  · simp [exec_registerWindowAccess_open hb, State.window_of_running hoff hrun]
  · simp [exec_registerWindowAccess_open hb, State.window_of_unlisted hoff]
  · rw [exec_registerWindowAccess_open hb, hw, State.window_write_of_not_running (s.winRead_g b hn) hrun,
      s.winWrite_g b hn]

end Sys2Proof.Machine
end

section
/-!
PROOFS. The integer operations of the scalar slots (R136, R137): the numbers of the model against 64-bit words.
-/

namespace Sys2Proof.Machine

/-! ### Signed readings of a word -/

theorem sext_toNat {w : Nat} (a : BitVec w) : sext w a.toNat = a.toInt := by
  cases w with
  | zero => simp [sext, BitVec.of_length_zero]
  | succ w =>
    have hmod : a.toNat % 2 ^ (w + 1) = a.toNat := Nat.mod_eq_of_lt a.isLt
    have hmodInt : (a.toNat : Int) % 2 ^ (w + 1) = a.toNat := by exact_mod_cast hmod
    have hpow : 2 ^ (w + 1) = 2 * 2 ^ w := Nat.pow_succ'
    rw [sext, BitVec.toInt_eq_toNat_cond, Nat.add_sub_cancel, hmod, hmodInt, hpow]
    push_cast [hpow]
    split <;> split <;> omega

theorem ofNat_uint (w : Nat) (v : Int) : BitVec.ofNat w (uint w v) = BitVec.ofInt w v := by
  apply BitVec.eq_of_toNat_eq
  have hlt : (v % 2 ^ w).toNat < 2 ^ w := by
    have hpos : (0 : Int) < 2 ^ w := by positivity
    have hnn := Int.emod_nonneg v hpos.ne'
    zify [Int.toNat_of_nonneg hnn]
    exact Int.emod_lt_of_pos v hpos
  simp [uint, BitVec.toNat_ofInt, Nat.mod_eq_of_lt hlt]

/-! ### Shifts, products and quotients -/

/-- The sign fill is the quotient rounded down. -/
theorem ofInt_toInt_div_two_pow {w : Nat} (a : BitVec w) (n : Nat) :
    BitVec.ofInt w (a.toInt / 2 ^ n) = a.sshiftRight n := by
  have h : (a.sshiftRight n).toInt = a.toInt / 2 ^ n := by
    simp [BitVec.toInt_sshiftRight, Int.shiftRight_eq_div_pow]
  rw [← h, BitVec.ofInt_toInt]

/-- −2^(w−1) by −1 included: its quotient 2^(w−1) is the same bits. -/
theorem ofInt_tdiv_toInt {w : Nat} (a b : BitVec w) : BitVec.ofInt w (a.toInt.tdiv b.toInt) = a.sdiv b := by
  apply BitVec.eq_of_toInt_eq
  rw [BitVec.toInt_ofInt, BitVec.toInt_sdiv]

theorem ofInt_tmod_toInt {w : Nat} (a b : BitVec w) : BitVec.ofInt w (a.toInt.tmod b.toInt) = a.srem b := by
  rw [← BitVec.toInt_srem, BitVec.ofInt_toInt]

theorem ofNat_mul_two_pow {w : Nat} (a : BitVec w) (n : Nat) : BitVec.ofNat w (a.toNat * 2 ^ n) = a <<< n := by
  apply BitVec.eq_of_toNat_eq
  simp [Nat.shiftLeft_eq]

theorem ofNat_div_two_pow {w : Nat} (a : BitVec w) (n : Nat) : BitVec.ofNat w (a.toNat / 2 ^ n) = a >>> n := by
  rw [← Nat.shiftRight_eq_div_pow, ← BitVec.toNat_ushiftRight, BitVec.ofNat_toNat, BitVec.setWidth_eq]

/-- The high word of the product: in 128 bits the product of two words is exact. -/
theorem ofNat_mul_div_two_pow (a b : Word64) :
    BitVec.ofNat 64 (a.toNat * b.toNat / 2 ^ 64) = ((a.setWidth 128 * b.setWidth 128) >>> 64).setWidth 64 := by
  have hexact : a.toNat * b.toNat < 2 ^ 128 := by
    calc a.toNat * b.toNat < 2 ^ 64 * 2 ^ 64 := Nat.mul_lt_mul'' a.isLt b.isLt
      _ = 2 ^ 128 := by decide
  have hprod : (a.setWidth 128 * b.setWidth 128).toNat = a.toNat * b.toNat := by
    rw [BitVec.toNat_mul, BitVec.toNat_setWidth_of_le (by decide), BitVec.toNat_setWidth_of_le (by decide),
      Nat.mod_eq_of_lt hexact]
  apply BitVec.eq_of_toNat_eq
  rw [BitVec.toNat_ofNat, BitVec.toNat_setWidth, BitVec.toNat_ushiftRight, hprod, Nat.shiftRight_eq_div_pow]

/-! ### Counted bits -/

/-- The leading zeros of a word that is not 0 end at its highest one bit, the logarithm's. -/
theorem length_takeWhile_leadingZeros {a : Word64} (ha : a ≠ 0) :
    ((List.range 64).takeWhile fun k => !a.getLsbD (63 - k)).length = 63 - Nat.log2 a.toNat := by
  have hne : a.toNat ≠ 0 := fun h => ha (BitVec.eq_of_toNat_eq h)
  have hlog : Nat.log2 a.toNat < 64 := (Nat.log2_lt hne).mpr a.isLt
  have htop : a.getLsbD (Nat.log2 a.toNat) = true := Nat.testBit_log2 hne
  have habove : ∀ n, Nat.log2 a.toNat < n → a.getLsbD n = false := fun n hn =>
    Nat.testBit_lt_two_pow ((Nat.log2_lt hne).mp hn)
  have hidx : (List.range 64).findIdx (fun k => a.getLsbD (63 - k)) = 63 - Nat.log2 a.toNat := by
    rw [List.findIdx_eq (by simp; omega)]
    refine ⟨?_, fun j hj => ?_⟩
    · rw [List.getElem_range, Nat.sub_sub_self (by omega)]
      exact htop
    · rw [List.getElem_range]
      exact habove _ (by omega)
  rw [List.takeWhile_eq_take_findIdx_not]
  simp only [Bool.not_not, hidx, List.length_take, List.length_range]
  omega

theorem length_takeWhile_leadingZeros_zero :
    ((List.range 64).takeWhile fun k => !(0 : Word64).getLsbD (63 - k)).length = 64 := by
  decide

theorem length_setBitsOf (a : Word64) : (setBitsOf a.toNat).length = (List.range 64).countP fun k => a.getLsbD k := by
  simp [setBitsOf, bit_toNat, List.countP_eq_length_filter]

/-! ### The operations by opcode (R136, R137) -/

section
variable (a b : Word64) (c : Bool)

theorem intOp_arithmetic :
    BitVec.ofNat 64 (intOp 0x01 a.toNat b.toNat c) = a + b ∧
      BitVec.ofNat 64 (intOp 0x02 a.toNat b.toNat c) = a - b := by
  constructor
  · simp [intOp, BitVec.ofNat_add]
  · simp [intOp, BitVec.sub_def, Nat.add_comm]

theorem intOp_bitwise :
    BitVec.ofNat 64 (intOp 0x03 a.toNat b.toNat c) = a &&& b ∧
      BitVec.ofNat 64 (intOp 0x04 a.toNat b.toNat c) = a ||| b ∧
      BitVec.ofNat 64 (intOp 0x05 a.toNat b.toNat c) = a ^^^ b := by
  simp [intOp]

theorem intOp_shift :
    BitVec.ofNat 64 (intOp 0x06 a.toNat b.toNat c) = a <<< (b.toNat % 64) ∧
      BitVec.ofNat 64 (intOp 0x07 a.toNat b.toNat c) = a >>> (b.toNat % 64) ∧
      BitVec.ofNat 64 (intOp 0x08 a.toNat b.toNat c) = a.sshiftRight (b.toNat % 64) := by
  refine ⟨ofNat_mul_two_pow a _, ofNat_div_two_pow a _, ?_⟩
  rw [intOp, sext_toNat, ofNat_uint, ofInt_toInt_div_two_pow]

theorem intOp_signedMinMax :
    BitVec.ofNat 64 (intOp 0x09 a.toNat b.toNat c) = (if a.sle b then a else b) ∧
      BitVec.ofNat 64 (intOp 0x0A a.toNat b.toNat c) = (if a.sle b then b else a) := by
  simp [intOp, sext_toNat, BitVec.sle_iff_toInt_le, apply_ite (BitVec.ofNat 64)]

theorem intOp_unsignedMinMax :
    BitVec.ofNat 64 (intOp 0x0B a.toNat b.toNat c) = (if a.ule b then a else b) ∧
      BitVec.ofNat 64 (intOp 0x0C a.toNat b.toNat c) = (if a.ule b then b else a) := by
  simp [intOp, Nat.min_def, Nat.max_def, BitVec.ule_iff_toNat_le, apply_ite (BitVec.ofNat 64)]

theorem intOp_select : BitVec.ofNat 64 (intOp 0x0D a.toNat b.toNat c) = if c then a else b := by
  cases c <;> simp [intOp]

theorem intOp_leadingZeros (n : Nat) :
    intOp 0x0E a.toNat n c = ((List.range 64).takeWhile fun k => !a.getLsbD (63 - k)).length := by
  by_cases ha : a = 0
  · subst ha
    exact length_takeWhile_leadingZeros_zero.symm
  · have hne : a.toNat ≠ 0 := fun h => ha (BitVec.eq_of_toNat_eq h)
    rw [length_takeWhile_leadingZeros ha, intOp, if_neg hne]

theorem mulDiv_product :
    BitVec.ofNat 64 (mulDiv 0x20 a.toNat b.toNat) = a * b ∧
      BitVec.ofNat 64 (mulDiv 0x22 a.toNat b.toNat) = ((a.setWidth 128 * b.setWidth 128) >>> 64).setWidth 64 := by
  refine ⟨?_, ofNat_mul_div_two_pow a b⟩
  simp [mulDiv, BitVec.ofNat_mul]

theorem mulDiv_by_zero :
    BitVec.ofNat 64 (mulDiv 0x24 a.toNat 0) = BitVec.allOnes 64 ∧
      BitVec.ofNat 64 (mulDiv 0x25 a.toNat 0) = BitVec.allOnes 64 ∧
      BitVec.ofNat 64 (mulDiv 0x26 a.toNat 0) = a ∧ BitVec.ofNat 64 (mulDiv 0x27 a.toNat 0) = a := by
  simp [mulDiv, BitVec.allOnes]

variable {b}

theorem mulDiv_signed (hb : b.toNat ≠ 0) :
    BitVec.ofNat 64 (mulDiv 0x24 a.toNat b.toNat) = a.sdiv b ∧
      BitVec.ofNat 64 (mulDiv 0x26 a.toNat b.toNat) = a.srem b := by
  simp only [mulDiv, if_neg hb, sext_toNat, ofNat_uint, ofInt_tdiv_toInt, ofInt_tmod_toInt, and_self]

theorem mulDiv_unsigned (hb : b.toNat ≠ 0) :
    BitVec.ofNat 64 (mulDiv 0x25 a.toNat b.toNat) = a / b ∧
      BitVec.ofNat 64 (mulDiv 0x27 a.toNat b.toNat) = a % b := by
  simp only [mulDiv, if_neg hb]
  rw [← BitVec.toNat_udiv, ← BitVec.toNat_umod]
  simp only [BitVec.ofNat_toNat, BitVec.setWidth_eq, and_self]

end

/-- Settles O36: each operation of the model's numbers is the 64-bit word's; a signed one reads its words with `toInt`
and its result comes back through `ofInt`. -/
theorem scalarIntegersAreBitVectors : Obligations.ScalarIntegersAreBitVectors := by
  unfold Obligations.ScalarIntegersAreBitVectors
  intro a b c f g n
  obtain ⟨hadd, hsub⟩ := intOp_arithmetic a b c
  obtain ⟨hand, hor, hxor⟩ := intOp_bitwise a b c
  obtain ⟨hmin, hmax⟩ := intOp_signedMinMax a b c
  obtain ⟨hminu, hmaxu⟩ := intOp_unsignedMinMax a b c
  refine ⟨⟨hadd, hsub, hand, hor, hxor, intOp_shift a b c⟩, ⟨hmin, hmax, hminu, hmaxu, intOp_select a b c⟩,
    ⟨congrArg (BitVec.ofNat 64) (intOp_leadingZeros a c b.toNat), congrArg (BitVec.ofNat 64) (length_setBitsOf a)⟩,
    mulDiv_product a b, fun hb => ?_, fun hb => ?_⟩
  · subst hb
    exact mulDiv_by_zero a
  · have hne : b.toNat ≠ 0 := fun h => hb (BitVec.eq_of_toNat_eq h)
    obtain ⟨hdiv, hrem⟩ := mulDiv_signed a hne
    obtain ⟨hdivu, hremu⟩ := mulDiv_unsigned a hne
    exact ⟨hdiv, hdivu, hrem, hremu⟩

end Sys2Proof.Machine
end

section
/-!
PROOFS. The stage schedulers (R363 to R395): the balance of the tag counts, eligibility under FILL_DRAIN, and the bits of
one STG_CTRL write.
-/

namespace Sys2Proof.Machine

/-! ### The tag counts (R363, R364) -/

/-- The counts stand side by side in STG_TAGCNT, FREE at the top, nine bits each. -/
theorem tagCnt_eq {st : Nat} (h : st < 5) : tagCnt st = ⟨.STG_TAGCNT, 36 - 9 * st, 9⟩ := by
  interval_cases st <;> rfl

/-- Setting one count sets that one and no other. -/
theorem State.fget_fput_tagCnt (s : State) (p v : Nat) {a b : Nat} (ha : a < 5) (hb : b < 5) :
    (s.fput (tagCnt a) v p).fget (tagCnt b) p = if b = a then v % 2 ^ 9 else s.fget (tagCnt b) p := by
  rw [tagCnt_eq ha, tagCnt_eq hb]
  split
  case isTrue h =>
    subst h
    exact s.fget_fput_self _ _ _ _ (by dsimp only; omega)
  case isFalse h =>
    exact s.fget_fput_disj _ _ _ _ _ rfl (by dsimp only; omega) (by dsimp only; omega)

/-- The sum of the five counts of STG_TAGCNT (R364). -/
def State.tagTotal (s : State) (p : Nat) : Nat := ∑ st ∈ Finset.range 5, s.fget (tagCnt st) p

theorem State.tagTotal_eq (s : State) (p : Nat) :
    s.tagTotal p = s.fget Fld.STG_TAGCNT_FREE p + s.fget Fld.STG_TAGCNT_FWDP p + s.fget Fld.STG_TAGCNT_FWDD p +
      s.fget Fld.STG_TAGCNT_BWDP p + s.fget Fld.STG_TAGCNT_RET p := by
  simp only [State.tagTotal, Finset.sum_range_succ, Finset.sum_range_zero, Nat.zero_add]
  rfl

theorem State.tagCnt_le_tagTotal (s : State) (p : Nat) {st : Nat} (h : st < 5) :
    s.fget (tagCnt st) p ≤ s.tagTotal p :=
  Finset.single_le_sum (f := fun st => s.fget (tagCnt st) p) (fun _ _ => Nat.zero_le _) (Finset.mem_range.mpr h)

/-- Setting one count moves the total by as much as it moves the count. -/
theorem State.tagTotal_fput_tagCnt (s : State) (p : Nat) {st v : Nat} (h : st < 5) (hv : v < 2 ^ 9) :
    (s.fput (tagCnt st) v p).tagTotal p + s.fget (tagCnt st) p = s.tagTotal p + v := by
  have hmem : st ∈ Finset.range 5 := Finset.mem_range.mpr h
  have hself : (s.fput (tagCnt st) v p).fget (tagCnt st) p = v := by
    rw [State.fget_fput_tagCnt _ _ _ h h, if_pos rfl, Nat.mod_eq_of_lt hv]
  have hrest : ∑ b ∈ (Finset.range 5).erase st, (s.fput (tagCnt st) v p).fget (tagCnt b) p =
      ∑ b ∈ (Finset.range 5).erase st, s.fget (tagCnt b) p := by
    refine Finset.sum_congr rfl fun b hb => ?_
    obtain ⟨hne, hlt⟩ := Finset.mem_erase.mp hb
    rw [State.fget_fput_tagCnt _ _ _ h (Finset.mem_range.mp hlt), if_neg hne]
  rw [State.tagTotal, State.tagTotal, ← Finset.add_sum_erase _ _ hmem, ← Finset.add_sum_erase _ _ hmem, hself, hrest]
  omega

/-- A tag that moves leaves one count and joins one, so the total stands; the counts hold 256 without wrapping. -/
theorem State.tagTotal_putTag (s : State) {p t st : Nat} (hp : p < 16) (ht : t < 256) (hst : st < 5)
    (hold : s.tag p t < 5) (hpos : 0 < s.fget (tagCnt (s.tag p t)) p) (hsum : s.tagTotal p = 256) :
    (s.putTag p t st).tagTotal p = 256 := by
  have hle := s.tagCnt_le_tagTotal p hold
  have hleave := s.tagTotal_fput_tagCnt p hold (v := s.fget (tagCnt (s.tag p t)) p - 1) (by omega)
  set s₁ := s.fput (tagCnt (s.tag p t)) (s.fget (tagCnt (s.tag p t)) p - 1) p
  have hle₁ := s₁.tagCnt_le_tagTotal p hst
  have hjoin := s₁.tagTotal_fput_tagCnt p hst (v := s₁.fget (tagCnt st) p + 1) (by omega)
  set s₂ := s₁.fput (tagCnt st) (s₁.fget (tagCnt st) p + 1) p
  have hstate : (s.putTag p t st).tagTotal p = s₂.tagTotal p :=
    Finset.sum_congr rfl fun b hb => s₂.fget_fput_reg Fld.STG_TAG_STATE _ st
      (by rw [tagCnt_eq (Finset.mem_range.mp hb)]; simp) (by omega) (by omega) (by omega) (by omega)
  omega

theorem State.tag_fput_tagCnt (s : State) {p t st : Nat} (v : Nat) (hp : p < 16) (ht : t < 256) (hst : st < 5) :
    (s.fput (tagCnt st) v p).tag p t = s.tag p t :=
  s.fget_fput_reg _ _ _ (by rw [tagCnt_eq hst]; simp) (by omega) (by omega) (by omega) (by omega)

/-- The tag that moves is in its new state, and every other tag of the scheduler in its own. -/
theorem State.tag_putTag (s : State) {p t st t' : Nat} (hp : p < 16) (ht : t < 256) (ht' : t' < 256) (hst : st < 5)
    (hold : s.tag p t < 5) : (s.putTag p t st).tag p t' = if t' = t then st else s.tag p t' := by
  unfold State.putTag
  split
  case isTrue h =>
    subst h
    exact (State.fget_fput_self _ Fld.STG_TAG_STATE _ _ _ (by decide)).trans (Nat.mod_eq_of_lt (by dsimp only; omega))
  case isFalse h =>
    refine (State.fget_fput_ne _ _ _ _ (by omega) (by omega) (by omega) (by omega) (.inr (.inr h))).trans ?_
    exact (State.tag_fput_tagCnt _ _ hp ht' hst).trans (State.tag_fput_tagCnt _ _ hp ht' hold)

/-- Settles O35: the move takes one from the count of the tag's old state and adds one to that of its new state. -/
theorem tagMoveKeepsCountsBalanced : Obligations.TagMoveKeepsCountsBalanced := by
  unfold Obligations.TagMoveKeepsCountsBalanced
  intro p t v s hp ht hv hold hpos hsum u
  rw [← State.tagTotal_eq] at hsum ⊢
  refine ⟨s.tagTotal_putTag hp ht hv hold hpos hsum, ?_, fun t' ht' hne => ?_⟩
  · rw [s.tag_putTag hp ht ht hv hold, if_pos rfl]
  · rw [s.tag_putTag hp ht ht' hv hold, if_neg hne]

/-! ### Eligibility (R372 to R374) -/

/-- A backward is chosen only where the window has room and the schedule allows backwards. -/
theorem State.bwdNext_eq_some {s : State} {p t : Nat} (h : s.bwdNext p = some t) :
    s.windowOk p = true ∧
      (s.flag Fld.STG_CFG_MODE p = true ∨ s.fget Fld.STG_STATUS_FDONE p = s.stgN Fld.STG_CFG_NMB p) := by
  unfold State.bwdNext at h
  split at h
  case isTrue hok => simpa using hok
  case isFalse => cases h

/-- A forward is chosen only while microbatches are left. -/
theorem State.fwdNext_eq_some {s : State} {p t : Nat} (h : s.fwdNext p = some t) :
    s.fget Fld.STG_STATUS_FCNT p < s.stgN Fld.STG_CFG_NMB p := by
  dsimp only [State.fwdNext] at h
  split at h
  case isTrue hok =>
    simp only [Bool.and_eq_true, decide_eq_true_eq] at hok
    obtain ⟨⟨⟨-, hleft⟩, -⟩, -⟩ := hok
    exact hleft
  case isFalse => cases h

/-- Settles O13: under FILL_DRAIN the schedule asks of a backward that FDONE = M, and nothing of a forward. -/
theorem fillDrainEligibility : Obligations.FillDrainEligibility := by
  unfold Obligations.FillDrainEligibility
  intro p s hmode
  refine ⟨fun t h => ?_, fun t h => State.fwdNext_eq_some h, fun hleft hwin hbuf => ?_⟩
  · obtain ⟨-, hfill | hdone⟩ := State.bwdNext_eq_some h
    · exact absurd hfill (by simp [hmode])
    · exact hdone
  · have hstash : (s.nent p = 0 || s.fget Fld.STG_STATUS_FCNT p < s.stgN Fld.STG_CFG_SBUF p ||
        s.stashed p (s.fget Fld.STG_STATUS_FCNT p - s.stgN Fld.STG_CFG_SBUF p)) = true := by
      simpa [or_assoc] using hbuf
    simp [State.fwdNext, hmode, hleft, hwin, hstash]

/-! ### A write of STG_CTRL (R389, R395) -/

/-- The status of an access is not told to the host. -/
theorem State.status_host (s : State) {who : Requester} (st : AccStatus) (h : isHost who = true) :
    s.status who st = s := by
  simp [State.status, h]

/-- A 32-bit write of the physical function to a 32-bit register of a block that only the hub keeps shut. -/
theorem State.write32_pf_hub {s : State} {a i j : Nat} {r : Reg} (x : Word32) (hopen : s.hubOpen = true) (ha : a % 4 = 0)
    (hp : s.place (.fn 0) a = .reg r i j false) (hbore : r.info.blk ∉ boreBlocks)
    (hdrone : r.info.blk ∉ [Block.DRN, .KEEP, .LOG, .DMP]) (hwin : chnWindow r = false) (hr : r.info.wide = false) :
    s.write32 (.fn 0) a x = s.writeReg (.fn 0) r i j (x.setWidth 64) := by
  have hmeet : s.meet (.fn 0) (.reg r i j false) = .go := by
    simp only [List.mem_cons, List.not_mem_nil, or_false, not_or] at hdrone
    obtain ⟨hdrn, hkeep, hlog, hdmp⟩ := hdrone
    simp [State.meet, State.blockOpen, hbore, hdrn, hkeep, hlog, hdmp, hopen]
  have hcross : s.through (.fn 0) (.reg r i j false) = s := by
    rw [State.through_reg, if_neg hbore, State.status_host _ _ rfl]
  rw [State.write32_go x ha hp hmeet, hcross]
  simp [State.writePlace, State.writeHalf, State.winShut, hwin, hr]

theorem State.writeReg_stgCtrl (s : State) (p j : Nat) (v : Word64) :
    s.writeReg (.fn 0) .STG_CTRL p j v = s.stgCtrl p v := rfl

/-- A scheduler that is not COUPLED stops at a write of more than one bit. -/
theorem State.stgCtrl_of_combined {s : State} {p : Nat} {v : Word64} (hst : s.stg p ≠ sgCoupled)
    (hv : 1 < b2n (v.getLsbD 0) + b2n (v.getLsbD 1) + b2n (v.getLsbD 2)) : s.stgCtrl p v = s.stgStop p := by
  simp only [State.stgCtrl, bit_toNat, if_neg hst, if_pos hv]

/-- STG_STOP by the physical function. -/
theorem exec_stgStop_pf {s : State} {p : Nat} (hopen : s.hubOpen = true) (hst : s.stg p ≠ sgCoupled) :
    exec (.stgStop (.fn 0) p) s = .next (s.stgStop p) := by
  have hexec : exec (.stgStop (.fn 0) p) s = .next (s.hubReg true (s.stgCtrl p 2)) := rfl
  have hstop : s.stgCtrl p 2 = s.stgStop p := if_neg hst
  rw [hexec, State.hubReg_open hopen, hstop]

/-- A 32-bit write carries the bits below 32. -/
theorem getLsbD_half_low (v : Word64) {n : Nat} (h : n < 32) :
    ((half v false).setWidth 64).getLsbD n = v.getLsbD n := by
  have h64 : n < 64 := by omega
  simp [half, h, h64]

/-- Settles O22: the write reaches STG_CTRL with the three bits that it was given. -/
theorem stageControlCombinedActsAsStop : Obligations.StageControlCombinedActsAsStop := by
  unfold Obligations.StageControlCombinedActsAsStop
  intro a p v s hopen ha hp hst hv
  have hwrite : s.write32 (.fn 0) a (half v false) = s.stgStop p := by
    rw [State.write32_pf_hub _ hopen ha hp (by decide) (by decide) (by decide) rfl, State.writeReg_stgCtrl]
    refine State.stgCtrl_of_combined hst ?_
    simpa only [getLsbD_half_low _ (show 0 < 32 by decide), getLsbD_half_low _ (show 1 < 32 by decide),
      getLsbD_half_low _ (show 2 < 32 by decide)] using hv
  rw [exec_registerWrite_word, hwrite, exec_stgStop_pf hopen hst]

end Sys2Proof.Machine
end

section
/-!
PROOFS. Training state and numeric health (R404, R412): the message that a health set takes, and what a LOSS report adds.
-/

namespace Sys2Proof.Machine

/-! ### Messages to a health set (R404) -/

/-- A message of kind `k` is taken for what kind `k` does, with its credit or release returned. -/
theorem State.ovbTake_of_kind {s u : State} {src e d : Endpoint} {c : XClass} {h k x q : Nat} {m : Message}
    (hold : s.oldest .posted src (.unit (.health h)) = some (⟨c, e, d, .message x q m⟩, u)) (hkind : ovbKind q m = k) :
    s.ovbTake src h k = some (k, m, u.sendReturn (.unit (.health h)) m.origin (if m.nack then 3 else 1)) := by
  simp [State.ovbTake, hold, hkind]

theorem ovbMessage_of_kind {s u : State} {src e d : Endpoint} {c : XClass} {h k x q : Nat} {m : Message}
    (f : State → Message → State)
    (hold : s.oldest .posted src (.unit (.health h)) = some (⟨c, e, d, .message x q m⟩, u)) (hkind : ovbKind q m = k) :
    ovbMessage src h k s f = .next (f (u.sendReturn (.unit (.health h)) m.origin (if m.nack then 3 else 1)) m) := by
  simp [ovbMessage, State.ovbTake_of_kind hold hkind, ok]

/-- LOSS_REPORT where the oldest message is a LOSS report. -/
theorem exec_lossReport_of_kind {s u : State} {src e d : Endpoint} {c : XClass} {h x q : Nat} {m : Message}
    (hold : s.oldest .posted src (.unit (.health h)) = some (⟨c, e, d, .message x q m⟩, u)) (hkind : ovbKind q m = 2) :
    exec (.lossReport src h) s =
      .next ((u.sendReturn (.unit (.health h)) m.origin (if m.nack then 3 else 1)).lossReport
        ((u.sendReturn (.unit (.health h)) m.origin (if m.nack then 3 else 1)).healthOf h) m) :=
  ovbMessage_of_kind (fun s m => s.lossReport (s.healthOf h) m) hold hkind

/-! ### The loss sum (R412) -/

/-- A report of the current step, in time, adds into the sum and counts. -/
theorem State.lossReport_of_current {s : State} {h : Nat} {m : Message} (hstep : (m.words.getD 2 0).toNat = s.stgStep h)
    (hlate : s.lateNow h = false) :
    s.lossReport h m =
      (s.fput Fld.OVB_LOSS_SUM (to32 (fadd (f32 (s.fget Fld.OVB_LOSS_SUM h)) (f32 (m.words.getD 1 0).toNat))) h).fsat
        Fld.OVB_LOSS_NLOSS 1 h := by
  rw [State.lossReport, if_neg (not_not_intro hstep), if_neg (by simp [hlate])]

/-- The sum stands above the count in OVB_LOSS, so counting leaves it alone. -/
theorem State.lossSum_lossReport {s : State} {h : Nat} {m : Message} (hstep : (m.words.getD 2 0).toNat = s.stgStep h)
    (hlate : s.lateNow h = false) :
    (s.lossReport h m).fget Fld.OVB_LOSS_SUM h =
      to32 (fadd (f32 (s.fget Fld.OVB_LOSS_SUM h)) (f32 (m.words.getD 1 0).toNat)) % 2 ^ 32 := by
  rw [State.lossReport_of_current hstep hlate, State.fget_fsat_disj _ Fld.OVB_LOSS_NLOSS Fld.OVB_LOSS_SUM _ _ _ rfl
    (by decide) (by decide), State.fget_fput_self _ _ _ _ _ (by decide)]

/-- The count is below the sum in OVB_LOSS, so adding leaves it alone. -/
theorem State.lossCount_lossReport {s : State} {h : Nat} {m : Message} (hstep : (m.words.getD 2 0).toNat = s.stgStep h)
    (hlate : s.lateNow h = false) :
    (s.lossReport h m).fget Fld.OVB_LOSS_NLOSS h =
      min (s.fget Fld.OVB_LOSS_NLOSS h + 1) (2 ^ Fld.OVB_LOSS_NLOSS.w - 1) := by
  rw [State.lossReport_of_current hstep hlate, State.fget_fsat_self _ _ _ _ _ (by decide),
    State.fget_fput_disj _ Fld.OVB_LOSS_SUM Fld.OVB_LOSS_NLOSS _ _ _ rfl (by decide) (by decide)]

/-- Settles O14: the report is taken by the set itself, and the sum and the count are apart in OVB_LOSS. -/
theorem lossReportsAddInOrder : Obligations.LossReportsAddInOrder := by
  unfold Obligations.LossReportsAddInOrder
  rintro src h c e d x q m s u v - hold hkind rfl hset hstep hlate
  refine ⟨_, exec_lossReport_of_kind hold hkind, ?_⟩
  rw [hset]
  exact ⟨State.lossSum_lossReport hstep hlate, State.lossCount_lossReport hstep hlate⟩

end Sys2Proof.Machine
end

section
/-!
PROOFS. Contexts and the residency manager's commands (R440, R465): the states that admit a command, and the two ways in
which a command is turned away.
-/

namespace Sys2Proof.Machine

/-- The context states in which a command of PRT_CMD is carried out: those that it leaves, and for START a resident context
(R440, R461). -/
def cxAdmitting : Nat → List Nat
  | 2 => [cxFree]
  | 3 => [cxIdle]
  | 4 => [cxResident]
  | 5 => [cxResident]
  | 6 => [cxLoading, cxResident, cxEvicting]
  | 7 => [cxEnded]
  | 8 => [cxIdle, cxEnded]
  | _ => []

/-- A context command does nothing to a context in a state that does not admit it, and answers BADSTATE (R465). -/
theorem State.rmDo_of_not_admitting {s : State} {op c : Nat} (hop : 2 ≤ op ∧ op ≤ 8) (h : s.cxState c ∉ cxAdmitting op) :
    s.rmDo op c = (s, rmBadstate) := by
  obtain ⟨hmin, hmax⟩ := hop
  interval_cases op
  all_goals
    simp only [cxAdmitting, List.mem_cons, List.not_mem_nil, or_false, not_or] at h
    simp [State.rmDo, h]

/-! ### A command of PRT_CMD by a requester that may give it -/

section
variable {who : Requester} {op c : Nat} {s : State}

theorem prtCmd_open (hopen : s.hubOpen = true) (hmay : mayPf who = true) :
    prtCmd who op c s = .next (s.prtCmd op c) := by
  rw [prtCmd, hmay, State.hubReg_open hopen, ok]

/-- While PENDING reads 1 a command only sets DROPPED. -/
theorem prtCmd_of_pending (hopen : s.hubOpen = true) (hmay : mayPf who = true)
    (hpend : s.flag Fld.PRT_CMDST_PENDING = true) :
    prtCmd who op c s = .next (s.fput Fld.PRT_CMDST_DROPPED 1) := by
  rw [prtCmd_open hopen hmay, State.prtCmd, if_pos hpend]

/-- A command aimed at a context in a state that does not admit it only reports BADSTATE. -/
theorem prtCmd_of_not_admitting (hopen : s.hubOpen = true) (hmay : mayPf who = true)
    (hpend : s.flag Fld.PRT_CMDST_PENDING = false) (hop : 2 ≤ op ∧ op ≤ 8) (h : s.cxState c ∉ cxAdmitting op) :
    prtCmd who op c s = .next (s.prtSt op c rmBadstate) := by
  rw [prtCmd_open hopen hmay, State.prtCmd, if_neg (by simp [hpend]), State.rmDo_of_not_admitting hop h]

end

/-! ### The seven context commands as commands of PRT_CMD (R474) -/

section
variable (who : Requester) (c : Nat) (s : State)

theorem exec_create_eq : exec (.create who c) s = prtCmd who 2 c s := rfl
theorem exec_load_eq : exec (.load who c) s = prtCmd who 3 c s := rfl
theorem exec_evict_eq : exec (.evict who c) s = prtCmd who 4 c s := rfl
theorem exec_prtStart_eq : exec (.prtStart who c) s = prtCmd who 5 c s := rfl
theorem exec_prtEnd_eq : exec (.prtEnd who c) s = prtCmd who 6 c s := rfl
theorem exec_prtReset_eq : exec (.prtReset who c) s = prtCmd who 7 c s := rfl
theorem exec_destroy_eq : exec (.destroy who c) s = prtCmd who 8 c s := rfl

end

/-- Settles O23: all seven are commands of PRT_CMD, told apart by the states that admit them. -/
theorem contextCommandsJudged : Obligations.ContextCommandsJudged := by
  unfold Obligations.ContextCommandsJudged
  intro who c s hopen hmay
  constructor
  · intro hpend i hi
    have hdrop (op : Nat) : prtCmd who op c s = .next (s.fput Fld.PRT_CMDST_DROPPED 1) :=
      prtCmd_of_pending hopen hmay hpend
    simp only [List.mem_cons, List.not_mem_nil, or_false] at hi
    obtain rfl | rfl | rfl | rfl | rfl | rfl | rfl := hi
    · rw [exec_create_eq, hdrop]
    · rw [exec_load_eq, hdrop]
    · rw [exec_evict_eq, hdrop]
    · rw [exec_prtStart_eq, hdrop]
    · rw [exec_prtEnd_eq, hdrop]
    · rw [exec_prtReset_eq, hdrop]
    · rw [exec_destroy_eq, hdrop]
  · intro hpend
    have hbad (op : Nat) (hop : 2 ≤ op ∧ op ≤ 8) (h : s.cxState c ∉ cxAdmitting op) :
        prtCmd who op c s = .next (s.prtSt op c rmBadstate) :=
      prtCmd_of_not_admitting hopen hmay hpend hop h
    refine ⟨fun hfree => ?create, fun hidle => ?load, fun hres => ?evict, fun hended => ?reset,
      fun hidle hended => ?destroy⟩
    case create => rw [exec_create_eq, hbad 2 (by decide) (by simpa [cxAdmitting] using hfree)]
    case load => rw [exec_load_eq, hbad 3 (by decide) (by simpa [cxAdmitting] using hidle)]
    case evict => rw [exec_evict_eq, hbad 4 (by decide) (by simpa [cxAdmitting] using hres)]
    case reset => rw [exec_prtReset_eq, hbad 7 (by decide) (by simpa [cxAdmitting] using hended)]
    case destroy => rw [exec_destroy_eq, hbad 8 (by decide) (by simpa [cxAdmitting] using ⟨hidle, hended⟩)]

end Sys2Proof.Machine
end

section
/-!
PROOFS. What the device sends the host (R528, R533): what becomes of a request and of an interrupt while the link is up and
while it is down, and that only the host rings' own operations change a ring.
-/

namespace Sys2Proof.Machine

/-! ### Requests on the host link (R533) -/

section
variable {s : State}

theorem State.hostSend_of_up (hup : s.hif.linkUp = true) (t : HostTlp) :
    s.hostSend t = { s with hif := { s.hif with sent := s.hif.sent ++ [t] } } := by
  unfold State.hostSend
  rw [if_pos hup]

/-- A write, poisoned or not, is discarded and counted. -/
theorem State.hostSend_write_of_down (hdown : s.hif.linkUp = false) (fn addr : Nat) (d : List Byte) (pois : Bool) :
    s.hostSend (.write fn addr d pois) = s.fsat Fld.HIF_ERR_LINKDROP := by
  unfold State.hostSend
  rw [if_neg (by simp [hdown])]

/-- An MSI-X message is discarded and not counted. -/
theorem State.hostSend_msixTlp_of_down (hdown : s.hif.linkUp = false) (fn vec : Nat) :
    s.hostSend (s.msixTlp fn vec) = s := by
  unfold State.hostSend State.msixTlp
  rw [if_neg (by simp [hdown])]

end

/-! ### Interrupts (R528) -/

section
variable {s : State} {fn vec : Nat}

theorem State.msix_of_past_table (hvec : msixSize fn ≤ vec) : s.msix fn vec = s.fsat Fld.HIF_ERR_VECBAD := by
  rw [State.msix, if_pos hvec]

theorem State.msix_of_shut (hvec : vec < msixSize fn) (hshut : s.msixOpen fn vec = false) :
    s.msix fn vec = { s with hif := { s.hif with vpend := sinsert (4096 * fn + vec) s.hif.vpend } } := by
  rw [State.msix, if_neg (Nat.not_le.mpr hvec), if_neg (by simp [hshut])]

theorem State.msix_of_open (hvec : vec < msixSize fn) (hopen : s.msixOpen fn vec = true) :
    s.msix fn vec = s.hostSend (s.msixTlp fn vec) := by
  rw [State.msix, if_neg (Nat.not_le.mpr hvec), if_pos hopen]

end

/-! ### What leaves the host rings as they are -/

section
variable (s : State) (r : Nat)

@[simp] theorem State.hring_fsat (f : Field) (n i j : Nat) : (s.fsat f n i j).hring r = s.hring r := rfl

@[simp] theorem State.hring_hostSend (t : HostTlp) : (s.hostSend t).hring r = s.hring r := by
  unfold State.hostSend
  split
  case isTrue => rfl
  case isFalse => split <;> rfl

@[simp] theorem State.hring_msix (fn vec : Nat) : (s.msix fn vec).hring r = s.hring r := by
  obtain hpast | hvec := le_or_gt (msixSize fn) vec
  · rw [State.msix_of_past_table hpast, State.hring_fsat]
  · cases h : s.msixOpen fn vec with
    | false => rw [State.msix_of_shut hvec h]; rfl
    | true => rw [State.msix_of_open hvec h, State.hring_hostSend]

@[simp] theorem State.hring_sendReturn (src : Endpoint) (o : Origin) (kind : Nat) :
    (s.sendReturn src o kind).hring r = s.hring r := by
  cases o <;> rfl

end

/-! ### Changes of a host ring -/

@[simp] theorem State.hring_upRing (s : State) (r : Nat) (f : Ring → Ring) : (s.upRing r f).hring r = f (s.hring r) :=
  mget_mput_self ..

theorem State.ovf_ringOvf (s : State) (r : Nat) :
    ((s.ringOvf r).hring r).ovf = min ((s.hring r).ovf + 1) 0xFFFFFFFF := by
  rw [State.ringOvf, State.hring_upRing]

/-- Writing an entry leaves OVF alone, but for the entry that the link being down discards. -/
theorem State.ovf_ringPut (s : State) (r c q : Nat) (m : Message) :
    ((s.ringPut r c q m).hring r).ovf = ((if s.hif.linkUp then s else s.ringOvf r).hring r).ovf := by
  cases harm : (s.hring r).arm <;> simp [State.ringPut, harm]

/-- Settles O24: a request to the host is put on the link or discarded, and after a discarded ring entry is counted nothing
that writes the entry touches OVF. -/
theorem interruptAndLinkDownMessages : Obligations.InterruptAndLinkDownMessages := by
  unfold Obligations.InterruptAndLinkDownMessages
  intro fn vec r c q addr d pois m s
  refine ⟨State.msix_of_past_table, State.msix_of_shut, fun hvec hopen hup => ?up, fun hvec hopen hdown => ?down,
    fun hdown => State.hostSend_write_of_down hdown fn addr d pois, fun hdown => ?ring⟩
  case up => rw [State.msix_of_open hvec hopen, State.hostSend_of_up hup]
  case down => rw [State.msix_of_open hvec hopen, State.hostSend_msixTlp_of_down hdown]
  case ring => rw [State.ovf_ringPut, hdown, if_neg Bool.false_ne_true, State.ovf_ringOvf]

end Sys2Proof.Machine
end

section
/-!
PROOFS. The drone and the bellows (R569, R575, R578): the outcomes of a power command, a write of BLW_LIMIT, and ALERT_N.
-/

namespace Sys2Proof.Machine

/-! ### A write of DRN_BPCMD by a requester that may make it (R575) -/

section
variable {s : State} (b : Nat) (act : State → State)

/-- While PENDING reads 1 a command only sets DROPPED, whatever it would do. -/
theorem State.bpCmd_of_pending (hpend : s.flag Fld.DRN_BPCMDST_PENDING = true) :
    s.bpCmd b act = s.fput Fld.DRN_BPCMDST_DROPPED 1 := by
  rw [State.bpCmd, if_pos hpend]

/-- At READY with nothing pending a command is carried out. -/
theorem State.bpCmd_of_ready (hpend : s.flag Fld.DRN_BPCMDST_PENDING = false)
    (hready : s.fget Fld.DRN_BOOT_STAGE = 7) : s.bpCmd b act = act s := by
  rw [State.bpCmd, if_neg (by simp [hpend]), if_neg (not_not_intro hready)]

end

section
variable {who : Requester} {s : State} (hpow : s.powered = true) (hmay : mayTray who = true) (b : Nat)
include hpow hmay

theorem exec_bpcmdWake_powered : exec (.bpcmdWake who b) s = .next (s.bpCmd b fun s => s.bpWake b) := by
  rw [exec, execBpcmdWake, hmay, State.drnReg_open hpow, ok]

theorem exec_bpcmdSleep_powered : exec (.bpcmdSleep who b) s = .next (s.bpCmd b fun s => s.bpDown b psSleep) := by
  rw [exec, execBpcmdSleep, hmay, State.drnReg_open hpow, ok]

theorem exec_bpcmdDeep_powered : exec (.bpcmdDeep who b) s = .next (s.bpCmd b fun s => s.bpDown b psDeep) := by
  rw [exec, execBpcmdDeep, hmay, State.drnReg_open hpow, ok]

theorem exec_bpcmdOff_powered : exec (.bpcmdOff who b) s = .next (s.bpCmd b fun s => s.bpOff b) := by
  rw [exec, execBpcmdOff, hmay, State.drnReg_open hpow, ok]

theorem exec_bpcmdOn_powered : exec (.bpcmdOn who b) s = .next (s.bpCmd b fun s => s.bpOn b) := by
  rw [exec, execBpcmdOn, hmay, State.drnReg_open hpow, ok]

end

/-! ### The outcomes that leave the bore as it is (R575) -/

section
variable {s : State} {b : Nat}

/-- WAKE finds an ACTIVE bore awake. -/
theorem State.bpWake_of_active (hact : s.pstate b = psActive) (hstay : (s.bore b).power.entering = none) :
    s.bpWake b = s.bpSt b bpOk := by
  rw [State.bpWake, if_neg (by simp [hact, psActive, psOff]), if_pos (by simp [hact, hstay])]

theorem State.bpWake_of_off (hoff : s.pstate b = psOff) : s.bpWake b = s.bpSt b bpBadstate := by
  rw [State.bpWake, if_pos hoff]

theorem State.bpDown_of_off (hoff : s.pstate b = psOff) (p : Nat) : s.bpDown b p = s.bpSt b bpBadstate := by
  rw [State.bpDown, if_pos hoff]

theorem State.bpOff_of_off (hoff : s.pstate b = psOff) : s.bpOff b = s.bpSt b bpBadstate := by
  rw [State.bpOff, if_pos hoff]

theorem State.bpOn_of_not_off (hon : s.pstate b ≠ psOff) : s.bpOn b = s.bpSt b bpBadstate := by
  rw [State.bpOn, if_pos hon]

/-- ON finds the bore brought back already. -/
theorem State.bpOn_of_leaving (hoff : s.pstate b = psOff) (hleave : (s.bore b).power.leaving.isSome = true) :
    s.bpOn b = s.bpSt b bpOk := by
  rw [State.bpOn, if_neg (not_not_intro hoff), if_pos hleave]

end

/-- Settles O18: a pending command drops all five alike; at READY each is judged by the bore's power state. -/
theorem bpcmdOutcomes : Obligations.BpcmdOutcomes := by
  unfold Obligations.BpcmdOutcomes
  intro who b s hpow hmay
  constructor
  · intro hpend i hi
    have hdrop (act : State → State) : s.bpCmd b act = s.fput Fld.DRN_BPCMDST_DROPPED 1 :=
      State.bpCmd_of_pending b act hpend
    simp only [List.mem_cons, List.not_mem_nil, or_false] at hi
    obtain rfl | rfl | rfl | rfl | rfl := hi
    · rw [exec_bpcmdWake_powered hpow hmay, hdrop]
    · rw [exec_bpcmdSleep_powered hpow hmay, hdrop]
    · rw [exec_bpcmdDeep_powered hpow hmay, hdrop]
    · rw [exec_bpcmdOff_powered hpow hmay, hdrop]
    · rw [exec_bpcmdOn_powered hpow hmay, hdrop]
  · intro hpend hready
    have hrun (act : State → State) : s.bpCmd b act = act s := State.bpCmd_of_ready b act hpend hready
    refine ⟨fun hact hstay => ?awake, fun hoff i hi => ?off, fun hon => ?on, fun hoff hleave => ?leaving⟩
    case awake => rw [exec_bpcmdWake_powered hpow hmay, hrun, State.bpWake_of_active hact hstay]
    case off =>
      simp only [List.mem_cons, List.not_mem_nil, or_false] at hi
      obtain rfl | rfl | rfl | rfl := hi
      · rw [exec_bpcmdWake_powered hpow hmay, hrun, State.bpWake_of_off hoff]
      · rw [exec_bpcmdSleep_powered hpow hmay, hrun, State.bpDown_of_off hoff]
      · rw [exec_bpcmdDeep_powered hpow hmay, hrun, State.bpDown_of_off hoff]
      · rw [exec_bpcmdOff_powered hpow hmay, hrun, State.bpOff_of_off hoff]
    case on => rw [exec_bpcmdOn_powered hpow hmay, hrun, State.bpOn_of_not_off hon]
    case leaving => rw [exec_bpcmdOn_powered hpow hmay, hrun, State.bpOn_of_leaving hoff hleave]

/-! ### A write of BLW_LIMIT (R578) -/

theorem exec_blwLimitWrite_open {who : Requester} {s : State} (hopen : s.hubOpen = true) (hmay : mayTray who = true)
    (v : Word64) : exec (.blwLimitWrite who v) s = .next (s.writeLimit v) := by
  rw [exec, execBlwLimitWrite, hmay, State.hubReg_open hopen, ok]

section
variable {s : State} {v : Word64}

theorem State.writeLimit_of_outside
    (hout : bits v.toNat 0 16 < 1400 ∨ 6000 < bits v.toNat 0 16 ∨ bits v.toNat 0 16 < s.minBudget) :
    s.writeLimit v = s.fput Fld.BLW_CFGST_STATUS 3 := by
  rw [State.writeLimit, if_pos (by simpa [or_assoc] using hout)]

variable (hmin : 1400 ≤ bits v.toNat 0 16) (hmax : bits v.toNat 0 16 ≤ 6000) (hbudget : s.minBudget ≤ bits v.toNat 0 16)
include hmin hmax hbudget

/-- In the registers a limit within the bounds is LIMIT and an OK, and no more: the caps follow in the next period. -/
theorem State.fget_writeLimit_of_within (f : Field) (i j : Nat) :
    (s.writeLimit v).fget f i j =
      ((s.fput Fld.BLW_LIMIT_LIMIT (bits v.toNat 0 16)).fput Fld.BLW_CFGST_STATUS 1).fget f i j := by
  rw [State.writeLimit, if_neg (by simp [hmin, hmax, hbudget])]
  rfl

/-- LIMIT has room for every limit of 16 bits, and the OK is in another register. -/
theorem State.limit_writeLimit_of_within : (s.writeLimit v).fget Fld.BLW_LIMIT_LIMIT = bits v.toNat 0 16 := by
  rw [State.fget_writeLimit_of_within hmin hmax hbudget,
    State.fget_fput_reg _ _ _ _ (by decide) (by decide) (by decide) (by decide) (by decide),
    State.fget_fput_self _ _ _ _ _ (by decide), Nat.mod_eq_of_lt (bits_lt _ _ _)]

theorem State.cfgst_writeLimit_of_within : (s.writeLimit v).fget Fld.BLW_CFGST_STATUS = 1 := by
  rw [State.fget_writeLimit_of_within hmin hmax hbudget, State.fget_fput_self _ _ _ _ _ (by decide),
    Nat.mod_eq_of_lt (by decide)]

end

/-- Settles O19: the write is checked as a whole, so it is discarded or it is in the registers as written. -/
theorem limitWritesChecked : Obligations.LimitWritesChecked := by
  unfold Obligations.LimitWritesChecked
  intro who v s hopen hmay
  constructor
  · intro hout
    rw [exec_blwLimitWrite_open hopen hmay, State.writeLimit_of_outside hout]
  · intro hmin hmax hbudget
    exact ⟨_, exec_blwLimitWrite_open hopen hmay v, State.limit_writeLimit_of_within hmin hmax hbudget,
      State.cfgst_writeLimit_of_within hmin hmax hbudget⟩

/-! ### The alert output (R569) -/

theorem State.alertN_of_alert_ne_zero {s : State} (h : s.rget .DRN_ALERT ≠ 0) : s.alertN = true := by
  have hne : (s.rget .DRN_ALERT).toNat ≠ 0 := fun h0 => h (BitVec.eq_of_toNat_eq h0)
  simp [State.alertN, hne]

/-- Settles O30: a register with a bit that is 1 is not zero. -/
theorem alertPinFollowsDrnAlert : Obligations.AlertPinFollowsDrnAlert := by
  unfold Obligations.AlertPinFollowsDrnAlert
  intro s n hbit
  have hne : s.rget .DRN_ALERT ≠ 0 := fun hzero => by simp [hzero] at hbit
  exact State.alertN_of_alert_ne_zero hne

end Sys2Proof.Machine
end

section
/-!
PROOFS. Before READY (R603): a command of DRN_BPCMD and a REBUILD are refused with BUSY.
-/

namespace Sys2Proof.Machine

/-! ### A write of DRN_BPCMD before READY -/

section
variable {s : State} (hpend : s.flag Fld.DRN_BPCMDST_PENDING = false) (hstage : s.fget Fld.DRN_BOOT_STAGE < 7)
include hpend hstage

/-- Before READY a command is refused, whatever it would do. -/
theorem State.bpCmd_of_before_ready (b : Nat) (act : State → State) : s.bpCmd b act = s.bpSt b bpBusy := by
  rw [State.bpCmd, if_neg (by simp [hpend]), if_pos hstage.ne]

/-- All five commands of DRN_BPCMD alike are refused before READY. -/
theorem exec_bpcmd_of_before_ready {who : Requester} {b : Nat} {i : Instr} (hpow : s.powered = true)
    (hmay : mayTray who = true)
    (hi : i ∈ [Instr.bpcmdWake who b, .bpcmdSleep who b, .bpcmdDeep who b, .bpcmdOff who b, .bpcmdOn who b]) :
    exec i s = .next (s.bpSt b bpBusy) := by
  have hbusy (act : State → State) : s.bpCmd b act = s.bpSt b bpBusy := State.bpCmd_of_before_ready hpend hstage b act
  simp only [List.mem_cons, List.not_mem_nil, or_false] at hi
  obtain rfl | rfl | rfl | rfl | rfl := hi
  · rw [exec_bpcmdWake_powered hpow hmay, hbusy]
  · rw [exec_bpcmdSleep_powered hpow hmay, hbusy]
  · rw [exec_bpcmdDeep_powered hpow hmay, hbusy]
  · rw [exec_bpcmdOff_powered hpow hmay, hbusy]
  · rw [exec_bpcmdOn_powered hpow hmay, hbusy]

end

/-! ### A REBUILD before READY -/

theorem exec_rebuild_open {who : Requester} {s : State} (hopen : s.hubOpen = true) (hmay : mayPf who = true) (p : Nat)
    (sub : Option Nat) : exec (.rebuild who p sub) s = .next (s.rebuildCmd p sub) := by
  rw [exec, execRebuild, hmay, State.hubReg_open hopen, ok]

/-- The stage is judged before the partitions of the rebuild are looked at. -/
theorem State.rebuildCmd_of_before_ready {s : State} (hpend : s.flag Fld.PRT_CMDST_PENDING = false)
    (hstage : s.fget Fld.DRN_BOOT_STAGE < 7) (p : Nat) (sub : Option Nat) :
    s.rebuildCmd p sub = s.prtSt 1 0 rmBusy := by
  rw [State.rebuildCmd, if_neg (by simp [hpend]), if_pos hstage.ne]

/-- Settles O17: both commands look at PENDING and then at the stage, before anything that tells their operands apart. -/
theorem commandsBusyBeforeReady : Obligations.CommandsBusyBeforeReady := by
  unfold Obligations.CommandsBusyBeforeReady
  intro who b p sub s hstage
  constructor
  · intro hpow hmay hpend i hi
    rw [exec_bpcmd_of_before_ready hpend hstage hpow hmay hi, State.bpSt]
  · intro hopen hmay hpend
    rw [exec_rebuild_open hopen hmay, State.rebuildCmd_of_before_ready hpend hstage, State.prtSt]

end Sys2Proof.Machine
end

section
/-!
PROOFS. The embouchure's frames (R634, R636): VAD over a run of frames, and a frame message whose route holds no credit.
-/

namespace Sys2Proof.Machine

/-! ### The energy flag and the hangover of one frame (R634) -/

section
variable (x : Stream) (e n : Nat)

theorem Stream.energy_iff : x.energy e n = true ↔ n * x.vthr * 2 ^ 30 ≤ e := by
  rw [Stream.energy, decide_eq_true_iff, Nat.mul_comm]

/-- VAD is 1 for a frame's own energy flag, or while an earlier frame's still hangs over. -/
theorem Stream.vad_fst : (x.vad e n).1 = (x.energy e n || decide (0 < x.hang)) := by
  cases h : x.energy e n <;> simp [Stream.vad, h]

variable {x e n}

theorem Stream.vad_snd_of_energy (h : x.energy e n = true) : (x.vad e n).2 = x.vhang := by
  rw [Stream.vad, if_pos h]

theorem Stream.vad_snd_of_no_energy (h : x.energy e n = false) : (x.vad e n).2 = x.hang - 1 := by
  rw [Stream.vad, if_neg (by simp [h])]

end

/-! ### A run of frames (R634) -/

/-- The stream once frames of `n` samples and the energies `es`, oldest first, have each left their hangover. -/
def Stream.afterFrames (x : Stream) (n : Nat) (es : List Nat) : Stream :=
  es.foldl (fun y a => { y with hang := (y.vad a n).2 }) x

section
variable (x : Stream) (n : Nat) (es : List Nat)

/-- The newest frame acts on the stream that the earlier ones left. -/
theorem Stream.afterFrames_append_singleton (a : Nat) :
    x.afterFrames n (es ++ [a]) = { x.afterFrames n es with hang := ((x.afterFrames n es).vad a n).2 } :=
  List.foldl_concat ..

/-- Nothing but the hangover depends on the frames gone by. -/
theorem Stream.entry_afterFrames : (x.afterFrames n es).entry = x.entry := by
  induction es using List.reverseRecOn with
  | nil => rfl
  | append_singleton es a ih => rw [Stream.afterFrames_append_singleton, ih]

@[simp] theorem Stream.vhang_afterFrames : (x.afterFrames n es).vhang = x.vhang := by
  simp only [Stream.vhang, Stream.ent, Stream.entry_afterFrames]

@[simp] theorem Stream.vthr_afterFrames : (x.afterFrames n es).vthr = x.vthr := by
  simp only [Stream.vthr, Stream.ent, Stream.entry_afterFrames]

@[simp] theorem Stream.energy_afterFrames (e : Nat) : (x.afterFrames n es).energy e n = x.energy e n := by
  rw [Bool.eq_iff_iff, Stream.energy_iff, Stream.energy_iff, Stream.vthr_afterFrames]

end

/-- The hangover left after a run of frames exceeds `j` exactly when the energy flag was 1 in one of the last `VHANG - j` of
them: each frame without energy takes one from the hangover, and each frame with energy sets it to VHANG. -/
theorem Stream.lt_hang_afterFrames {x : Stream} (h0 : x.hang = 0) (n : Nat) (es : List Nat) (j : Nat) :
    j < (x.afterFrames n es).hang ↔ ((es.reverse.take (x.vhang - j)).any fun a => x.energy a n) = true := by
  induction es using List.reverseRecOn generalizing j with
  | nil => simp [Stream.afterFrames, h0]
  | append_singleton es a ih =>
    rw [Stream.afterFrames_append_singleton, List.reverse_concat]
    cases ha : x.energy a n with
    | true =>
      rw [Stream.vad_snd_of_energy (by simpa using ha), Stream.vhang_afterFrames]
      cases hk : x.vhang - j with
      | zero => simpa using Nat.le_of_sub_eq_zero hk
      | succ k => simpa [ha] using Nat.lt_of_sub_eq_succ hk
    | false =>
      rw [Stream.vad_snd_of_no_energy (by simpa using ha)]
      have hj : j < (x.afterFrames n es).hang - 1 ↔ j + 1 < (x.afterFrames n es).hang := by omega
      rw [hj, ih, ← Nat.sub_sub]
      cases x.vhang - j with
      | zero => simp
      | succ k => simp [ha]

/-- Settles O15: VAD asks whether the hangover is above 0, and it is exactly when one of the last VHANG frames had energy. -/
theorem vadHangover : Obligations.VadHangover := by
  unfold Obligations.VadHangover
  intro x n e es h0
  refine ⟨x.energy_iff e n, ?_⟩
  have hhang : decide (0 < (x.afterFrames n es).hang) = (es.reverse.take x.vhang).any fun a => x.energy a n :=
    Bool.eq_iff_iff.mpr (decide_eq_true_iff.trans (Stream.lt_hang_afterFrames h0 n es 0))
  calc ((x.afterFrames n es).vad e n).1
      = (x.energy e n || decide (0 < (x.afterFrames n es).hang)) := by rw [Stream.vad_fst, Stream.energy_afterFrames]
    _ = (x.energy e n || (es.reverse.take x.vhang).any fun a => x.energy a n) := by rw [hhang]

/-! ### Frame messages (R635, R636, R671) -/

/-- A message whose route holds no credit is counted and not sent, on a valid route or not. -/
theorem State.frSend_of_no_credit {s : State} {x : Froute} (hcred : s.frGet x Fld.EMB_FRSTAT_CRED = 0)
    (words : List Nat) :
    s.frSend x words =
      s.frPut x Fld.EMB_FRSTAT_NOCRED (min (s.frGet x Fld.EMB_FRSTAT_NOCRED + 1) 0xFFFF) := by
  simp [State.frSend, hcred]

/-- The frame-ready message of a stream's oldest frame, whose record is written. -/
theorem exec_frameReadyMessage_of_written {s : State} {n : Nat} {o : FrameOut} {rest : List FrameOut}
    (hlive : s.faults.frozen = false) (hout : (s.strm n).out = o :: rest) (hwritten : o.written = true)
    (hroute : o.route ≤ 255) :
    exec (.frameReadyMessage n) s = .next ((s.upStrm n fun x => { x with out := rest }).frSend (.emb o.route)
      [2 ^ 16 * o.flags + 2 ^ 14 * o.kind + n % 2 ^ 14, o.num, o.gsid, o.tstart.toNat % 2 ^ 32]) := by
  simp [exec, execFrameReadyMessage, hlive, hout, hwritten, Nat.not_lt.mpr hroute, ok]

/-- The frame-done message of a pipe's oldest frame, on a valid route. -/
theorem exec_frameDoneMessage_of_valid {s : State} {p : Nat} {f : FrameDone} {rest : List FrameDone}
    (hlive : s.faults.frozen = false) (hdone : (s.pipe p).done = f :: rest)
    (hvalid : (s.upPipe p fun x => { x with done := rest }).flag Fld.BEL_FROUTE_VALID p = true) :
    exec (.frameDoneMessage p) s = .next ((s.upPipe p fun x => { x with done := rest }).frSend (.bell p)
      [2 ^ 16 * f.flags + p, f.num, f.miss, f.time.toNat]) := by
  simp [exec, execFrameDoneMessage, hlive, hdone, hvalid, ok]

/-- Settles O16: both messages go through the one send of a frame route, in the registers of the stream's route or of the
pipe's. -/
theorem uncreditedFrameMessageCounted : Obligations.UncreditedFrameMessageCounted := by
  unfold Obligations.UncreditedFrameMessageCounted
  intro n p s hlive
  constructor
  · rintro o rest u hout hwritten hroute rfl hcred
    rw [exec_frameReadyMessage_of_written hlive hout hwritten hroute,
      State.frSend_of_no_credit (x := .emb o.route) hcred]
    rfl
  · rintro f rest u hdone rfl hvalid hcred
    rw [exec_frameDoneMessage_of_valid hlive hdone hvalid, State.frSend_of_no_credit (x := .bell p) hcred]
    rfl

end Sys2Proof.Machine
end

section
/-!
PROOFS. What every step keeps (log 1): which command a step takes, that the queue behind it stands, that memory stays in
its canonical form, which commands leave memory as it is, and where the block stops.
-/

namespace Sys2Proof.Machine

/-! ### The front of the queue -/

/-- A step with a command waiting is that command's effect on the state with the rest of the queue. -/
theorem step_of_pending {s : State} {c : Instr} {q : List Instr} (h : s.pending = c :: q) :
    step s = exec c { s with pending := q } := by
  rw [step, h]

/-- Settles O1: a step takes its command from the front of the queue. -/
theorem stepRunsFrontCommand : Obligations.StepRunsFrontCommand := by
  unfold Obligations.StepRunsFrontCommand
  intro c q s
  exact step_of_pending rfl

/-- Settles O2: a step looks at the queue before anything else. -/
theorem emptyQueueIdles : Obligations.EmptyQueueIdles := by
  unfold Obligations.EmptyQueueIdles
  intro s h
  rw [step, h]

/-! ### What a command keeps -/

/-- What the command `i` keeps on its way from `s` to `t`: the queue, memory's canonical form, and memory itself unless
the command may store; RAIL_SEQUENCE_TIMEOUT, which `mayStore` does not name, loses memory with the main rails. -/
structure Kept (i : Instr) (s t : State) : Prop where
  queue : t.pending = s.pending
  canonical : Memory.wf s.mem = true → Memory.wf t.mem = true
  frame : mayStore i = false → i ≠ .railSequenceTimeout → t.mem = s.mem

/-- A command that leaves memory and the queue as they are keeps all of it. -/
theorem Kept.of_unchanged {i : Instr} {s t : State} (h : t.mem = s.mem ∧ t.pending = s.pending) : Kept i s t := by
  obtain ⟨hmem, hqueue⟩ := h
  exact ⟨hqueue, fun hwf => hmem ▸ hwf, fun _ _ => hmem⟩

/-- A command that may store keeps the queue and the canonical form. -/
theorem Kept.of_stored {i : Instr} {s t : State} (hstore : mayStore i = true) (hqueue : t.pending = s.pending)
    (hwf : Memory.wf s.mem = true → Memory.wf t.mem = true) : Kept i s t :=
  ⟨hqueue, hwf, fun hno => absurd (hstore.symm.trans hno) (by decide)⟩

/-- Command by command, what is kept: the laws of the families, collected. -/
theorem exec_kept {i : Instr} {s t : State} (h : exec i s = .next t) : Kept i s t := by
  cases i with
  | coldReset strap => exact .of_stored rfl (execColdReset_keeps _ _ h) fun hwf => execColdReset_wf _ _ hwf h
  | porstNAssert => exact .of_stored rfl (execPorstNAssert_keeps _ h) fun hwf => execPorstNAssert_wf _ hwf h
  | warmReset scope => exact .of_stored rfl (execWarmReset_keeps _ _ h) fun hwf => execWarmReset_wf _ _ hwf h
  | registerWrite who addr how val =>
      exact .of_stored rfl (execRegisterWrite_keeps _ _ _ _ _ h) fun hwf => execRegisterWrite_wf _ _ _ _ _ hwf h
  | rcFieldRead who addr size => exact .of_unchanged (execRcFieldRead_keeps _ _ _ _ h)
  | lowWordRead who addr => exact .of_unchanged (execLowWordRead_keeps _ _ _ h)
  | highWordRead who addr => exact .of_unchanged (execHighWordRead_keeps _ _ _ h)
  | lowWordWrite who addr val =>
      exact .of_stored rfl (execLowWordWrite_keeps _ _ _ _ h) fun hwf => execLowWordWrite_wf _ _ _ _ hwf h
  | highWordWrite who addr val =>
      exact .of_stored rfl (execHighWordWrite_keeps _ _ _ _ h) fun hwf => execHighWordWrite_wf _ _ _ _ hwf h
  | undocumentedOffsetAccess who addr size wr =>
      exact .of_stored rfl (execUndocumentedOffsetAccess_keeps _ _ _ _ _ h) fun hwf =>
        execUndocumentedOffsetAccess_wf _ _ _ _ _ hwf h
  | windwayWriteArrival src dst =>
      exact .of_stored rfl (execWindwayWriteArrival_keeps _ _ _ h) fun hwf => execWindwayWriteArrival_wf _ _ _ hwf h
  | windwayReadArrival src dst =>
      exact .of_stored rfl (execWindwayReadArrival_keeps _ _ _ h) fun hwf => execWindwayReadArrival_wf _ _ _ hwf h
  | readCompletionArrival src dst => exact .of_unchanged (execReadCompletionArrival_keeps _ _ _ h)
  | writeAcknowledgement src dst => exact .of_unchanged (execWriteAcknowledgement_keeps _ _ _ h)
  | boreClockStartForAccess b =>
      exact .of_stored rfl (execBoreClockStartForAccess_keeps _ _ h) fun hwf => execBoreClockStartForAccess_wf _ _ hwf h
  | fabricRestart q => exact .of_unchanged (execFabricRestart_keeps _ _ h)
  | fabricIdleStop q => exact .of_unchanged (execFabricIdleStop_keeps _ _ h)
  | translationWalk b => exact .of_unchanged (execTranslationWalk_keeps _ _ h)
  | programStoreWrite who addr data =>
      exact .of_stored rfl (execProgramStoreWrite_keeps _ _ _ _ h) fun hwf => execProgramStoreWrite_wf _ _ _ _ hwf h
  | registerWindowAccess who b off wr => exact .of_unchanged (execRegisterWindowAccess_keeps _ _ _ _ _ h)
  | chnPcWrite who b val => exact .of_unchanged (execChnPcWrite_keeps _ _ _ _ h)
  | go who b => exact .of_unchanged (execGo_keeps _ _ _ h)
  | step who b => exact .of_unchanged (execStep_keeps _ _ _ h)
  | chnCtrlHalt who b => exact .of_unchanged (execChnCtrlHalt_keeps _ _ _ h)
  | clrfault who b => exact .of_unchanged (execClrfault_keeps _ _ _ h)
  | clrcnt who b => exact .of_unchanged (execClrcnt_keeps _ _ _ h)
  | bundleIssue b => exact .of_stored rfl (execBundleIssue_keeps _ _ h) fun hwf => execBundleIssue_wf _ _ hwf h
  | waitTimeout b => exact .of_stored rfl (execWaitTimeout_keeps _ _ h) fun hwf => execWaitTimeout_wf _ _ hwf h
  | registerWriteback b k => exact .of_unchanged (execRegisterWriteback_keeps _ _ _ h)
  | loadCompletion b id => exact .of_unchanged (execLoadCompletion_keeps _ _ _ h)
  | impreciseFault b => exact .of_unchanged (execImpreciseFault_keeps _ _ h)
  | chanterHaltComplete b => exact .of_unchanged (execChanterHaltComplete_keeps _ _ h)
  | dmaRequestStart b => exact .of_unchanged (execDmaRequestStart_keeps _ _ h)
  | dmaCompletion b id =>
      exact .of_stored rfl (execDmaCompletion_keeps _ _ _ h) fun hwf => execDmaCompletion_wf _ _ _ hwf h
  | feedTileComplete b => exact .of_unchanged (execFeedTileComplete_keeps _ _ h)
  | arrayInstructionBegin b =>
      exact .of_stored rfl (execArrayInstructionBegin_keeps _ _ h) fun hwf => execArrayInstructionBegin_wf _ _ hwf h
  | arrayInstructionFinish o => exact .of_unchanged (execArrayInstructionFinish_keeps _ _ h)
  | drainCompletion b => exact .of_unchanged (execDrainCompletion_keeps _ _ h)
  | vkloadComplete b => exact .of_unchanged (execVkloadComplete_keeps _ _ h)
  | launchStart b r => exact .of_unchanged (execLaunchStart_keeps _ _ _ h)
  | launchFinish b id => exact .of_unchanged (execLaunchFinish_keeps _ _ _ h)
  | rankStopComplete b r => exact .of_unchanged (execRankStopComplete_keeps _ _ _ h)
  | arrivalSend b => exact .of_unchanged (execArrivalSend_keeps _ _ h)
  | columnTest who b => exact .of_unchanged (execColumnTest_keeps _ _ _ h)
  | columnTestDone b cols rowfail => exact .of_unchanged (execColumnTestDone_keeps _ _ _ _ h)
  | bypassCommit who b adc => exact .of_unchanged (execBypassCommit_keeps _ _ _ _ h)
  | bypassCommitDone b good adc => exact .of_unchanged (execBypassCommitDone_keeps _ _ _ _ h)
  | reedIssue b r lane => exact .of_stored rfl (execReedIssue_keeps _ _ _ _ h) fun hwf => execReedIssue_wf _ _ _ _ hwf h
  | reedLoadReturn b r lane => exact .of_unchanged (execReedLoadReturn_keeps _ _ _ _ h)
  | rankBarrierComplete b r scope => exact .of_unchanged (execRankBarrierComplete_keeps _ _ _ _ h)
  | rankArrivalSend b r => exact .of_unchanged (execRankArrivalSend_keeps _ _ _ h)
  | reedDebugWindowAccess who b off wr => exact .of_unchanged (execReedDebugWindowAccess_keeps _ _ _ _ _ h)
  | alloc who b h => exact .of_unchanged (execAlloc_keeps _ _ _ _ h)
  | allocLock who b h => exact .of_unchanged (execAllocLock_keeps _ _ _ _ h)
  | release who b h => exact .of_unchanged (execRelease_keeps _ _ _ _ h)
  | releaseScrub who b h => exact .of_unchanged (execReleaseScrub_keeps _ _ _ _ h)
  | handleCommandEffect b => exact .of_unchanged (execHandleCommandEffect_keeps _ _ h)
  | scrubStart b => exact .of_unchanged (execScrubStart_keeps _ _ h)
  | scrubEnd b => exact .of_stored rfl (execScrubEnd_keeps _ _ h) fun hwf => execScrubEnd_wf _ _ hwf h
  | wchClear who b => exact .of_unchanged (execWchClear_keeps _ _ _ h)
  | wchFreeze who b v => exact .of_unchanged (execWchFreeze_keeps _ _ _ _ h)
  | messageArrival src b => exact .of_unchanged (execMessageArrival_keeps _ _ _ h)
  | channelIncrementArrival src b => exact .of_unchanged (execChannelIncrementArrival_keeps _ _ _ h)
  | nackMessageArrival src b => exact .of_unchanged (execNackMessageArrival_keeps _ _ _ h)
  | creditReturn src dst => exact .of_unchanged (execCreditReturn_keeps _ _ _ h)
  | reservationRelease src dst => exact .of_unchanged (execReservationRelease_keeps _ _ _ h)
  | orphanMarkArrival src dst => exact .of_unchanged (execOrphanMarkArrival_keeps _ _ _ h)
  | routeWrite who tbl owner entry second val => exact .of_unchanged (execRouteWrite_keeps _ _ _ _ _ _ _ h)
  | queueConfigWrite who b q val => exact .of_unchanged (execQueueConfigWrite_keeps _ _ _ _ _ h)
  | qctlOpen who b q => exact .of_unchanged (execQctlOpen_keeps _ _ _ _ h)
  | qctlClose who b q => exact .of_unchanged (execQctlClose_keeps _ _ _ _ h)
  | newepoch who b q => exact .of_unchanged (execNewepoch_keeps _ _ _ _ h)
  | channelAudit who b ch => exact .of_unchanged (execChannelAudit_keeps _ _ _ _ h)
  | auditMarkerArrival src b => exact .of_unchanged (execAuditMarkerArrival_keeps _ _ _ h)
  | auditReplyArrival src b => exact .of_unchanged (execAuditReplyArrival_keeps _ _ _ h)
  | poolIncrementArrival src => exact .of_unchanged (execPoolIncrementArrival_keeps _ _ h)
  | watchArrival src => exact .of_unchanged (execWatchArrival_keeps _ _ h)
  | watchAnswerArrival b => exact .of_unchanged (execWatchAnswerArrival_keeps _ _ h)
  | barrierArrival src => exact .of_unchanged (execBarrierArrival_keeps _ _ h)
  | barrierCompletionArrival b => exact .of_unchanged (execBarrierCompletionArrival_keeps _ _ h)
  | abort who bid => exact .of_unchanged (execAbort_keeps _ _ _ h)
  | poolBlockWrite who blk val => exact .of_unchanged (execPoolBlockWrite_keeps _ _ _ _ h)
  | barrierConfigWrite who bid val => exact .of_unchanged (execBarrierConfigWrite_keeps _ _ _ _ h)
  | counterValueWrite who bore n val => exact .of_unchanged (execCounterValueWrite_keeps _ _ _ _ _ h)
  | counterArmWrite who b n val => exact .of_unchanged (execCounterArmWrite_keeps _ _ _ _ _ h)
  | stgStart who p => exact .of_stored rfl (execStgStart_keeps _ _ _ h) fun hwf => execStgStart_wf _ _ _ hwf h
  | stgStop who p => exact .of_stored rfl (execStgStop_keeps _ _ _ h) fun hwf => execStgStop_wf _ _ _ hwf h
  | nextstep who p => exact .of_stored rfl (execNextstep_keeps _ _ _ h) fun hwf => execNextstep_wf _ _ _ hwf h
  | stgInject who p val => exact .of_unchanged (execStgInject_keeps _ _ _ _ h)
  | tagMessageArrival p => exact .of_unchanged (execTagMessageArrival_keeps _ _ h)
  | doneReport src p => exact .of_unchanged (execDoneReport_keeps _ _ _ h)
  | controlMessage src p => exact .of_unchanged (execControlMessage_keeps _ _ _ h)
  | dispatch p => exact .of_unchanged (execDispatch_keeps _ _ h)
  | stepend p => exact .of_unchanged (execStepend_keeps _ _ h)
  | emission p => exact .of_unchanged (execEmission_keeps _ _ h)
  | stashChunk p out => exact .of_stored rfl (execStashChunk_keeps _ _ _ h) fun hwf => execStashChunk_wf _ _ _ hwf h
  | stashOutComplete p =>
      exact .of_stored rfl (execStashOutComplete_keeps _ _ h) fun hwf => execStashOutComplete_wf _ _ hwf h
  | restoreRequest p => exact .of_unchanged (execRestoreRequest_keeps _ _ h)
  | restoreComplete p => exact .of_unchanged (execRestoreComplete_keeps _ _ h)
  | amaxReport src h => exact .of_unchanged (execAmaxReport_keeps _ _ _ h)
  | lossReport src h => exact .of_unchanged (execLossReport_keeps _ _ _ h)
  | gateRequest src h => exact .of_stored rfl (execGateRequest_keeps _ _ _ h) fun hwf => execGateRequest_wf _ _ _ hwf h
  | gateRelease who h => exact .of_stored rfl (execGateRelease_keeps _ _ _ h) fun hwf => execGateRelease_wf _ _ _ hwf h
  | gateSkip who h => exact .of_stored rfl (execGateSkip_keeps _ _ _ h) fun hwf => execGateSkip_wf _ _ _ hwf h
  | holdnext who h => exact .of_stored rfl (execHoldnext_keeps _ _ _ h) fun hwf => execHoldnext_wf _ _ _ hwf h
  | verdictSend h => exact .of_unchanged (execVerdictSend_keeps _ _ h)
  | roundCompletion h slot => exact .of_unchanged (execRoundCompletion_keeps _ _ _ h)
  | rebuild who p subst => exact .of_unchanged (execRebuild_keeps _ _ _ _ h)
  | rebuildComplete p fails =>
      exact .of_stored rfl (execRebuildComplete_keeps _ _ _ h) fun hwf => execRebuildComplete_wf _ _ _ hwf h
  | create who c => exact .of_unchanged (execCreate_keeps _ _ _ h)
  | load who c => exact .of_unchanged (execLoad_keeps _ _ _ h)
  | contextBinding c => exact .of_stored rfl (execContextBinding_keeps _ _ h) fun hwf => execContextBinding_wf _ _ hwf h
  | evict who c => exact .of_unchanged (execEvict_keeps _ _ _ h)
  | evictionSave c => exact .of_stored rfl (execEvictionSave_keeps _ _ h) fun hwf => execEvictionSave_wf _ _ hwf h
  | prtStart who c => exact .of_unchanged (execPrtStart_keeps _ _ _ h)
  | prtEnd who c => exact .of_unchanged (execPrtEnd_keeps _ _ _ h)
  | endingRelease c => exact .of_unchanged (execEndingRelease_keeps _ _ h)
  | prtReset who c => exact .of_unchanged (execPrtReset_keeps _ _ _ h)
  | destroy who c => exact .of_unchanged (execDestroy_keeps _ _ _ h)
  | contextStartDispatch b => exact .of_unchanged (execContextStartDispatch_keeps _ _ h)
  | residencyArrival src => exact .of_unchanged (execResidencyArrival_keeps _ _ h)
  | ctxInval who c => exact .of_unchanged (execCtxInval_keeps _ _ _ h)
  | invalidationComplete c => exact .of_unchanged (execInvalidationComplete_keeps _ _ h)
  | crkEnable who k on => exact .of_unchanged (execCrkEnable_keeps _ _ _ _ h)
  | crkRetrain who k => exact .of_unchanged (execCrkRetrain_keeps _ _ _ h)
  | crkReset who k => exact .of_unchanged (execCrkReset_keeps _ _ _ h)
  | trainingComplete k init => exact .of_unchanged (execTrainingComplete_keeps _ _ _ h)
  | trainingTimeout k => exact .of_unchanged (execTrainingTimeout_keeps _ _ h)
  | retrainComplete k init => exact .of_unchanged (execRetrainComplete_keeps _ _ _ h)
  | retrainTimeout k => exact .of_unchanged (execRetrainTimeout_keeps _ _ h)
  | laneLockLoss k => exact .of_unchanged (execLaneLockLoss_keeps _ _ h)
  | initFlitReceived k init => exact .of_unchanged (execInitFlitReceived_keeps _ _ _ h)
  | flitReceived k flit => exact .of_unchanged (execFlitReceived_keeps _ _ _ h)
  | replayTimeout k => exact .of_unchanged (execReplayTimeout_keeps _ _ h)
  | flitTransmit k => exact .of_unchanged (execFlitTransmit_keeps _ _ h)
  | putCommand src k => exact .of_unchanged (execPutCommand_keeps _ _ _ h)
  | redCommand src k => exact .of_unchanged (execRedCommand_keeps _ _ _ h)
  | transferStart k dq => exact .of_unchanged (execTransferStart_keeps _ _ _ h)
  | putArrival k => exact .of_stored rfl (execPutArrival_keeps _ _ h) fun hwf => execPutArrival_wf _ _ hwf h
  | putComplete k => exact .of_unchanged (execPutComplete_keeps _ _ h)
  | redArrival k => exact .of_stored rfl (execRedArrival_keeps _ _ h) fun hwf => execRedArrival_wf _ _ hwf h
  | ackArrival k => exact .of_unchanged (execAckArrival_keeps _ _ h)
  | msgTransfer k => exact .of_unchanged (execMsgTransfer_keeps _ _ h)
  | incTransfer k => exact .of_unchanged (execIncTransfer_keeps _ _ h)
  | retTransfer k => exact .of_unchanged (execRetTransfer_keeps _ _ h)
  | tagTransfer k => exact .of_unchanged (execTagTransfer_keeps _ _ h)
  | auditTransfer k => exact .of_unchanged (execAuditTransfer_keeps _ _ h)
  | windowWrite who k w second val => exact .of_unchanged (execWindowWrite_keeps _ _ _ _ _ _ h)
  | doorbell fn off words full poisoned => exact .of_unchanged (execDoorbell_keeps _ _ _ _ _ _ h)
  | doorbellForward fn => exact .of_unchanged (execDoorbellForward_keeps _ _ h)
  | doorbellStatusClear fn off val => exact .of_unchanged (execDoorbellStatusClear_keeps _ _ _ _ h)
  | headWrite fn off val => exact .of_unchanged (execHeadWrite_keeps _ _ _ _ h)
  | armWrite fn off val => exact .of_unchanged (execArmWrite_keeps _ _ _ _ h)
  | hostMessageArrival src => exact .of_unchanged (execHostMessageArrival_keeps _ _ h)
  | vfLoad vf n => exact .of_unchanged (execVfLoad_keeps _ _ _ h)
  | vfEvict vf n => exact .of_unchanged (execVfEvict_keeps _ _ _ h)
  | vfStart vf n => exact .of_unchanged (execVfStart_keeps _ _ _ h)
  | vfEnd vf n => exact .of_unchanged (execVfEnd_keeps _ _ _ h)
  | vfReset vf n => exact .of_unchanged (execVfReset_keeps _ _ _ h)
  | vfmapWrite who vf val => exact .of_unchanged (execVfmapWrite_keeps _ _ _ _ h)
  | dbrWrite who r val => exact .of_unchanged (execDbrWrite_keeps _ _ _ _ h)
  | hringWrite who r val => exact .of_unchanged (execHringWrite_keeps _ _ _ _ h)
  | ctxhWrite who c val => exact .of_unchanged (execCtxhWrite_keeps _ _ _ _ h)
  | bar4Access off len acc =>
      exact .of_stored rfl (execBar4Access_keeps _ _ _ _ h) fun hwf => execBar4Access_wf _ _ _ _ hwf h
  | configRequest fn op => exact .of_unchanged (execConfigRequest_keeps _ _ _ h)
  | flr vf => exact .of_unchanged (execFlr_keeps _ _ h)
  | hostReset linkDown => exact .of_unchanged (execHostReset_keeps _ _ h)
  | linkUp flit speed width => exact .of_unchanged (execLinkUp_keeps _ _ _ _ h)
  | hostReadCompletion dst st data => exact .of_unchanged (execHostReadCompletion_keeps _ _ _ _ h)
  | completionTimeout dst => exact .of_unchanged (execCompletionTimeout_keeps _ _ h)
  | bpcmdWake who b => exact .of_unchanged (execBpcmdWake_keeps _ _ _ h)
  | bpcmdSleep who b => exact .of_unchanged (execBpcmdSleep_keeps _ _ _ h)
  | bpcmdDeep who b => exact .of_unchanged (execBpcmdDeep_keeps _ _ _ h)
  | bpcmdOff who b => exact .of_unchanged (execBpcmdOff_keeps _ _ _ h)
  | bpcmdOn who b => exact .of_unchanged (execBpcmdOn_keeps _ _ _ h)
  | quietTimeout b => exact .of_unchanged (execQuietTimeout_keeps _ _ h)
  | idleTimeout b => exact .of_unchanged (execIdleTimeout_keeps _ _ h)
  | sleepTimeout b => exact .of_unchanged (execSleepTimeout_keeps _ _ h)
  | powerStateEntryComplete b => exact .of_unchanged (execPowerStateEntryComplete_keeps _ _ h)
  | wakeTrigger b => exact .of_unchanged (execWakeTrigger_keeps _ _ h)
  | wakeComplete b => exact .of_unchanged (execWakeComplete_keeps _ _ h)
  | bellowsPeriod => exact .of_unchanged (execBellowsPeriod_keeps _ h)
  | tokenCredit => exact .of_unchanged (execTokenCredit_keeps _ h)
  | thermalReading temps =>
      exact .of_stored rfl (execThermalReading_keeps _ _ h) fun hwf => execThermalReading_wf _ _ hwf h
  | powerSum => exact .of_unchanged (execPowerSum_keeps _ h)
  | pmbusPoll reads => exact .of_unchanged (execPmbusPoll_keeps _ _ h)
  | pmbAlert reads => exact .of_unchanged (execPmbAlert_keeps _ _ h)
  | fanFail f rpm => exact .of_unchanged (execFanFail_keeps _ _ _ h)
  | refclkLoss => exact .of_unchanged (execRefclkLoss_keeps _ h)
  | refclkRestore => exact .of_unchanged (execRefclkRestore_keeps _ h)
  | blwLimitWrite who val => exact .of_unchanged (execBlwLimitWrite_keeps _ _ _ h)
  | retirementDrained b => exact .of_unchanged (execRetirementDrained_keeps _ _ h)
  | retirementAbandon b => exact .of_unchanged (execRetirementAbandon_keeps _ _ h)
  | drainIntervalEnd b =>
      exact .of_stored rfl (execDrainIntervalEnd_keeps _ _ h) fun hwf => execDrainIntervalEnd_wf _ _ hwf h
  | stubAnswer src b => exact .of_unchanged (execStubAnswer_keeps _ _ _ h)
  | leaveOffComplete b => exact .of_unchanged (execLeaveOffComplete_keeps _ _ h)
  | wakefail b => exact .of_unchanged (execWakefail_keeps _ _ h)
  | railSequence => exact .of_unchanged (execRailSequence_keeps _ h)
  | railSequenceTimeout =>
    exact ⟨execRailSequenceTimeout_keeps s h, fun hwf => execRailSequenceTimeout_wf s hwf h,
      fun _ hne => absurd rfl hne⟩
  | firmwareVerify => exact .of_unchanged (execFirmwareVerify_keeps _ h)
  | fuseApply => exact .of_unchanged (execFuseApply_keeps _ h)
  | hbmTraining trained => exact .of_stored rfl (execHbmTraining_keeps _ _ h) fun hwf => execHbmTraining_wf _ _ hwf h
  | hostready => exact .of_unchanged (execHostready_keeps _ h)
  | selfTest results adc => exact .of_unchanged (execSelfTest_keeps _ _ _ h)
  | capabilityPublish => exact .of_unchanged (execCapabilityPublish_keeps _ h)
  | reboot who => exact .of_stored rfl (execReboot_keeps _ _ h) fun hwf => execReboot_wf _ _ hwf h
  | svnlock who adc fused => exact .of_unchanged (execSvnlock_keeps _ _ _ _ h)
  | challenge who => exact .of_unchanged (execChallenge_keeps _ _ h)
  | submit who => exact .of_unchanged (execSubmit_keeps _ _ h)
  | relock who => exact .of_unchanged (execRelock_keeps _ _ h)
  | nonceExpiry => exact .of_unchanged (execNonceExpiry_keeps _ h)
  | consoleRelease => exact .of_unchanged (execConsoleRelease_keeps _ h)
  | embEnable who n => exact .of_unchanged (execEmbEnable_keeps _ _ _ h)
  | embDisable who n => exact .of_unchanged (execEmbDisable_keeps _ _ _ h)
  | embGaincommit who n => exact .of_unchanged (execEmbGaincommit_keeps _ _ _ h)
  | query who n => exact .of_unchanged (execQuery_keeps _ _ _ h)
  | gainSetRead n => exact .of_unchanged (execGainSetRead_keeps _ _ h)
  | boreGaincommit src => exact .of_unchanged (execBoreGaincommit_keeps _ _ h)
  | portEnable who p => exact .of_unchanged (execPortEnable_keeps _ _ _ h)
  | portDisable who p => exact .of_unchanged (execPortDisable_keeps _ _ _ h)
  | rateAck who p => exact .of_unchanged (execRateAck_keeps _ _ _ h)
  | frameSync p period clocks slots => exact .of_unchanged (execFrameSync_keeps _ _ _ _ _ h)
  | holdoverEntry p => exact .of_unchanged (execHoldoverEntry_keeps _ _ h)
  | portFrameStart p => exact .of_unchanged (execPortFrameStart_keeps _ _ h)
  | captureFrameEnd n =>
      exact .of_stored rfl (execCaptureFrameEnd_keeps _ _ h) fun hwf => execCaptureFrameEnd_wf _ _ hwf h
  | statisticsRecordWrite n =>
      exact .of_stored rfl (execStatisticsRecordWrite_keeps _ _ h) fun hwf => execStatisticsRecordWrite_wf _ _ hwf h
  | frameReadyMessage n => exact .of_unchanged (execFrameReadyMessage_keeps _ _ h)
  | playbackFetch n => exact .of_unchanged (execPlaybackFetch_keeps _ _ h)
  | playbackFrameEnd n =>
      exact .of_stored rfl (execPlaybackFrameEnd_keeps _ _ h) fun hwf => execPlaybackFrameEnd_wf _ _ hwf h
  | ringFrameEnd n => exact .of_stored rfl (execRingFrameEnd_keeps _ _ h) fun hwf => execRingFrameEnd_wf _ _ hwf h
  | agcCommit n => exact .of_unchanged (execAgcCommit_keeps _ _ h)
  | frouteWrite who bell r val => exact .of_unchanged (execFrouteWrite_keeps _ _ _ _ _ h)
  | pipeEnable who p => exact .of_unchanged (execPipeEnable_keeps _ _ _ h)
  | pipeDisable who p => exact .of_unchanged (execPipeDisable_keeps _ _ _ h)
  | commit who p => exact .of_unchanged (execCommit_keeps _ _ _ h)
  | flush who p => exact .of_unchanged (execFlush_keeps _ _ _ h)
  | timingCommit who p => exact .of_unchanged (execTimingCommit_keeps _ _ _ h)
  | matrixPresetLoad who p val => exact .of_unchanged (execMatrixPresetLoad_keeps _ _ _ _ h)
  | boreCommitMessage src => exact .of_unchanged (execBoreCommitMessage_keeps _ _ h)
  | boreFlushMessage src => exact .of_unchanged (execBoreFlushMessage_keeps _ _ h)
  | frameStart p => exact .of_unchanged (execFrameStart_keeps _ _ h)
  | latch p late => exact .of_stored rfl (execLatch_keeps _ _ _ h) fun hwf => execLatch_wf _ _ _ hwf h
  | flattenCacheFillComplete p => exact .of_unchanged (execFlattenCacheFillComplete_keeps _ _ h)
  | frameDoneMessage p => exact .of_unchanged (execFrameDoneMessage_keeps _ _ h)
  | dpTrain who d => exact .of_unchanged (execDpTrain_keeps _ _ _ h)
  | linkTrainingDone d up => exact .of_unchanged (execLinkTrainingDone_keeps _ _ _ h)
  | hpdDeassert d => exact .of_unchanged (execHpdDeassert_keeps _ _ h)
  | irqHpd d => exact .of_unchanged (execIrqHpd_keeps _ _ h)
  | hpdAssert d => exact .of_unchanged (execHpdAssert_keeps _ _ h)
  | auxTransaction who d val => exact .of_unchanged (execAuxTransaction_keeps _ _ _ _ h)
  | auxReply d code data => exact .of_unchanged (execAuxReply_keeps _ _ _ _ h)
  | auxTimeout d => exact .of_unchanged (execAuxTimeout_keeps _ _ h)
  | partitionError p code bore => exact .of_unchanged (execPartitionError_keeps _ _ _ _ h)
  | fatal cause src => exact .of_unchanged (execFatal_keeps _ _ _ h)
  | dumpComplete adc => exact .of_stored rfl (execDumpComplete_keeps _ _ h) fun hwf => execDumpComplete_wf _ _ hwf h
  | hostforce who => exact .of_unchanged (execHostforce_keeps _ _ h)
  | dumpClear who => exact .of_unchanged (execDumpClear_keeps _ _ h)
  | restart who p => exact .of_unchanged (execRestart_keeps _ _ _ h)
  | partitionRestartComplete p => exact .of_unchanged (execPartitionRestartComplete_keeps _ _ h)
  | keepRead who addr => exact .of_unchanged (execKeepRead_keeps _ _ _ h)
  | keepProgram who addr adc => exact .of_unchanged (execKeepProgram_keeps _ _ _ _ h)
  | keepErase who addr adc => exact .of_unchanged (execKeepErase_keeps _ _ _ _ h)
  | keepOperationComplete good adc => exact .of_unchanged (execKeepOperationComplete_keeps _ _ _ h)
  | logPageProgram adc => exact .of_unchanged (execLogPageProgram_keeps _ _ h)
  | logPageRetry adc => exact .of_unchanged (execLogPageRetry_keeps _ _ h)
  | pwrFail adc => exact .of_unchanged (execPwrFail_keeps _ _ h)
  | hbmPatrol h blk event => exact .of_unchanged (execHbmPatrol_keeps _ _ _ _ h)
  | setaddr addr pec => exact .of_unchanged (execSetaddr_keeps _ _ _ h)
  | read32 => exact .of_unchanged (execRead32_keeps _ h)
  | read64 => exact .of_unchanged (execRead64_keeps _ h)
  | write32 val pec => exact .of_stored rfl (execWrite32_keeps _ _ _ h) fun hwf => execWrite32_wf _ _ _ hwf h
  | write64 val pec => exact .of_stored rfl (execWrite64_keeps _ _ _ h) fun hwf => execWrite64_wf _ _ _ hwf h
  | lastst => exact .of_unchanged (execLastst_keeps _ h)
  | smbusTimeout => exact .of_unchanged (execSmbusTimeout_keeps _ h)
  | mainRailLoss => exact .of_stored rfl (execMainRailLoss_keeps _ h) fun hwf => execMainRailLoss_wf _ hwf h
  | alwaysOnRailLoss => exact .of_stored rfl (execAlwaysOnRailLoss_keeps _ h) fun hwf => execAlwaysOnRailLoss_wf _ hwf h
  | pwrFailRelease => exact .of_unchanged (execPwrFailRelease_keeps _ h)
  | hostResetComplete => exact .of_unchanged (execHostResetComplete_keeps _ h)
  | flrComplete vf => exact .of_unchanged (execFlrComplete_keeps _ _ h)
  | fllRetargetComplete b => exact .of_unchanged (execFllRetargetComplete_keeps _ _ h)
  | droneTick => exact .of_unchanged (execDroneTick_keeps _ h)
  | boundaryScan op => exact .of_unchanged (execBoundaryScan_keeps _ _ h)
  | msixVectorUnmask fn acc => exact .of_unchanged (execMsixVectorUnmask_keeps _ _ _ h)

/-- What the command at the front of the queue keeps, a step keeps. -/
theorem step_kept {s t : State} {c : Instr} {q : List Instr} (hq : s.pending = c :: q) (h : step s = .next t) :
    Kept c { s with pending := q } t :=
  exec_kept (by rwa [step_of_pending hq] at h)

/-- Settles O3: each command keeps memory canonical, and with none waiting a step changes nothing. -/
theorem memoryStaysCanonical : Obligations.MemoryStaysCanonical := by
  unfold Obligations.MemoryStaysCanonical
  intro s t hwf h
  cases hq : s.pending with
  | nil =>
    rw [step, hq] at h
    cases h
    exact hwf
  | cons c q => exact (step_kept hq h).canonical hwf

/-- Settles O5: the command that runs is off the queue already, and it leaves the rest as it is. -/
theorem stepTakesOneCommand : Obligations.StepTakesOneCommand := by
  unfold Obligations.StepTakesOneCommand
  intro s t h
  cases hq : s.pending with
  | nil =>
    rw [step, hq] at h
    cases h
    exact hq
  | cons c q => exact (step_kept hq h).queue

/-! ### The main rails and memory (R591) -/

/-- A package that boots and has not got through its rails, with the byte 1 at address 0. -/
def bootingWithOneByte : State := { State.reset with mem := [(0, 1)] }

/-- A rail that does not come into range in time leaves main power off, and memory with it. -/
theorem exec_railSequenceTimeout_of_booting {s : State} (hboot : s.booting = true) (hstage : s.stage < bsImage) :
    ∃ t, exec .railSequenceTimeout s = .next t ∧ t.mem = [] := by
  have hgate : ¬((!s.booting || decide (bsImage ≤ s.stage)) = true) := by simpa [hboot] using hstage
  exact ⟨_, if_neg hgate, rfl⟩

/-- Refutes O6: `mayStore` does not name RAIL_SEQUENCE_TIMEOUT, whose loss of the main rails (R591) loses memory. -/
theorem not_storelessCommandsKeepMemory : ¬ Obligations.StorelessCommandsKeepMemory := by
  unfold Obligations.StorelessCommandsKeepMemory
  intro h
  obtain ⟨t, hexec, hmem⟩ := exec_railSequenceTimeout_of_booting (s := bootingWithOneByte) (by decide) (by decide)
  have hbyte : t.byteAt 0 = 1 := h _ _ t rfl hexec 0
  rw [State.byteAt, hmem] at hbyte
  exact absurd hbyte (by decide)

/-- O6 holds of every other command that `mayStore` does not name. -/
theorem storeless_keeps_memory_but_for_rail_timeout {i : Instr} {s t : State} (hi : mayStore i = false)
    (hrail : i ≠ .railSequenceTimeout) (h : exec i s = .next t) (a : Nat) : t.byteAt a = s.byteAt a := by
  rw [State.byteAt, (exec_kept h).frame hi hrail, State.byteAt]

/-! ### Where the block stops (R749) -/

/-- Every command but BOUNDARY_SCAN has its effect on every path: `simp only` unfolds the one command that the case names,
and each of its branches ends in `ok`. -/
theorem exec_next_of_not_scan {i : Instr} (hscan : ∀ op, i ≠ .boundaryScan op) (s : State) :
    ∃ t, exec i s = .next t := by
  cases i
  case boundaryScan op => exact absurd rfl (hscan op)
  all_goals
    simp only [exec, execColdReset, execPorstNAssert, execWarmReset, execRegisterWrite, execRcFieldRead,
      execLowWordRead, execHighWordRead, execLowWordWrite, execHighWordWrite, execUndocumentedOffsetAccess,
      execWindwayWriteArrival, execWindwayReadArrival, execReadCompletionArrival, execWriteAcknowledgement,
      execBoreClockStartForAccess, execFabricRestart, execFabricIdleStop, execTranslationWalk, execProgramStoreWrite,
      execRegisterWindowAccess, execChnPcWrite, execGo, execStep, execChnCtrlHalt, execClrfault, execClrcnt,
      execBundleIssue, execWaitTimeout, execRegisterWriteback, execLoadCompletion, execImpreciseFault,
      execChanterHaltComplete, execDmaRequestStart, execDmaCompletion, execFeedTileComplete,
      execArrayInstructionBegin, execArrayInstructionFinish, execDrainCompletion, execVkloadComplete, execLaunchStart,
      execLaunchFinish, execRankStopComplete, execArrivalSend, execColumnTest, execColumnTestDone, execBypassCommit,
      execBypassCommitDone, execReedIssue, execReedLoadReturn, execRankBarrierComplete, execRankArrivalSend,
      execReedDebugWindowAccess, execAlloc, execAllocLock, execRelease, execReleaseScrub, execHandleCommandEffect,
      execScrubStart, execScrubEnd, execWchClear, execWchFreeze, execMessageArrival, execChannelIncrementArrival,
      execNackMessageArrival, execCreditReturn, execReservationRelease, execOrphanMarkArrival, execRouteWrite,
      execQueueConfigWrite, execQctlOpen, execQctlClose, execNewepoch, execChannelAudit, execAuditMarkerArrival,
      execAuditReplyArrival, execPoolIncrementArrival, execWatchArrival, execWatchAnswerArrival, execBarrierArrival,
      execBarrierCompletionArrival, execAbort, execPoolBlockWrite, execBarrierConfigWrite, execCounterValueWrite,
      execCounterArmWrite, execStgStart, execStgStop, execNextstep, execStgInject, execTagMessageArrival,
      execDoneReport, execControlMessage, execDispatch, execStepend, execEmission, execStashChunk,
      execStashOutComplete, execRestoreRequest, execRestoreComplete, execAmaxReport, execLossReport, execGateRequest,
      execGateRelease, execGateSkip, execHoldnext, execVerdictSend, execRoundCompletion, execRebuild,
      execRebuildComplete, execCreate, execLoad, execContextBinding, execEvict, execEvictionSave, execPrtStart,
      execPrtEnd, execEndingRelease, execPrtReset, execDestroy, execContextStartDispatch, execResidencyArrival,
      execCtxInval, execInvalidationComplete, execCrkEnable, execCrkRetrain, execCrkReset, execTrainingComplete,
      execTrainingTimeout, execRetrainComplete, execRetrainTimeout, execLaneLockLoss, execInitFlitReceived,
      execFlitReceived, execReplayTimeout, execFlitTransmit, execPutCommand, execRedCommand, execTransferStart,
      execPutArrival, execPutComplete, execRedArrival, execAckArrival, execMsgTransfer, execIncTransfer,
      execRetTransfer, execTagTransfer, execAuditTransfer, execWindowWrite, execDoorbell, execDoorbellForward,
      execDoorbellStatusClear, execHeadWrite, execArmWrite, execHostMessageArrival, execVfLoad, execVfEvict,
      execVfStart, execVfEnd, execVfReset, execVfmapWrite, execDbrWrite, execHringWrite, execCtxhWrite,
      execBar4Access, execConfigRequest, execFlr, execHostReset, execLinkUp, execHostReadCompletion,
      execCompletionTimeout, execBpcmdWake, execBpcmdSleep, execBpcmdDeep, execBpcmdOff, execBpcmdOn,
      execQuietTimeout, execIdleTimeout, execSleepTimeout, execPowerStateEntryComplete, execWakeTrigger,
      execWakeComplete, execBellowsPeriod, execTokenCredit, execThermalReading, execPowerSum, execPmbusPoll,
      execPmbAlert, execFanFail, execRefclkLoss, execRefclkRestore, execBlwLimitWrite, execRetirementDrained,
      execRetirementAbandon, execDrainIntervalEnd, execStubAnswer, execLeaveOffComplete, execWakefail,
      execRailSequence, execRailSequenceTimeout, execFirmwareVerify, execFuseApply, execHbmTraining, execHostready,
      execSelfTest, execCapabilityPublish, execReboot, execSvnlock, execChallenge, execSubmit, execRelock,
      execNonceExpiry, execConsoleRelease, execEmbEnable, execEmbDisable, execEmbGaincommit, execQuery,
      execGainSetRead, execBoreGaincommit, execPortEnable, execPortDisable, execRateAck, execFrameSync,
      execHoldoverEntry, execPortFrameStart, execCaptureFrameEnd, execStatisticsRecordWrite, execFrameReadyMessage,
      execPlaybackFetch, execPlaybackFrameEnd, execRingFrameEnd, execAgcCommit, execFrouteWrite, execPipeEnable,
      execPipeDisable, execCommit, execFlush, execTimingCommit, execMatrixPresetLoad, execBoreCommitMessage,
      execBoreFlushMessage, execFrameStart, execLatch, execFlattenCacheFillComplete, execFrameDoneMessage,
      execDpTrain, execLinkTrainingDone, execHpdDeassert, execIrqHpd, execHpdAssert, execAuxTransaction, execAuxReply,
      execAuxTimeout, execPartitionError, execFatal, execDumpComplete, execHostforce, execDumpClear, execRestart,
      execPartitionRestartComplete, execKeepRead, execKeepProgram, execKeepErase, execKeepOperationComplete,
      execLogPageProgram, execLogPageRetry, execPwrFail, execHbmPatrol, execSetaddr, execRead32, execRead64,
      execWrite32, execWrite64, execLastst, execSmbusTimeout, execMainRailLoss, execAlwaysOnRailLoss,
      execPwrFailRelease, execHostResetComplete, execFlrComplete, execFllRetargetComplete, execDroneTick,
      execMsixVectorUnmask, ok, qctl, ligCmd, chnCtrl, stgCtrl, gctl, prtCmd, crkCtrl, crookCommand, ovbMessage]
    (repeat' split) <;> exact ⟨_, rfl⟩

/-- A private instruction stops the block exactly when it is permitted. -/
theorem exec_private_scan (n : Nat) (s : State) :
    exec (.boundaryScan (.instruction (.priv n))) s =
      if bit (s.fget Fld.DRN_DBG_PERM) 0 then .refused .privateTapInstruction
      else .next { s with tap := { s.tap with inst := .bypass } } :=
  rfl

/-- Every other operation of the test port has its effect. -/
theorem exec_scan_of_not_private {op : TapOp} (hop : ∀ n, op ≠ .instruction (.priv n)) (s : State) :
    ∃ t, exec (.boundaryScan op) s = .next t := by
  cases op with
  | instruction i =>
    cases i
    case priv n => exact absurd rfl (hop n)
    all_goals exact ⟨_, rfl⟩
  | reset | shift | update => exact ⟨_, rfl⟩

/-- Nothing but a private scan instruction can stop the block. -/
theorem exec_next_of_not_private {i : Instr} (hpriv : ¬∃ n, i = .boundaryScan (.instruction (.priv n))) (s : State) :
    ∃ t, exec i s = .next t := by
  by_cases hscan : ∃ op, i = .boundaryScan op
  · obtain ⟨op, rfl⟩ := hscan
    exact exec_scan_of_not_private (fun n hop => hpriv ⟨n, hop ▸ rfl⟩) s
  · exact exec_next_of_not_scan (fun op hop => hscan ⟨op, hop⟩) s

/-- Settles O4: a private scan instruction alone can stop the block, and it does so when it is permitted. -/
theorem onlyPrivateScanStops : Obligations.OnlyPrivateScanStops := by
  unfold Obligations.OnlyPrivateScanStops
  intro i s
  by_cases hpriv : ∃ n, i = .boundaryScan (.instruction (.priv n))
  · obtain ⟨n, rfl⟩ := hpriv
    rw [exec_private_scan]
    cases bit (s.fget Fld.DRN_DBG_PERM) 0 <;> simp [eq_comm]
  · obtain ⟨t, ht⟩ := exec_next_of_not_private hpriv s
    simp [ht, hpriv]

end Sys2Proof.Machine
end

section
/-!
PROOFS. What a pipe of the bell refuses (R657, R682), and the colour matrix of its video layers with the four presets
(R664).
-/

namespace Sys2Proof.Machine

/-! ### Commands that a pipe refuses -/

section
variable {s : State} {p : Nat}

/-- ENABLE of a pipe that runs, or whose context has gone. -/
theorem State.pipeEnable_of_busy (h : s.bpRun p = true ∨ s.ctxLives (s.pipeCtx p) = false) :
    s.pipeEnable p = s.fput Fld.BEL_PSTAT_COMMITST 3 p := by
  have hgate : (s.bpRun p || !s.ctxLives (s.pipeCtx p)) = true := by simpa using h
  exact if_pos hgate

/-- ENABLE with a valid timing set and an invalid composition set. -/
theorem State.pipeEnable_of_bad_composition (hrun : s.bpRun p = false) (hlives : s.ctxLives (s.pipeCtx p) = true)
    (htiming : timingOk (s.shadowSet p timingRegs) (s.dpen p) = true)
    (hcomp : compositionOk (s.shadowSet p compositionRegs) (s.shadowSet p timingRegs) = false) :
    s.pipeEnable p = (s.fput Fld.BEL_PSTAT_COMMITST 2 p).pipeEvent p Fld.BEL_PEVT_COMMITBAD := by
  simp [State.pipeEnable, hrun, hlives, htiming, hcomp, State.commitSt]

variable (hoff : s.bpRun p = false)
include hoff

theorem State.pipeCommit_of_off : s.pipeCommit p = s.fput Fld.BEL_PSTAT_COMMITST 3 p := by
  rw [State.pipeCommit, if_neg (by simp [hoff]), State.commitSt]

theorem State.timingCommit_of_off : s.timingCommit p = s.fput Fld.BEL_PSTAT_TIMST 3 p := by
  simp [State.timingCommit, hoff, State.timSt]

end

section
variable {who : Requester} {s : State} (hopen : s.hubOpen = true) (hmay : mayPf who = true) (p : Nat)
include hopen hmay

theorem exec_pipeEnable_open : exec (.pipeEnable who p) s = .next (s.pipeEnable p) := by
  rw [exec, execPipeEnable, hmay, State.hubReg_open hopen, ok]

theorem exec_commit_open : exec (.commit who p) s = .next (s.pipeCommit p) := by
  rw [exec, execCommit, hmay, State.hubReg_open hopen, ok]

theorem exec_timingCommit_open : exec (.timingCommit who p) s = .next (s.timingCommit p) := by
  rw [exec, execTimingCommit, hmay, State.hubReg_open hopen, ok]

theorem exec_matrixPresetLoad_open (v : Word64) :
    exec (.matrixPresetLoad who p v) s = .next (s.loadMatrix p (bits v.toNat 8 2) (bits v.toNat 0 3)) := by
  rw [exec, execMatrixPresetLoad, hmay, State.hubReg_open hopen, ok]

end

/-- Settles O25: ENABLE looks at the pipe and its context before the sets, and the commits look at the pipe first. -/
theorem pipeCommandsRefused : Obligations.PipeCommandsRefused := by
  unfold Obligations.PipeCommandsRefused
  intro who p s hopen hmay
  refine ⟨fun hbusy => ?busy, fun hrun hlives htiming hcomp => ?badSet, fun hoff => ⟨?commitOff, ?timingOff⟩⟩
  case busy => rw [exec_pipeEnable_open hopen hmay, State.pipeEnable_of_busy hbusy]
  case badSet => rw [exec_pipeEnable_open hopen hmay, State.pipeEnable_of_bad_composition hrun hlives htiming hcomp]
  case commitOff => rw [exec_commit_open hopen hmay, State.pipeCommit_of_off hoff]
  case timingOff => rw [exec_timingCommit_open hopen hmay, State.timingCommit_of_off hoff]

/-! ### The colour matrix -/

theorem clampInt_eq {lo hi : Int} (h : lo ≤ hi) (v : Int) : clampInt lo hi v = max lo (min hi v) := by
  unfold clampInt
  split
  · omega
  · split <;> omega

/-- Settles O26: a clamp is a maximum of a minimum, and each preset is the words that its row holds. -/
theorem colourMatrixAndPresets : Obligations.ColourMatrixAndPresets := by
  unfold Obligations.ColourMatrixAndPresets
  refine ⟨fun m v p => ?matrix, fun who p v s hopen hmay => ?presets⟩
  case matrix => simp only [matrixOf, matrixRow, clamp8, clampInt_eq (show (0 : Int) ≤ 255 by decide)]
  case presets =>
    refine ⟨fun h => ?identity, fun h => ?bt601, fun h => ?bt709, fun h => ?bt2020⟩
    all_goals rw [exec_matrixPresetLoad_open hopen hmay, h]
    all_goals rfl

end Sys2Proof.Machine
end

section
/-!
PROOFS. The pipes of the bell (R657 to R682): what each command of a pipe does.
-/

namespace Sys2Proof.Machine

/-! ### A message to the bell (R678) -/

/-- The word of a message that asks for a COMMIT (1) or a FLUSH (2). -/
theorem bellCmd_eq {m : Message} {k : Nat} (hlen : 2 ≤ m.words.length) (hword : (m.words.getD 0 0).toNat % 256 = k)
    (hk : k = 1 ∨ k = 2) : bellCmd 0 m = k := by
  unfold bellCmd
  rw [hword]
  rcases hk with rfl | rfl <;> simp [hlen]

section
variable {t : State} {m : Message} {b ch p k : Nat} (hlen : 2 ≤ m.words.length)
  (hword : (m.words.getD 0 0).toNat % 256 = k) (hk : k = 1 ∨ k = 2) (horigin : m.origin = .here (.bore b ch))
  (hp : p = (m.words.getD 1 0).toNat % 4)
  (hown : (t.hubTaken (.unit .bell) m).boreCtx b = (t.hubTaken (.unit .bell) m).pipeCtx p)
  (hrun : (t.hubTaken (.unit .bell) m).bpRun p = true)
include hlen hword hk horigin hp hown hrun

/-- A COMMIT or FLUSH of the bore that owns a running pipe is that command of the pipe. -/
theorem State.bellTake_of_owner : t.bellTake 0 m =
    if k = 1 then (t.hubTaken (.unit .bell) m).pipeCommit p else (t.hubTaken (.unit .bell) m).pipeFlush p := by
  have hne : k ≠ 0 := by omega
  simp only [State.bellTake, bellCmd_eq hlen hword hk, ← hp, senderBore, horigin, hown, hrun]
  simp [hne]

end

/-! ### A running pipe (R657, R668) -/

section
variable {s : State} {p : Nat} (hrun : s.bpRun p = true)
include hrun

theorem State.pipeCommit_of_running : s.pipeCommit p =
    (s.upPipe p fun x => { x with pend := some (s.shadowSet p compositionRegs) }).fput Fld.BEL_PSTAT_CPEND 1 p := by
  rw [State.pipeCommit, if_pos hrun]

theorem State.pipeFlush_of_running : s.pipeFlush p = s.upPipe p fun x => { x with flushed := true } := by
  rw [State.pipeFlush, if_pos hrun]

end

/-! ### The latch with nothing pending (R660) -/

theorem State.latchTiming_of_none {s : State} {p : Nat} (h : (s.pipe p).tpend = none) : s.latchTiming p = s := by
  rw [State.latchTiming, h]

theorem State.latchComposition_of_none {s : State} {p : Nat} (h : (s.pipe p).pend = none) :
    s.latchComposition p = s := by
  rw [State.latchComposition, h]

/-- Settles O57: each command is its own operation on the pipe, on the branch that the hypotheses open. -/
theorem bellPipeCommandsComplete : Obligations.BellPipeCommandsComplete := by
  unfold Obligations.BellPipeCommandsComplete
  refine ⟨?pipeEnable, ?pipeDisable, ?commitRunning, ?commitOff, ?flush, ?timingCommit, ?presetIdentity, ?presetBt601,
    ?boreCommitMessage, ?boreFlushMessage, ?frameStart, ?latch, ?latchStop, ?flattenCacheFillComplete,
    ?frameDoneMessage⟩
  case pipeEnable =>
    rintro who p u s hopen hmay hbpRun hctxLives htimingOk hcompositionOk rfl
    simp [exec_pipeEnable_open hopen hmay, State.pipeEnable, hbpRun, hctxLives, htimingOk, hcompositionOk]
  case pipeDisable =>
    intro who p s hopen hmay hbpRun
    simp [exec, execPipeDisable, ok, State.hubReg_open hopen, hmay, hbpRun, State.pipeDisable]
  case commitRunning =>
    intro who p s hopen hmay hbpRun
    rw [exec_commit_open hopen hmay, State.pipeCommit_of_running hbpRun]
  case commitOff =>
    intro who p s hopen hmay hbpRun
    rw [exec_commit_open hopen hmay, State.pipeCommit_of_off hbpRun]
  case flush =>
    intro who p s hopen hmay hbpRun
    simp [exec, execFlush, ok, State.hubReg_open hopen, hmay, State.pipeFlush_of_running hbpRun]
  case timingCommit =>
    intro who p s hopen hmay hbpRun htimingOk
    simp [exec_timingCommit_open hopen hmay, State.timingCommit, hbpRun, htimingOk, State.timSt]
  case presetIdentity =>
    intro who p val s hopen hmay hpreset
    have hrow0 : rowWord 4096 0 0 0 = 0x1000000000000000 := by decide
    have hrow1 : rowWord 0 4096 0 0 = 0x0000100000000000 := by decide
    have hrow2 : rowWord 0 0 4096 0 = 0x0000000010000000 := by decide
    rw [exec_matrixPresetLoad_open hopen hmay, hpreset]
    simp [State.loadMatrix, hrow0, hrow1, hrow2]
  case presetBt601 =>
    intro who p val s hopen hmay hpreset
    rw [exec_matrixPresetLoad_open hopen hmay, hpreset]
    simp [State.loadMatrix, presetOf]
  case boreCommitMessage =>
    rintro src c e d x b ch p m v u s harr rfl hp hlen hword horigin hboreCtx hbpRun
    simp [exec, execBoreCommitMessage, harr, bellCmd_eq hlen hword (.inl rfl),
      State.bellTake_of_owner hlen hword (.inl rfl) horigin hp hboreCtx hbpRun, State.pipeCommit_of_running hbpRun,
        ok]
  case boreFlushMessage =>
    rintro src c e d x b ch p m v u s harr rfl hp hlen hword horigin hboreCtx hbpRun
    simp [exec, execBoreFlushMessage, harr, bellCmd_eq hlen hword (.inr rfl),
      State.bellTake_of_owner hlen hword (.inr rfl) horigin hp hboreCtx hbpRun, State.pipeFlush_of_running hbpRun, ok]
  case frameStart =>
    intro p s hlive hbpRun hframing
    simp [exec, execFrameStart, ok, hlive, hbpRun, hframing, when]
  case latch =>
    rintro p late u s hlive hbpRun hframing rfl hstopAt htpend hflushed hctxLives hpend
    simp [exec, execLatch, ok, hlive, hbpRun, hframing, hstopAt, hflushed, hctxLives, State.doLatch, when,
      State.latchTiming_of_none htpend, State.latchComposition_of_none hpend]
  case latchStop =>
    rintro p late u s hlive hbpRun hframing rfl hstopAt
    simp [exec, execLatch, ok, hlive, hbpRun, hframing, hstopAt, State.doLatch, when]
  case flattenCacheFillComplete =>
    intro p s hlive hfilling
    simp [exec, execFlattenCacheFillComplete, ok, hlive, hfilling, when]
  case frameDoneMessage =>
    rintro p f l u s hlive hdone rfl hvalid
    exact exec_frameDoneMessage_of_valid hlive hdone hvalid

end Sys2Proof.Machine
end

section
/-!
PROOFS. The DisplayPort links (R675 to R677): link training, hot plug and AUX transactions.
-/

namespace Sys2Proof.Machine

/-- Settles O58: each command is its own operation on the link, on the branch that the hypotheses open. -/
theorem displayPortCommandsComplete : Obligations.DisplayPortCommandsComplete := by
  unfold Obligations.DisplayPortCommandsComplete
  refine ⟨?dpTrain, ?trainingUp, ?trainingFail, ?deassertOn, ?deassertOff, ?irqHpd, ?hpdAssert, ?auxTransaction,
    ?auxReply, ?auxTimeout⟩
  case dpTrain =>
    intro who d s hopen hmay hbpRun hdpen
    simp [exec, execDpTrain, ok, State.hubReg_open hopen, hmay, hbpRun, hdpen, State.train]
  case trainingUp =>
    rintro d t s hlive hlink rfl
    simp [exec, execLinkTrainingDone, ok, hlive, hlink]
  case trainingFail =>
    intro d s hlive hlink
    simp [exec, execLinkTrainingDone, ok, hlive, hlink]
  case deassertOn =>
    rintro d u s hlive hpow rfl hlink
    simp [exec, execHpdDeassert, ok, hlive, hpow, hlink]
  case deassertOff =>
    rintro d u s hlive hpow rfl hlink
    simp [exec, execHpdDeassert, ok, hlive, hpow, hlink]
  case irqHpd =>
    intro d s hlive hpow hirqhpd
    simp [exec, execIrqHpd, ok, hlive, hpow, hirqhpd, State.dpEvent]
  case hpdAssert =>
    rintro d u s hlive hpow rfl hunplugged
    simp [exec, execHpdAssert, ok, hlive, hpow, hunplugged]
  case auxTransaction =>
    intro who d val s hopen hmay hpending hlink
    simp [exec, execAuxTransaction, ok, State.hubReg_open hopen, hmay, hpending, hlink, State.auxCmd, State.auxSt]
  case auxReply =>
    rintro d code data v u s hlive haux hcode rfl
    rcases hcode with rfl | rfl | rfl <;> simp [exec, execAuxReply, hlive, haux, State.auxSt, ok]
  case auxTimeout =>
    intro d v s hlive haux
    simp [exec, execAuxTimeout, ok, hlive, haux, State.auxSt, when]

end Sys2Proof.Machine
end

section
/-!
PROOFS. A device frozen by a fatal error (R715, R716), and what a PACKAGE error does while one is recorded (R698, R728).
-/

namespace Sys2Proof.Machine

/-! ### What a frozen device lets through (R716) -/

section
variable {s : State} (hfrozen : s.faults.frozen = true)
include hfrozen

theorem State.hubOpen_of_frozen : s.hubOpen = false := by
  simp [State.hubOpen, hfrozen]

/-- A function reaches no register: a virtual one none at all, the physical one none outside the four blocks
that answer. -/
theorem State.meet_reg_of_frozen {v i j : Nat} {r : Reg} {high : Bool}
    (h : v = 0 → r.info.blk ∉ [Block.DRN, .KEEP, .LOG, .DMP]) : s.meet (.fn v) (.reg r i j high) = .gone := by
  have hhub := State.hubOpen_of_frozen hfrozen
  have hblock : s.blockOpen (.fn v) r.info.blk = false := by
    cases v with
    | zero =>
      obtain ⟨hdrn, hkeep, hlog, hdmp⟩ :
          r.info.blk ≠ .DRN ∧ r.info.blk ≠ .KEEP ∧ r.info.blk ≠ .LOG ∧ r.info.blk ≠ .DMP := by
        simpa using h
      simp [State.blockOpen, hdrn, hkeep, hlog, hdmp, hhub]
    | succ n => exact hhub
  simp [State.meet, State.meetBore, hhub, hblock]

theorem State.meet_bar2_of_frozen (who : Requester) (f off : Nat) : s.meet who (.bar2 f off) = .gone := by
  simp [State.meet, State.hubOpen_of_frozen hfrozen]

end

section
variable {s : State} {v a : Nat} (hmeet : s.meet (.fn v) (s.place (.fn v) a) = .gone)
include hmeet

/-- An access of a function that meets nothing, aligned or not, reads 0. -/
theorem State.read32_fn_gone : s.read32 (.fn v) a = (0, s) := by
  simp [State.read32, hmeet, State.status_host s _ (who := .fn v) rfl]

theorem State.write32_fn_gone (x : Word32) : s.write32 (.fn v) a x = s := by
  simp [State.write32, hmeet, State.status_host s _ (who := .fn v) rfl]

end

/-- Settles O20: a frozen device meets such an access with nothing. -/
theorem frozenDeviceReach : Obligations.FrozenDeviceReach := by
  unfold Obligations.FrozenDeviceReach
  intro v a x s hfrozen
  refine ⟨fun r i j high hplace hblk => ⟨?read, ?write⟩, fun f off hplace => ?bar2⟩
  case read =>
    have hmeet := hplace ▸ State.meet_reg_of_frozen hfrozen hblk
    simp [exec_rcFieldRead, State.readAccess, State.read32_fn_gone hmeet]
  case write => rw [exec_registerWrite_word, State.write32_fn_gone (hplace ▸ State.meet_reg_of_frozen hfrozen hblk)]
  case bar2 => rw [exec_registerWrite_word, State.write32_fn_gone (hplace ▸ State.meet_bar2_of_frozen hfrozen _ f off)]

/-! ### The second PACKAGE error (R728)

That an error is recorded while DMP_STATUS.STATE is not NONE, and that FATAL acts for these three causes, are choices of
the model (log 50, log 65). -/

section
variable {s : State} (hrec : s.fget Fld.DMP_STATUS_STATE ≠ dsNone)
include hrec

/-- While an error is recorded another one is counted and logged. -/
theorem State.packageError_of_recorded (cause src : Nat) :
    s.packageError cause src = (s.fput Fld.DMP_STATUS_MULTI 1).logFatal cause src :=
  if_pos hrec

theorem State.forceDump_of_recorded : s.forceDump = s :=
  if_pos hrec

end

theorem exec_fatal_of_cause {cause : Nat} (h : cause ∈ [pkHubUe, pkHbmFatal, pkWindway]) (src : Nat) (s : State) :
    exec (.fatal cause src) s = .next (s.packageError cause (src % 0x10000)) := by
  have hcause : (cause = pkHubUe || cause = pkHbmFatal || cause = pkWindway) = true := by simpa [or_assoc] using h
  rw [exec, execFatal, hcause, when, if_pos rfl, ok]

/-- Settles O21: both paths ask for the recorded error first. -/
theorem secondPackageErrorOnlyLogged : Obligations.SecondPackageErrorOnlyLogged := by
  unfold Obligations.SecondPackageErrorOnlyLogged
  intro cause src who s hrec
  constructor
  · intro hcause
    rw [exec_fatal_of_cause hcause, State.packageError_of_recorded hrec, State.logFatal]
  · rw [exec, execHostforce, State.forceDump_of_recorded hrec, when, ite_self, ok]

end Sys2Proof.Machine
end

section
/-!
PROOFS. Fatal errors, the dump, the keep flash, the log pages and the patrol (R698 to R733): what each command does.
-/

namespace Sys2Proof.Machine

/-! ### A PACKAGE error that is the first (R715) -/

/-- From the images to READY, and with a dump window, an error freezes the device with its dump to be written. -/
theorem State.packageError_of_first {s : State} {cause src : Nat} (hnone : s.fget Fld.DMP_STATUS_STATE = dsNone)
    (hcause : cause ≠ pkTherm) (hlo : 2 < s.fget Fld.DRN_BOOT_STAGE) (hhi : s.fget Fld.DRN_BOOT_STAGE < 8)
    (hwin : s.noWindow cause src = false) : s.packageError cause src = s.freeze dsWriting cause src := by
  simp [State.packageError, hnone, hcause, Nat.not_le.mpr hlo, Nat.not_le.mpr hhi, hwin]

/-! ### An operation of the keep flash (R721, R723) -/

section
variable {s : State}

/-- An operation that finds nothing under way starts at once. -/
theorem State.queueOp_of_idle (hidle : s.faults.flash = []) (x : FlashOp) (code : Nat) :
    s.queueOp x code = State.startOp code 1 { s with faults := { s.faults with flash := [x] } } := by
  simp [State.queueOp, hidle]

/-- A read is not checked against the hold-up bank. -/
theorem State.startOp_read {a : Nat} {l : List FlashOp} (hflash : s.faults.flash = .read a :: l) (code n : Nat) :
    State.startOp code (n + 1) s = s := by
  simp [State.startOp, hflash, opRow]

/-- An operation that the hold-up check lets through starts. -/
theorem State.startOp_of_holdup {x : FlashOp} {l : List FlashOp} {row code : Nat} {v : State}
    (hbank : s.holdup row code = (true, v)) (hflash : s.faults.flash = x :: l) (hrow : opRow x = some row)
    (hpower : s.faults.pwrFail = false) (n : Nat) : State.startOp code (n + 1) s = v := by
  simp [State.startOp, hflash, hrow, hpower, hbank]

/-- A command of KEEP_CMD that is accepted while nothing is under way sets PENDING and starts. -/
theorem State.keepCmd_of_accepted {op addr : Nat} {u : State} (hpend : s.flag Fld.KEEP_ST_PENDING = false)
    (hpower : s.faults.pwrFail = false) (hop : op = 1 ∨ op = 2 ∨ op = 3)
    (halign : addr % (if op = 3 then 0x10000 else 0x100) = 0) (hopen : op = 1 ∨ keepOpen addr = true)
    (hidle : s.faults.flash = [])
    (hu : u = ((s.fput Fld.KEEP_ST_STATUS 0).fput Fld.KEEP_ST_PENDING 0).fput Fld.KEEP_ST_PENDING 1) (code : Nat) :
    s.keepCmd op addr code = State.startOp code 1 { u with faults := { u.faults with flash :=
      [if op = 1 then .read addr else if op = 2 then .program addr s.keepBuf else .erase addr] } } := by
  have hlo : op ≠ 0 := by omega
  have hhi : ¬3 < op := by omega
  have hprot : ¬(op ≠ 1 ∧ keepOpen addr = false) := fun ⟨hne, hno⟩ => hopen.elim hne (by simp [hno])
  have huidle : u.faults.flash = [] := by rw [hu]; exact hidle
  rw [State.keepCmd, if_neg (by simp [hpend]), if_neg (by simp [hpower]), if_neg (by simp [hlo, hhi, halign]),
    if_neg (by simpa using hprot), State.keepSt, ← hu, State.queueOp_of_idle huidle]

end

section
variable {who : Requester} {s : State} (hpow : s.powered = true) (hmay : mayPf who = true) (addr adc : Nat)
include hpow hmay

theorem exec_keepRead_powered : exec (.keepRead who addr) s = .next (s.keepCmd 1 addr 0) := by
  rw [exec, execKeepRead, hmay, State.drnReg_open hpow, ok]

theorem exec_keepProgram_powered : exec (.keepProgram who addr adc) s = .next (s.keepCmd 2 addr adc) := by
  rw [exec, execKeepProgram, hmay, State.drnReg_open hpow, ok]

theorem exec_keepErase_powered : exec (.keepErase who addr adc) s = .next (s.keepCmd 3 addr adc) := by
  rw [exec, execKeepErase, hmay, State.drnReg_open hpow, ok]

end

/-! ### Pages of the trouble log (R722) -/

/-- A page that waits is programmed where nothing is under way and the sector is erased. -/
theorem State.pageRun_of_waiting {s u : State} {adc : List Nat} {p : List (Nat × List Byte)}
    {rest : List (List (Nat × List Byte))} (hidle : s.faults.flash = []) (hpages : s.faults.pages = p :: rest)
    (herased : s.faults.erased = true) (hbank : s.holdup 1 (codeAt adc 1) = (true, u)) :
    s.pageRun adc = u.putPage p := by
  simp [State.pageRun, hidle, State.pageDue, hpages, State.programPage, State.eraseAhead, herased, hbank]

/-- Settles O59: each command is its own operation, on the branch that the hypotheses open. -/
theorem faultCommandsComplete : Obligations.FaultCommandsComplete := by
  unfold Obligations.FaultCommandsComplete
  refine ⟨?fatal, ?dumpComplete, ?hostforce, ?dumpClear, ?keepRead, ?keepProgram, ?keepErase, ?eraseDone,
    ?programDone, ?logPageProgram, ?logPageRetry, ?pwrFail, ?pwrFailRelease, ?hbmPatrol⟩
  case fatal =>
    intro cause src s hcause hstate hstage hstage2 hnoWindow
    have hther : cause ≠ pkTherm := by rcases hcause with rfl | rfl | rfl <;> decide
    rw [exec_fatal_of_cause (by simpa using hcause), State.packageError_of_first hstate hther hstage hstage2
      hnoWindow]
  case dumpComplete =>
    intro adc s hfrozen hstate
    simp [exec, execDumpComplete, ok, hfrozen, hstate]
  case hostforce =>
    intro who s hmay hblockOpen hstate hstage hstage2 hnoWindow
    rw [exec, execHostforce, State.dmpReg, hmay, hblockOpen, when, Bool.true_and, if_pos rfl, State.forceDump,
      if_neg (not_not_intro hstate), State.packageError_of_first hstate (show pkForce ≠ pkTherm by decide) hstage
        hstage2 hnoWindow, ok]
  case dumpClear =>
    intro who s hmay hblockOpen hstate
    simp [exec, execDumpClear, ok, hmay, hblockOpen, hstate, State.dmpReg, State.clearDump, when]
  case keepRead =>
    intro who addr u s hmay hpow hpending hpwrFail haddr hflash hu
    rw [exec_keepRead_powered hpow hmay, State.keepCmd_of_accepted hpending hpwrFail (.inl rfl) haddr (.inl rfl)
      hflash hu,
      if_pos rfl, State.startOp_read rfl]
  case keepProgram =>
    intro who addr adc u v s hmay hpow hpending hpwrFail haddr hkeepOpen hflash hu hholdup
    have hupower : u.faults.pwrFail = false := by rw [hu]; exact hpwrFail
    rw [exec_keepProgram_powered hpow hmay, State.keepCmd_of_accepted hpending hpwrFail (.inr (.inl rfl)) haddr (.inr
      hkeepOpen)
      hflash hu, if_neg (by decide), if_pos rfl, State.startOp_of_holdup hholdup rfl rfl hupower]
  case keepErase =>
    intro who addr adc u v s hmay hpow hpending hpwrFail haddr hkeepOpen hflash hu hholdup
    have hupower : u.faults.pwrFail = false := by rw [hu]; exact hpwrFail
    rw [exec_keepErase_powered hpow hmay, State.keepCmd_of_accepted hpending hpwrFail (.inr (.inr rfl)) haddr (.inr
      hkeepOpen)
      hflash hu, if_neg (by decide), if_neg (by decide), State.startOp_of_holdup hholdup rfl rfl hupower]
  case eraseDone =>
    intro adc a s hflash
    simp [exec, execKeepOperationComplete, ok, hflash, State.hostOp]
  case programDone =>
    intro adc a l s hflash
    simp [exec, execKeepOperationComplete, ok, hflash, State.hostOp]
  case logPageProgram =>
    intro adc p rest u s hflash hpages herased hholdup
    rw [exec, execLogPageProgram, State.pageRun_of_waiting hflash hpages herased hholdup, ok]
  case logPageRetry =>
    intro adc p rest u s hflash hpages herased hholdup
    rw [exec, execLogPageRetry, State.pageRun_of_waiting hflash hpages herased hholdup, ok]
  case pwrFail =>
    rintro adc u s htrip hstate htruncate rfl hflash
    have htrunc : (s.faults.truncate || decide (s.fget Fld.DMP_STATUS_STATE = dsWriting)) = s.faults.truncate := by
      simp [hstate]
    simp only [exec, execPwrFail, htrunc, htrip, hflash, Bool.false_eq_true, if_false, List.isEmpty_nil, if_true, ok]
  case pwrFailRelease =>
    intro s
    simp [exec, execPwrFailRelease, ok]
  case hbmPatrol =>
    rintro h blk u s hh rfl hu hstackOf hhome hopen hfabRun
    simp [exec, execHbmPatrol, ok, hh, hu, hstackOf, hhome, hopen, hfabRun, State.strike, when]

end Sys2Proof.Machine
end

section
/-!
PROOFS. The SMBus target and the test port of the tray (R749 to R751): how an access is judged, what one that is turned
away leaves behind, and what IDCODE and the private instructions do.
-/

namespace Sys2Proof.Machine

/-! ### How an access is judged (R751) -/

section
variable {s : State} {w : Nat} {wr : Bool}

theorem State.smbJudge_of_bad_address
    (h : s.smb.ptr < hubBase ∨ hubBase + 0x2000000 ≤ s.smb.ptr ∨ s.smb.ptr % w ≠ 0) : s.smbJudge w wr = sbBadAddr := by
  have hgate : (decide (s.smb.ptr < hubBase) || decide (hubBase + 0x2000000 ≤ s.smb.ptr) ||
      decide (s.smb.ptr % w ≠ 0)) = true := by simpa [or_assoc] using h
  exact if_pos hgate

variable (hlo : hubBase ≤ s.smb.ptr) (hhi : s.smb.ptr < hubBase + 0x2000000) (halign : s.smb.ptr % w = 0)
include hlo hhi halign

/-- An aligned access within the hub registers is judged by its block, and a write by what it may reach. -/
theorem State.smbJudge_in_hub {k o : Nat} (ho : s.smb.ptr % 0x2000000 = o) (hk : o / 0x100000 = k) : s.smbJudge w wr =
    if s.smbAvailable k = false then sbNotReady
    else if wr = true ∧ (k ∉ [0, 1, 8] ∨ k = 0 ∧ drnShut o w = true) then sbDenied
    else sbOk := by
  subst hk ho
  simp [State.smbJudge, Nat.not_lt.mpr hlo, Nat.not_le.mpr hhi, halign, and_assoc]

end

/-! ### An access that is turned away (R750) -/

section
variable {s : State} (hup : s.boot.alwaysOn = true)
include hup

theorem exec_write32_of_turned_away (h : s.smbJudge 4 true ≠ 0) (x : Word32) :
    exec (.write32 x true) s =
      .next ((s.smbCount (s.smbJudge 4 true)).upSmb fun z => { z with last := s.smbJudge 4 true, nack := false }) := by
  simp [exec, execWrite32, State.smbUp, hup, when, h, State.smbWrote, sbOk, ok]

theorem exec_write64_of_turned_away (h : s.smbJudge 8 true ≠ 0) (x : Word64) :
    exec (.write64 x true) s =
      .next ((s.smbCount (s.smbJudge 8 true)).upSmb fun z => { z with last := s.smbJudge 8 true, nack := false }) := by
  simp [exec, execWrite64, State.smbUp, hup, when, h, State.smbWrote, sbOk, ok]

end

/-- Settles O28: the address is judged first, then the block, then the write. -/
theorem smbusAccessJudged : Obligations.SmbusAccessJudged := by
  unfold Obligations.SmbusAccessJudged
  intro s w wr a o k
  refine ⟨fun hbad => ?badAddr, fun hlo hhi halign => ?inHub, fun hup x y => ⟨?write32, ?write64⟩⟩
  case badAddr => exact State.smbJudge_of_bad_address hbad
  case inHub =>
    have hjudge := State.smbJudge_in_hub (wr := wr) hlo hhi halign (o := o) (k := k) rfl rfl
    refine ⟨fun hshut => ?notReady, fun havail => ⟨fun hwr hdenied => ?denied, fun hgood => ?good⟩⟩
    case notReady => rw [hjudge, if_pos hshut, sbNotReady]
    case denied => rw [hjudge, if_neg (by simp [havail]), if_pos ⟨hwr, hdenied⟩, sbDenied]
    case good =>
      have hopen : ¬(wr = true ∧ (k ∉ [0, 1, 8] ∨ k = 0 ∧ drnShut o w = true)) := by
        rintro ⟨hwr, hdenied⟩
        rcases hgood with hrd | hk | hk | ⟨hk, hdrn⟩
        · simp [hrd] at hwr
        · simp [hk] at hdenied
        · simp [hk] at hdenied
        · simp [hk, hdrn] at hdenied
      rw [hjudge, if_neg (by simp [havail]), if_neg hopen, sbOk]
  case write32 => exact fun h => exec_write32_of_turned_away hup h x
  case write64 => exact fun h => exec_write64_of_turned_away hup h y

/-! ### The test port (R749) -/

theorem exec_boundaryScan_shift (balls tdi : List Bool) (s : State) : exec (.boundaryScan (.shift balls tdi)) s =
    .next { s with tap := { s.tap with
      chain := (tapShift s.tap.inst balls tdi).2, tdo := (tapShift s.tap.inst balls tdi).1 } } :=
  rfl

/-- A shift through IDCODE as long as the register brings the whole of it out. -/
theorem tapShift_idcode (balls : List Bool) {tdi : List Bool} (hlen : tdi.length = 32) :
    (tapShift .idcode balls tdi).1 = (List.range 32).map (bit 0x2A6400B5) := by
  rw [tapShift, tapCapture, hlen, List.take_left' (by rw [List.length_map, List.length_range])]

/-- Settles O29: the register is captured whole, and a permission decides a private instruction. -/
theorem boundaryScanIdcode : Obligations.BoundaryScanIdcode := by
  unfold Obligations.BoundaryScanIdcode
  intro s balls tdi n
  refine ⟨fun hinst hlen => ⟨_, exec_boundaryScan_shift balls tdi s, ?idcode⟩, fun hperm => ?permitted,
    fun hperm => ?shut⟩
  case idcode =>
    calc (tapShift s.tap.inst balls tdi).1
        = (List.range 32).map (bit 0x2A6400B5) := by rw [hinst, tapShift_idcode balls hlen]
      _ = (List.range 32).map (fun k => (0x2A6400B5#32).getLsbD k) :=
          List.map_congr_left fun k _ => bit_toNat (0x2A6400B5#32) k
  case permitted => rw [exec_private_scan, if_pos hperm]
  case shut => rw [exec_private_scan, if_neg (by simp [hperm])]

end Sys2Proof.Machine
end

section
/-!
PROOFS. The commands of the SMBus target (R747, R750) and of the test port (R749).
-/

namespace Sys2Proof.Machine

/-- Settles O60: each command of the SMBus target and of the test port is its own operation. -/
theorem trayCommandsComplete : Obligations.TrayCommandsComplete := by
  unfold Obligations.TrayCommandsComplete
  refine ⟨?setaddr, ?setaddrPecError, ?read32, ?read64, ?write32, ?write64, ?lastst, ?smbusTimeout, ?scanReset,
    ?scanInstruction, ?scanShift, ?scanUpdate⟩
  case setaddr =>
    intro addr s halwaysOn
    simp [exec, execSetaddr, ok, halwaysOn, State.smbUp, when, State.upSmb]
  case setaddrPecError =>
    intro addr s halwaysOn
    simp [exec, execSetaddr, ok, halwaysOn, State.smbUp, State.smbPecErr, when]
  case read32 =>
    intro v u s halwaysOn hsmbJudge hread32
    simp [exec, execRead32, ok, halwaysOn, hsmbJudge, hread32, State.smbUp, State.smbData, when, sbOk, State.upSmb]
  case read64 =>
    intro v u s halwaysOn hsmbJudge hread64
    simp [exec, execRead64, ok, halwaysOn, hsmbJudge, hread64, State.smbUp, State.smbData, when, sbOk, State.upSmb]
  case write32 =>
    rintro val u s halwaysOn hsmbJudge rfl
    simp [exec, execWrite32, ok, halwaysOn, hsmbJudge, State.smbUp, State.smbWrote, when, sbOk, State.upSmb]
  case write64 =>
    rintro val u s halwaysOn hsmbJudge rfl
    simp [exec, execWrite64, ok, halwaysOn, hsmbJudge, State.smbUp, State.smbWrote, when, sbOk, State.upSmb]
  case lastst =>
    intro s halwaysOn
    simp [exec, execLastst, ok, halwaysOn, State.smbUp, when, State.upSmb]
  case smbusTimeout =>
    intro s
    rfl
  case scanReset =>
    intro s
    rfl
  case scanInstruction =>
    intro i s hi
    simp only [List.mem_cons, List.not_mem_nil, or_false] at hi
    obtain rfl | rfl | rfl | rfl | rfl | rfl := hi
    all_goals rfl
  case scanShift =>
    intro balls tdi out l s htapShift
    rw [exec_boundaryScan_shift, htapShift]
  case scanUpdate =>
    intro s htapBoundary
    simp [exec, execBoundaryScan, ok, htapBoundary, State.upTap]

end Sys2Proof.Machine
end

section
/-!
PROOFS. The windway and the fabrics (R28 to R33, R40, R548): what arrivals, acknowledgements, clock starts and walks
do.
-/

namespace Sys2Proof.Machine

/-! ### The fabric clocks (R548) -/

theorem bit_eq_testBit (v n : Nat) : bit v n = v.testBit n := by
  rw [bit, Nat.testBit_eq_decide_div_mod_eq]

/-- Starting or stopping the fabric of one quadrant leaves the fabrics of the others as they are. -/
theorem State.fabRun_putFab (s : State) (run : Bool) {q q' : Nat} (hq : q' < 4) :
    (s.putFab q run).fabRun q' = if q' = q then run else s.fabRun q' := by
  have hlt : 8 * q' < 64 := by omega
  have hhold : ¬(8 * q + 1 ≤ 8 * q' ∧ 8 * q' < 8 * q + 1 + 1) := by omega
  rw [State.fabRun, State.putFab, State.rget_rput_self, bit_toNat, BitVec.getLsbD_ofNat, decide_eq_true hlt,
    Bool.true_and, testBit_setBits, if_neg hhold, testBit_setBits]
  by_cases h : q' = q
  · subst h
    cases run <;> simp [b2n]
  · have hout : ¬(8 * q ≤ 8 * q' ∧ 8 * q' < 8 * q + 1) := by omega
    rw [if_neg hout, if_neg h, State.fabRun, bit_eq_testBit]

/-- What a command of quadrant `q`'s fabric leaves of all four. -/
theorem State.fabRun_putFab_all (s : State) (run : Bool) {q : Nat} (hq : q < 4) :
    (s.putFab q run).fabRun q = run ∧ ∀ q', q' < 4 → q' ≠ q → (s.putFab q run).fabRun q' = s.fabRun q' :=
  ⟨by rw [State.fabRun_putFab _ _ hq, if_pos rfl], fun q' hq' hne => by rw [State.fabRun_putFab _ _ hq', if_neg hne]⟩

/-- Settles O38: each arrival takes the transfer that its path gives up, and a fabric command writes the one bit of
its quadrant. -/
theorem windwayCommandsComplete : Obligations.WindwayCommandsComplete := by
  unfold Obligations.WindwayCommandsComplete
  refine ⟨?windwayWriteArrival, ?readArrival, ?readArrivalHost, ?readArrivalLinkDown, ?readCompletionArrival,
    ?writeAcknowledgement, ?clockStartWrite, ?clockStartRead, ?fabricRestart, ?fabricIdleStop, ?translationWalk⟩
  case windwayWriteArrival =>
    intro src dst c e d who id ctx addr data pois u s hwaits harr
    simp [exec, execWindwayWriteArrival, ok, hwaits, harr, State.serve]
  case readArrival =>
    intro src dst c e d who id ctx addr len u s hwaits hdst harr
    simp [exec, execWindwayReadArrival, ok, hwaits, hdst, harr, State.serve]
  case readArrivalHost =>
    rintro src c e d who id ctx addr len h k u v s harr rfl rfl hlink hhostOut rfl
    simp [exec, execWindwayReadArrival, ok, harr, hlink, hhostOut, State.waits, State.hostAsk]
  case readArrivalLinkDown =>
    intro src c e d who id ctx addr len u s harr hlink
    simp [exec, execWindwayReadArrival, ok, harr, hlink, State.waits, State.hostAsk]
  case readCompletionArrival =>
    intro src dst c e d b id addr data st u s harr
    simp [exec, execReadCompletionArrival, ok, harr, State.takeRead]
  case writeAcknowledgement =>
    intro src dst c e d b id ctx addr w u s harr hfind
    simp [exec, execWriteAcknowledgement, ok, harr, hfind, State.takeAck]
  case clockStartWrite =>
    intro b c src e d who id ctx addr data pois u s hlive hreach hfirstWaiting harr
    simp [exec, execBoreClockStartForAccess, ok, hlive, hreach, hfirstWaiting, harr, State.serve, when]
  case clockStartRead =>
    intro b c src e d who id ctx addr len u s hlive hreach hfirstWaiting harr
    simp [exec, execBoreClockStartForAccess, ok, hlive, hreach, hfirstWaiting, harr, State.serve, when]
  case fabricRestart =>
    intro q s hq hfabRun hfabHeld
    refine ⟨s.putFab q true, ?_, s.fabRun_putFab_all true hq⟩
    simp [exec, execFabricRestart, hfabRun, hfabHeld, when, ok]
  case fabricIdleStop =>
    intro q s hq hfabRun hfabHeld hidle
    refine ⟨s.putFab q false, ?_, s.fabRun_putFab_all false hq⟩
    have hall : ((quadBores q).all fun b => s.pstate b ≠ psActive && s.pstate b ≠ psIdle) = true := by
      simpa using hidle
    rw [exec, execFabricIdleStop, hfabRun, hfabHeld, hall, when, ok]
    rfl
  case translationWalk =>
    intro b x rest s hlive hxlate
    simp [exec, execTranslationWalk, ok, hlive, hxlate, State.walk]

end Sys2Proof.Machine
end

section
/-!
PROOFS. The control of a chanter (R87 to R121): what GO, STEP, HALT, the clears, and accesses to CHN_PC, the program
store and the register windows do.
-/

namespace Sys2Proof.Machine

/-! ### Registers of one unit

A write of one register of a unit leaves the unit's other registers alone; the bound on the unit is given once. -/

section
variable (s : State) {i j k : Nat} (hi : i < 256) (hj : j < 65536) (hk : k < 65536)
include hi hj hk

theorem State.fget_fput_unit {f g : Field} (v : Nat) (h : g.reg ≠ f.reg) : (s.fput f v i j).fget g i k = s.fget g i k :=
  s.fget_fput_reg f g v h hi hi hj hk

theorem State.rget_fput_unit {f : Field} {r : Reg} (v : Nat) (h : r ≠ f.reg) :
    (s.fput f v i j).rget r i k = s.rget r i k :=
  s.rget_fput_reg f v h hi hi hj hk

theorem State.fget_rput_unit {r : Reg} {g : Field} (v : Word64) (h : g.reg ≠ r) :
    (s.rput r v i j).fget g i k = s.fget g i k :=
  s.fget_rput_reg r g v h hi hi hj hk

theorem State.rget_rput_unit {r r' : Reg} (v : Word64) (h : r' ≠ r) : (s.rput r v i j).rget r' i k = s.rget r' i k :=
  s.rget_rput_reg v h hi hi hj hk

/-- Nor does it touch another element of the same register. -/
theorem State.rget_rput_elem {r r' : Reg} (v : Word64) (h : k ≠ j) : (s.rput r v i j).rget r' i k = s.rget r' i k :=
  s.rget_rput_ne v hi hi hj hk (.inr (.inr h))

end

/-- An access that has reached its bore leaves every register but DRN_FAB as it was. -/
theorem State.rget_regDone (s : State) (who : Requester) (b : Nat) {r : Reg} {i j : Nat} (hr : r ≠ .DRN_FAB)
    (hi : i < 256) (hj : j < 65536) : (s.regDone who b).rget r i j = s.rget r i j := by
  have hstatus (t : State) (st : AccStatus) : (t.status who st).rget r i j = t.rget r i j := by
    unfold State.status
    split <;> rfl
  rw [State.regDone, hstatus, State.openFab]
  split
  · rfl
  · exact s.rget_rput_reg _ hr (by decide) hi (by decide) hj

/-! ### One bit of CHN_CTRL (R106) -/

/-- A write of CHN_CTRL that gets through. -/
theorem chnCtrl_open {s : State} {who : Requester} {b : Nat} (hbore : s.boreOpen b) (hmay : mayHostRm who = true)
    (v : Word64) : chnCtrl who b v s = .next ((s.chnCtrl b v).regDone who b) := by
  rw [chnCtrl, hmay, State.regAccess_open hbore, ok]

/-- GO and STEP start a HALTED chanter that holds no fault of a reed. -/
theorem State.goStart_of_halted {s : State} {b : Nat} (hhalted : s.chState b = csHalted)
    (hheld : s.flag Fld.REED_FAULT_HELD b = false) (hb : b < 64) (step : Bool) :
    s.goStart b step = (s.putState b csRunning).upCh b fun c =>
      { c with step1 := step, stop := none, met := false, judged := false, bubble := 0, tout := [] } := by
  have hi : b < 256 := by omega
  have hheld' : (s.putState b csRunning).flag Fld.REED_FAULT_HELD b = false := by
    simpa (disch := decide) [State.putState, State.flag, State.fget_fput_unit _ hi] using hheld
  simp [State.goStart, hhalted, hheld']

theorem State.haltChanter_of_running {s : State} {b : Nat} (hrun : s.running b = true) (hstop : (s.ch b).stop = none) :
    s.haltChanter b = s.stopIssue b (.halted 3 (s.fget Fld.CHN_PC_PC b)) := by
  simp [State.haltChanter, hrun, hstop]

/-! ### CLRFAULT (R121) -/

/-- CLRFAULT of a FAULTED chanter: HALTED at the bundle that faulted, with its fault registers clear. -/
theorem State.clrFault_of_faulted {s : State} {b : Nat} (hfaulted : s.chState b = csFaulted) (hb : b < 64) :
    (s.clrFault b).chState b = csHalted ∧ (s.clrFault b).fget Fld.CHN_PC_PC b = s.fget Fld.CHN_FAULT_HALTPC b ∧
    (s.clrFault b).rget .CHN_FAULT b = 0 ∧ (s.clrFault b).rget .CHN_FAULTINFO b = 0 ∧
    (s.clrFault b).rget .REED_FAULT b = 0 ∧ (s.clrFault b).fget Fld.CHN_STATUS_HREASON b = 5 := by
  have hi : b < 256 := by omega
  have hpc : s.fget Fld.CHN_FAULT_HALTPC b < 2 ^ 13 := s.fget_lt Fld.CHN_FAULT_HALTPC b 0
  rw [State.clrFault, if_neg (not_not_intro hfaulted)]
  simp -implicitDefEqProofs (disch := decide) [State.chState, State.putState, State.fget_fput_disj,
    State.fget_fput_self, State.fget_fput_unit _ hi, State.rget_fput_unit _ hi, State.fget_rput_unit _ hi,
    State.rget_rput_unit _ hi]
  exact ⟨by decide, hpc⟩

/-- Settles O39: each write of CHN_CTRL is its one bit, and the other accesses get through to their bore. -/
theorem chanterControlCompletes : Obligations.ChanterControlCompletes := by
  unfold Obligations.ChanterControlCompletes
  refine ⟨?go, ?step, ?chnCtrlHalt, ?clrfault, ?clrcnt, ?chnPcWrite, ?programStoreWrite, ?windowRead, ?windowWrite⟩
  case go =>
    intro who b s hbore hmay hb hchState hheld
    have hgo : s.chnCtrl b 0x01 = s.goStart b false := rfl
    rw [exec, execGo, chnCtrl_open hbore hmay, hgo, State.goStart_of_halted hchState hheld hb]
  case step =>
    intro who b s hbore hmay hb hchState hheld
    have hstep : s.chnCtrl b 0x08 = s.goStart b true := rfl
    rw [exec, execStep, chnCtrl_open hbore hmay, hstep, State.goStart_of_halted hchState hheld hb]
  case chnCtrlHalt =>
    intro who b s hbore hmay hrunning hstop
    have hhalt : s.chnCtrl b 0x02 = s.haltChanter b := rfl
    rw [exec, execChnCtrlHalt, chnCtrl_open hbore hmay, hhalt, State.haltChanter_of_running hrunning hstop]
  case clrfault =>
    intro who b s hbore hmay hb hchState
    have hclr : s.chnCtrl b 0x04 = s.clrFault b := rfl
    have hi : b < 256 := by omega
    refine ⟨(s.clrFault b).regDone who b, by rw [exec, execClrfault, chnCtrl_open hbore hmay, hclr], ?_⟩
    have hf {f : Field} (h : f.reg ≠ .DRN_FAB) : ((s.clrFault b).regDone who b).fget f b = (s.clrFault b).fget f b :=
      State.fget_regDone _ _ _ h hi (by decide)
    have hr {r : Reg} (h : r ≠ .DRN_FAB) : ((s.clrFault b).regDone who b).rget r b = (s.clrFault b).rget r b :=
      State.rget_regDone _ _ _ h hi (by decide)
    obtain ⟨hstate, hpc, hfault, hinfo, hreed, hreason⟩ := State.clrFault_of_faulted hchState hb
    exact ⟨(hf (by decide)).trans hstate, (hf (by decide)).trans hpc, (hr (by decide)).trans hfault,
      (hr (by decide)).trans hinfo, (hr (by decide)).trans hreed, (hf (by decide)).trans hreason⟩
  case clrcnt =>
    intro who b s hbore hmay
    have hclr : s.chnCtrl b 0x10 = s.clrCnt b := rfl
    rw [exec, execClrcnt, chnCtrl_open hbore hmay, hclr, State.clrCnt]
  case chnPcWrite =>
    intro who b val s hbore hmay hchState
    rw [exec_chnPcWrite_open hbore hmay, State.writePc, if_pos hchState]
  case programStoreWrite =>
    intro who addr data b off s hhome hbore hmay hrunning hprogAccess
    rw [exec_programStoreWrite, execProgramStoreWrite_open hbore hmay hhome hprogAccess, State.writeProgram, hrunning]
    rfl
  case windowRead =>
    intro who b off s hbore hrunning
    rw [exec_registerWindowAccess_open hbore]
    cases hoff : s.winRead b off <;> simp [State.window, hoff, hrunning]
  case windowWrite =>
    intro who b off v s hbore hrunning hmay hisSome
    obtain ⟨x, hoff⟩ := Option.isSome_iff_exists.mp hisSome
    rw [exec_registerWindowAccess_open hbore, hmay, State.window_write_of_not_running hoff hrunning]

end Sys2Proof.Machine
end

section
/-!
PROOFS. A running chanter (R90 to R149): what issue, waits, write-backs, loads, halts and DMA requests do.
-/

namespace Sys2Proof.Machine

/-! ### What a change of a chanter shows -/

@[simp] theorem State.bore_upBore_self (s : State) (b : Nat) (f : Bore → Bore) : (s.upBore b f).bore b = f (s.bore b) :=
  mget_mput_self ..

@[simp] theorem State.ch_upCh_self (s : State) (b : Nat) (f : Chanter → Chanter) : (s.upCh b f).ch b = f (s.ch b) := by
  rw [State.ch, State.upCh, State.bore_upBore_self, State.ch]

/-! ### One bore cycle (R92) -/

/-- A clocked chanter with nothing that stops it looks at the gate. -/
theorem State.boreCycle_of_gate {s u : State} {b : Nat} (hrun : s.running b = true) (hclock : s.clocked b = true)
    (hu : u = s.fsat Fld.CHN_CYCLES_CYCLES 1 b) (hstop : (u.ch b).stop = none) (himp : (u.ch b).imp = [])
    (hbubble : (u.ch b).bubble = 0) : s.boreCycle b = u.tryIssue b := by
  unfold State.boreCycle
  rw [hrun, hclock, ← hu]
  simp only [hstop, himp, hbubble]
  rfl

/-- A bundle whose needs are met, and which nothing holds or faults, issues. -/
theorem State.tryIssue_of_free {u v : State} {b pc : Nat} {ws : List Nat} (hpc : pc = u.fget Fld.CHN_PC_PC b)
    (hws : ws = u.words b pc) (hfetch : u.fetchFaults b pc ws = []) (hmet : u.needsMet b ws = true)
    (hv : v = u.firstMet b pc ws) (hq : v.holds b pc ws 6 = false) (hy : v.holds b pc ws 7 = false)
    (hgate : (v.fetchCorr b pc).gateFaults b ws = []) : u.tryIssue b = (v.fetchCorr b pc).issueBundle b pc ws := by
  subst hpc hws hv
  simp only [State.tryIssue, hfetch, hmet, hq, hy]
  simp [State.pass, hgate]

/-! ### Imprecise faults (R110) -/

/-- A fault that finds the chanter going on stops it. -/
theorem State.takeImp_of_going {s : State} {b : Nat} (hstop : (s.ch b).stop = none) (f : ImpFault)
    (rest : List ImpFault) (multi : Bool) : s.takeImp b f rest multi =
      (s.upCh b fun c => { c with imp := rest }).stopIssue b (.faulted f false multi (s.fget Fld.CHN_PC_PC b)) := by
  simp [State.takeImp, hstop]

/-- The load that an id finds has that id. -/
theorem loadId_of_find {l : List ChLoad} {id : Nat} {x : ChLoad} (h : l.find? (fun x => x.id = id) = some x) :
    x.id = id := by
  simpa using List.find?_some h

/-- Settles O40: each command is its own operation, on the branch that the hypotheses open. -/
theorem chanterRunCompletes : Obligations.ChanterRunCompletes := by
  unfold Obligations.ChanterRunCompletes
  refine ⟨?bundleIssue, ?timeoutClocked, ?timeoutUnclocked, ?registerWriteback, ?loadHandle, ?loadAddress,
    ?impreciseFault, ?haltRest, ?faultRest, ?dmaStart, ?dmaEmpty, ?dmaCopied, ?dmaMessage⟩
  case bundleIssue =>
    intro b u v pc ws s hlive hrunning hclocked hu hstop himp hbubble hpc hws hfetchFaults hneedsMet hv hholds hholds2
      hgateFaults
    rw [exec, execBundleIssue, if_neg (by simp [hlive]), State.boreCycle_of_gate hrunning hclocked hu hstop himp
      hbubble,
      State.tryIssue_of_free hpc hws hfetchFaults hneedsMet hv hholds hholds2 hgateFaults, ok]
  case timeoutClocked =>
    rintro b k u s hlive hchState hstop hmet hmin rfl hclocked
    simp [exec, execWaitTimeout, ok, hlive, hchState, hstop, hmet, hmin, hclocked]
  case timeoutUnclocked =>
    rintro b k u s hlive hchState hstop hmet hmin rfl hclocked
    simp [exec, execWaitTimeout, ok, hlive, hchState, hstop, hmet, hmin, hclocked]
  case registerWriteback =>
    intro b k x s hlive hk
    simp [exec, execRegisterWriteback, ok, hlive, hk]
  case loadHandle =>
    intro b id x m off data u s hlive hfind htgt hselfStore hhRead
    simp [exec, execLoadCompletion, ok, hlive, hfind, htgt, hselfStore, hhRead, State.loadDone, loadId_of_find hfind]
  case loadAddress =>
    intro b id x a addr data s hlive hfind htgt hback
    simp [exec, execLoadCompletion, ok, hlive, hfind, htgt, hback, State.loadDone, loadId_of_find hfind]
  case impreciseFault =>
    intro b f rest s hlive himp hrunning hstop
    simp [exec, execImpreciseFault, ok, hlive, himp, hrunning, State.takeImp_of_going hstop]
  case haltRest =>
    intro b r pc s hlive houtstanding hrunning hstop himp
    simp [exec, execChanterHaltComplete, ok, hlive, houtstanding, hrunning, hstop, himp]
  case faultRest =>
    intro b f p m h s hlive houtstanding hrunning hstop
    simp [exec, execChanterHaltComplete, ok, hlive, houtstanding, hrunning, hstop]
  case dmaStart =>
    intro b r s hlive hfind hlength htEmpty
    simp [exec, execDmaRequestStart, ok, hlive, hfind, hlength, htEmpty]
  case dmaEmpty =>
    intro b r s hlive hfind hlength htEmpty
    simp [exec, execDmaRequestStart, ok, hlive, hfind, hlength, htEmpty]
  case dmaCopied =>
    intro b id r s hlive hfind hcopied hdmaBehind hstop
    simp [exec, execDmaCompletion, ok, hlive, hfind, hcopied, hdmaBehind, hstop]
  case dmaMessage =>
    intro b id r u s hlive hfind hcopied hbit hcompletionMsg
    simp [exec, execDmaCompletion, ok, hlive, hfind, hcopied, hbit, hcompletionMsg, State.dmaSignal]

end Sys2Proof.Machine
end

section
/-!
PROOFS. The matrix array (R153 to R216): what feeds, array instructions, drains, column tests and bypass commits do.
-/

namespace Sys2Proof.Machine

/-! ### The queue of array instructions (R184) -/

/-- Behind instructions that have all begun, the first that waits is the next to begin. -/
theorem takeWhile_begun {before after : List ArrOp} {o : ArrOp} (hphase : o.phase = .waits)
    (hmay : mayBegin before o = true) :
    (before ++ o :: after).takeWhile (fun x => decide (x.phase ≠ .waits)) = before := by
  have hbegun : ∀ x ∈ before, decide (x.phase ≠ .waits) = true := by
    intro x hx
    have hxo := List.all_eq_true.mp hmay x hx
    simp only [Bool.and_eq_true] at hxo
    exact hxo.1
  rw [List.takeWhile_append_of_pos hbegun, List.takeWhile_cons_of_neg (by simp [hphase]), List.append_nil]

/-- The instruction at a place of the queue ends its part, and what stands around it stays. -/
theorem exec_arrayInstructionFinish_at {s : State} {b : Nat} {before after : List ArrOp} {o : ArrOp}
    (hlive : s.faults.frozen = false) (hq : (s.ch b).arrq = before ++ o :: after) :
    exec (.arrayInstructionFinish ⟨b, before.length⟩) s = .next (((s.upCh b fun c =>
      { c with arrq := before ++ o.finish before ++ after }).startFills b).putMq b) := by
  simp [exec, execArrayInstructionFinish, hlive, hq, ok]

/-- An MRUN's stream or an MDRAIN's read ends, and its tail follows. -/
theorem ArrOp.finish_of_tail {o : ArrOp} (hphase : o.phase = .runs)
    (hop : opc o.word.toNat = 2 ∨ opc o.word.toNat = 3) (before : List ArrOp) :
    o.finish before = [{ o with phase := .tail }] := by
  simp [ArrOp.finish, hphase, hop]

/-- An instruction without a tail is over, and a tail is over behind no other of its unit. -/
theorem ArrOp.finish_of_over {o : ArrOp} {before : List ArrOp}
    (h : (o.phase = .runs ∧ opc o.word.toNat ≠ 2 ∧ opc o.word.toNat ≠ 3) ∨
      (o.phase = .tail ∧ (before.any fun x => opc x.word.toNat = opc o.word.toNat) = false)) :
    o.finish before = [] := by
  rcases h with ⟨hphase, hne2, hne3⟩ | ⟨hphase, hany⟩
  · simp [ArrOp.finish, hphase, hne2, hne3]
  · simp only [ArrOp.finish, hphase, hany, Bool.false_eq_true, if_false]

/-! ### The column test (R192) -/

/-- The report of a column test in the registers of its bore. -/
theorem State.columnTest_report (s : State) {b : Nat} (hb : b < 64) (x y : Word64) (rowfail : Bool) (t : State)
    (ht : t = ((((s.rput .MXA_CTRES x b 0).rput .MXA_CTRES y b 1).fput Fld.MXA_BYPCMD_ROWFAIL (b2n rowfail) b).fput
      Fld.MXA_BYPCMD_CMD_STATUS bypDone b)) :
    t.rget .MXA_CTRES b 0 = x ∧ t.rget .MXA_CTRES b 1 = y ∧ t.fget Fld.MXA_BYPCMD_ROWFAIL b = b2n rowfail ∧
      t.fget Fld.MXA_BYPCMD_CMD_STATUS b = bypDone := by
  have hi : b < 256 := by omega
  subst ht
  refine ⟨?_, ?_, ?_, ?_⟩
  · rw [State.rget_fput_unit _ hi (by decide) (by decide) _ (by decide),
      State.rget_fput_unit _ hi (by decide) (by decide) _ (by decide),
      State.rget_rput_elem _ hi (by decide) (by decide) _ (by decide), State.rget_rput_self]
  · rw [State.rget_fput_unit _ hi (by decide) (by decide) _ (by decide),
      State.rget_fput_unit _ hi (by decide) (by decide) _ (by decide), State.rget_rput_self]
  · simp -implicitDefEqProofs (disch := decide) [State.fget_fput_disj, State.fget_fput_self, b2n_mod_two]
  · rw [State.fget_fput_self _ _ _ _ _ (by decide)]
    rfl

theorem State.arr_upArr_self (s : State) (b : Nat) (f : MatArray → MatArray) :
    ((s.upArr b f).bore b).arr = f (s.bore b).arr := by
  rw [State.upArr, State.bore_upBore_self]

/-- A cleared array holds no stationary tile. -/
theorem State.stat_arrClear (s : State) (b : Nat) : ((s.arrClear b).bore b).arr.stat = [] := by
  simp -implicitDefEqProofs [State.arrClear, State.each, State.arr_upArr_self]

/-- Settles O41: each command is its own operation; an instruction begins behind ones that have all begun, and
finishes at its place. -/
theorem matrixArrayCommandsComplete : Obligations.MatrixArrayCommandsComplete := by
  unfold Obligations.MatrixArrayCommandsComplete
  refine ⟨?feedTileComplete, ?arrayInstructionBegin, ?finishPart, ?finishOver, ?drainCounted, ?drainPlain,
    ?columnTest, ?columnTestDone, ?bypassCommit, ?bypassCommitDone, ?vkloadCounted, ?vkloadPlain⟩
  case feedTileComplete =>
    rintro b f rest u s hlive hfeeds hany rfl
    simp [exec, execFeedTileComplete, ok, hlive, hfeeds, hany]
  case arrayInstructionBegin =>
    intro b before after o s hlive harrq hphase hmayBegin
    have hbefore := takeWhile_begun (after := after) hphase hmayBegin
    rw [exec, execArrayInstructionBegin, if_neg (by simp [hlive]), harrq]
    simp only [hbefore, List.drop_left, hmayBegin, if_true, ok]
  case finishPart =>
    intro b before after o s hlive harrq hphase hop
    rw [exec_arrayInstructionFinish_at hlive harrq, ArrOp.finish_of_tail hphase hop, List.append_assoc]
    rfl
  case finishOver =>
    intro b before after o s hlive harrq hover
    rw [exec_arrayInstructionFinish_at hlive harrq, ArrOp.finish_of_over hover, List.append_nil]
  case drainCounted =>
    intro b n h rest s hlive hdrains
    simp [exec, execDrainCompletion, ok, hlive, hdrains]
  case drainPlain =>
    intro b h rest s hlive hdrains
    simp [exec, execDrainCompletion, ok, hlive, hdrains]
  case columnTest =>
    intro who b s hbore hmay hmayCtest
    simp [exec, execColumnTest, ok, State.regAccess_open hbore, hmay, hmayCtest, State.ctest]
  case columnTestDone =>
    intro b cols rowfail s hlive htesting hb
    obtain ⟨hlow, hhigh, hrow, hdone⟩ := State.columnTest_report
      ((s.arrClear b).upArr b fun A => { A with testing := false }) hb (BitVec.ofNat 64 cols.toNat)
      (BitVec.ofNat 64 (cols.toNat / 2 ^ 64)) rowfail _ rfl
    refine ⟨_, by rw [exec, execColumnTestDone, if_neg (by simp [hlive]), htesting]; rfl, hlow, hhigh, hrow, hdone,
      ?_, ?_⟩
    · simp -implicitDefEqProofs [State.arr_upArr_self]
    · simp -implicitDefEqProofs [State.arr_upArr_self, State.stat_arrClear]
  case bypassCommit =>
    intro who b adc s hbore hmay htesting hcommitting hcount
    simp [exec, execBypassCommit, ok, State.regAccess_open hbore, hmay, htesting, hcommitting, State.commit,
      Nat.not_lt.mpr hcount]
  case bypassCommitDone =>
    intro b adc mask rest s hflash
    simp [exec, execBypassCommitDone, ok, hflash]
  case vkloadCounted =>
    intro b k rest n data p u s hlive hkloads hcn hhRead
    simp [exec, execVkloadComplete, ok, hlive, hkloads, hcn, hhRead]
  case vkloadPlain =>
    intro b k rest data p u s hlive hkloads hcn hhRead
    simp [exec, execVkloadComplete, ok, hlive, hkloads, hcn, hhRead]

end Sys2Proof.Machine
end

section
/-!
PROOFS. Handles and windchests (R265 to R276, R342): what their commands do.
-/

namespace Sys2Proof.Machine

/-- A command to the LIG block that gets through. -/
theorem ligCmd_open {s : State} {who : Requester} {b : Nat} (hbore : s.boreOpen b) (hmay : mayHostRm who = true)
    (op h : Nat) : ligCmd who b op h s = .next ((s.ligWrite who b op h).regDone who b) := by
  rw [ligCmd, hmay, State.regAccess_open hbore, ok]

/-- A command that finds none pending takes the staging registers of its requester (R272). -/
theorem State.ligWrite_of_none {s : State} {b : Nat} (hcmd : (s.bore b).lig.cmd = none) (who : Requester) (op h : Nat) :
    s.ligWrite who b op h =
      (let stage := if who = .resmgr then (s.bore b).lig.rmStage else s.rget .LIG_STAGE b
       let mask := if who = .resmgr then (s.bore b).lig.rmMask else s.rget .LIG_STAGEMASK b
       ((s.upLig b fun l => { l with cmd := some ⟨op, h, stage, mask, who ≠ .resmgr⟩ }).fput
         Fld.LIG_CMDST_PENDING 1 b).fput Fld.LIG_CMDST_HANDLE h b) := by
  simp [State.ligWrite, hcmd]

/-- Settles O42: the four handle commands differ in their code alone; the others are their own operations. -/
theorem ligatureCommandsComplete : Obligations.LigatureCommandsComplete := by
  unfold Obligations.LigatureCommandsComplete
  refine ⟨?alloc, ?allocLock, ?release, ?releaseScrub, ?handleCommandEffect, ?scrubStart, ?scrubEnd, ?wchClear,
    ?wchFreeze, ?arrivalSend⟩
  case alloc =>
    intro who b h s hbore hmay hcmd
    rw [exec, execAlloc, ligCmd_open hbore hmay, State.ligWrite_of_none hcmd]
  case allocLock =>
    intro who b h s hbore hmay hcmd
    rw [exec, execAllocLock, ligCmd_open hbore hmay, State.ligWrite_of_none hcmd]
  case release =>
    intro who b h s hbore hmay hcmd
    rw [exec, execRelease, ligCmd_open hbore hmay, State.ligWrite_of_none hcmd]
  case releaseScrub =>
    intro who b h s hbore hmay hcmd
    rw [exec, execReleaseScrub, ligCmd_open hbore hmay, State.ligWrite_of_none hcmd]
  case handleCommandEffect =>
    intro b c u s hlive hcmd hligDo
    simp [exec, execHandleCommandEffect, ok, hlive, hcmd, hligDo, State.ligEffect]
  case scrubStart =>
    intro b h rest s hlive hscrubs hactive hinflight
    simp [exec, execScrubStart, ok, hlive, hscrubs, hactive, hinflight, when]
  case scrubEnd =>
    intro b h rest s hlive hscrubs hactive
    simp [exec, execScrubEnd, ok, hlive, hscrubs, hactive]
  case wchClear =>
    intro who b s hbore hmay
    simp [exec, execWchClear, ok, State.regAccess_open hbore, hmay, State.wchClearAll]
  case wchFreeze =>
    intro who b v s hbore hmay
    simp [exec, execWchFreeze, ok, State.regAccess_open hbore, hmay]
  case arrivalSend =>
    intro b a rest s hlive harrs harrReady
    simp [exec, execArrivalSend, ok, hlive, harrs, harrReady]

end Sys2Proof.Machine
end

section
/-!
PROOFS. Ranks and reeds (R209 to R244): what launches, stops, barriers and the debug window do.
-/

namespace Sys2Proof.Machine

/-! ### The rank that a bore changes -/

@[simp] theorem State.rank_upRank_self (s : State) (b r : Nat) (f : Rank → Rank) :
    (s.upRank b r f).rank b r = f (s.rank b r) := by
  rw [State.rank, State.upRank, State.bore_upBore_self, State.rank, mget_mput_self]

@[simp] theorem State.boreCtx_upRank (s : State) (b r c : Nat) (f : Rank → Rank) :
    (s.upRank b r f).boreCtx c = s.boreCtx c := rfl

/-! ### The debug window (R244) -/

section
variable {s : State} {b off : Nat} (hrank : s.fget Fld.REED_DBGSEL_RANK b ≤ 79)
  (hidle : s.rkState b (s.fget Fld.REED_DBGSEL_RANK b) = rkIdle) (hlo : 0x1400 ≤ off) (hhi : off < 0x1480)
include hrank hidle hlo hhi

/-- A read of an idle rank at an offset of the window's registers answers the selected reed's register. -/
theorem State.reedWindow_read : s.reedWindow b off none =
    { s with rdata := BitVec.ofNat 64 (s.t b (s.fget Fld.REED_DBGSEL_RANK b) (s.fget Fld.REED_DBGSEL_LANE b)
        ((off - 0x1400) / 4)) } := by
  have hoff : off % 0x1400 = off - 0x1400 := by omega
  have hcell : ¬off < 0x1400 := by omega
  simp -implicitDefEqProofs [State.reedWindow, Nat.not_lt.mpr hrank, hidle, hcell, hlo, hhi, hoff]

/-- A write there puts the value into that register. -/
theorem State.reedWindow_write (v : Word32) : s.reedWindow b off (some v) =
    s.tput b (s.fget Fld.REED_DBGSEL_RANK b) (s.fget Fld.REED_DBGSEL_LANE b) ((off - 0x1400) / 4) v.toNat := by
  have hoff : off % 0x1400 = off - 0x1400 := by omega
  have hcell : ¬off < 0x1400 := by omega
  simp -implicitDefEqProofs [State.reedWindow, Nat.not_lt.mpr hrank, hidle, hcell, hlo, hhi, hoff]

end

/-- An access to the window that gets through; a read that has no effect returns zeros. -/
theorem exec_reedDebugWindowAccess_open {s u : State} {who : Requester} {b : Nat} {wr : Option Word32}
    (hbore : s.boreOpen b) (hmay : mayPf who = true) (hu : u = { s with rdata := if wr.isNone then 0 else s.rdata })
    (off : Nat) : exec (.reedDebugWindowAccess who b off wr) s = .next ((u.reedWindow b off wr).regDone who b) := by
  have hopen : u.boreOpen b := hu ▸ hbore
  rw [exec, execReedDebugWindowAccess, ← hu, hmay, State.regAccess_open hopen, ok]

/-- Settles O43: each command is its own operation, on the branch that the hypotheses open. -/
theorem reedCommandsComplete : Obligations.ReedCommandsComplete := by
  unfold Obligations.ReedCommandsComplete
  refine ⟨?launchStart, ?launchCounted, ?launchPlain, ?rankStopComplete, ?reedIssue, ?reedLoadReturn,
    ?rankBarrierComplete, ?rankArrivalSend, ?reedDebugWindowAccess⟩
  case launchStart =>
    intro b r x s hlive hrkState hbind
    simp [exec, execLaunchStart, ok, hlive, hrkState, hbind]
  case launchCounted =>
    intro b id x n s hlive hlaunch hleft hcn hdead
    simp [exec, execLaunchFinish, ok, hlive, hlaunch, hleft, hcn, hdead]
  case launchPlain =>
    intro b id x s hlive hlaunch hleft hplain
    rcases hplain with hcn | hdead
    · simp [exec, execLaunchFinish, ok, hlive, hlaunch, hleft, hcn]
    · cases hcn : x.cn <;> simp [exec, execLaunchFinish, ok, hlive, hlaunch, hleft, hcn, hdead]
  case rankStopComplete =>
    intro b r s hlive hstopping
    simp [exec, execRankStopComplete, ok, hlive, hstopping, when]
  case reedIssue =>
    rintro b r lane w s hlive hmode hclocked hksKey hksKey2 rfl hreedIllegal hreedHeld hreedCheck
    simp [exec, execReedIssue, ok, hlive, hmode, hclocked, hksKey, hksKey2, hreedIllegal, hreedHeld, hreedCheck,
      State.reedCorr]
  case reedLoadReturn =>
    intro b r lane x rest data u s hlive hloads hhRead
    simp [exec, execReedLoadReturn, ok, hlive, hloads, hhRead]
  case rankBarrierComplete =>
    intro b r scope ranks s hlive hrbarRanks hrbarMet
    simp [exec, execRankBarrierComplete, ok, hlive, hrbarRanks, hrbarMet, when]
  case rankArrivalSend =>
    intro b r bid s hlive hrankArrival hgsent
    simp [exec, execRankArrivalSend, ok, hlive, hrankArrival, hgsent]
  case reedDebugWindowAccess =>
    intro who b off wr s hbore hmay hrank hrkState hlo hhi
    cases wr with
    | none =>
      refine ⟨_, exec_reedDebugWindowAccess_open (u := { s with rdata := 0 }) hbore hmay rfl off,
        fun v hv => (nomatch hv), fun _ => ?_⟩
      have hread := State.reedWindow_read (s := { s with rdata := 0 }) hrank hrkState hlo hhi
      rw [hread]
      rfl
    | some v =>
      refine ⟨_, exec_reedDebugWindowAccess_open hbore hmay (u := s) rfl off, fun v' hv => ?_, fun hv => (nomatch hv)⟩
      rw [State.reedWindow_write hrank hrkState hlo hhi, Option.some.inj hv]

end Sys2Proof.Machine
end

section
/-!
PROOFS. Queues and channels (R294 to R322): what messages, returns, configuration and audits do.
-/

namespace Sys2Proof.Machine

/-! ### What an access leaves of the bores and the transfers -/

@[simp] theorem State.bore_regDone (s : State) (who : Requester) (b c : Nat) : (s.regDone who b).bore c = s.bore c := by
  unfold State.regDone State.status State.openFab
  split_ifs <;> rfl

@[simp] theorem State.net_regDone (s : State) (who : Requester) (b : Nat) : (s.regDone who b).net = s.net := by
  unfold State.regDone State.status State.openFab
  split_ifs <;> rfl

/-! ### The start of an audit (R311) -/

/-- A field of a bore's route, where only QUE_AUDRES changed. -/
theorem State.rt_fput_audres (s : State) {g : Field} (lo w v : Nat) {b ch : Nat} (hb : b < 256) (hch : ch < 65536)
    (hg : g.reg = .QUE_ROUTEA ∨ g.reg = .QUE_RSTAT) :
    (s.fput ⟨.QUE_AUDRES, lo, w⟩ v b).rt (.bore b ch) g = s.rt (.bore b ch) g := by
  obtain ⟨r, lo', w'⟩ := g
  rcases hg with rfl | rfl
  · exact State.fget_fput_unit (g := ⟨.QUE_ROUTEA, lo', w'⟩) _ hb (by decide) hch v (nomatch ·)
  · exact State.fget_fput_unit (g := ⟨.QUE_RSTAT, lo', w'⟩) _ hb (by decide) hch v (nomatch ·)

theorem State.rt_upVest (s : State) (b : Nat) (f : Vestibule → Vestibule) (l : RouteLoc) (g : Field) :
    (s.upVest b f).rt l g = s.rt l g := rfl

section
variable {s : State} {b ch : Nat} (hb : b < 64) (hch : ch < 256)
include hb hch

variable (haudit : (s.bore b).vest.audit = none) (hvalid : s.rtValid (.bore b ch) = true)
  (hkind : s.rt (.bore b ch) Fld.QUE_ROUTEA_KIND = 0) (hdtype : s.rt (.bore b ch) Fld.QUE_ROUTEA_DTYPE = 0)
include haudit hvalid hkind hdtype

/-- An audit of a valid message channel to a bore: it is recorded, and its marker goes out along the channel. -/
theorem State.auditStart_of_local : ((s.auditStart b ch).bore b).vest.audit = some ⟨ch, 0⟩ ∧
    (s.auditStart b ch).flag Fld.QUE_AUDRES_BUSY b = true ∧ (s.auditStart b ch).net = s.net ++ [⟨.posted, .bore b,
      .bore (s.rt (.bore b ch) Fld.QUE_ROUTEA_DID), .auditMarker (s.rt (.bore b ch) Fld.QUE_ROUTEA_DID)
        (s.rt (.bore b ch) Fld.QUE_ROUTEA_DQ) (.here (.bore b ch))⟩] := by
  have hi : b < 256 := by omega
  have hj : ch < 65536 := by omega
  rw [State.rtValid, Bool.and_eq_true, decide_eq_true_eq, decide_eq_true_eq] at hvalid
  obtain ⟨hv, hf⟩ := hvalid
  have hrt {t : State} {g : Field} (lo w v : Nat) (hg : g.reg = .QUE_ROUTEA ∨ g.reg = .QUE_RSTAT) :
      (t.fput ⟨.QUE_AUDRES, lo, w⟩ v b).rt (.bore b ch) g = t.rt (.bore b ch) g := t.rt_fput_audres lo w v hi hj hg
  simp -implicitDefEqProofs (disch := decide) [State.auditStart, State.auditClear, State.rtValid, haudit, hrt,
    State.rt_upVest, hv, hf, hkind, hdtype]
  refine ⟨?_, ?_, ?_⟩
  · simp only [State.upVest, State.bore_upBore_self]
  · simp (disch := decide) [State.flag, State.fget_fput_disj, State.fget_fput_self]
  · simp [State.send, State.upVest, State.upBore]

end

/-- Settles O44: each command is its own operation, on the branch that the hypotheses open. -/
theorem queueCommandsComplete : Obligations.QueueCommandsComplete := by
  unfold Obligations.QueueCommandsComplete
  refine ⟨?messageArrival, ?channelIncrementArrival1, ?channelIncrementArrival2, ?nackMessageArrival, ?creditReturn,
    ?reservationRelease, ?orphanMarkArrival, ?routeWrite1, ?routeWrite2, ?routeWrite3, ?queueConfigWrite, ?qctlOpen,
    ?qctlClose, ?newepoch, ?channelAudit, ?auditMarkerArrival, ?auditReplyArrival⟩
  case messageArrival =>
    intro src b c e d did q m u s hpstate harr hjudge
    simp [exec, execMessageArrival, ok, hpstate, harr, hjudge, State.deliver]
  case channelIncrementArrival1 =>
    intro src b c e d did q i u s hpstate harr hjudge hpool hidx
    simp [exec, execChannelIncrementArrival, ok, hpstate, harr, hjudge, hpool, hidx, State.deliverInc]
  case channelIncrementArrival2 =>
    intro src b c e d did q i u s hpstate harr hjudge hpool
    simp [exec, execChannelIncrementArrival, ok, hpstate, harr, hjudge, hpool, State.deliverInc]
  case nackMessageArrival =>
    intro src b c e d o n u s hpstate harr
    simp [exec, execNackMessageArrival, ok, hpstate, harr]
  case creditReturn =>
    intro src dst c e d o orphan u s hatStub harr
    cases orphan <;> simp [exec, execCreditReturn, ok, hatStub, harr, State.takeCredit]
  case reservationRelease =>
    intro src dst c e d o u s hatStub harr
    simp [exec, execReservationRelease, ok, hatStub, harr]
  case orphanMarkArrival =>
    intro src dst c e d o u s hatStub harr
    simp [exec, execOrphanMarkArrival, ok, hatStub, harr]
  case routeWrite1 =>
    intro who owner entry second val u s hbore hmay hwriteRoute
    simp [exec, execRouteWrite, ok, State.regAccess_vestibule hbore, hmay, hwriteRoute, qctl]
  case routeWrite2 =>
    intro who owner entry second val s hopen hmay
    simp [exec, execRouteWrite, ok, State.hubReg_open hopen, hmay]
  case routeWrite3 =>
    intro who owner entry second val s hopen hmay
    simp [exec, execRouteWrite, ok, State.hubReg_open hopen, hmay]
  case queueConfigWrite =>
    intro who b q val u s hbore hmay hwriteQcfg
    simp [exec, execQueueConfigWrite, ok, State.regAccess_vestibule hbore, hmay, hwriteQcfg, qctl]
  case qctlOpen =>
    intro who b q s hbore hmay
    simp [exec, execQctlOpen, ok, State.regAccess_vestibule hbore, hmay, State.qOpen, qctl]
  case qctlClose =>
    intro who b q s hbore hmay
    simp [exec, execQctlClose, ok, State.regAccess_vestibule hbore, hmay, State.qClose, qctl]
  case newepoch =>
    intro who b q s hbore hmay
    simp [exec, execNewepoch, ok, State.regAccess_vestibule hbore, hmay, State.qEpoch, qctl]
  case channelAudit =>
    intro who b ch s hbore hmay hb hch haudit hrtValid hrt hrt2
    obtain ⟨hrec, hbusy, hnet⟩ := State.auditStart_of_local hb hch haudit hrtValid hrt hrt2
    refine ⟨(s.auditStart b ch).regDone who b, ?_, ?_, ?_, ?_⟩
    · rw [exec, execChannelAudit, qctl, hmay, State.regAccess_vestibule hbore, ok]
    · rw [State.bore_regDone, hrec]
    · rw [State.flag, State.fget_regDone _ _ _ (by decide) (by omega) (by decide), ← State.flag, hbusy]
    · rw [State.net_regDone, hnet]
  case auditMarkerArrival =>
    intro src b c e d did q o u s hpstate harr
    simp [exec, execAuditMarkerArrival, ok, hpstate, harr]
  case auditReplyArrival =>
    intro src b c e d oc o a u s hpstate harr haudit hch hch2
    simp [exec, execAuditReplyArrival, ok, hpstate, harr, haudit, hch, hch ▸ hch2, State.auditDone]

end Sys2Proof.Machine
end

section
/-!
PROOFS. Counters, watches and barriers (R330 to R359): what their commands and messages do.
-/

namespace Sys2Proof.Machine

/-- Settles O45: each command is its own operation, on the branch that the hypotheses open. -/
theorem synchronisationCommandsComplete : Obligations.SynchronisationCommandsComplete := by
  unfold Obligations.SynchronisationCommandsComplete
  refine ⟨?poolIncrementArrival, ?watchArrival, ?watchAnswerArrival, ?barrierArrival, ?barrierCompletionArrival,
    ?abort, ?poolBlockWrite1, ?poolBlockWrite2, ?barrierConfigWrite1, ?barrierConfigWrite2, ?counterValueWrite1,
    ?counterValueWrite2, ?counterArmWrite⟩
  case poolIncrementArrival =>
    intro src c e d idx amt ctx u s harr hpoolOwned
    simp [exec, execPoolIncrementArrival, ok, harr, hpoolOwned, State.poolArrive]
  case watchArrival =>
    intro src c e d b idx ctx target u s harr hpoolOwned
    simp [exec, execWatchArrival, ok, harr, hpoolOwned, State.watchArrive, State.answerWatch]
  case watchAnswerArrival =>
    intro b c e d n met u s hpstate harr
    simp [exec, execWatchAnswerArrival, ok, hpstate, harr]
  case barrierArrival =>
    rintro src c e d p bid ctx u v s harr hvalid hctx rfl
    simp [exec, execBarrierArrival, ok, harr, hvalid, hctx, State.barArriveAt]
  case barrierCompletionArrival =>
    intro b c e d p bid phase aborted u s hpstate harr
    simp [exec, execBarrierCompletionArrival, ok, hpstate, harr]
  case abort =>
    intro who bid s hopen hmay hvalid
    simp [exec, execAbort, ok, State.hubReg_open hopen, hmay, hvalid, State.abortBarrier]
  case poolBlockWrite1 =>
    rintro who blk val u s hopen hmay rfl hvalid hvalid2 hlonger
    simp [exec, execPoolBlockWrite, ok, State.hubReg_open hopen, hmay, hvalid, hvalid2, hlonger, State.writeBlock]
  case poolBlockWrite2 =>
    rintro who blk val u s hopen hmay rfl hvalid hvalid2
    simp [exec, execPoolBlockWrite, ok, State.hubReg_open hopen, hmay, hvalid, hvalid2, State.writeBlock]
  case barrierConfigWrite1 =>
    rintro who bid val u s hopen hmay rfl harrived hvalid
    simp [exec, execBarrierConfigWrite, ok, State.hubReg_open hopen, hmay, harrived, hvalid, State.writeBarrier]
  case barrierConfigWrite2 =>
    rintro who bid val u s hopen hmay rfl harrived hvalid hvalid2 hpcount hpcount2 hlonger
    simp [exec, execBarrierConfigWrite, ok, State.hubReg_open hopen, hmay, harrived, hvalid, hvalid2, hlonger,
      State.writeBarrier, Nat.ne_of_gt hpcount, Nat.not_lt.mpr hpcount2]
  case counterValueWrite1 =>
    intro who n val b s hbore hmay
    simp [exec, execCounterValueWrite, ok, State.regAccess_vestibule hbore, hmay, State.writeCounter, qctl]
  case counterValueWrite2 =>
    intro who n val s hopen hmay
    simp [exec, execCounterValueWrite, ok, State.hubReg_open hopen, hmay, State.writeCounter]
  case counterArmWrite =>
    intro who b n val s hbore hmay
    simp [exec, execCounterArmWrite, ok, State.regAccess_vestibule hbore, hmay, State.writeArm, qctl]

end Sys2Proof.Machine
end

section
/-!
PROOFS. The stage schedulers (R367 to R389): what their commands and messages do.
-/

namespace Sys2Proof.Machine

/-! ### STG_CTRL and STG_INJECT (R369, R379, R389, R395) -/

section
variable {who : Requester} {p : Nat} {s : State} (hopen : s.hubOpen = true) (hmay : mayHostRm who = true)
include hopen hmay

/-- A write of STG_CTRL that gets through. -/
theorem stgCtrl_open (val : Word64) : stgCtrl who p val s = .next (s.stgCtrl p val) := by
  rw [stgCtrl, hmay, State.hubReg_open hopen, ok]

variable (hstg : s.stg p ≠ sgCoupled)
include hstg

theorem exec_stgStart_open : exec (.stgStart who p) s = .next (s.stgStart p) := by
  have hstart : s.stgCtrl p 1 = s.stgStart p := if_neg hstg
  rw [exec, execStgStart, stgCtrl_open hopen hmay, hstart]

theorem exec_stgStop_open : exec (.stgStop who p) s = .next (s.stgStop p) := by
  have hstop : s.stgCtrl p 2 = s.stgStop p := if_neg hstg
  rw [exec, execStgStop, stgCtrl_open hopen hmay, hstop]

theorem exec_nextstep_open : exec (.nextstep who p) s = .next (s.nextStep p) := by
  have hnext : s.stgCtrl p 4 = s.nextStep p := if_neg hstg
  rw [exec, execNextstep, stgCtrl_open hopen hmay, hnext]

end

/-- NEXTSTEP at the end of a step leaves the scheduler RUNNING. -/
theorem State.stg_nextStep {s : State} {p : Nat} (hstg : s.stg p = sgStepEnd) : (s.nextStep p).stg p = sgRunning := by
  rw [State.nextStep, if_neg (not_not_intro hstg), State.stg, State.fget_fput_self _ _ _ _ _ (by decide)]
  rfl

/-- A tag of the current step that is FREE is accepted by a RUNNING scheduler. -/
theorem State.judgeTag_of_free {s : State} {p t : Nat} (hstg : s.stg p = sgRunning) (htag : s.tag p t = tgFree) :
    s.judgeTag p ⟨false, t, BitVec.ofNat 32 (s.stgStep p)⟩ = s.acceptFwd p t := by
  have hcur : (BitVec.ofNat 32 (s.stgStep p)).toNat = s.stgStep p := by
    rw [BitVec.toNat_ofNat]
    exact Nat.mod_eq_of_lt (s.fget_lt Fld.STG_STEP_STEP p 0)
  have hnext : s.stgStep p ≠ (s.stgStep p + 1) % 2 ^ 32 := by
    have := s.fget_lt Fld.STG_STEP_STEP p 0
    simp only [State.stgStep] at this ⊢
    omega
  have hlive : ¬(sgRunning = sgOff ∨ sgRunning = sgCoupled) := by decide
  simp only [State.judgeTag, hstg, hcur, hnext, htag, hlive, Bool.or_eq_true, decide_eq_true_eq, if_false, ne_eq,
    not_true_eq_false, Bool.not_false, if_true]

/-! ### Dispatch (R372) -/

section
variable {s u : State} {p x n : Nat}

theorem State.sendFwd_of_credit (hn : n = s.fget Fld.STG_STATUS_FCNT p)
    (hsend : s.sendAll p (s.dispatchWords p (n % s.stgN Fld.STG_CFG_SBUF p) 0 x n) = some u) :
    s.sendFwd p x = u.launched p x false n := by
  rw [State.sendFwd, ← hn, hsend]

theorem State.sendBwd_of_credit (hn : n = s.fget Fld.STG_TAG_ORD p x)
    (hsend : s.sendAll p (s.dispatchWords p (n % s.stgN Fld.STG_CFG_RBUF p) 1 x n) = some u) :
    s.sendBwd p x = u.launched p x true n := by
  rw [State.sendBwd, ← hn, hsend]

/-- With no backward eligible the forward that may be dispatched goes. -/
theorem State.dispatch_forward (hbwd : s.bwdNext p = none) (hfwd : s.fwdNext p = some x) :
    s.dispatch p = s.sendFwd p x := by
  simp only [State.dispatch, hbwd, hfwd]

/-- An eligible backward whose restore is complete goes first. -/
theorem State.dispatch_backward (hbwd : s.bwdNext p = some x)
    (hready : s.nent p = 0 ∨ s.flag Fld.STG_TAG_RESTORED p x = true) : s.dispatch p = s.sendBwd p x := by
  simp only [State.dispatch, hbwd, Bool.or_eq_true, decide_eq_true_eq, hready, if_true]

theorem exec_dispatch_of_running (hlive : s.faults.frozen = false) (hstg : s.stg p = sgRunning) :
    exec (.dispatch p) s = .next (s.dispatch p) := by
  simp only [exec, execDispatch, hlive, hstg, ok, when, Bool.false_eq_true, if_false, decide_true, if_true]

end

/-- Settles O46: each command is its own operation, on the branch that the hypotheses open. -/
theorem stageSchedulerCommandsComplete : Obligations.StageSchedulerCommandsComplete := by
  unfold Obligations.StageSchedulerCommandsComplete
  refine ⟨?stgStart1, ?stgStart2, ?stgStop, ?nextstep1, ?nextstep2, ?stgInject, ?tagMessageArrival, ?doneReport,
    ?controlMessage, ?dispatch1, ?dispatch2, ?stepend, ?emission1, ?emission2⟩
  case stgStart1 =>
    intro who p s hopen hmay hstg
    rw [exec_stgStart_open hopen hmay (by rw [hstg]; decide), State.stgStart, if_neg (by rw [hstg]; decide), if_pos
      hstg]
  case stgStart2 =>
    intro who p s hopen hmay hstg
    rw [exec_stgStart_open hopen hmay (by rw [hstg]; decide), State.stgStart, if_pos hstg]
    rfl
  case stgStop =>
    intro who p s hopen hmay hstg
    have hlive : s.stg p ≠ sgCoupled := by rcases hstg with h | h <;> rw [h] <;> decide
    rw [exec_stgStop_open hopen hmay hlive, State.stgStop]
    simp only [Bool.or_eq_true, decide_eq_true_eq, hstg, if_true]
  case nextstep1 =>
    intro who p s hopen hmay hstg
    exact exec_nextstep_open hopen hmay hstg
  case nextstep2 =>
    intro who p s hopen hmay hstg
    exact ⟨s.nextStep p, exec_nextstep_open hopen hmay (by rw [hstg]; decide), State.stg_nextStep hstg⟩
  case stgInject =>
    intro who p val s hopen hmay hrole hstg htag
    have hrole' : ¬(s.fget Fld.STG_CFG_ROLE p = 2 ∨ s.fget Fld.STG_CFG_ROLE p = 3) := by omega
    have hinject : s.inject p val = s.acceptFwd p (val.toNat % 256) := by
      rw [State.inject, if_neg (by rw [hstg]; decide), if_neg (by simpa using hrole'), State.judgeTag_of_free hstg
        htag]
    rw [exec, execStgInject, hmay, State.hubReg_open hopen, hinject, ok]
  case tagMessageArrival =>
    intro p m rest s hinbox
    simp [exec, execTagMessageArrival, ok, hinbox]
  case doneReport =>
    intro src p c e d x m u s harr
    simp [exec, execDoneReport, ok, harr, State.hubTake]
  case controlMessage =>
    intro src p c e d x m u s harr htoNat
    simp only [exec, execControlMessage, ok, harr, State.hubTake, State.controlMsg, htoNat, decide_true,
      Bool.and_self,
      if_true, ne_eq, one_ne_zero, not_false_eq_true]
  case dispatch1 =>
    rintro p x f u s hlive hstg hbwdNext hfwdNext hn hsendAll
    rw [exec_dispatch_of_running hlive hstg, State.dispatch_forward hbwdNext hfwdNext, State.sendFwd_of_credit hn
      hsendAll]
  case dispatch2 =>
    rintro p x j u s hlive hstg hbwdNext hnent hn hsendAll
    rw [exec_dispatch_of_running hlive hstg, State.dispatch_backward hbwdNext hnent, State.sendBwd_of_credit hn
      hsendAll]
  case stepend =>
    intro p u s hlive hstepOver hsendAll
    simp [exec, execStepend, ok, hlive, hstepOver, hsendAll]
  case emission1 =>
    intro p x rest s hlive hstg hfwdOut hfvalid hportShut
    simp [exec, execEmission, ok, hlive, hstg, hfwdOut, hfvalid, hportShut]
  case emission2 =>
    intro p x rest s hlive hstg hfwdOut hbwdOut hbvalid hportShut
    simp [exec, execEmission, ok, hlive, hstg, hfwdOut, hbwdOut, hbvalid, hportShut, when]

end Sys2Proof.Machine
end

section
/-!
PROOFS. Stash, restore, health reports and gates (R382 to R428): what their commands and messages do.
-/

namespace Sys2Proof.Machine

/-! ### OVB_GCTL (R428) -/

section
variable {who : Requester} {h : Nat} {s : State}

/-- A write of OVB_GCTL that gets through. -/
theorem gctl_open (hopen : s.hubOpen = true) (hmay : mayHostRm who = true) (val : Word64) :
    gctl who h val s = .next (s.gctl h val) := by
  rw [gctl, hmay, State.hubReg_open hopen, ok]

/-- Where a step waits, RELEASE publishes COMMIT and SKIP publishes SKIP. -/
theorem State.gctl_of_waiting (hgate : s.gate h = gtHeld ∨ s.gate h = gtReady) :
    s.gctl h 1 = s.publish h true ∧ s.gctl h 2 = s.publish h false := by
  have hwait : ¬((decide (s.gate h ≠ gtHeld) && decide (s.gate h ≠ gtReady)) = true) := by
    rcases hgate with hg | hg <;> simp [hg]
  exact ⟨if_neg hwait, if_neg hwait⟩

/-- HOLDNEXT holds the next step and does no more, whether a step waits or not. -/
theorem State.gctl_holdNext : s.gctl h 4 = s.upHset h fun x => { x with holdNext := true } := by
  change (if _ then _ else _) = _
  exact ite_self _

end

theorem ovbKind_zero (m : Message) : ovbKind 0 m = (m.words.getD 0 0).toNat % 256 := rfl

/-- Settles O47: each command is its own operation, on the branch that the hypotheses open. -/
theorem stashAndTrainingCommandsComplete : Obligations.StashAndTrainingCommandsComplete := by
  unfold Obligations.StashAndTrainingCommandsComplete
  refine ⟨?stashChunk1, ?stashChunk2, ?stashOutComplete1, ?stashOutComplete2, ?restoreRequest, ?restoreComplete,
    ?amaxReport, ?lossReport, ?gateRequest, ?gateRelease, ?gateSkip, ?holdnext, ?verdictSend, ?roundCompletion⟩
  case stashChunk1 =>
    intro p j rest s hlive houts hjobDone hstashTurn
    simp [exec, execStashChunk, ok, hlive, houts, hjobDone, hstashTurn, State.stashWork]
  case stashChunk2 =>
    intro p j rest s hlive hins hjobDone hstashTurn
    simp [exec, execStashChunk, ok, hlive, hins, hjobDone, hstashTurn, State.stashWork]
  case stashOutComplete1 =>
    intro p j rest u s hlive houts hjobDone hopen1 hstashWrite
    simp [exec, execStashOutComplete, ok, hlive, houts, hjobDone, hopen1, hstashWrite]
  case stashOutComplete2 =>
    intro p j rest u v s hlive houts hjobDone hopen1 hopenOut hstashWrite
    simp [exec, execStashOutComplete, ok, hlive, houts, hjobDone, hopen1, hopenOut, hstashWrite]
  case restoreRequest =>
    intro p x s hlive hstg hrestorable
    simp [exec, execRestoreRequest, ok, hlive, hstg, hrestorable]
  case restoreComplete =>
    intro p j rest s hlive hins hjobDone hopen1
    simp [exec, execRestoreComplete, ok, hlive, hins, hjobDone, hopen1]
  case amaxReport =>
    intro src h c e d x m u s harr htoNat
    exact ovbMessage_of_kind (fun s m => s.amaxReport (s.healthOf h) m) harr ((ovbKind_zero m).trans htoNat)
  case lossReport =>
    intro src h c e d x m u s harr htoNat
    exact exec_lossReport_of_kind harr ((ovbKind_zero m).trans htoNat)
  case gateRequest =>
    intro src h c e d x m u s harr htoNat
    exact ovbMessage_of_kind (fun s m => s.gateRequest (s.healthOf h) m) harr ((ovbKind_zero m).trans htoNat)
  case gateRelease =>
    intro who h s hopen hmay hgate
    rw [exec, execGateRelease, gctl_open hopen hmay, (State.gctl_of_waiting hgate).1]
  case gateSkip =>
    intro who h s hopen hmay hgate
    rw [exec, execGateSkip, gctl_open hopen hmay, (State.gctl_of_waiting hgate).2]
    rfl
  case holdnext =>
    intro who h s hopen hmay
    rw [exec, execHoldnext, gctl_open hopen hmay, State.gctl_holdNext]
  case verdictSend =>
    rintro h commit ws s hlive hverdict hgate hall hws
    have hgo : (decide (s.gate h = gtPublish) &&
        (s.vRoutes h).all fun l => s.rtValid l && decide (s.rt l Fld.QUE_RSTAT_CRED ≠ 0)) = true := by
      rw [Bool.and_eq_true]
      exact ⟨decide_eq_true hgate, hall⟩
    simp only [exec, execVerdictSend, ok, hlive, hverdict, hgo, ← hws, Bool.false_eq_true, if_false, if_true]
  case roundCompletion =>
    intro h slot s hlive hslot
    simp [exec, execRoundCompletion, ok, hlive, hslot]

end Sys2Proof.Machine
end

section
/-!
PROOFS. Partitions, contexts and residency (R440 to R476, R703): what a command that is not refused carries out.
-/

namespace Sys2Proof.Machine

/-! ### The commands of PRT_CMD that are carried out (R440, R465, R474) -/

section
variable {who : Requester} {op c st : Nat} {s t : State}

/-- A command of PRT_CMD leaves what its operation leaves, and reports. -/
theorem prtCmd_of_done (hopen : s.hubOpen = true) (hmay : mayPf who = true)
    (hpend : s.flag Fld.PRT_CMDST_PENDING = false) (hdo : s.rmDo op c = (t, st)) :
    prtCmd who op c s = .next (t.prtSt op c st) := by
  rw [prtCmd_open hopen hmay, State.prtCmd, if_neg (by simp [hpend]), hdo]

theorem State.rmDo_create (hst : s.cxState c = cxFree) (hlead : s.leader (s.homeOfCtx c) = s.homeOfCtx c)
    (hfull : s.homeFull (s.homeOfCtx c) = false) : s.rmDo 2 c = ((s.putCx c cxIdle).putNctx, rmOk) :=
  (if_neg (not_not_intro hst)).trans ((if_neg (not_not_intro hlead)).trans (if_neg (Bool.not_eq_true _ ▸ hfull)))

theorem State.rmDo_load (hst : s.cxState c = cxIdle) (hup : s.homeUp (s.homeOfCtx c) = true) :
    s.rmDo 3 c = (s.beginLoad c false, rmOk) :=
  if_pos (by rw [hst, hup]; rfl)

theorem State.rmDo_evict (hst : s.cxState c = cxResident) (hbusy : s.cxBusy c = false) :
    s.rmDo 4 c = ((({ s with cmds := s.cmds ++ [(⟨.evict, c, false⟩ : RmCmd)] }).putCx c cxEvicting).rmGo
      (s.homeOfCtx c), rmOk) :=
  (if_neg (not_not_intro hst)).trans (if_neg (Bool.not_eq_true _ ▸ hbusy))

theorem State.rmDo_start (hst : s.cxState c = cxResident) :
    s.rmDo 5 c = (s.each (s.boundBores c) fun s b => s.addStart b c, rmOk) :=
  if_pos hst

theorem State.rmDo_end (hst : (s.cxState c = cxLoading ∨ s.cxState c = cxResident) ∨ s.cxState c = cxEvicting) :
    s.rmDo 6 c = (s.beginEnding c endHost none, rmOk) :=
  if_pos (by simpa only [Bool.or_eq_true, decide_eq_true_eq] using hst)

theorem State.rmDo_reset (hst : s.cxState c = cxEnded) : s.rmDo 7 c = (s.putCx c cxIdle, rmOk) :=
  if_pos hst

theorem State.rmDo_destroy (hst : s.cxState c = cxIdle ∨ s.cxState c = cxEnded) :
    s.rmDo 8 c = ((s.putCx c cxFree).putNctx, rmOk) :=
  if_pos (by simpa only [Bool.or_eq_true, decide_eq_true_eq] using hst)

end

/-! ### REBUILD (R463) and RESTART (R703) -/

/-- A rebuild that nothing refuses waits its turn among the commands of its partition. -/
theorem State.rebuildCmd_of_free {s : State} {p : Nat} {subst : Option Nat}
    (hpend : s.flag Fld.PRT_CMDST_PENDING = false) (hstage : s.fget Fld.DRN_BOOT_STAGE = 7)
    (hdead : ((s.rebuildSet p false).any fun q => s.hbmDead (q / 4)) = false) (hbad : s.rebuildBad p = false)
    (hbusy : s.rebuildBusy (s.rebuildSet p false) = false) (hspare : s.noSpare (s.rebuildSet p false) subst = false)
    {v : State} (hv : v = ((((s.fput Fld.PRT_CMDST_OP 1).fput Fld.PRT_CMDST_CTX 0).fput Fld.PRT_CMDST_STATUS 0).fput
      Fld.PRT_CMDST_PENDING 1).upPart p fun x => { x with rebuild := some ⟨subst, false, false, []⟩ }) :
    s.rebuildCmd p subst = ({ v with cmds := v.cmds ++ [(⟨.rebuild, p, false⟩ : RmCmd)] } : State).rmGo p := by
  simp only [State.rebuildCmd, hpend, hstage, hdead, hbad, hbusy, hspare, Bool.false_eq_true, if_false, ne_eq,
    not_true_eq_false, ← hv]

/-- A restart of a group that is up and at rest is taken on, and wakes the bores that neither run nor are off. -/
theorem State.restartCmd_of_quiet {s u : State} {p : Nat} (hpend : s.flag Fld.DMP_PRSTST_PENDING = false)
    (hup : s.homeUp p = true) (hquiet : (s.groupParts p).all s.schedQuiet = true)
    (hidle : (s.groupCtxs (s.groupParts p)).any s.cxActive = false) (hworks : s.groupWorks p = false)
    (hu : u = (s.prstSt p 0).fput Fld.DMP_PRSTST_PENDING 1) :
    s.restartCmd p = ({ u with faults := { u.faults with restart := some p } } : State).each (boresOf (s.groupParts p))
      fun s b => if s.pstate b = psOff || s.pstate b = psActive then s else s.wake b wakeReset := by
  simp only [State.restartCmd, hpend, hup, hquiet, hidle, hworks, Bool.false_eq_true, if_false, Bool.not_true,
    Bool.or_self, ← hu]

/-- Settles O48: each command is its own operation, on the branch that the hypotheses open. -/
theorem contextCommandsComplete : Obligations.ContextCommandsComplete := by
  unfold Obligations.ContextCommandsComplete
  refine ⟨?rebuild, ?rebuildComplete, ?create, ?load, ?contextBinding, ?evict, ?evictionSave, ?prtStart, ?prtEnd,
    ?endingRelease, ?prtReset, ?destroy, ?contextStartDispatch, ?residencyArrival, ?ctxInval, ?invalidationComplete,
    ?partitionError, ?restart, ?partitionRestartComplete⟩
  case rebuild =>
    rintro who p subst u v s hopen hmay hpending hstage hany hbad hbusy hspare hu hv
    rw [exec_rebuild_open hopen hmay, State.rebuildCmd_of_free hpending hstage hany hbad hbusy hspare (hv.trans (by rw
      [hu]))]
  case rebuildComplete =>
    intro p fails r s hlive hrebuild hbegun hbypassWaits hany
    have hgo : ¬((!r.begun || s.bypassWaits (boresOf r.parts) || ((boresOf r.parts).filter fun b => !(b ∈ fails)).any
        fun b => s.pstate b ≠ psActive || s.inTransit b) = true) := by
      rw [hany, hbegun, hbypassWaits]
      decide
    cases hsubst : r.subst <;>
      simp only [exec, execRebuildComplete, ok, hlive, hrebuild, if_neg hgo, hsubst, Bool.false_eq_true, if_false]
  case create =>
    intro who c s hopen hmay hpending hcxState hleader hhomeFull
    rw [exec_create_eq, prtCmd_of_done hopen hmay hpending (State.rmDo_create hcxState hleader hhomeFull)]
  case load =>
    intro who c s hopen hmay hpending hcxState hhomeUp
    rw [exec_load_eq, prtCmd_of_done hopen hmay hpending (State.rmDo_load hcxState hhomeUp)]
  case contextBinding =>
    rintro c vs v u s hlive hisNext hallActive hany hparseImage hv hbindCopy
    simp only [exec, execContextBinding, ok, hlive, hisNext, hallActive, hany, hparseImage, ← hv, hbindCopy,
      Bool.not_true,
      Bool.false_eq_true, if_false]
  case evict =>
    intro who c s hopen hmay hpending hcxState hcxBusy
    rw [exec_evict_eq, prtCmd_of_done hopen hmay hpending (State.rmDo_evict hcxState hcxBusy)]
  case evictionSave =>
    intro c s hlive hisNext hcxState hquiet hallActive
    simp [exec, execEvictionSave, ok, hlive, hisNext, hcxState, hquiet, hallActive]
  case prtStart =>
    intro who c s hopen hmay hpending hcxState
    rw [exec_prtStart_eq, prtCmd_of_done hopen hmay hpending (State.rmDo_start hcxState)]
  case prtEnd =>
    intro who c s hopen hmay hpending hst
    rw [exec_prtEnd_eq, prtCmd_of_done hopen hmay hpending (State.rmDo_end hst)]
  case endingRelease =>
    intro c s hlive hisNext hcxState hquiet hallActive
    simp [exec, execEndingRelease, ok, hlive, hisNext, hcxState, hquiet, hallActive]
  case prtReset =>
    intro who c s hopen hmay hpending hcxState
    rw [exec_prtReset_eq, prtCmd_of_done hopen hmay hpending (State.rmDo_reset hcxState)]
  case destroy =>
    intro who c s hopen hmay hpending hcxState
    rw [exec_destroy_eq, prtCmd_of_done hopen hmay hpending (State.rmDo_destroy hcxState)]
  case contextStartDispatch =>
    intro b c s hlive hfind hchState hhreason hdispatchHeld hpstate
    simp [exec, execContextStartDispatch, ok, hlive, hfind, hchState, hhreason, hdispatchHeld, hpstate]
  case residencyArrival =>
    intro src c e d ib dq m u s harr
    simp [exec, execResidencyArrival, ok, harr]
  case ctxInval =>
    intro who c s hopen hmay hpending
    simp [exec, execCtxInval, ok, State.hubReg_open hopen, hmay, hpending, State.ctxInval]
  case invalidationComplete =>
    intro c s hlive hpending hctx haccessing
    simp [exec, execInvalidationComplete, ok, hlive, hpending, hctx, haccessing, when]
  case partitionError =>
    intro p code bore s
    simp [exec, execPartitionError, ok]
  case restart =>
    rintro who p u s hopen hmay hpending hup hquiet hidle hworks hu
    rw [exec, execRestart, hmay, State.hubReg_open hopen, State.restartCmd_of_quiet hpending hup hquiet hidle hworks
      hu, ok]
  case partitionRestartComplete =>
    rintro p u s hlive hrestart hall hu
    simp only [exec, execPartitionRestartComplete, ok, hlive, hrestart, hall, ← hu, ne_eq, not_true_eq_false,
      decide_false,
      Bool.not_true, Bool.or_self, Bool.false_eq_true, if_false]

end Sys2Proof.Machine
end

section
/-!
PROOFS. Crook links (R480 to R499): what the port commands, training and the flits do.
-/

namespace Sys2Proof.Machine

/-! ### CRK_CTRL (R497, R499) -/

section
variable {who : Requester} {k : Nat} {s : State}

/-- A write of CRK_CTRL that gets through. -/
theorem crkCtrl_open (hopen : s.hubOpen = true) (hmay : mayCrk who = true) (v : Nat) :
    crkCtrl who k v s = .next (s.crkCtrl k v) := by
  rw [crkCtrl, hmay, State.hubReg_open hopen, ok]

/-- The state of a port is no part of CRK_CTRL. -/
theorem State.ck_fput_enable (hk : k < 12) (v : Nat) : (s.fput Fld.CRK_CTRL_ENABLE v k).ck k = s.ck k :=
  State.fget_fput_unit _ (show k < 256 by omega) (by decide) (by decide) v (by decide)

/-- With ENABLE written 0 the port is DISABLED. -/
theorem State.crkCtrl_off : s.crkCtrl k 0 = (s.fput Fld.CRK_CTRL_ENABLE 0 k).putCk k ckDisabled := rfl

/-- With ENABLE written 1 a DISABLED port goes DOWN, RESET acts on a FAILED port, and RETRAIN on one that runs. -/
theorem State.crkCtrl_enabled (hk : k < 12) {v : Nat} (hv : bit v 0 = true) {u : State}
    (hu : u = s.fput Fld.CRK_CTRL_ENABLE 1 k) : s.crkCtrl k v =
      if s.ck k = ckDisabled then u.ckGoDown k else if bit v 2 then (if s.ck k = ckFailed then u.ckGoDown k else u)
      else if bit v 1 then u.ckRetrainGo k else u := by
  have hck : u.ck k = s.ck k := hu ▸ State.ck_fput_enable hk 1
  simp only [State.crkCtrl, hv, b2n, if_true, ← hu, hck, Bool.not_true, Bool.false_eq_true, if_false]

theorem State.crkCtrl_on (hk : k < 12) (hck : s.ck k = ckDisabled) :
    s.crkCtrl k 1 = (s.fput Fld.CRK_CTRL_ENABLE 1 k).ckGoDown k := by
  rw [State.crkCtrl_enabled hk (by decide) rfl, if_pos hck]

theorem State.crkCtrl_retrain (hk : k < 12) (hck : s.ck k ≠ ckDisabled) :
    s.crkCtrl k 3 = (s.fput Fld.CRK_CTRL_ENABLE 1 k).ckRetrainGo k := by
  rw [State.crkCtrl_enabled hk (by decide) rfl, if_neg hck, if_neg (by decide), if_pos (by decide)]

theorem State.crkCtrl_reset (hk : k < 12) (hck : s.ck k = ckFailed) :
    s.crkCtrl k 5 = (s.fput Fld.CRK_CTRL_ENABLE 1 k).ckGoDown k := by
  rw [State.crkCtrl_enabled hk (by decide) rfl, if_neg (by rw [hck]; decide), if_pos (by decide), if_pos hck]

/-! ### Flits (R481, R491, R492, R495) -/

/-- A change of a port is told by what it makes of the port as it is. -/
theorem State.upPort_congr {f g : Port → Port} (h : f (s.port k) = g (s.port k)) : s.upPort k f = s.upPort k g := by
  rw [State.upPort, h, State.upPort]

/-- The next flit to resend is the one with as many held after it as are left to resend. -/
theorem State.resendFlit_of_held {n : Nat} {f : Flit} {before after : List Flit}
    (hheld : (s.port k).held = before ++ f :: after) (hresend : (s.port k).resend = n + 1) (hlen : after.length = n) :
    s.resendFlit k =
      (s.upPort k fun p => { p with resend := n }).emitFlit k tyXfer f.seq f.vl f.part := by
  have hdrop : (s.port k).held.drop ((s.port k).held.length - (s.port k).resend) = f :: after := by
    rw [hheld, hresend]
    exact List.drop_left' (by simp only [List.length_append, List.length_cons]; omega)
  have hless : s.upPort k (fun p => { p with resend := p.resend - 1 }) = s.upPort k fun p => { p with resend := n } :=
    State.upPort_congr (by rw [hresend, Nat.add_sub_cancel])
  rw [State.resendFlit, hdrop]
  exact congrArg (fun t : State => t.emitFlit k tyXfer f.seq f.vl f.part) hless

/-- What a port that is UP sends: a flit to resend, else a new one while there is room to hold it, else IDLE. -/
theorem exec_flitTransmit_of_up (hlive : s.faults.frozen = false) (hck : s.ck k = ckUp) : exec (.flitTransmit k) s =
    if (s.port k).resend ≠ 0 then .next (s.resendFlit k) else if 4096 ≤ (s.port k).held.length then .next (s.emitIdle k)
    else match s.pickVl k with
      | some (vl, rot) => .next (s.sendFlit k vl rot)
      | none => .next (s.emitIdle k) := by
  have hup : ¬((decide (s.ck k = ckTraining) || decide (s.ck k = ckRetrain)) = true) := by rw [hck]; decide
  rw [exec, execFlitTransmit, if_neg (by simp [hlive]), if_neg hup, if_neg (not_not_intro hck)]
  rfl

/-- INIT_FLIT_RECEIVED by a port that is UP or retrains. -/
theorem exec_initFlitReceived_of_up {init : InitFlit} {u : State} (hck : s.ck k = ckUp ∨ s.ck k = ckRetrain)
    (hu : u = (s.takeInit k init).ckRetrainGo k) :
    exec (.initFlitReceived k init) s = .next (when (u.peerChanged k init) u (u.ckFail k 3)) := by
  have htrain : s.ck k ≠ ckTraining := by rcases hck with h | h <;> rw [h] <;> decide
  have hup : ¬((decide (s.ck k ≠ ckUp) && decide (s.ck k ≠ ckRetrain)) = true) := by
    rcases hck with h | h <;> rw [h] <;> decide
  rw [exec, execInitFlitReceived, if_neg htrain, if_neg hup, hu, ok]

/-- A transfer flit that arrives whole and in order is accepted. -/
theorem State.takeFlit_of_next {flit : RxFlit} {l : Link} {u : State} (hcrc : crcGood flit.bytes = true)
    (hl : l = linkOf flit.bytes) (htype : l.type = tyXfer) (hu : u = (s.fecCount k flit.cor flit.uncor).takeLink k l)
    (hlive : u.faults.frozen = false) (hseq : l.seq = u.fget Fld.CRK_REPLAY_EXPSEQ k) :
    s.takeFlit k flit = u.acceptFlit k l.vl (shareIn flit.bytes) := by
  have hinit : ¬tyXfer = tyInit := by decide
  have hidle : ¬tyXfer = tyIdle := by decide
  simp only [State.takeFlit, hcrc, ← hl, ← hu, htype, hinit, hidle, hlive, ← hseq, Bool.not_true, Bool.false_eq_true,
    if_false, lt_self_iff_false, decide_false, Bool.or_self, if_true]

end

/-- Settles O49: each command is its own operation, on the branch that the hypotheses open. -/
theorem crookLinkCommandsComplete : Obligations.CrookLinkCommandsComplete := by
  unfold Obligations.CrookLinkCommandsComplete
  refine ⟨?crkEnable1, ?crkEnable2, ?crkRetrain, ?crkReset, ?trainingComplete, ?trainingTimeout, ?retrainComplete,
    ?retrainTimeout, ?laneLockLoss, ?initFlitReceived1, ?initFlitReceived2, ?initFlitReceived3, ?flitReceived1,
    ?flitReceived2, ?replayTimeout, ?flitTransmit1, ?flitTransmit2, ?flitTransmit3, ?flitTransmit4⟩
  case crkEnable1 =>
    intro who k s hopen hmayCrk hck hk
    have hon : s.crkCtrl k (b2n true) = s.crkCtrl k 1 := rfl
    rw [exec, execCrkEnable, crkCtrl_open hopen hmayCrk, hon, State.crkCtrl_on hk hck]
  case crkEnable2 =>
    intro who k s hopen hmayCrk
    have hoff : s.crkCtrl k (b2n false) = s.crkCtrl k 0 := rfl
    rw [exec, execCrkEnable, crkCtrl_open hopen hmayCrk, hoff, State.crkCtrl_off]
  case crkRetrain =>
    intro who k s hopen hmayCrk henable hck hk
    rw [exec, execCrkRetrain, crkCtrl_open hopen hmayCrk, henable, State.crkCtrl_retrain hk hck]
  case crkReset =>
    intro who k s hopen hmayCrk henable hck hk
    rw [exec, execCrkReset, crkCtrl_open hopen hmayCrk, henable, State.crkCtrl_reset hk hck]
  case trainingComplete =>
    rintro k init u s hck rfl
    simp [exec, execTrainingComplete, ok, hck, lanes, laneAt]
  case trainingTimeout =>
    intro k s hck
    simp [exec, execTrainingTimeout, ok, hck, when]
  case retrainComplete =>
    rintro k init u s hck hpeerChanged rfl
    simp [exec, execRetrainComplete, ok, hck, hpeerChanged]
  case retrainTimeout =>
    intro k s hck
    simp [exec, execRetrainTimeout, ok, hck, when]
  case laneLockLoss =>
    intro k s hck
    simp [exec, execLaneLockLoss, ok, hck, State.free]
  case initFlitReceived1 =>
    intro k init s hck
    simp [exec, execInitFlitReceived, ok, hck]
  case initFlitReceived2 =>
    rintro k init u s hck hu hpeerChanged
    rw [exec_initFlitReceived_of_up hck hu, hpeerChanged]
    rfl
  case initFlitReceived3 =>
    rintro k init u s hck hu hpeerChanged
    rw [exec_initFlitReceived_of_up hck hu, hpeerChanged]
    rfl
  case flitReceived1 =>
    rintro k flit l u s hck hcrc hl htype hu hlive hseq
    simp only [exec, execFlitReceived, ok, when, hck, decide_true, if_true,
      State.takeFlit_of_next hcrc hl htype hu hlive hseq]
  case flitReceived2 =>
    intro k flit s hck hcrcGood
    simp [exec, execFlitReceived, ok, hck, hcrcGood, State.takeFlit, when, State.dropFlit]
  case replayTimeout =>
    intro k x rest s hlive hck hheld
    simp [exec, execReplayTimeout, ok, hlive, hck, hheld, when]
  case flitTransmit1 =>
    intro k vl rot s hlive hck hresend hlength hpickVl
    simp only [exec_flitTransmit_of_up hlive hck, hresend, ne_eq, not_true_eq_false, if_false, Nat.not_le.mpr hlength,
      hpickVl]
  case flitTransmit2 =>
    intro k n f before after s hlive hck hheld hresend hlength
    rw [exec_flitTransmit_of_up hlive hck, if_pos (by rw [hresend]; omega), State.resendFlit_of_held hheld hresend
      hlength]
  case flitTransmit3 =>
    intro k s hlive hck hresend hidle
    rw [exec_flitTransmit_of_up hlive hck, if_neg (not_not_intro hresend)]
    rcases hidle with hfull | hnone
    · rw [if_pos hfull, State.emitIdle]
    · rw [hnone, ite_self, State.emitIdle]
  case flitTransmit4 =>
    intro k s hlive hck
    simp [exec, execFlitTransmit, ok, hlive, hck]

end Sys2Proof.Machine
end

section
/-!
PROOFS. Crook transfers (R484 to R490): commands that reach a port, and the flits that leave its receive buffers.
-/

namespace Sys2Proof.Machine

/-! ### Commands (R484) -/

/-- A command that a port which neither is disabled, down nor failed takes in waits in its DQ. -/
theorem crookCommand_of_up {s u : State} {src e d : Endpoint} {c : XClass} {k x q b ch : Nat} {m : Message}
    {want : Nat → Bool} (hold : s.oldest .posted src (.crook k) = some (⟨c, e, d, .message x q m⟩, u))
    (hnack : m.nack = false) (horigin : m.origin = .here (.bore b ch)) (hq : q ≤ 2) (hwant : want q = true)
    (hck : s.ck k = ckUp) : crookCommand src k s want = .next (u.upPort k fun p =>
      if q = 0 then { p with dq0 := p.dq0 ++ [⟨m.words, b, ch⟩] }
      else if q = 1 then { p with dq1 := p.dq1 ++ [⟨m.words, b, ch⟩] }
      else { p with dq2 := p.dq2 ++ [⟨m.words, b, ch⟩] }) := by
  have hup : (decide (ckUp = ckDisabled) || decide (ckUp = ckDown) || decide (ckUp = ckFailed)) = false := by decide
  simp only [crookCommand, hold, hnack, horigin, hwant, hck, hup, Nat.not_lt.mpr hq, ok, decide_false, Bool.or_self,
    Bool.not_true, Bool.false_eq_true, if_false]

/-! ### The oldest flit of a lane -/

section
variable {p : Port} {x : RxPart} (hrx : p.rx = [x])
include hrx

theorem Port.rxHead_of_single {vl : Nat} (hvl : x.vl = vl) : p.rxHead vl = some x := by
  simp only [Port.rxHead, hrx, List.find?_cons, hvl, decide_true]

theorem Port.rxHead_of_other_lane {vl : Nat} (hvl : x.vl ≠ vl) : p.rxHead vl = none := by
  simp only [Port.rxHead, hrx, List.find?_cons, hvl, decide_false, List.find?_nil]

end

/-! ### A PUT of one flit into a window that is not forwarded (R487 to R489) -/

/-- Once a transfer has all of its data, nothing is left of it to come. -/
theorem RxCur.after_of_whole {c : RxCur} {x : Share} (hends : x.ends = false)
    (hlen : xferLen c.body ≤ c.got + x.data.length) : c.after x = none := by
  simp only [RxCur.after, hends, hlen, decide_true, Bool.or_true, if_true]

theorem State.putStep_of_other_lane {s : State} {k vl : Nat} {x : RxPart} (hrx : (s.port k).rx = [x])
    (hvl : x.vl ≠ vl) : s.putStep k vl = none := by
  simp only [State.putStep, Port.rxHead_of_other_lane hrx hvl, ite_self]

theorem State.putRun_one {s t : State} {k vl : Nat} (h : s.putStep k vl = some t) : s.putRun k vl 1 = t := by
  simp only [State.putRun, h, ite_self]

section
variable {s u : State} {k vl win putid len off rinc : Nat} {back : Bool} {w : WinCap} {x : Share} {st : AccStatus}

/-- A PUT that a window of this device accepts begins by being written. -/
theorem State.beginPut_of_window (hvalid : w.valid = true) (hfwd : w.fwd = false) (hroom : off + len ≤ 4096 * w.size) :
    s.beginPut k vl (.put back win putid len off rinc) w =
      some (⟨vl, .put back win putid len off rinc, w, .write, 0⟩, s) := by
  simp only [State.beginPut, winAccepts, hvalid, hfwd, hroom, decide_true, Bool.and_self, Bool.not_true,
    Bool.false_eq_true, if_false]

/-- A flit that brings all of a PUT is stored, and the PUT waits for its completion. -/
theorem State.putFlit_of_whole (hends : x.ends = false) (hlen : len ≤ x.data.length)
    (hwrite : s.spaceWrite .device (4096 * w.base + off) x.data = (st, u)) (hbad : st.bad = false) :
    s.putFlit k ⟨vl, .put back win putid len off rinc, w, .write, 0⟩ x =
      (u.putCur k vl none).upPort k fun p => { p with putsIn := p.putsIn ++ [⟨back, putid, rinc, w.wctx⟩] } := by
  have hafter : RxCur.after ⟨vl, .put back win putid len off rinc, w, .write, 0⟩ x = none :=
    RxCur.after_of_whole hends (by simpa only [xferLen, Nat.zero_add] using hlen)
  simp only [State.putFlit, hafter, hends, Nat.add_zero, hwrite, hbad, Bool.false_eq_true, if_false]

end

/-! ### A RED of one flit (R490) -/

section
variable {s : State} {k slot putid len eidx : Nat} {w : WinCap} {x : Share}

theorem State.beginRed_of_slot (hvalid : s.flag Fld.OVB_BCFG_VALID (slot / 4) (slot % 4) = true) :
    s.beginRed k (.red slot putid len eidx) w = some (⟨3, .red slot putid len eidx, w, .add false, 0⟩, s) := by
  rw [State.beginRed, if_pos hvalid]

/-- A flit that brings all of a RED is added to its slot, and the RED is acknowledged. -/
theorem State.redFlit_of_whole {u : State} (hends : x.ends = false) (hlen : len ≤ x.data.length)
    (hu : u = if (poisonWords x.data).isEmpty then s else s.poisonedSlot slot) :
    s.redFlit k ⟨3, .red slot putid len eidx, w, .add false, 0⟩ x =
      ((u.addRun (srcCrook k) slot (u.redIndex slot eidx 0) (plain x.data) (poisonWords x.data)).putCur k 3
        none).sendAck k true putid 0 := by
  have hafter : RxCur.after ⟨3, .red slot putid len eidx, w, .add false, 0⟩ x = none :=
    RxCur.after_of_whole hends (by simpa only [xferLen, Nat.zero_add] using hlen)
  have hpoison : (if (!(poisonWords x.data).isEmpty && !false) = true then s.poisonedSlot slot else s) = u := by
    rw [hu]
    cases (poisonWords x.data).isEmpty <;> rfl
  simp only [State.redFlit, hafter, hends, hpoison, Bool.false_eq_true, if_false]

theorem State.redRun_one {t : State} (h : s.redStep k = some t) : s.redRun k 1 = t := by
  simp only [State.redRun, h, ite_self]

end

/-- Settles O50: each command is its own operation, on the branch that the hypotheses open. -/
theorem crookTransferCommandsComplete : Obligations.CrookTransferCommandsComplete := by
  unfold Obligations.CrookTransferCommandsComplete
  refine ⟨?putCommand, ?redCommand, ?transferStart, ?putArrival1, ?putArrival2, ?putArrival3, ?putComplete,
    ?redArrival1, ?redArrival2, ?ackArrival, ?msgTransfer1, ?msgTransfer2, ?incTransfer, ?retTransfer, ?tagTransfer,
    ?auditTransfer, ?windowWrite1, ?windowWrite2⟩
  case putCommand =>
    intro src k c e d x q b ch m u s hlive harr hnack horigin hq hck
    rw [exec, execPutCommand, if_neg (by simp [hlive]),
      crookCommand_of_up harr hnack horigin (hq.trans (by decide)) (decide_eq_true hq) hck]
    obtain rfl | rfl : q = 0 ∨ q = 1 := by omega
    · rfl
    · rfl
  case redCommand =>
    intro src k c e d x b ch m u s hlive harr hnack horigin hck
    rw [exec, execRedCommand, if_neg (by simp [hlive]), crookCommand_of_up harr hnack horigin (le_refl 2) rfl hck]
    rfl
  case transferStart =>
    intro k dq c rest s hlive hdq hck hlength hxferBehind
    simp [exec, execTransferStart, ok, hlive, hdq, hck, hlength, hxferBehind]
  case putArrival1 =>
    intro k u s hlive hputStep
    simp [exec, execPutArrival, ok, hlive, hputStep]
  case putArrival2 =>
    intro k u s hlive hputStep hputStep2
    simp [exec, execPutArrival, ok, hlive, hputStep, hputStep2]
  case putArrival3 =>
    intro k vl win putid len off rinc back owed x w st u s hlive hvl hrx hmayLeave hbehind hvalid hfwd hoff hends hlen
      hspaceWrite hbad
    have hhead : (s.port k).rxHead vl = some ⟨vl, x, some (.put back win putid len off rinc, w), owed⟩ :=
      Port.rxHead_of_single hrx rfl
    have hstep : s.putStep k vl = some (((u.putCur k vl none).upPort k fun p =>
        { p with putsIn := p.putsIn ++ [⟨back, putid, rinc, w.wctx⟩] }).leave k vl) := by
      rw [State.putStep, if_neg (by simp [hmayLeave, hbehind]), hhead]
      simp only [State.beginPut_of_window hvalid hfwd hoff, Option.map_some,
        State.putFlit_of_whole hends hlen hspaceWrite hbad]
    rw [exec, execPutArrival, if_neg (by simp [hlive]), hrx]
    obtain rfl | rfl : vl = 0 ∨ vl = 1 := by omega
    · rw [hstep, ← State.putRun_one hstep]
      rfl
    · rw [State.putStep_of_other_lane hrx (vl := 0) Nat.one_ne_zero, hstep, ← State.putRun_one hstep]
      rfl
  case putComplete =>
    intro k w rest s hlive hck hputsIn hbehind
    simp [exec, execPutComplete, ok, hlive, hck, hputsIn, hbehind]
  case redArrival1 =>
    intro k s hlive
    simp [exec, execRedArrival, ok, hlive]
  case redArrival2 =>
    rintro k slot putid len eidx owed x w u s hlive hrx hmayLeave hbehind hvalid hends hlen hu
    have hhead : (s.port k).rxHead 3 = some ⟨3, x, some (.red slot putid len eidx, w), owed⟩ :=
      Port.rxHead_of_single hrx rfl
    have hstep : s.redStep k = some ((((u.addRun (srcCrook k) slot (u.redIndex slot eidx 0) (plain x.data)
        (poisonWords x.data)).putCur k 3 none).sendAck k true putid 0).leave k 3) := by
      rw [State.redStep, if_neg (by simp [hmayLeave, hbehind]), hhead]
      simp only [State.beginRed_of_slot hvalid, Option.map_some, State.redFlit_of_whole hends hlen hu]
    rw [exec, execRedArrival, if_neg (by simp [hlive]), hrx, ← State.redRun_one hstep]
    rfl
  case ackArrival =>
    intro k good putid reason u s hlive hbehind hrxTake
    simp [exec, execAckArrival, ok, hlive, hbehind, hrxTake]
  case msgTransfer1 =>
    intro k did q m u s hlive hrxTake
    simp [exec, execMsgTransfer, ok, hlive, hrxTake, State.free]
  case msgTransfer2 =>
    intro k did n u s hlive hrxTake
    simp [exec, execMsgTransfer, ok, hlive, hrxTake]
  case incTransfer =>
    intro k did q i u s hlive hrxTake
    simp [exec, execIncTransfer, ok, hlive, hrxTake]
  case retTransfer =>
    intro k rkind b ch oc p u s hlive hrxTake hretPacket
    simp [exec, execRetTransfer, ok, hlive, hrxTake, hretPacket]
  case tagTransfer =>
    intro k p m u s hlive hrxTake01
    simp [exec, execTagTransfer, ok, hlive, hrxTake01]
  case auditTransfer =>
    intro k did q b ch u s hlive hrxTake
    simp [exec, execAuditTransfer, ok, hlive, hrxTake]
  case windowWrite1 =>
    rintro who k w second val u s hopen hmayCrk rfl hwinRange
    simp [exec, execWindowWrite, ok, State.hubReg_open hopen, hmayCrk, hwinRange, State.writeWindow]
  case windowWrite2 =>
    rintro who k w second val u s hopen hmayCrk rfl hwinRange
    simp [exec, execWindowWrite, ok, State.hubReg_open hopen, hmayCrk, hwinRange, State.writeWindow]

end Sys2Proof.Machine
end

section
/-!
PROOFS. The host rings (R516 to R544): writes to a doorbell page, commands of a virtual function, and the tables.
-/

namespace Sys2Proof.Machine

/-! ### Writes to a doorbell page (R516) -/

section
variable {s : State} {fn off c d q r : Nat} (hpage : s.pageCtx fn off = some c) (hflr : s.ctxFn c ∉ s.hif.flr)
  (hopen : s.hubOpen = true)
include hpage hflr hopen

/-- A write at a doorbell's offset rings it. -/
theorem State.bar2Write_doorbell {words : List Word32} (hoff : off % 4096 = 256 * d) (hd : d < 8)
    (hone : 1 ≤ words.length) (hfour : words.length ≤ 4) : s.bar2Write fn off words true = s.ring fn c d words := by
  have hlow : 256 * d < 0x800 := by omega
  have hat : 256 * d % 256 = 0 := by omega
  have hdiv : 256 * d / 256 = d := by omega
  simp only [State.bar2Write, hpage, hflr, hopen, hoff, hlow, hat, hdiv, hone, hfour, decide_false, Bool.not_true,
    Bool.or_self, Bool.false_eq_true, if_false, if_true, decide_true, Bool.and_self]

/-- A write of bit 0 at a doorbell's status clears it. -/
theorem State.bar2Write_status {val : Word32} (hoff : off % 4096 = 256 * d + 8) (hd : d < 8)
    (hval : val.getLsbD 0 = true) :
    s.bar2Write fn off [val] true = s.upBell (8 * c + d) fun x => { x with orphan := false, drops := 0 } := by
  have hlow : 256 * d + 8 < 0x800 := by omega
  have hat : (256 * d + 8) % 256 = 8 := by omega
  have hdiv : (256 * d + 8) / 256 = d := by omega
  simp [State.bar2Write, hpage, hflr, hopen, hoff, hlow, hat, hdiv, -BitVec.getLsbD_eq_getElem, hval]

/-- A write to the page's upper half goes to the ring that its offset names. -/
theorem State.bar2Write_ring {val : Word32} {o : Nat} (hoff : off % 4096 = 0x800 + 0x40 * q + o) (ho : o < 0x40)
    (hring : s.ringOf c q = some r) : s.bar2Write fn off [val] true =
      if o = 0 then s.headWrite r val
      else if o = 8 then (if val.getLsbD 0 then s.upRing r fun x => { x with arm := true } else s) else s := by
  have hhigh : ¬0x800 + 0x40 * q + o < 0x800 := by omega
  have hq : (0x800 + 0x40 * q + o) % 0x800 / 0x40 = q := by omega
  have hat : (0x800 + 0x40 * q + o) % 0x40 = o := by omega
  simp only [State.bar2Write, hpage, hflr, hopen, hoff, hhigh, hq, hat, hring, decide_false, Bool.not_true,
    Bool.or_self, Bool.false_eq_true, if_false, List.getD_cons_zero]

end

/-- A doorbell with credit left takes one and its message waits to be forwarded. -/
theorem State.ring_of_credit {s u : State} {fn c d : Nat} {words : List Word32}
    (hvalid : s.flag Fld.HIF_DBR_VALID 0 (8 * c + d) = true) (hcred : 0 < (s.bell1 (8 * c + d)).cred)
    (hu : u = s.upBell (8 * c + d) fun x => { x with cred := x.cred - 1 }) : s.ring fn c d words =
      { u with hif := { u.hif with dbq := u.hif.dbq ++ [⟨fn, c, d, ⟨words, s.fget Fld.HIF_DBR_TAG 0 (8 * c + d), 0,
        .here (.doorbell (8 * c + d)), 4, false, 0, none, c⟩⟩] } } := by
  simp only [State.ring, hvalid, hcred, decide_true, Bool.and_self, if_true, ← hu]

/-! ### The commands of a virtual function (R529) -/

/-- A command of a virtual function on a context of its range leaves what its operation leaves, and reports. -/
theorem State.vcmd_of_done {s t : State} {v op i c st : Nat} (hv : v ≠ 0) (hexists : s.fnExists v = true)
    (hpend : s.flag Fld.HIF_VCMDST_PENDING v = false) (hctx : s.vfCtx v i = some c) (hop : ¬(op < 3 ∨ 7 < op))
    (hdo : s.rmDo op c = (t, st)) : s.vcmd v op i = t.vcmdSt v op c st := by
  have hop' : ¬((decide (op < 3) || decide (7 < op)) = true) := by simpa using hop
  simp only [State.vcmd, hv, hexists, hpend, hctx, hop', hdo, decide_false, Bool.not_true, Bool.or_self,
    Bool.false_eq_true, if_false]

/-! ### The tables (R537, R538) -/

/-- VFMAP takes a range of at most 64 contexts that lies in the device and meets no other function's, while no context
of the old range or the new one is active. -/
theorem State.writeVfmap_of_free {s : State} {v : Nat} {val : Word64} {new old : Nat × Nat} (hv : v ≠ 0)
    (hnew : new = vfRange val) (hold : old = vfRange (s.rget .HIF_VFMAP 0 v))
    (hidleOld : ∀ i, i < old.2 → s.cxActive (old.1 + i) = false)
    (hidleNew : ∀ i, i < new.2 → s.cxActive (new.1 + i) = false) (hflr : v ∉ s.hif.flr)
    (hroom : new.1 + new.2 ≤ 1024) (hlen : new.2 ≤ 64)
    (hapart : ∀ u, u < 256 → u ≠ v → u ≠ 0 → overlaps new (vfRange (s.rget .HIF_VFMAP 0 u)) = false) :
    s.writeVfmap v val = (s.rput .HIF_VFMAP (Reg.HIF_VFMAP.merge (s.rget .HIF_VFMAP 0 v) val) 0 v).hifSt hifOk := by
  have hidle {r : Nat × Nat} (h : ∀ i, i < r.2 → s.cxActive (r.1 + i) = false) :
      ((List.range r.2).any fun i => s.cxActive (r.1 + i)) = false := by
    simpa only [List.any_eq_false, List.mem_range, Bool.not_eq_true] using h
  have hmeet : ((List.range 256).any fun u =>
      u ≠ v && u ≠ 0 && overlaps new (vfRange (s.rget .HIF_VFMAP 0 u))) = false := by
    simpa [List.any_eq_false, List.mem_range] using hapart
  simp only [State.writeVfmap, hv, ← hnew, ← hold, hidle hidleOld, hidle hidleNew, hflr, Nat.not_lt.mpr hroom,
    Nat.not_lt.mpr hlen, hmeet, decide_false, Bool.or_self, Bool.false_eq_true, if_false]

/-- Settles O51: each command is its own operation, on the branch that the hypotheses open. -/
theorem hostRingCommandsComplete : Obligations.HostRingCommandsComplete := by
  unfold Obligations.HostRingCommandsComplete
  refine ⟨?doorbell, ?doorbellForward, ?doorbellStatusClear, ?headWrite, ?armWrite, ?hostMessageArrival, ?vfLoad,
    ?vfEvict, ?vfStart, ?vfEnd, ?vfReset, ?vfmapWrite, ?dbrWrite, ?hringWrite, ?ctxhWrite⟩
  case doorbell =>
    rintro fn off words c d u s hpage hflr hopen hoff hd hone hfour hvalid hcred hu
    rw [exec, execDoorbell, if_neg Bool.false_ne_true, State.bar2Write_doorbell hpage hflr hopen hoff hd hone hfour,
      State.ring_of_credit hvalid hcred hu, ok]
  case doorbellForward =>
    intro fn x s hlive hfind
    simp [exec, execDoorbellForward, ok, hlive, hfind]
  case doorbellStatusClear =>
    intro fn off val c d s hpageCtx hctxFn hopen hoff hd hgetLsbD
    rw [exec, execDoorbellStatusClear, State.bar2Write_status hpageCtx hctxFn hopen hoff hd hgetLsbD, ok]
  case headWrite =>
    intro fn off val c q r s hpageCtx hctxFn hopen hoff hringOf
    rw [exec, execHeadWrite, State.bar2Write_ring (o := 0) hpageCtx hctxFn hopen hoff (by decide) hringOf, if_pos rfl,
      ok]
  case armWrite =>
    intro fn off val c q r s hpageCtx hctxFn hopen hoff hringOf hgetLsbD
    have hoff8 : off % 4096 = 0x800 + 0x40 * q + 8 := by omega
    rw [exec, execArmWrite, State.bar2Write_ring hpageCtx hctxFn hopen hoff8 (by decide) hringOf, if_neg (by decide),
      if_pos rfl,
      if_pos hgetLsbD, ok]
  case hostMessageArrival =>
    intro src c e d x q m u s harr
    simp [exec, execHostMessageArrival, ok, harr]
  case vfLoad =>
    intro vf i c s hlive hvf hfnExists hpending hvfCtx hcxState hhomeUp
    rw [exec, execVfLoad, if_neg (by simp [hlive]), State.vcmd_of_done hvf hfnExists hpending hvfCtx (by decide)
      (State.rmDo_load hcxState hhomeUp), ok]
  case vfEvict =>
    intro vf i c s hlive hvf hfnExists hpending hvfCtx hcxState hcxBusy
    rw [exec, execVfEvict, if_neg (by simp [hlive]), State.vcmd_of_done hvf hfnExists hpending hvfCtx (by decide)
      (State.rmDo_evict hcxState hcxBusy), ok]
  case vfStart =>
    intro vf i c s hlive hvf hfnExists hpending hvfCtx hcxState
    rw [exec, execVfStart, if_neg (by simp [hlive]), State.vcmd_of_done hvf hfnExists hpending hvfCtx (by decide)
      (State.rmDo_start hcxState), ok]
  case vfEnd =>
    intro vf i c s hlive hvf hfnExists hpending hvfCtx hst
    rw [exec, execVfEnd, if_neg (by simp [hlive]), State.vcmd_of_done hvf hfnExists hpending hvfCtx (by decide)
      (State.rmDo_end hst), ok]
  case vfReset =>
    intro vf i c s hlive hvf hfnExists hpending hvfCtx hcxState
    rw [exec, execVfReset, if_neg (by simp [hlive]), State.vcmd_of_done hvf hfnExists hpending hvfCtx (by decide)
      (State.rmDo_reset hcxState), ok]
  case vfmapWrite =>
    rintro who vf val new old s hopen hmay hvf hnew hold hidleOld hidleNew hflr hroom hlen hapart
    rw [exec, execVfmapWrite, hmay, State.hubReg_open hopen,
      State.writeVfmap_of_free hvf hnew hold hidleOld hidleNew hflr hroom hlen hapart, ok]
  case dbrWrite =>
    rintro who r val u s hopen hmay hfree hu
    have hidle : ¬((s.flag Fld.HIF_DBR_VALID 0 r && decide ((s.bell1 r).cred ≠ s.fget Fld.HIF_DBR_GRANT 0 r)) = true)
      := by
      rcases hfree with h | h <;> simp [h]
    simp only [exec, execDbrWrite, hmay, State.hubReg_open hopen, State.writeDbr, if_neg hidle, ← hu, ok]
  case hringWrite =>
    rintro who r val u s hopen hmay hvalid rfl
    simp [exec, execHringWrite, ok, State.hubReg_open hopen, hmay, hvalid, State.writeHring]
  case ctxhWrite =>
    intro who c val s hopen hmay hcxState hbits
    have hst : (!(decide (s.cxState c = cxFree) || decide (s.cxState c = cxIdle) || decide (s.cxState c = cxEnded))) =
      false := by
      rcases hcxState with h | h | h <;> simp [h]
    simp only [exec, execCtxhWrite, hmay, State.hubReg_open hopen, State.writeCtxh, hst, Nat.not_lt.mpr hbits, ok,
      Bool.false_eq_true, if_false]

end Sys2Proof.Machine
end

section
/-!
PROOFS. The host link (R508 to R540): configuration requests, resets, read completions and MSI-X.
-/

namespace Sys2Proof.Machine

/-! ### Configuration requests (R508, R530) -/

section
variable {s u : State} (hready : s.cfgReady = true) (hu : u = { s with hif := { s.hif with retry := false } })
include hready hu

/-- What a request does once the function answers configuration: `u` is the state with no retry asked for. -/
theorem exec_configRequest_of_ready (fn : Nat) (op : ConfigOp) : exec (.configRequest fn op) s =
    if !u.fnExists fn then .next { u.pcie aerUnsupported fn 0 none with rdata := 0xFFFFFFFF }
    else match op with
      | .read off => .next (u.configDword fn off)
      | .readField f => .next { u with rdata := u.cfgField fn f }
      | .option o => .next { u with rdata := if hasOption fn o then 1 else 0 }
      | .writeField f v => .next (u.cfgWrite fn f v) := by
  have hgo : ¬((!s.cfgReady) = true) := by simp [hready]
  rw [exec, execConfigRequest, if_neg hgo, ← hu]
  rfl

theorem exec_configRequest_none {fn : Nat} (hfn : s.fnExists fn = false) (op : ConfigOp) :
    exec (.configRequest fn op) s = .next { u.pcie aerUnsupported fn 0 none with rdata := 0xFFFFFFFF } := by
  have hnone : u.fnExists fn = false := hu ▸ hfn
  rw [exec_configRequest_of_ready hready hu, hnone]
  rfl

theorem exec_configRequest_readField {fn : Nat} (hfn : s.fnExists fn = true) (f : CfgField) :
    exec (.configRequest fn (.readField f)) s = .next { u with rdata := s.cfgField fn f } := by
  have hexists : u.fnExists fn = true := hu ▸ hfn
  have hfield : u.cfgField fn f = s.cfgField fn f := by rw [hu]; cases f <;> rfl
  rw [exec_configRequest_of_ready hready hu, hexists, ← hfield]
  rfl

/-- The physical function takes a number of virtual functions up to TotalVFs, which is 255 unless the boot has
failed. -/
theorem exec_configRequest_numVfs {n : Nat} (hn : n ≤ 255) (hstage : s.fget Fld.DRN_BOOT_STAGE ≠ 8) :
    exec (.configRequest 0 (.writeField .numVfs n)) s = .next (u.fput Fld.HIF_LINK_NUMVF n) := by
  have hexists : u.fnExists 0 = true := decide_eq_true (Nat.zero_le _)
  have htotal : u.totalVfs = 255 := by
    rw [hu]
    exact if_neg hstage
  have hwrite : u.cfgWrite 0 .numVfs n = u.fput Fld.HIF_LINK_NUMVF n := by
    simp only [State.cfgWrite, htotal, hn, decide_true, Bool.and_self, if_true]
  rw [exec_configRequest_of_ready hready hu, hexists, ← hwrite]
  rfl

end

/-! ### Answers to reads of the host (R526) -/

section
variable {s u : State} {dst : Endpoint} {x : HostRead} {rest : List HostRead}
  (hout : firstOut dst s.hif.reads = some (x, rest)) (hu : u = { s with hif := { s.hif with reads := rest } })
include hout hu

/-- The bytes of the answer, filled up with zeros to the length asked for. -/
theorem State.hostAnswer_data (data : List Byte) : s.hostAnswer dst none data = u.send .completion .host (accEnd x.who)
    (.readData x.who x.id x.addr ((data ++ List.replicate x.len 0).take x.len) .ok) := by
  simp only [State.hostAnswer, hout, ← hu, State.answerRead]

/-- An answer that is an error returns UNMAPPED and is reported. -/
theorem State.hostAnswer_error (aer : Nat) : s.hostAnswer dst (some aer) [] = (u.send .completion .host (accEnd x.who)
    (.readData x.who x.id x.addr (List.replicate x.len 0) .unmapped)).pcie aer x.fn x.addr (ctxOpt x.ctx) := by
  simp only [State.hostAnswer, hout, ← hu, State.failRead, State.answerRead]

end

/-- Settles O52: each command is its own operation, on the branch that the hypotheses open. -/
theorem hostLinkCommandsComplete : Obligations.HostLinkCommandsComplete := by
  unfold Obligations.HostLinkCommandsComplete
  refine ⟨?bar4Access1, ?bar4Access2, ?configRequest1, ?configRequest2, ?configRequest3, ?configRequest4, ?flr,
    ?flrComplete, ?hostReset, ?hostResetComplete, ?linkUp, ?hostReadCompletion1, ?hostReadCompletion2,
    ?completionTimeout, ?msixVectorUnmask1, ?msixVectorUnmask2, ?msixVectorUnmask3⟩
  case bar4Access1 =>
    intro off len s
    simp [exec, execBar4Access, ok]
  case bar4Access2 =>
    intro off len l s
    simp [exec, execBar4Access, ok]
  case configRequest1 =>
    intro n s hcfgReady hn hstage
    exact exec_configRequest_numVfs hcfgReady rfl hn hstage
  case configRequest2 =>
    intro fn f s hcfgReady hfnExists
    exact exec_configRequest_readField hcfgReady rfl hfnExists f
  case configRequest3 =>
    intro fn op s hcfgReady hfnExists
    exact exec_configRequest_none hcfgReady rfl hfnExists op
  case configRequest4 =>
    intro fn op s hcfgReady
    simp [exec, execConfigRequest, ok, hcfgReady]
  case flr =>
    rintro vf u s hvf hfnExists hu
    have hgo : ¬((decide (vf = 0) || !s.fnExists vf) = true) := by simp [hvf, hfnExists]
    rw [exec, execFlr, if_neg hgo, hu]
    rfl
  case flrComplete =>
    intro vf s
    simp [exec, execFlrComplete, ok]
  case hostReset =>
    intro linkDown s
    simp [exec, execHostReset, ok, State.hostReset]
  case hostResetComplete =>
    intro s hinReset
    simp [exec, execHostResetComplete, ok, hinReset, when]
  case linkUp =>
    rintro flit speed width u s hpow hstage rfl
    simp [exec, execLinkUp, ok, hpow, hstage]
  case hostReadCompletion1 =>
    intro dst data x rest s hfirstOut
    rw [exec, execHostReadCompletion, State.hostAnswer_data hfirstOut rfl, ok]
  case hostReadCompletion2 =>
    intro dst data x rest st s hfirstOut hst
    cases st with
    | ok => exact absurd rfl hst
    | ur => exact congrArg ok (State.hostAnswer_error hfirstOut rfl aerUnsupported)
    | ca => exact congrArg ok (State.hostAnswer_error hfirstOut rfl aerAbort)
  case completionTimeout =>
    intro dst x rest s hfirstOut
    rw [exec, execCompletionTimeout, State.hostAnswer_error hfirstOut rfl, ok]
  case msixVectorUnmask1 =>
    rintro fn vec u s hvec hfnExists rfl
    simp [exec, execMsixVectorUnmask, ok, hvec, hfnExists]
  case msixVectorUnmask2 =>
    intro fn vec s hvec hfnExists
    simp [exec, execMsixVectorUnmask, ok, hvec, hfnExists]
  case msixVectorUnmask3 =>
    intro fn vec a d s hvec hfnExists
    simp [exec, execMsixVectorUnmask, ok, hvec, hfnExists]

end Sys2Proof.Machine
end

section
/-!
PROOFS. The power states of a bore (R549 to R575): what tokens, wakes, entries and the power commands do.
-/

namespace Sys2Proof.Machine

/-! ### SLEEP and DEEP (R557) -/

theorem State.pstate_upPower (s : State) (b c : Nat) (f : Power → Power) : (s.upPower b f).pstate c = s.pstate c := rfl

section
variable {s : State} {b : Nat}

/-- A command that waits to be met leaves the state of the bore. -/
theorem State.pstate_bpPend (hb : b < 64) : (s.bpPend b).pstate b = s.pstate b := by
  have hk : b < 65536 := by omega
  simp (disch := decide) only [State.bpPend, State.pstate, State.fget_fput_unit _ (show 0 < 256 by decide)
    (show 0 < 65536 by decide) hk]

/-- SLEEP or DEEP of a quiet ACTIVE bore waits to be met, and the bore goes IDLE first. -/
theorem State.bpDown_of_active {p : Nat} (hb : b < 64) (hst : s.pstate b = psActive) (htransit : s.inTransit b = false)
    (hquiet : s.boreQuiet b = true) (hp : psActive < p) :
    s.bpDown b p = ((s.bpPend b).upPower b fun w => { w with goal := some p }).goIdle b := by
  have hbusy : ¬((s.inTransit b || !s.boreQuiet b) = true) := by simp [htransit, hquiet]
  have hst' : ((s.bpPend b).upPower b fun w => { w with goal := some p }).pstate b = psActive := by
    rw [State.pstate_upPower, State.pstate_bpPend hb, hst]
  rw [State.bpDown, if_neg (by rw [hst]; decide), if_neg hbusy, if_neg (by rw [hst]; exact Nat.not_le.mpr hp)]
  exact if_pos hst'

end

/-- Settles O53: each command is its own operation, on the branch that the hypotheses open. -/
theorem powerStateCommandsComplete : Obligations.PowerStateCommandsComplete := by
  unfold Obligations.PowerStateCommandsComplete
  refine ⟨?tokenCredit, ?fllRetargetComplete, ?quietTimeout, ?idleTimeout, ?sleepTimeout, ?powerStateEntryComplete,
    ?wakeTrigger, ?wakeComplete, ?bpcmdWake, ?bpcmdSleep, ?bpcmdDeep, ?bpcmdOff, ?bpcmdOn, ?retirementDrained,
    ?retirementAbandon, ?drainIntervalEnd, ?stubAnswer, ?leaveOffComplete, ?wakefail⟩
  case tokenCredit =>
    intro m rest s hlive hmoves
    simp [exec, execTokenCredit, ok, hlive, hmoves]
  case fllRetargetComplete =>
    intro b s hlive hpstate
    simp [exec, execFllRetargetComplete, ok, hlive, hpstate, when]
  case quietTimeout =>
    intro b s hlive hpstate hinTransit hboreQuiet
    simp [exec, execQuietTimeout, ok, hlive, hpstate, hinTransit, hboreQuiet, when]
  case idleTimeout =>
    intro b s hlive hpstate hinTransit hsleept
    simp [exec, execIdleTimeout, ok, hlive, hpstate, hinTransit, hsleept, when]
  case sleepTimeout =>
    intro b s hlive hpstate hinTransit hdeept
    simp [exec, execSleepTimeout, ok, hlive, hpstate, hinTransit, hdeept, when]
  case powerStateEntryComplete =>
    rintro b p u s hlive hentering hretReq hgoal hheld rfl
    simp [exec, execPowerStateEntryComplete, ok, hlive, hentering, hretReq, hgoal, hheld, State.entered]
  case wakeTrigger =>
    intro b code rest s hlive htakeTrigger
    simp [exec, execWakeTrigger, ok, hlive, htakeTrigger]
  case wakeComplete =>
    intro b s hlive hwaking
    simp [exec, execWakeComplete, ok, hlive, hwaking]
  case bpcmdWake =>
    intro who b s hpow hmay hpending hstage hpstate hpstate2
    simp [exec, execBpcmdWake, ok, State.drnReg_open hpow, hmay, hpending, hstage, hpstate, hpstate2, State.bpCmd,
      State.bpWake]
  case bpcmdSleep =>
    intro who b s hb hpow hmay hpending hstage hpstate hinTransit hboreQuiet
    rw [exec_bpcmdSleep_powered hpow hmay, State.bpCmd_of_ready b _ hpending hstage,
      State.bpDown_of_active hb hpstate hinTransit hboreQuiet (by decide)]
  case bpcmdDeep =>
    intro who b s hb hpow hmay hpending hstage hpstate hinTransit hboreQuiet
    rw [exec_bpcmdDeep_powered hpow hmay, State.bpCmd_of_ready b _ hpending hstage,
      State.bpDown_of_active hb hpstate hinTransit hboreQuiet (by decide)]
  case bpcmdOff =>
    intro who b s hpow hmay hpending hstage hpstate hany hentering hwaking
    simp [exec, execBpcmdOff, ok, State.drnReg_open hpow, hmay, hpending, hstage, hpstate, hany, hentering, hwaking,
      State.bpCmd, State.bpOff]
  case bpcmdOn =>
    intro who b s hpow hmay hpending hstage hpstate hleaving
    simp [exec, execBpcmdOn, ok, State.drnReg_open hpow, hmay, hpending, hstage, hpstate, hleaving, State.bpCmd,
      State.bpOn]
  case retirementDrained =>
    intro b s hlive hretire hworkDone
    simp [exec, execRetirementDrained, ok, hlive, hretire, hworkDone, when]
  case retirementAbandon =>
    intro b s hlive hretire hworkDone
    simp [exec, execRetirementAbandon, ok, hlive, hretire, hworkDone, when]
  case drainIntervalEnd =>
    intro b s hlive hretire
    simp [exec, execDrainIntervalEnd, ok, hlive, hretire, when]
  case stubAnswer =>
    intro src b x u v f s hpstate harr hstub
    simp [exec, execStubAnswer, ok, hpstate, harr, hstub]
  case leaveOffComplete =>
    intro b code s hlive hleaving hon hany
    simp [exec, execLeaveOffComplete, ok, hlive, hleaving, hon, hany]
  case wakefail =>
    intro b s hlive hwaking
    simp [exec, execWakefail, ok, hlive, hwaking, when]

end Sys2Proof.Machine
end

section
/-!
PROOFS. The drone's supervision (R547 to R579, R748): what the bellows, thermal readings, alerts, fans and ticks do.
-/

namespace Sys2Proof.Machine

/-- A hottest reading below the shutdown temperature is not at it. -/
theorem any_le_of_all_lt {hot : Option (Nat × Int)} {c : Int} (h : hot.all (fun x => x.2 < c) = true) :
    hot.any (fun x => c ≤ x.2) = false := by
  cases hot with
  | none => rfl
  | some x => simpa using h

/-- Settles O54: each command is its own operation, on the branch that the hypotheses open. -/
theorem droneCommandsComplete : Obligations.DroneCommandsComplete := by
  unfold Obligations.DroneCommandsComplete
  refine ⟨?bellowsPeriod, ?blwLimitWrite, ?thermalReading, ?powerSum, ?pmbusPoll, ?pmbAlert, ?fanFail, ?refclkLoss,
    ?refclkRestore, ?droneTick⟩
  case bellowsPeriod =>
    intro s hlive
    simp [exec, execBellowsPeriod, ok, hlive]
  case blwLimitWrite =>
    rintro who val n u s hopen hmay rfl hn hn2 hminBudget rfl
    simp [exec, execBlwLimitWrite, ok, State.hubReg_open hopen, hmay, hn, hn2, hminBudget, State.writeLimit]
  case thermalReading =>
    rintro temps u hot c v w s hdroneOn hlength hu hhot hc hv hw hall
    obtain ⟨cap, ms⟩ := c
    dsimp only at hv hw
    have htake : temps.take 16 = temps := List.take_of_length_le (le_of_eq hlength)
    simp only [exec, execThermalReading, ok, hdroneOn, htake, ← hu, ← hhot, ← hc, ← hv, ← hw, any_le_of_all_lt hall,
      Bool.not_true, Bool.false_eq_true, if_false, Bool.false_and]
  case powerSum =>
    rintro n c u s hdroneOn rfl rfl rfl
    simp [exec, execPowerSum, ok, hdroneOn]
  case pmbusPoll =>
    intro reads s hdroneOn
    simp [exec, execPmbusPoll, ok, hdroneOn, when]
  case pmbAlert =>
    intro reads s hdroneOn
    simp [exec, execPmbAlert, ok, hdroneOn, when]
  case fanFail =>
    intro f rpm s hdroneOn hf hrpm
    simp [exec, execFanFail, ok, hdroneOn, hf, hrpm]
  case refclkLoss =>
    intro s hdroneOn
    simp [exec, execRefclkLoss, ok, hdroneOn]
  case refclkRestore =>
    intro s hdroneOn
    simp [exec, execRefclkRestore, ok, hdroneOn, when]
  case droneTick =>
    intro s hdroneOn
    simp [exec, execDroneTick, ok, hdroneOn, when]

end Sys2Proof.Machine
end

section
/-!
PROOFS. Resets and the cold start (R585 to R609): what resets, boot stages and the debug console do.
-/

namespace Sys2Proof.Machine

/-- All eight HBM channels trained set every bit of HBMOK. -/
theorem trained_all : ((List.range 8).filter fun h => h ∈ List.range 8) = List.range 8 ∧
    (List.range 8).foldl (fun n h => n + 2 ^ h) 0 = 0xFF := by decide

/-- Settles O55: each command is its own operation, on the branch that the hypotheses open. -/
theorem coldStartCommandsComplete : Obligations.ColdStartCommandsComplete := by
  unfold Obligations.ColdStartCommandsComplete
  refine ⟨?coldReset, ?porstNAssert, ?warmReset1, ?warmReset2, ?warmReset3, ?mainRailLoss, ?alwaysOnRailLoss,
    ?railSequence, ?railSequenceTimeout, ?firmwareVerify, ?fuseApply, ?hbmTraining, ?hostready, ?selfTest,
    ?capabilityPublish, ?reboot, ?svnlock, ?challenge, ?submit, ?relock, ?nonceExpiry, ?consoleRelease⟩
  case coldReset =>
    intro strap s
    simp [exec, execColdReset, ok]
  case porstNAssert =>
    intro s
    simp [exec, execPorstNAssert, ok]
  case warmReset1 =>
    intro b s
    simp [exec, execWarmReset, ok]
  case warmReset2 =>
    intro p s
    simp [exec, execWarmReset, ok]
  case warmReset3 =>
    intro s
    simp [exec, execWarmReset, ok]
  case mainRailLoss =>
    intro s
    exact ⟨s.mainLost, by rw [exec, execMainRailLoss, ok], rfl, rfl, rfl, rfl, rfl, rfl, rfl⟩
  case alwaysOnRailLoss =>
    intro s
    simp [exec, execAlwaysOnRailLoss, ok]
  case railSequence =>
    intro s hbooting hstage hrecordOk
    simp [exec, execRailSequence, ok, hbooting, Nat.not_le.mpr hstage, hrecordOk, bsImage]
  case railSequenceTimeout =>
    rintro u s hbooting hstage hu
    simp only [exec, execRailSequenceTimeout, ok, hbooting, bsImage, Nat.not_le.mpr hstage, ← hu, Bool.not_true,
      decide_false, Bool.or_self, Bool.false_eq_true, if_false]
  case firmwareVerify =>
    intro s hbooting hstage
    simp only [exec, execFirmwareVerify, ok, hbooting, hstage, ne_eq, not_true_eq_false, decide_false, Bool.not_true,
      Bool.or_self, Bool.false_eq_true, if_false]
    split_ifs <;> rfl
  case fuseApply =>
    intro s hlive hbooting hstage
    simp [exec, execFuseApply, ok, hlive, hbooting, hstage]
  case hbmTraining =>
    rintro trained u s hlive hbooting hstage htrained hu
    obtain ⟨hups, hsum⟩ := trained_all
    simp only [exec, execHbmTraining, ok, hlive, hbooting, hstage, htrained, hups, hsum, ← hu, List.length_range,
      ne_eq,
      not_true_eq_false, decide_false, Bool.not_true, Bool.or_self, Bool.false_eq_true, if_false, if_true]
  case hostready =>
    intro s hbooting hstage
    simp [exec, execHostready, ok, hbooting, hstage, when]
  case selfTest =>
    rintro results adc u s hlive hbooting hstage hready rfl hmasks
    simp [exec, execSelfTest, ok, hlive, hbooting, hstage, hready, hmasks]
  case capabilityPublish =>
    rintro u s hlive hbooting hstage rfl
    simp [exec, execCapabilityPublish, ok, hlive, hbooting, hstage]
  case reboot =>
    intro who s hpow hmay
    simp [exec, execReboot, ok, State.drnReg_open hpow, hmay]
  case svnlock =>
    intro who adc u s hpow hmay hholdup
    simp [exec, execSvnlock, ok, State.drnReg_open hpow, hmay, hholdup, State.svnLock]
  case challenge =>
    intro who s hpow hmay
    simp [exec, execChallenge, ok, State.drnReg_open hpow, hmay]
  case submit =>
    intro who s hpow hmay
    simp [exec, execSubmit, ok, State.drnReg_open hpow, hmay]
  case relock =>
    intro who s hpow hmay
    simp [exec, execRelock, ok, State.drnReg_open hpow, hmay, State.putPerm, b2n]
  case nonceExpiry =>
    intro s
    simp [exec, execNonceExpiry, ok, State.dropNonce]
  case consoleRelease =>
    intro s
    simp [exec, execConsoleRelease, ok]

end Sys2Proof.Machine
end

section
/-!
PROOFS. The embouchure (R623 to R652): what streams, ports, frames and frame routes do.
-/

namespace Sys2Proof.Machine

/-! ### The stream commands (R646, R650) -/

section
variable {s u : State} {n op : Nat}

/-- A stream command that is not turned away is the operation of its number; `u` is the state that records it. -/
theorem State.scmd_of_free (hpend : s.flag Fld.EMB_SCMDST_PENDING = false)
    (hu : u = (s.fput Fld.EMB_SCMDST_OP op).fput Fld.EMB_SCMDST_STREAM n) : s.scmd op n =
      if op = 1 then u.strmEnable n else if op = 2 then u.strmDisable n else if op = 3 then u.strmGaincommit n
      else if op = 4 then u.strmQuery n else u.scmdSt esBadcfg := by
  simp only [State.scmd, hpend, Bool.false_eq_true, if_false, ← hu]

/-- A stream of a port that is LOCKED starts at once, from the entry that is read. -/
theorem State.strmEnable_of_locked {l : List Byte} {x : Stream} (hst : (s.strm n).state = smOff)
    (hread : s.devRead 1024 (s.entryAddr n) 64 = (.ok, l, u))
    (hx : x = { Stream.reset with entry := l, gain := gainOf ((l.drop 32).take 16), out := (u.strm n).out })
    (hbad : u.entryBad n x = false) (htdm : x.isTdm = true) (hep : u.ep x.port = epLocked) :
    s.strmEnable n = (u.upStrm n fun _ =>
      { x with state := smRun, t0 := u.rget .DRN_TIME, drift := u.flag Fld.DRN_CLKST_REFLOST }).scmdSt esOk := by
  have hoff : (decide (smOff = smWait) || decide (smOff = smRun) || decide (smOff = smPaused)) = false := by decide
  simp only [State.strmEnable, hst, hoff, hread, ← hx, hbad, htdm, hep, ne_eq, not_true_eq_false, decide_true,
    Bool.or_true, Bool.true_or, Bool.false_eq_true, if_false, if_true]
  rw [hx]

/-- A stream that waits with no frame open or to be ended is OFF at once. -/
theorem State.strmDisable_of_waiting (hst : (s.strm n).state = smWait) (hcur : (s.strm n).cur = none)
    (hended : (s.strm n).ended = []) : s.strmDisable n = (s.strmEnd n smOff scHost).scmdSt esOk := by
  have hoff : ¬smWait = smOff := by decide
  have hrun : ¬smWait = smRun := by decide
  simp only [State.strmDisable, hst, hoff, hrun, hcur, hended, decide_false, Bool.false_and, Option.isSome_none,
    List.isEmpty_nil, Bool.not_true, Bool.or_self, Bool.false_eq_true, if_false]

theorem State.strmGaincommit_of_running (hst : (s.strm n).state = smRun) : s.strmGaincommit n = s.scmdPend 3 n := by
  simp only [State.strmGaincommit, hst, decide_true, Bool.or_true, Bool.true_or, if_true]

end

/-! ### Gain sets (R630, R637) -/

/-- A gain set that reads OK is the stream's next gain. -/
theorem State.readShadow_of_ok {s u : State} {n : Nat} {l : List Byte}
    (hread : s.devRead 1024 (s.entryAddr n + 32) 16 = (.ok, l, u)) :
    s.readShadow n = (true, u.upStrm n fun x => { x with gainNx := some (gainOf l), gainAgc := false }) := by
  rw [State.readShadow, hread]
  rfl

/-! ### Ports (R623, R647, R639) -/

section
variable {s : State} {p : Nat}

/-- A port that is not the master of its frame acquires the rate when it is enabled. -/
theorem State.portEnable_of_slave {u v : State} (hoff : s.ep p = epOff) (hv : v = s.upTdm p fun _ => TdmPort.reset)
    (hu : u = (v.fput Fld.EMB_PSTAT_RATE (v.fget Fld.EMB_PCFG_RATE 0 p) 0 p).rput .EMB_PFRAME 0 0 p)
    (hslave : u.flag Fld.EMB_PCFG_MASTER 0 p = false) : s.portEnable p = (u.putEp p epAcquire).putPeriod p := by
  simp only [State.portEnable, hoff, ← hv, ← hu, hslave, ne_eq, not_true_eq_false, Bool.false_eq_true, if_false]

/-- A port that no stream uses is OFF at once. -/
theorem State.portDisable_of_no_streams (hon : s.ep p ≠ epOff) (hnone : s.epStreams p = []) :
    s.portDisable p = (s.upTdm p fun _ => TdmPort.reset).putEp p epOff := by
  rw [State.portDisable, if_neg hon, hnone]
  rfl

/-- An edge that reaches a LOCKED port with its reference. -/
theorem State.frameSync_of_locked {period clocks : Nat} {slots : List Word32} {u : State} (hep : s.ep p = epLocked)
    (hslave : s.flag Fld.EMB_PCFG_MASTER 0 p = false) (hclk : s.flag Fld.DRN_CLKST_REFLOST = false)
    (hu : u = s.countRate p period) : s.frameSync p period clocks slots =
      u.lockedEdge p period (near period (s.epPeriod p) && s.epSlots p * slotBits (s.epW p) ≤ clocks) slots := by
  have hoff : ¬epLocked = epOff := by decide
  have hacq : ¬epLocked = epAcquire := by decide
  simp only [State.frameSync, hep, hoff, hacq, hslave, hclk, ← hu, Bool.false_eq_true, if_false, if_true]

end

/-! ### Frames (R625, R628, R631) -/

theorem State.resample_same (s : State) (rate : Nat) (xs : List Int) : s.resample rate rate xs = (xs, s) := if_pos rfl

theorem State.strm_upStrm_self (s : State) (n : Nat) (f : Stream → Stream) : (s.upStrm n f).strm n = f (s.strm n) := by
  rw [State.upStrm, State.strm, mget_mput_self]

/-- A change of a stream is told by what it makes of the stream as it is. -/
theorem State.upStrm_congr {s : State} {n : Nat} {f g : Stream → Stream} (h : f (s.strm n) = g (s.strm n)) :
    s.upStrm n f = s.upStrm n g := by
  rw [State.upStrm, h, State.upStrm]

/-! ### Frame routes (R652, R672) -/

section
variable {s : State} {x : Froute} {val : Word64}

/-- An idle route with a grant of 1 to 512 is written; one that is not VALID is given no credit. -/
theorem State.writeFroute_of_idle {t : State}
    (ht : t = match x with
      | .emb r => s.rput .EMB_FROUTE (val &&& frouteBits) 0 r
      | .bell p => s.rput .BEL_FROUTE (val &&& frouteBits) p)
    (hidle : s.frGet x Fld.EMB_FROUTE_VALID = 0 ∨ s.frGet x Fld.EMB_FRSTAT_CRED = s.frGet x Fld.EMB_FROUTE_GRANT)
    (hone : 1 ≤ bits val.toNat 0 10) (hmax : bits val.toNat 0 10 ≤ 512) (hvalid : val.getLsbD 63 = false) :
    s.writeFroute x val = t.frSt x 1 := by
  have hbusy : ¬((decide (s.frGet x Fld.EMB_FROUTE_VALID = 1) &&
      decide (s.frGet x Fld.EMB_FRSTAT_CRED ≠ s.frGet x Fld.EMB_FROUTE_GRANT)) = true) := by
    rcases hidle with h | h <;> simp [h]
  have hgrant : ¬((decide (bits val.toNat 0 10 = 0) || decide (512 < bits val.toNat 0 10)) = true) := by
    simp only [Bool.or_eq_true, decide_eq_true_eq]
    omega
  rw [State.writeFroute.eq_def, if_neg hbusy, if_neg hgrant, bit_toNat, hvalid, ht]
  rfl

end

/-- Settles O56: each command is its own operation, on the branch that the hypotheses open. -/
theorem embouchureCommandsComplete : Obligations.EmbouchureCommandsComplete := by
  unfold Obligations.EmbouchureCommandsComplete
  refine ⟨?embEnable, ?embDisable, ?embGaincommit, ?query, ?gainSetRead, ?boreGaincommit, ?portEnable, ?portDisable,
    ?rateAck, ?frameSync1, ?frameSync2, ?holdoverEntry, ?portFrameStart, ?captureFrameEnd, ?statisticsRecordWrite,
    ?frameReadyMessage, ?playbackFetch, ?playbackFrameEnd, ?ringFrameEnd, ?agcCommit, ?frouteWrite1, ?frouteWrite2⟩
  case embEnable =>
    rintro who n l v u x s hopen hmay hpending hv hstate hread hx hbad htdm hep
    rw [exec, execEmbEnable, hmay, State.hubReg_open hopen, State.scmd_of_free hpending hv, if_pos rfl,
      State.strmEnable_of_locked hstate hread hx hbad htdm hep, ok]
  case embDisable =>
    rintro who n u s hopen hmay hpending hu hstate hcur hended
    rw [exec, execEmbDisable, hmay, State.hubReg_open hopen, State.scmd_of_free hpending hu, if_neg (by decide),
      if_pos rfl, State.strmDisable_of_waiting hstate hcur hended, ok]
  case embGaincommit =>
    rintro who n u s hopen hmay hpending hu hstate
    rw [exec, execEmbGaincommit, hmay, State.hubReg_open hopen, State.scmd_of_free hpending hu, if_neg (by decide),
      if_neg (by decide), if_pos rfl, State.strmGaincommit_of_running hstate, ok]
  case query =>
    rintro who n u s hopen hmay hpending hu
    rw [exec, execQuery, hmay, State.hubReg_open hopen, State.scmd_of_free hpending hu, if_neg (by decide), if_neg (by
      decide), if_neg (by decide), if_pos rfl, State.strmQuery, ok]
  case gainSetRead =>
    intro n l u s hlive hcmd hdevRead
    rw [exec, execGainSetRead, if_neg (by simp [hlive]), if_pos hcmd, State.readShadow_of_ok hdevRead]
    rfl
  case boreGaincommit =>
    rintro src c e d x b ch n m v u s harr hu hn hlength hkind horigin hctx hstate
    simp only [exec, execBoreGaincommit, ok, harr, senderBore, horigin, ← hu, ← hn, hlength, hkind, hctx, hstate,
      decide_true, Bool.and_self, Bool.or_true, Bool.true_or, if_true]
  case portEnable =>
    rintro who p v u s hopen hmay hep hv hu hmaster
    rw [exec, execPortEnable, hmay, State.hubReg_open hopen, State.portEnable_of_slave hep hv hu hmaster, ok]
  case portDisable =>
    intro who p s hopen hmay hep hepStreams
    rw [exec, execPortDisable, hmay, State.hubReg_open hopen, State.portDisable_of_no_streams hep hepStreams, ok]
  case rateAck =>
    intro who p s hopen hmay hep
    simp [exec, execRateAck, ok, State.hubReg_open hopen, hmay, hep, State.rateAck]
  case frameSync1 =>
    intro p period clocks slots s hlive hep hmaster
    simp [exec, execFrameSync, ok, hlive, hep, hmaster, State.frameSync]
  case frameSync2 =>
    rintro p period clocks slots u s hlive hep hmaster hreflost hu
    rw [exec, execFrameSync, if_neg (by simp [hlive]), State.frameSync_of_locked hep hmaster hreflost hu, ok]
  case holdoverEntry =>
    intro p s hlive hep hmaster
    simp [exec, execHoldoverEntry, ok, hlive, hep, hmaster, when]
  case portFrameStart =>
    intro p s hlive hep hbegan
    simp [exec, execPortFrameStart, ok, hlive, hep, hbegan, State.boundary]
  case captureFrameEnd =>
    rintro n f rest u s hlive hended hkind hctx hu hrate
    simp only [exec, execCaptureFrameEnd, ok, hlive, State.captureEnd, hended, hkind, hctx, ← hu, hrate,
      State.resample_same,
      ne_eq, not_true_eq_false, Bool.not_true, Bool.false_eq_true, if_false]
  case statisticsRecordWrite =>
    intro n o s hlive hfind
    simp [exec, execStatisticsRecordWrite, ok, hlive, hfind]
  case frameReadyMessage =>
    rintro n o rest u s hlive hout hwritten hroute hu
    rw [exec_frameReadyMessage_of_written hlive hout hwritten hroute, ← hu, Nat.mul_comm o.flags, Nat.mul_comm o.kind]
  case playbackFetch =>
    intro n l u s hlive hkind hstate hstopAt hep hctxLives hbegan hreadSlot hepRate
    simp only [exec, execPlaybackFetch, ok, hlive, State.playFetch, hkind, hstate, hstopAt, hep, hctxLives, hbegan,
      hreadSlot, hepRate, State.resample_same, ne_eq, not_true_eq_false, decide_false, decide_true, Bool.true_or,
      Bool.not_true, Bool.or_self, Bool.false_eq_true, if_false]
  case playbackFrameEnd =>
    rintro n f rest k vad hang u s hlive hended hkind hctxLives hepN hvad rfl
    simp [exec, execPlaybackFrameEnd, ok, hlive, hended, hkind, hctxLives, hepN, hvad, State.playEnd]
  case ringFrameEnd =>
    intro n s hlive hisTdm hstate hctxLives
    simp [exec, execRingFrameEnd, ok, hlive]
  case agcCommit =>
    rintro n k e m g u s hlive hagc hnow htdm hnext hu hg hchange
    have hgain : (u.strm n).gain = (s.strm n).gain := by rw [hu, State.strm_upStrm_self]
    have hset : (u.upStrm n fun x => { x with gainNx := some { x.gain with cgain := g }, gainAgc := true }) =
        u.upStrm n fun x => { x with gainNx := some { (s.strm n).gain with cgain := g }, gainAgc := true } :=
      State.upStrm_congr (by rw [hgain])
    simp only [exec, execAgcCommit, ok, hlive, hagc, hnow, htdm, hnext, ← hu, ← hg, hchange, hset, decide_false,
      Bool.not_true, Bool.false_and, Option.isSome_none, Bool.or_self, Bool.false_eq_true, if_false]
  case frouteWrite1 =>
    intro who r val s hopen hmay hvalid hbits hbits2 hgetLsbD
    rw [exec, execFrouteWrite, hmay]
    exact congrArg ok ((State.hubReg_open hopen _).trans
      (State.writeFroute_of_idle (x := .emb r) rfl hvalid hbits hbits2 hgetLsbD))
  case frouteWrite2 =>
    intro who r val s hopen hmay hvalid hbits hbits2 hgetLsbD
    rw [exec, execFrouteWrite, hmay]
    exact congrArg ok ((State.hubReg_open hopen _).trans
      (State.writeFroute_of_idle (x := .bell r) rfl hvalid hbits hbits2 hgetLsbD))

end Sys2Proof.Machine
end
